-- ==== Sys2Proof/Word.lean ====
section
/-! DEFINITION. The word types of the SK7 and their plainest arithmetic (R4, R6, R52). -/

namespace Sys2Proof

/-- A 32-bit word: a register lane, an instruction word, a packet word. -/
abbrev Word := BitVec 32

/-- A byte of any memory. -/
abbrev Byte := BitVec 8

/-- A 64-bit value: a generic address, pair time, an even-odd pair (R52). -/
abbrev DWord := BitVec 64

namespace Word

/-- Bit `i` of a word as a truth value. -/
def bit (w : Word) (i : Nat) : Bool := w.getLsbD i

/-- Bits `[hi:lo]` of a word, as a number (R4). -/
def bits (w : Word) (hi lo : Nat) : Nat := (w.toNat / 2 ^ lo) % 2 ^ (hi + 1 - lo)

/-- The even-odd pair with `lo` in the even name (R52). -/
def pair (hi lo : Word) : DWord := hi ++ lo

/-- The low word of a 64-bit value. -/
def loOf (d : DWord) : Word := d.extractLsb' 0 32

/-- The high word of a 64-bit value. -/
def hiOf (d : DWord) : Word := d.extractLsb' 32 32

end Word

end Sys2Proof
end

