-- ==== Sys2Proof/Config.lean ====
section
/-! DEFINITION. What the specification leaves to chance or to the implementation: free values with no body, so that no
proof can see one. -/

namespace Sys2Proof.Config

/-- The pair time, in ns, that passes during the n-th step of the part beyond one (log entry 2). -/
opaque elapsed : Nat → Nat

/-- The core clocks that pass during the n-th step beyond one (log entry 2). -/
opaque clocks : Nat → Nat

/-- By how many ns more than Kapael's Amdukor's clock advances during the n-th step of its own accord (log entry 102). -/
opaque drift : Nat → Int

/-- The band of R392 that a die's core rail stands in during the n-th step (log entry 102). -/
opaque voltBand : Bool → Nat → Nat

/-- The n-th free byte: what a load returns where the specification calls the value unpredictable (log entry 6). -/
opaque freeByte : Nat → BitVec 8

/-- The n-th free word, likewise (log entry 6). -/
opaque freeWord : Nat → BitVec 32

/-- The code by which the trap window gives the kind of a parison's name: of UNDEF (0), UNI (1) and AFF (2) (log entry
6). -/
opaque formKind : Nat → BitVec 32

/-- Whether the n-th saved record finds room in its die's save pool, or the n-th snapshot in its region: the specification
gives neither a size (log entry 7). -/
opaque hasRoom : Nat → Bool

/-- Whether the SLH-DSA signature given as bytes verifies over the message given as bytes under Nerquin's key, whose hash is fused (log
entry 27). -/
opaque sigVerifies : List (BitVec 8) → List (BitVec 8) → Bool

/-- The bytes of the signature that a die with a seed makes over a message, 7,856 of them (log entry 27). -/
opaque sigByte : List (BitVec 8) → List (BitVec 8) → Nat → BitVec 8

/-- Whether a signature verifies over a message under a die's public key: key, message, signature (log entry 27). -/
opaque keyVerifies : List (BitVec 8) → List (BitVec 8) → List (BitVec 8) → Bool

/-- Whether the signing key is available for the n-th attestation report (log entry 68). -/
opaque canSign : Nat → Bool

/-- The fused 32-byte seed of a die, Amdukor's for true (log entry 27). -/
opaque seedByte : Bool → Nat → BitVec 8

/-- The bytes of the SLH-DSA public key that a die derives from its seed, 32 of them (log entry 27). -/
opaque keyByte : List (BitVec 8) → Nat → BitVec 8

end Sys2Proof.Config
end

