-- ==== Sys2Proof/Syntax.lean ====
section
/-! DEFINITION. The syntax of the SK7: the five forms of an instruction word (R177 to R184), the names of the
part's agents and structures, and the one inductive `Instr`, a constructor for each row of the opcode table. Rows 0
to 164 are instruction words; the other rows are steps of the part that no instruction word encodes, each with the
agent or structure it acts on. -/

namespace Sys2Proof

/-! ## Instruction words -/

/-- The general word 1 (R179). -/
structure W1 where
  c : BitVec 6
  lrc : Bool
  gp : BitVec 5
  gn : Bool
  la : BitVec 4
  xa : BitVec 3
  xb : BitVec 3
  xc : BitVec 3
  mh : BitVec 6
  deriving DecidableEq, Repr

/-- An instruction of format G (R177): word 0's fields and the general word 1, absent in one-word form. -/
structure GForm where
  d : BitVec 6
  a : BitVec 6
  b : BitVec 6
  lra : Bool
  lrb : Bool
  ml : BitVec 3
  w1 : Option W1
  deriving DecidableEq, Repr

/-- The immediate form (R180): word 0's B field carries MH, word 1 is the immediate; ML[2] is 1. -/
structure IForm where
  d : BitVec 6
  a : BitVec 6
  mh : BitVec 6
  lra : Bool
  lrb : Bool
  ml : BitVec 2
  imm : Word
  deriving DecidableEq, Repr

/-- The memory form (R181). -/
structure MForm where
  d : BitVec 6
  a : BitVec 6
  b : BitVec 6
  lra : Bool
  lrb : Bool
  ml : BitVec 3
  ofs : BitVec 12
  gp : BitVec 5
  gn : Bool
  la : BitVec 4
  scope : BitVec 3
  ord : BitVec 2
  space : BitVec 2
  pol : BitVec 3
  deriving DecidableEq, Repr

/-- The method variant of the memory form (R182). -/
structure VForm where
  d : BitVec 6
  a : BitVec 6
  b : BitVec 6
  lra : Bool
  lrb : Bool
  ml : BitVec 3
  method : BitVec 4
  ofs : BitVec 8
  gp : BitVec 5
  gn : Bool
  la : BitVec 4
  scope : BitVec 3
  ord : BitVec 2
  space : BitVec 2
  pol : BitVec 3
  deriving DecidableEq, Repr

/-- The control form (R184). `rsv` is word 1 [31:25], which must be zero. -/
structure CForm where
  ofs : BitVec 23
  rsv : BitVec 7
  gp : BitVec 5
  gn : Bool
  kind : BitVec 3
  aux : BitVec 16
  deriving DecidableEq, Repr

/-! ## Names of the part's agents and structures -/

/-- The two members of the pair (R1). -/
inductive Die | kapael | amdukor
  deriving DecidableEq, Repr

/-- The home of a page (R19, field HM). -/
inductive Home | kapael | amdukor | host
  deriving DecidableEq, Repr

/-- A core of a die. -/
structure CoreRef where
  die : Die
  core : Nat
  deriving DecidableEq, Repr

/-- A wave slot of a partition (R33), which names the wave resident in it (R357). -/
structure WaveId where
  die : Die
  core : Nat
  part : Nat
  slot : Nat
  deriving DecidableEq, Repr

/-- An entry of a core's parison table (R149). -/
structure ParId where
  die : Die
  core : Nat
  entry : Nat
  deriving DecidableEq, Repr

/-- A block slot of a core (R38). -/
structure BlockRef where
  die : Die
  core : Nat
  bslot : Nat
  deriving DecidableEq, Repr

/-- A home slice of a die (R47). -/
structure SliceRef where
  die : Die
  slice : Nat
  deriving DecidableEq, Repr

/-- Who issues an instruction: a split slot of a wave, the gaffer for a parison, the combiner wave of a slice
(R117), a firmware core (R313), or nobody. -/
inductive AgentId
  | none
  | wave (w : WaveId) (slot : Nat)
  | gaffer (p : ParId)
  | combiner (r : SliceRef)
  | firmware (d : Die) (core : Nat)
  deriving DecidableEq, Repr

/-- A 128-byte line of a home: `la` is PA[47:7] (R47). -/
structure LineRef where
  home : Home
  la : Nat
  deriving DecidableEq, Repr

/-- A page of a context, by an address within it. -/
structure PageRef where
  ctx : Nat
  va : Nat
  deriving DecidableEq, Repr

/-- A user queue of a context (R315). -/
structure QueueRef where
  ctx : Nat
  queue : Nat
  deriving DecidableEq, Repr

/-- The kinds of access the checks of R25 tell apart. -/
inductive Access
  | load | store | atomic | blkLoad | blkStore | ocall | fetch | pref | engineRead | engineWrite | tokenRead | tokenWrite | cctl
  deriving DecidableEq, Repr

/-- A request to the page walker (R22) of an agent for a context. -/
structure WalkReq where
  agent : AgentId
  ctx : Nat
  va : Nat
  acc : Access
  deriving DecidableEq, Repr

/-- A host access to part memory (R83), performed at the page's home; `data` empty reads. -/
structure HostAcc where
  ctx : Nat
  va : Nat
  data : List Byte
  deriving DecidableEq, Repr

/-- A packet of a queue (R318): header word, sequence word and body. -/
structure Packet where
  hdr : Word
  seq : Word
  body : List Word
  deriving DecidableEq, Repr

/-- A blowpipe message (R136). -/
structure Msg where
  seq : BitVec 16
  ack : BitVec 16
  ty : BitVec 8
  ctx : Nat
  rkey : BitVec 48
  tag : BitVec 16
  va : Nat
  aux0 : DWord
  aux1 : DWord
  time : DWord
  payload : List Byte
  deriving DecidableEq, Repr

/-- What the identity exchange of pairing brings over the cable (R390): the 16-byte challenges that each die has chosen, and the public
keys and signatures that its partner has received of it. -/
structure PairIds where
  chalK : List Byte
  chalA : List Byte
  pubK : List Byte
  pubA : List Byte
  sigK : List Byte
  sigA : List Byte
  deriving DecidableEq, Repr

/-! ## Instructions and steps -/

/-- One constructor for each row of the opcode table. -/
inductive Instr
  /-- NOP (R213): Does nothing apart from its lookahead; pads clauses. -/
  | nop (g : GForm)
  /-- BRA (R204): Branch: a .U branch moves the split or parison whole, and a .DIV branch divides the split or cuts the box. -/
  | bra (c : CForm)
  /-- BRX (R206): Branches to the safe-point ordinal held in register A. -/
  | brx (g : GForm)
  /-- CALL (R205): Branches as BRA does and writes the link ordinal into v0. -/
  | call (c : CForm)
  /-- CALLX (R206): Calls the ordinal held in register A and writes the link into D. -/
  | callx (g : GForm)
  /-- RET (R206): Returns to the link ordinal held in register A. -/
  | ret (g : GForm)
  /-- JOIN (R165): Parks splits or parisons at a JOIN id and rejoins or merges them. -/
  | join (c : CForm)
  /-- EXIT (R208): Ends the executing lanes and, when nothing remains, the wave and the block. -/
  | exit (g : GForm)
  /-- KILL (R209): Acts as EXIT, except that in a QUAD launch a killed lane may become a helper lane. -/
  | kill (g : GForm)
  /-- REFORM (R161): Parks the wave and folds the parison back into form mode once every wave has parked. -/
  | reform (g : GForm)
  /-- YIELD (R211): Deschedules the split until the rotation or the counter condition is met. -/
  | yield (g : GForm)
  /-- TRAP (R212): Raises a TRAP cause carrying a 12-bit code. -/
  | trap (g : GForm)
  /-- BKPT (R212): Raises a BKPT cause when debug is enabled, and otherwise acts as NOP. -/
  | bkpt (g : GForm)
  /-- IADD (R215): 32-bit wrapping add. -/
  | iadd (g : GForm)
  /-- IADD_IMM (R180): IADD with a 32-bit immediate in place of B. -/
  | iaddImm (f : IForm)
  /-- ISUB (R215): 32-bit wrapping subtract. -/
  | isub (g : GForm)
  /-- ISUB_IMM (R180): ISUB with an immediate in place of B. -/
  | isubImm (f : IForm)
  /-- IMUL (R215): Low 32 bits of the product. -/
  | imul (g : GForm)
  /-- IMUL_IMM (R180): IMUL with an immediate in place of B. -/
  | imulImm (f : IForm)
  /-- IMULH (R215): High 32 bits of a signed or unsigned product. -/
  | imulh (g : GForm)
  /-- IMULH_IMM (R180): IMULH with an immediate in place of B. -/
  | imulhImm (f : IForm)
  /-- IMAD (R215): Multiply-add, wrapping to 32 bits. -/
  | imad (g : GForm)
  /-- IADDC (R215): Add with carry-in and carry-out predicates. -/
  | iaddc (g : GForm)
  /-- ISUBB (R215): Subtract with borrow-in and borrow-out predicates. -/
  | isubb (g : GForm)
  /-- IMIN (R215): Signed or unsigned minimum. -/
  | imin (g : GForm)
  /-- IMIN_IMM (R180): IMIN with an immediate in place of B. -/
  | iminImm (f : IForm)
  /-- IMAX (R215): Signed or unsigned maximum. -/
  | imax (g : GForm)
  /-- IMAX_IMM (R180): IMAX with an immediate in place of B. -/
  | imaxImm (f : IForm)
  /-- IABS (R215): Absolute value, optionally saturating. -/
  | iabs (g : GForm)
  /-- SEL (R215): Selects A or B by predicate C. -/
  | sel (g : GForm)
  /-- IMADW (R215): Widening 64-bit multiply-add into an even pair. -/
  | imadw (g : GForm)
  /-- RNG (R216): Counter-based mixing function of a key and a counter. -/
  | rng (g : GForm)
  /-- RNG_IMM (R180): RNG with an immediate counter. -/
  | rngImm (f : IForm)
  /-- AND (R218): Bitwise and. -/
  | and (g : GForm)
  /-- AND_IMM (R180): AND with an immediate in place of B. -/
  | andImm (f : IForm)
  /-- OR (R218): Bitwise or. -/
  | or (g : GForm)
  /-- OR_IMM (R180): OR with an immediate in place of B. -/
  | orImm (f : IForm)
  /-- XOR (R218): Bitwise exclusive or. -/
  | xor (g : GForm)
  /-- XOR_IMM (R180): XOR with an immediate in place of B. -/
  | xorImm (f : IForm)
  /-- NOT (R218): Bitwise complement. -/
  | not (g : GForm)
  /-- LOGT (R218): Three-input bitwise function given by an 8-bit table. -/
  | logt (g : GForm)
  /-- SHL (R218): Shift left; an amount of 32 or more gives zero. -/
  | shl (g : GForm)
  /-- SHL_IMM (R180): SHL with an immediate amount. -/
  | shlImm (f : IForm)
  /-- SHR (R218): Logical shift right. -/
  | shr (g : GForm)
  /-- SHR_IMM (R180): SHR with an immediate amount. -/
  | shrImm (f : IForm)
  /-- SAR (R218): Arithmetic shift right. -/
  | sar (g : GForm)
  /-- SAR_IMM (R180): SAR with an immediate amount. -/
  | sarImm (f : IForm)
  /-- FUNL (R219): Funnel shift of two words. -/
  | funl (g : GForm)
  /-- BFE (R220): Extracts a bit field, signed or unsigned. -/
  | bfe (g : GForm)
  /-- BFI (R220): Inserts a bit field into a base word. -/
  | bfi (g : GForm)
  /-- POPC (R218): Counts the set bits. -/
  | popc (g : GForm)
  /-- CLZ (R218): Counts the leading zero bits. -/
  | clz (g : GForm)
  /-- BREV (R218): Reverses the bits. -/
  | brev (g : GForm)
  /-- MOV (R218): Copies a register or a 64-bit pair. -/
  | mov (g : GForm)
  /-- MOVI (R218): Writes a 32-bit immediate. -/
  | movi (f : IForm)
  /-- ICMP (R221): Integer compare into a predicate, or a range predicate in form mode. -/
  | icmp (g : GForm)
  /-- ICMP_IMM (R180): ICMP with an immediate comparand. -/
  | icmpImm (f : IForm)
  /-- FCMP (R221): F32 compare into a predicate, with ordered or unordered NaN handling. -/
  | fcmp (g : GForm)
  /-- FCMP_IMM (R180): FCMP with an F32 immediate. -/
  | fcmpImm (f : IForm)
  /-- PLOGT (R222): Three-input predicate function given by a table. -/
  | plogt (g : GForm)
  /-- PPACK (R223): Packs p0 to p23 into a vector register. -/
  | ppack (g : GForm)
  /-- PUNPK (R223): Sets the predicates selected by a mask from a vector register. -/
  | punpk (g : GForm)
  /-- FKIND (R224): Writes a one-hot floating-point class of the operand. -/
  | fkind (g : GForm)
  /-- LXCH (R227): Lane exchange by index, up, down or xor. -/
  | lxch (g : GForm)
  /-- QXCH (R228): Exchange within a quad. -/
  | qxch (g : GForm)
  /-- QDD (R229): Quad differences of F32 values. -/
  | qdd (g : GForm)
  /-- VOTE (R230): Predicate vote: all, any or equal, over the collecting lanes. -/
  | vote (g : GForm)
  /-- BALLOT (R230): Writes the mask of collecting lanes in which the predicate holds. -/
  | ballot (g : GForm)
  /-- MATCH (R230): Writes the mask of collecting lanes holding an equal value. -/
  | matchLanes (g : GForm)
  /-- LFOLD (R231): Reduction over the collecting lanes, written to every lane. -/
  | lfold (g : GForm)
  /-- SCAN (R231): Inclusive or exclusive prefix reduction over the lanes. -/
  | scan (g : GForm)
  /-- XSET (R232): Writes a pattern register of the wave. -/
  | xset (g : GForm)
  /-- FADD (R236): F32 add, rounded once in the instruction's mode. -/
  | fadd (g : GForm)
  /-- FADD_IMM (R180): FADD with an F32 immediate. -/
  | faddImm (f : IForm)
  /-- FMUL (R236): F32 multiply. -/
  | fmul (g : GForm)
  /-- FMUL_IMM (R180): FMUL with an F32 immediate. -/
  | fmulImm (f : IForm)
  /-- FFMA (R236): Fused multiply-add with one rounding. -/
  | ffma (g : GForm)
  /-- FMIN (R236): IEEE minimumNumber. -/
  | fmin (g : GForm)
  /-- FMIN_IMM (R180): FMIN with an F32 immediate. -/
  | fminImm (f : IForm)
  /-- FMAX (R236): IEEE maximumNumber. -/
  | fmax (g : GForm)
  /-- FMAX_IMM (R180): FMAX with an F32 immediate. -/
  | fmaxImm (f : IForm)
  /-- FRND (R236): Rounds to an integral F32 value in the instruction's mode. -/
  | frnd (g : GForm)
  /-- FRCP (R237): Correctly rounded reciprocal. -/
  | frcp (g : GForm)
  /-- FRSQ (R237): Correctly rounded reciprocal square root. -/
  | frsq (g : GForm)
  /-- FSQRT (R237): Correctly rounded square root. -/
  | fsqrt (g : GForm)
  /-- FEX2 (R237): Correctly rounded 2^x. -/
  | fex2 (g : GForm)
  /-- FLG2 (R237): Correctly rounded log2 x. -/
  | flg2 (g : GForm)
  /-- FSIN (R237): Correctly rounded sine. -/
  | fsin (g : GForm)
  /-- FCOS (R237): Correctly rounded cosine. -/
  | fcos (g : GForm)
  /-- HADD2 (R240): Packed F16 or BF16 add. -/
  | hadd2 (g : GForm)
  /-- HMUL2 (R240): Packed 16-bit float multiply. -/
  | hmul2 (g : GForm)
  /-- HFMA2 (R240): Packed 16-bit fused multiply-add. -/
  | hfma2 (g : GForm)
  /-- HMIN2 (R240): Packed 16-bit float minimum. -/
  | hmin2 (g : GForm)
  /-- HMAX2 (R240): Packed 16-bit float maximum. -/
  | hmax2 (g : GForm)
  /-- VDOT2 (R241): Two-element 16-bit float dot product with an F32 accumulator and one rounding. -/
  | vdot2 (g : GForm)
  /-- VDOT4 (R242): Four-element 8-bit integer dot product with a wrapping accumulator. -/
  | vdot4 (g : GForm)
  /-- CVT (R244): Converts one element between types. -/
  | cvt (g : GForm)
  /-- PACK2 (R245): Converts two values and packs them into one register. -/
  | pack2 (g : GForm)
  /-- QHIST (R247): Adds the lanes' values into a histogram unit. -/
  | qhist (g : GForm)
  /-- QSCALE (R249): Chooses a scale byte from a histogram snapshot by percentile. -/
  | qscale (g : GForm)
  /-- QCLR (R248): Zeroes a histogram unit and loads its BASE. -/
  | qclr (g : GForm)
  /-- QPACK (R251): Builds an unpacked INT8 block using the down-converter. -/
  | qpack (g : GForm)
  /-- QDEQ (R252): Dequantises element k of an unpacked block to F32. -/
  | qdeq (g : GForm)
  /-- LD (R258): Loads from a space into registers. -/
  | ld (m : MForm)
  /-- ST (R258): Stores registers to a space. -/
  | st (m : MForm)
  /-- LDBLK (R260): Loads a self-describing block into the unpacked lane layout. -/
  | ldblk (m : MForm)
  /-- STBLK (R261): Builds and stores one block from the unpacked layout. -/
  | stblk (m : MForm)
  /-- PREF (R262): Asks for a line to be filled into L1. -/
  | pref (m : MForm)
  /-- CCTL (R263): Writes back, or writes back and invalidates, L1 lines. -/
  | cctl (m : MForm)
  /-- FENCE (R264): Waits for earlier accesses and for the write completion time of its scope. -/
  | fence (m : MForm)
  /-- ATOM (R266): Applies a built-in method at the address and returns the old value. -/
  | atom (v : VForm)
  /-- RED (R266): Applies a built-in method with no returned value. -/
  | red (v : VForm)
  /-- OCALL (R268): Sends an object-method request per lane. -/
  | ocall (v : VForm)
  /-- OLD (R269): Combiner wave: reads the staging copy of the slot state. -/
  | old (m : MForm)
  /-- OST (R269): Combiner wave: writes the staging copy. -/
  | ost (m : MForm)
  /-- REPLY (R270): Combiner wave: sets the lane's reply words. -/
  | reply (g : GForm)
  /-- OEND (R121): Commits the staging copy, performs the batch and sends the replies. -/
  | oend (g : GForm)
  /-- BARA (R274): Arrives at a barrier object and returns the phase token. -/
  | bara (g : GForm)
  /-- BARW (R275): Waits for the phase of a token, or returns at once. -/
  | barw (g : GForm)
  /-- BARS (R275): Arrives and then waits as one instruction. -/
  | bars (g : GForm)
  /-- WAITV (R277): Waits until a word satisfies a condition. -/
  | waitv (g : GForm)
  /-- QSIG (R278): Signals queue tokens with the wave's write completion times. -/
  | qsig (g : GForm)
  /-- QWAIT (R279): Waits until a token's COUNT is reached, then for the narrowed scope. -/
  | qwait (g : GForm)
  /-- MMA (R298): Gaffer issues a tile op to the marver queue. -/
  | mma (g : GForm)
  /-- MZERO (R300): Zeroes a tile as one tile action. -/
  | mzero (g : GForm)
  /-- MTILE (R300): Reads a tile's state bits once its earlier tile ops have retired. -/
  | mtile (g : GForm)
  /-- MDRAIN (R301): Drains one tile row into a wave, with an optional amax merge. -/
  | mdrain (g : GForm)
  /-- JOB_GAFFER (R305): Gaffer form: submits a job card to the die scheduler. -/
  | jobGaffer (g : GForm)
  /-- JOB_WAVE (R305): Wave form: submits a job card. -/
  | jobWave (g : GForm)
  /-- JSTAT_GAFFER (R307): Gaffer form: reads a snapshot of the job scheduler. -/
  | jstatGaffer (g : GForm)
  /-- JSTAT_WAVE (R307): Wave form: reads a snapshot of the job scheduler. -/
  | jstatWave (g : GForm)
  /-- TRACE (R309): Traverses a hierarchy per lane and returns hit records. -/
  | trace (g : GForm)
  /-- SAMPLE (R309): Samples a texture per lane. -/
  | sample (g : GForm)
  /-- PIDLD (R310): Reads a primitive-identifier slot entry. -/
  | pidld (g : GForm)
  /-- VISR (R311): Gaffer issues rasterisation of a primitive list into a slot. -/
  | visr (g : GForm)
  /-- UMOV (R293): Uniform move. -/
  | umov (g : GForm)
  /-- UMOVI (R293): Uniform immediate move. -/
  | umovi (f : IForm)
  /-- UADD (R293): Uniform add. -/
  | uadd (g : GForm)
  /-- UADD_IMM (R180): UADD with an immediate in place of B. -/
  | uaddImm (f : IForm)
  /-- USUB (R293): Uniform subtract. -/
  | usub (g : GForm)
  /-- USUB_IMM (R180): USUB with an immediate in place of B. -/
  | usubImm (f : IForm)
  /-- UMUL (R293): Uniform multiply. -/
  | umul (g : GForm)
  /-- UMUL_IMM (R180): UMUL with an immediate in place of B. -/
  | umulImm (f : IForm)
  /-- UMAD (R293): Uniform multiply-add. -/
  | umad (g : GForm)
  /-- USHL (R293): Uniform shift left. -/
  | ushl (g : GForm)
  /-- USHL_IMM (R180): USHL with an immediate amount. -/
  | ushlImm (f : IForm)
  /-- USHR (R293): Uniform shift right, logical or arithmetic. -/
  | ushr (g : GForm)
  /-- USHR_IMM (R180): USHR with an immediate amount. -/
  | ushrImm (f : IForm)
  /-- UAND (R293): Uniform bitwise and. -/
  | uand (g : GForm)
  /-- UAND_IMM (R180): UAND with an immediate in place of B. -/
  | uandImm (f : IForm)
  /-- UOR (R293): Uniform bitwise or. -/
  | uor (g : GForm)
  /-- UOR_IMM (R180): UOR with an immediate in place of B. -/
  | uorImm (f : IForm)
  /-- UXOR (R293): Uniform bitwise exclusive or. -/
  | uxor (g : GForm)
  /-- UXOR_IMM (R180): UXOR with an immediate in place of B. -/
  | uxorImm (f : IForm)
  /-- UCMP (R293): Uniform compare into a UNI predicate. -/
  | ucmp (g : GForm)
  /-- UCMP_IMM (R180): UCMP with an immediate comparand. -/
  | ucmpImm (f : IForm)
  /-- USEL (R293): Uniform select by a UNI predicate. -/
  | usel (g : GForm)
  /-- UBRA (R294): Uniform branch whose outcome travels in a decision. -/
  | ubra (c : CForm)
  /-- ULD (R295): Uniform load, with optional catch-up. -/
  | uld (m : MForm)
  /-- ULAUNCH (R296): Releases one node of a resident launch graph. -/
  | ulaunch (g : GForm)
  /-- CSRR (R189): Reads a special register. -/
  | csrr (g : GForm)
  /-- CSRW (R312): Writes a special register (TRMARK). -/
  | csrw (g : GForm)
  /-- WINRD (R313): Firmware reads state of the wave or parison bound to the trap window. -/
  | winrd (g : GForm)
  /-- WINWR (R313): Firmware writes state through the trap window. -/
  | winwr (g : GForm)
  /-- TRET (R314): Ends the handler and resumes or ends the bound work, or ends its context. -/
  | tret (g : GForm)
  /-- CLAUSE_HEADER_WAIT_MET (R172): A split waiting at a clause header issues once the counter thresholds are met. -/
  | clauseHeaderWaitMet (a : AgentId)
  /-- DECISION_CONSUME (R158): A wave reaching a UNI clause applies the next decision once it has been pushed. -/
  | decisionConsume (a : AgentId)
  /-- PARISON_MERGE (R162): Sibling WAITJOIN parisons merge once both are there and their counters are zero. -/
  | parisonMerge (p : ParId)
  /-- PAGE_WALK (R22): A TLB miss walks the seven-level tree and fills the TLB or faults. -/
  | pageWalk (q : WalkReq)
  /-- MV_HOLD_RELEASE (R22): An access held on MV walks again when the move ends. -/
  | mvHoldRelease (a : AgentId)
  /-- LOAD_REPLY (R173): Load data returns, its destination lanes are written and LDC retires. -/
  | loadReply (a : AgentId) (op : Nat)
  /-- STORE_ACK (R87): A write's acknowledgement returns its completion times into gwd and gwp, and STC retires. -/
  | storeAck (a : AgentId) (op : Nat)
  /-- ATOM_REPLY (R266): An atomic's reply writes the old value, or raises REMOTE_REFUSED. -/
  | atomReply (a : AgentId) (op : Nat)
  /-- OCALL_REPLY (R268): An object reply writes status and reply words, and OBC retires. -/
  | ocallReply (a : AgentId) (op : Nat)
  /-- TEX_REPLY (R309): A trace, sample or slot read completes and TXC retires. -/
  | texReply (a : AgentId) (op : Nat)
  /-- FENCE_TIME_PASSED (R90): A waiting fence or release completes once pair time passes its GWCT. -/
  | fenceTimePassed (a : AgentId)
  /-- HOME_READ (R86): The home slice serves a read miss and grants a lease. -/
  | homeRead (a : AgentId) (op : Nat)
  /-- HOME_WRITE (R87): The home performs a write and returns the write completion times. -/
  | homeWrite (a : AgentId) (op : Nat)
  /-- OWNERSHIP_GRANT (R88): Ownership of a quiet line is granted once pair time passes both lease ends. -/
  | ownershipGrant (c : CoreRef) (l : LineRef)
  /-- LINE_RECALL (R88): The owner writes a recalled line back before the home serves the access. -/
  | lineRecall (l : LineRef)
  /-- HOST_ACCESS (R83): A host read or write of part memory is performed at the home. -/
  | hostAccess (h : HostAcc)
  /-- BUNDLE_ARRIVE (R109): A bundle enters the crucible pile when there is room, after the contention update. -/
  | bundleArrive (a : AgentId) (op : Nat)
  /-- FORM_BATCH (R109): A free combiner engine forms a batch from the pile. -/
  | formBatch (r : SliceRef)
  /-- BATCH_PERFORM (R110): A batch is performed indivisibly and its replies are returned. -/
  | batchPerform (r : SliceRef)
  /-- CONTENTION_SWEEP (R103): At multiples of 2^25 ns, OLD is set in stale contention records. -/
  | contentionSweep (d : Die)
  /-- COUNTER_DECAY (R132): Every 1,048,576 ns, the access counters are halved. -/
  | counterDecay (d : Die)
  /-- MOVE_START (R133): Firmware begins a move of a page's home. -/
  | moveStart (p : PageRef) (dest : Die)
  /-- TILE_OP (R299): The marver performs a queued tile op as one tile action. -/
  | tileOp (c : CoreRef)
  /-- VISR_SLOT_ACTION (R311): Binds, clears and rasterises into a slot once it is free. -/
  | visrSlotAction (p : ParId) (op : Nat)
  /-- JOB_START (R96): A job starts once its edges and the bank interlock allow. -/
  | jobStart (d : Die) (job : Nat)
  /-- JOB_COMPLETE (R306): A job completes or ends with an engine fault. -/
  | jobComplete (d : Die) (job : Nat)
  /-- BLOCK_ADMIT (R329): The dispatcher admits a block or cohort once every need fits. -/
  | blockAdmit (c : CoreRef) (launch : Nat)
  /-- LAUNCH_COMPLETE (R329): A launch completes, signals CTOKEN and writes its completion record. -/
  | launchComplete (launch : Nat)
  /-- DISPATCH_RESERVE (R330): After 50 µs of being passed over, a core is reserved for the launch. -/
  | dispatchReserve (c : CoreRef) (launch : Nat)
  /-- RESERVE_PREEMPT (R330): After a further 200 µs, lower-priority blocks on the reserved cores are pre-empted. -/
  | reservePreempt (c : CoreRef)
  /-- BUDGET_EXHAUSTED (R334): A context's charge reaches BUDGET, and it is pre-empted and held. -/
  | budgetExhausted (ctx : Nat)
  /-- BUDGET_PERIOD_START (R334): A new budget period begins and a held context resumes. -/
  | budgetPeriodStart (ctx : Nat)
  /-- BUDGET_REPORT (R334): Every 100 µs, each die reports its charge share. -/
  | budgetReport (d : Die)
  /-- FIRMWARE_EVENT_TAKE (R328): An idle firmware core takes the oldest runnable event. -/
  | firmwareEventTake (d : Die) (core : Nat)
  /-- TRAP_DELIVER (R342): A stopped wave's pending cause is delivered to a handler. -/
  | trapDeliver (d : Die) (core : Nat)
  /-- PREEMPT (R337): A wave or parison is stopped at safe points and saved. -/
  | preempt (b : BlockRef)
  /-- SAVE_RETRY (R345): A save abandoned for lack of pool space is tried again 100 µs later. -/
  | saveRetry (b : BlockRef)
  /-- BLOCK_RESTORE (R346): A saved block is restored onto a core. -/
  | blockRestore (saved : Nat) (c : CoreRef)
  /-- REGISTER_FILL (R346): The first use of an absent register group fills it from the record. -/
  | registerFill (w : WaveId) (group : Nat)
  /-- SNAPSHOT (R363): A block's rollback snapshot is captured and committed. -/
  | snapshot (b : BlockRef)
  /-- ROLLBACK (R365): A PIPELINE or ECC cause restores the block from its snapshot, or ends the context. -/
  | rollback (b : BlockRef)
  /-- PROFILE_SAMPLE (R360): Every 2^k clocks, each partition writes a sample. -/
  | profileSample (c : CoreRef) (part : Nat)
  /-- WAITV_REREAD (R277): A waited location is re-read on a write, or at least every 8,192 ns. -/
  | waitvReread (a : AgentId)
  /-- TWAIT_GATE_MET (R322): Tokens attached to a gated launch reach their counts. -/
  | twaitGateMet (launch : Nat)
  /-- REFRESH_PHASE_ADVANCE (R42): The weight-store refresh group advances at the end of each phase. -/
  | refreshPhaseAdvance (d : Die)
  /-- REFRESH_MODE_CHANGE (R42): The die enters or leaves fast refresh on a temperature threshold. -/
  | refreshModeChange (d : Die) (celsius : Nat)
  /-- CKPT_TIMER (R142): The checkpoint interval expires and a checkpoint starts. -/
  | ckptTimer (ctx : Nat)
  /-- DOORBELL_WPTR (R316): The host writes a user queue's WPTR doorbell. -/
  | doorbellWptr (q : QueueRef) (v : Word)
  /-- DOORBELL_CRPTR (R320): The host writes CRPTR, freeing completion ring room. -/
  | doorbellCrptr (q : QueueRef) (v : Word)
  /-- DISPATCH (R321): Updates the shadow registers and starts a launch. -/
  | dispatch (q : QueueRef) (p : Packet)
  /-- GRAPH (R326): Starts one run of a resident graph table. -/
  | graph (q : QueueRef) (p : Packet)
  /-- TSIG (R319): The host signals a token. -/
  | tsig (q : QueueRef) (p : Packet)
  /-- TWAIT (R322): Attaches a token gate to the next DISPATCH or GRAPH. -/
  | twait (q : QueueRef) (p : Packet)
  /-- CKPT (R142): Starts a checkpoint of the context. -/
  | ckpt (q : QueueRef) (p : Packet)
  /-- NOPK (R319): A packet with no effect. -/
  | nopk (q : QueueRef) (p : Packet)
  /-- CTX_CREATE (R27): Creates a context from a descriptor. -/
  | ctxCreate (p : Packet)
  /-- CTX_DESTROY (R323): Cancels every queue and frees the context. -/
  | ctxDestroy (p : Packet)
  /-- CTX_UPDATE (R29): Changes a context descriptor. -/
  | ctxUpdate (p : Packet)
  /-- QUEUE_CREATE (R315): Creates a user queue. -/
  | queueCreate (p : Packet)
  /-- QUEUE_RESET (R323): Cancels a queue's launches and repositions it. -/
  | queueReset (p : Packet)
  /-- GRAPH_LOAD (R326): Loads a graph table for a queue. -/
  | graphLoad (p : Packet)
  /-- GRAPH_UNLOAD (R323): Unloads a graph table. -/
  | graphUnload (p : Packet)
  /-- FINALISE (R197): Runs the lehr on a frit image. -/
  | finalise (p : Packet)
  /-- INVALIDATE (R26): Invalidation service for changed page-table entries. -/
  | invalidate (p : Packet)
  /-- OBJ_CLEAR (R126): Clears BROKEN on an object slot. -/
  | objClear (p : Packet)
  /-- CKPT_INTERVAL (R142): Sets the checkpoint interval. -/
  | ckptInterval (p : Packet)
  /-- DEBUG_SET (R357): Sets the debug flags and the sample and trace rings. -/
  | debugSet (p : Packet)
  /-- DEBUG_BKSET (R358): Sets an ordinal breakpoint. -/
  | debugBkset (p : Packet)
  /-- DEBUG_BKCLR (R357): Clears a breakpoint slot. -/
  | debugBkclr (p : Packet)
  /-- DEBUG_HALT (R357): Stops every wave and parison of the context with cause HALT. -/
  | debugHalt (p : Packet)
  /-- DEBUG_RESUME (R357): Resumes held waves. -/
  | debugResume (p : Packet)
  /-- DEBUG_STEP (R359): Lane-focus step of a held wave. -/
  | debugStep (p : Packet)
  /-- DEBUG_DUMP (R357): Writes a held wave's record to a buffer. -/
  | debugDump (p : Packet)
  /-- DEBUG_LOAD (R357): Replaces a held wave's state from a record. -/
  | debugLoad (p : Packet)
  /-- DEBUG_KILL (R357): Exits every lane of a held wave. -/
  | debugKill (p : Packet)
  /-- FRAME_ALLOC (R323): Allocates zeroed frames, charged to the quota. -/
  | frameAlloc (p : Packet)
  /-- FRAME_FREE (R323): Returns a frame to firmware. -/
  | frameFree (p : Packet)
  /-- MQCTL_CREATE (R324): Creates the management queue from MQDESC. -/
  | mqctlCreate
  /-- MQCTL_RESET (R324): Resets the management queue. -/
  | mqctlReset
  /-- MQWPTR_WRITE (R324): Management queue doorbell. -/
  | mqwptrWrite (v : Word)
  /-- MQCRPTR_WRITE (R324): Frees management completion ring room. -/
  | mqcrptrWrite (v : Word)
  /-- UNDOCK (R355): PAIRCTL UNDOCK requests an undock. -/
  | undock
  /-- FWCTL_ROLLBACK (R389): Submits a signed remote firmware rollback command. -/
  | fwctlRollback
  /-- ATTCTL_REQ (R391): Requests a new signed attestation report. -/
  | attctlReq
  /-- ATTESTATION_SIGNED (R391): The report and its signature are complete. -/
  | attestationSigned
  /-- HCTL_ENABLE (R394): Starts a scan-out head if its mode is consistent. -/
  | hctlEnable (h : Nat) (v : Word)
  /-- FLIP (R396): Requests a plane latch at the next vertical blank. -/
  | flip (h : Nat) (v : Word)
  /-- VERTICAL_BLANK (R394): A head reaches vertical blank, counts VCOUNT and raises its interrupt. -/
  | verticalBlank (h : Nat)
  /-- LINE_SEND (R398): A head sends a line, repeating the last one on underrun. -/
  | lineSend (h : Nat) (fetched : Bool)
  /-- LINKCTL_TRAIN (R394): Trains or retrains a head's link towards LINKTGT. -/
  | linkctlTrain (h : Nat)
  /-- HEAD_TRAIN_DONE (R398): Display link training ends, setting LINK or TRAINFAIL. -/
  | headTrainDone (h : Nat) (ok : Bool) (lanes rate : Nat)
  /-- AUXGO (R394): Sends the AUX transaction that AUXCMD describes. -/
  | auxgo (h : Nat)
  /-- AUX_REPLY (R394): An AUX reply or timeout updates AUXSTAT and AUXDATA. -/
  | auxReply (h : Nat) (reply : Nat) (data : List Byte)
  /-- HPD_CHANGE (R398): Hot-plug detect changes and HERR.HPDCHG is set. -/
  | hpdChange (h : Nat) (present : Bool)
  /-- REGISTER_WRITE (R5): A write to a register with no behaviour of its own. -/
  | registerWrite (offset : Nat) (v : Word)
  /-- POWER_ON_RESET (R385): A die leaves reset, boots a firmware slot and starts pair time. -/
  | powerOnReset (d : Die)
  /-- HOST_LINK_TRAIN (R386): The host link trains. -/
  | hostLinkTrain
  /-- PRESENCE_DETECT (R386): The cable is detected and docking begins with training. -/
  | presenceDetect (width speed : Nat)
  /-- PAIRING (R390): The dies exchange and check identities. -/
  | pairing (ids : PairIds)
  /-- PTM_EXCHANGE (R80): A PTM exchange corrects pair time, and an offset above 40 ns loses the link. -/
  | ptmExchange (offset : Int)
  /-- DOCK_MIGRATION (R354): Contexts with PLACE 1 or 2 queues migrate to Amdukor. -/
  | dockMigration (ctx : Nat)
  /-- HEARTBEAT (R137): Every 100 µs, a die writes HEARTBEAT to its partner. -/
  | heartbeat (d : Die)
  /-- HEARTBEAT_TIMEOUT (R139): 300 µs pass without a heartbeat and the link is lost. -/
  | heartbeatTimeout (d : Die)
  /-- LINK_RECOVERY (R139): The link returns to L0 within 300 µs, and RESYNC and go-back-N follow. -/
  | linkRecovery
  /-- RESYNC_TIMEOUT (R139): The partner's RESYNC is not read within 20 µs, and retransmission starts from A. -/
  | resyncTimeout (d : Die)
  /-- LINK_LOST (R145): The link is lost, and Kapael rebuilds or ends affected contexts. -/
  | linkLost
  /-- BLOWPIPE_HEADER_WRITE (R138): The receive logic places, discards or logs an arriving header. -/
  | blowpipeHeaderWrite (dest : Die) (slot : Nat) (m : Msg)
  /-- ACK_WRITE (R138): A cumulative ACK advances the sender's A. -/
  | ackWrite (dest : Die) (k : BitVec 16)
  /-- ACK_TIMER (R138): The receiver writes E after 64 deliveries or within 2 µs. -/
  | ackTimer (d : Die)
  /-- RESYNC (R139): The partner's RESYNC sets the sender's A and N. -/
  | resync (dest : Die) (k : BitVec 16)
  /-- RD_REQ (R140): Remote line read request. -/
  | rdReq (dest : Die)
  /-- RD_DATA (R137): Line data with its lease end. -/
  | rdData (dest : Die)
  /-- WR_REQ (R140): Remote write request. -/
  | wrReq (dest : Die)
  /-- WR_ACK (R137): Write acknowledgement carrying the GWCTs. -/
  | wrAck (dest : Die)
  /-- COMB_REQ (R140): A remote bundle for the crucible. -/
  | combReq (dest : Die)
  /-- COMB_RSP (R137): Statuses and replies of a remote bundle. -/
  | combRsp (dest : Die)
  /-- PT_RD (R140): Remote page-table entry read. -/
  | ptRd (dest : Die)
  /-- PT_CAS (R140): Remote page-table compare-and-swap. -/
  | ptCas (dest : Die)
  /-- PT_DATA (R137): Page-table entry reply. -/
  | ptData (dest : Die)
  /-- SHOOT (R140): Remote TLB invalidation request. -/
  | shoot (dest : Die)
  /-- SHOOT_ACK (R137): Invalidation acknowledgement. -/
  | shootAck (dest : Die)
  /-- HOME_REQ (R133): Asks the new home for a frame. -/
  | homeReq (dest : Die)
  /-- HOME_GRANT (R133): Grants a frame, and the move proceeds. -/
  | homeGrant (dest : Die)
  /-- HOME_DENY (R133): Refuses a frame, ending the move unchanged. -/
  | homeDeny (dest : Die)
  /-- HOME_DATA (R133): 4 KiB of a page with its lease ends raised by SKEW. -/
  | homeData (dest : Die)
  /-- HOME_DONE (R133): Move complete, and the old frame is freed. -/
  | homeDone (dest : Die)
  /-- MIG_DATA (R354): A piece of a portable record. -/
  | migData (dest : Die)
  /-- CKPT_DATA (R142): A checkpoint record or granule piece. -/
  | ckptData (dest : Die)
  /-- CKPT_END (R142): Kapael writes the pieces and answers CKPT_ACK. -/
  | ckptEnd (dest : Die)
  /-- CKPT_ACK (R142): The checkpoint commits. -/
  | ckptAck (dest : Die)
  /-- TOK_SIG (R140): A remote token signal. -/
  | tokSig (dest : Die)
  /-- LIFETIME_RECORD_WRITE (R392): Lifetime records are written to flash every 60 s and at shutdown. -/
  | lifetimeRecordWrite (d : Die)
  /-- LINK_EXIT_L0 (R139): The cable link leaves L0: the receiver starts dropping writes to its window and the heartbeat timeout is suspended until the link returns or 300 µs pass. -/
  | linkExitL0
  /-- HOST_LINK_DOWN (R401): The host link fails: host-homed leaves become unreachable (HOME_ABSENT) and the management queue halts with QUEUE_FAULT. -/
  | hostLinkDown
  /-- FP_FUNCTION_RESULT (R237): A long-latency FP32 function result (FRCP to FCOS) is written, ending its pending mark and releasing the lookahead wait. -/
  | fpFunctionResult (a : AgentId) (op : Nat)
  /-- TILE_DRAIN (R301): An MDRAIN's row read, as a tile action, completes and writes its destinations, so MDRAIN can retire on the wave's MXC. -/
  | tileDrain (a : AgentId) (op : Nat)
  /-- L1_DROP (R105): An L1 drops or evicts a line at any moment, writing it back and giving up ownership if it is owned or a dirty PRIVATE line. -/
  | l1Drop (c : CoreRef) (l : LineRef)
  deriving DecidableEq, Repr

end Sys2Proof
end

