-- ==== Sys2Proof/Machine/Fields.lean ====
section
/-! DEFINITION. The fields of the instruction words: the opcode and form of each instruction (R191), the register file
each operand field names, and the static decode checks ONE_WORD, RESERVED, GUARD, NAME and PATTERN of R190. -/

namespace Sys2Proof

/-- An instruction as its opcode and word form; the steps of the part that no word encodes have none. -/
inductive Form
  | g (opc : Nat) (x : GForm)
  | i (opc : Nat) (x : IForm)
  | m (opc : Nat) (x : MForm)
  | v (opc : Nat) (x : VForm)
  | c (opc : Nat) (x : CForm)
  | step
  deriving DecidableEq, Repr

/-- The opcode map of R191. -/
def Instr.form : Instr → Form
  | .nop x => .g 0x00 x
  | .bra x => .c 0x01 x
  | .brx x => .g 0x02 x
  | .call x => .c 0x03 x
  | .callx x => .g 0x04 x
  | .ret x => .g 0x05 x
  | .join x => .c 0x06 x
  | .exit x => .g 0x07 x
  | .kill x => .g 0x08 x
  | .reform x => .g 0x09 x
  | .yield x => .g 0x0A x
  | .trap x => .g 0x0B x
  | .bkpt x => .g 0x0C x
  | .iadd x => .g 0x10 x
  | .iaddImm x => .i 0x10 x
  | .isub x => .g 0x11 x
  | .isubImm x => .i 0x11 x
  | .imul x => .g 0x12 x
  | .imulImm x => .i 0x12 x
  | .imulh x => .g 0x13 x
  | .imulhImm x => .i 0x13 x
  | .imad x => .g 0x14 x
  | .iaddc x => .g 0x15 x
  | .isubb x => .g 0x16 x
  | .imin x => .g 0x17 x
  | .iminImm x => .i 0x17 x
  | .imax x => .g 0x18 x
  | .imaxImm x => .i 0x18 x
  | .iabs x => .g 0x19 x
  | .sel x => .g 0x1A x
  | .imadw x => .g 0x1B x
  | .rng x => .g 0x1C x
  | .rngImm x => .i 0x1C x
  | .and x => .g 0x20 x
  | .andImm x => .i 0x20 x
  | .or x => .g 0x21 x
  | .orImm x => .i 0x21 x
  | .xor x => .g 0x22 x
  | .xorImm x => .i 0x22 x
  | .not x => .g 0x23 x
  | .logt x => .g 0x24 x
  | .shl x => .g 0x25 x
  | .shlImm x => .i 0x25 x
  | .shr x => .g 0x26 x
  | .shrImm x => .i 0x26 x
  | .sar x => .g 0x27 x
  | .sarImm x => .i 0x27 x
  | .funl x => .g 0x28 x
  | .bfe x => .g 0x29 x
  | .bfi x => .g 0x2A x
  | .popc x => .g 0x2B x
  | .clz x => .g 0x2C x
  | .brev x => .g 0x2D x
  | .mov x => .g 0x2E x
  | .movi x => .i 0x2F x
  | .icmp x => .g 0x30 x
  | .icmpImm x => .i 0x30 x
  | .fcmp x => .g 0x31 x
  | .fcmpImm x => .i 0x31 x
  | .plogt x => .g 0x32 x
  | .ppack x => .g 0x33 x
  | .punpk x => .g 0x34 x
  | .fkind x => .g 0x35 x
  | .lxch x => .g 0x40 x
  | .qxch x => .g 0x41 x
  | .qdd x => .g 0x42 x
  | .vote x => .g 0x43 x
  | .ballot x => .g 0x44 x
  | .matchLanes x => .g 0x45 x
  | .lfold x => .g 0x46 x
  | .scan x => .g 0x47 x
  | .xset x => .g 0x48 x
  | .fadd x => .g 0x50 x
  | .faddImm x => .i 0x50 x
  | .fmul x => .g 0x51 x
  | .fmulImm x => .i 0x51 x
  | .ffma x => .g 0x52 x
  | .fmin x => .g 0x53 x
  | .fminImm x => .i 0x53 x
  | .fmax x => .g 0x54 x
  | .fmaxImm x => .i 0x54 x
  | .frnd x => .g 0x55 x
  | .frcp x => .g 0x56 x
  | .frsq x => .g 0x57 x
  | .fsqrt x => .g 0x58 x
  | .fex2 x => .g 0x59 x
  | .flg2 x => .g 0x5A x
  | .fsin x => .g 0x5B x
  | .fcos x => .g 0x5C x
  | .hadd2 x => .g 0x60 x
  | .hmul2 x => .g 0x61 x
  | .hfma2 x => .g 0x62 x
  | .hmin2 x => .g 0x63 x
  | .hmax2 x => .g 0x64 x
  | .vdot2 x => .g 0x65 x
  | .vdot4 x => .g 0x66 x
  | .cvt x => .g 0x70 x
  | .pack2 x => .g 0x71 x
  | .qhist x => .g 0x72 x
  | .qscale x => .g 0x73 x
  | .qclr x => .g 0x74 x
  | .qpack x => .g 0x75 x
  | .qdeq x => .g 0x76 x
  | .ld x => .m 0x80 x
  | .st x => .m 0x81 x
  | .ldblk x => .m 0x82 x
  | .stblk x => .m 0x83 x
  | .pref x => .m 0x84 x
  | .cctl x => .m 0x85 x
  | .fence x => .m 0x86 x
  | .atom x => .v 0x90 x
  | .red x => .v 0x91 x
  | .ocall x => .v 0x92 x
  | .old x => .m 0x98 x
  | .ost x => .m 0x99 x
  | .reply x => .g 0x9A x
  | .oend x => .g 0x9B x
  | .bara x => .g 0xA0 x
  | .barw x => .g 0xA1 x
  | .bars x => .g 0xA2 x
  | .waitv x => .g 0xA3 x
  | .qsig x => .g 0xA4 x
  | .qwait x => .g 0xA5 x
  | .mma x => .g 0xB0 x
  | .mzero x => .g 0xB1 x
  | .mtile x => .g 0xB3 x
  | .mdrain x => .g 0xB2 x
  | .jobGaffer x => .g 0xB4 x
  | .jobWave x => .g 0xB4 x
  | .jstatGaffer x => .g 0xB5 x
  | .jstatWave x => .g 0xB5 x
  | .trace x => .g 0xC0 x
  | .sample x => .g 0xC1 x
  | .pidld x => .g 0xC3 x
  | .visr x => .g 0xC2 x
  | .umov x => .g 0xD0 x
  | .umovi x => .i 0xD1 x
  | .uadd x => .g 0xD2 x
  | .uaddImm x => .i 0xD2 x
  | .usub x => .g 0xD3 x
  | .usubImm x => .i 0xD3 x
  | .umul x => .g 0xD4 x
  | .umulImm x => .i 0xD4 x
  | .umad x => .g 0xD5 x
  | .ushl x => .g 0xD6 x
  | .ushlImm x => .i 0xD6 x
  | .ushr x => .g 0xD7 x
  | .ushrImm x => .i 0xD7 x
  | .uand x => .g 0xD8 x
  | .uandImm x => .i 0xD8 x
  | .uor x => .g 0xD9 x
  | .uorImm x => .i 0xD9 x
  | .uxor x => .g 0xDA x
  | .uxorImm x => .i 0xDA x
  | .ucmp x => .g 0xDB x
  | .ucmpImm x => .i 0xDB x
  | .usel x => .g 0xDC x
  | .ubra x => .c 0xDD x
  | .uld x => .m 0xDE x
  | .ulaunch x => .g 0xDF x
  | .csrr x => .g 0xE0 x
  | .csrw x => .g 0xE1 x
  | .winrd x => .g 0xE2 x
  | .winwr x => .g 0xE3 x
  | .tret x => .g 0xE4 x
  | .clauseHeaderWaitMet _ => .step
  | .decisionConsume _ => .step
  | .parisonMerge _ => .step
  | .pageWalk _ => .step
  | .mvHoldRelease _ => .step
  | .loadReply _ _ => .step
  | .storeAck _ _ => .step
  | .atomReply _ _ => .step
  | .ocallReply _ _ => .step
  | .texReply _ _ => .step
  | .fenceTimePassed _ => .step
  | .homeRead _ _ => .step
  | .homeWrite _ _ => .step
  | .ownershipGrant _ _ => .step
  | .lineRecall _ => .step
  | .hostAccess _ => .step
  | .bundleArrive _ _ => .step
  | .formBatch _ => .step
  | .batchPerform _ => .step
  | .contentionSweep _ => .step
  | .counterDecay _ => .step
  | .moveStart _ _ => .step
  | .tileOp _ => .step
  | .visrSlotAction _ _ => .step
  | .jobStart _ _ => .step
  | .jobComplete _ _ => .step
  | .blockAdmit _ _ => .step
  | .launchComplete _ => .step
  | .dispatchReserve _ _ => .step
  | .reservePreempt _ => .step
  | .budgetExhausted _ => .step
  | .budgetPeriodStart _ => .step
  | .budgetReport _ => .step
  | .firmwareEventTake _ _ => .step
  | .trapDeliver _ _ => .step
  | .preempt _ => .step
  | .saveRetry _ => .step
  | .blockRestore _ _ => .step
  | .registerFill _ _ => .step
  | .snapshot _ => .step
  | .rollback _ => .step
  | .profileSample _ _ => .step
  | .waitvReread _ => .step
  | .twaitGateMet _ => .step
  | .refreshPhaseAdvance _ => .step
  | .refreshModeChange _ _ => .step
  | .ckptTimer _ => .step
  | .doorbellWptr _ _ => .step
  | .doorbellCrptr _ _ => .step
  | .dispatch _ _ => .step
  | .graph _ _ => .step
  | .tsig _ _ => .step
  | .twait _ _ => .step
  | .ckpt _ _ => .step
  | .nopk _ _ => .step
  | .ctxCreate _ => .step
  | .ctxDestroy _ => .step
  | .ctxUpdate _ => .step
  | .queueCreate _ => .step
  | .queueReset _ => .step
  | .graphLoad _ => .step
  | .graphUnload _ => .step
  | .finalise _ => .step
  | .invalidate _ => .step
  | .objClear _ => .step
  | .ckptInterval _ => .step
  | .debugSet _ => .step
  | .debugBkset _ => .step
  | .debugBkclr _ => .step
  | .debugHalt _ => .step
  | .debugResume _ => .step
  | .debugStep _ => .step
  | .debugDump _ => .step
  | .debugLoad _ => .step
  | .debugKill _ => .step
  | .frameAlloc _ => .step
  | .frameFree _ => .step
  | .mqctlCreate => .step
  | .mqctlReset => .step
  | .mqwptrWrite _ => .step
  | .mqcrptrWrite _ => .step
  | .undock => .step
  | .fwctlRollback => .step
  | .attctlReq => .step
  | .attestationSigned => .step
  | .hctlEnable _ _ => .step
  | .flip _ _ => .step
  | .verticalBlank _ => .step
  | .lineSend _ _ => .step
  | .linkctlTrain _ => .step
  | .headTrainDone _ _ _ _ => .step
  | .auxgo _ => .step
  | .auxReply _ _ _ => .step
  | .hpdChange _ _ => .step
  | .registerWrite _ _ => .step
  | .powerOnReset _ => .step
  | .hostLinkTrain => .step
  | .presenceDetect _ _ => .step
  | .pairing _ => .step
  | .ptmExchange _ => .step
  | .dockMigration _ => .step
  | .heartbeat _ => .step
  | .heartbeatTimeout _ => .step
  | .linkRecovery => .step
  | .resyncTimeout _ => .step
  | .linkLost => .step
  | .blowpipeHeaderWrite _ _ _ => .step
  | .ackWrite _ _ => .step
  | .ackTimer _ => .step
  | .resync _ _ => .step
  | .rdReq _ => .step
  | .rdData _ => .step
  | .wrReq _ => .step
  | .wrAck _ => .step
  | .combReq _ => .step
  | .combRsp _ => .step
  | .ptRd _ => .step
  | .ptCas _ => .step
  | .ptData _ => .step
  | .shoot _ => .step
  | .shootAck _ => .step
  | .homeReq _ => .step
  | .homeGrant _ => .step
  | .homeDeny _ => .step
  | .homeData _ => .step
  | .homeDone _ => .step
  | .migData _ => .step
  | .ckptData _ => .step
  | .ckptEnd _ => .step
  | .ckptAck _ => .step
  | .tokSig _ => .step
  | .lifetimeRecordWrite _ => .step
  | .linkExitL0 => .step
  | .hostLinkDown => .step
  | .fpFunctionResult _ _ => .step
  | .tileDrain _ _ => .step
  | .l1Drop _ _ => .step

/-- What an operand field names (R177, R185): nothing, a vector name, an even pair, a group of `n` names with first
name a multiple of `al`, the uniform likes, a predicate, a predicate with 24 for true, a histogram (R246), a pattern
register (R226), a literal. -/
inductive FK
  | none | v | v2 | vg (n al : Nat) | s | s2 | sg (n al : Nat) | p | pT | h | x | lit
  deriving DecidableEq, Repr

/-- Whether a field may carry a last-read bit or a pattern: only a vector operand may (R186, R187). -/
def FK.isVec : FK → Bool
  | .v | .v2 | .vg _ _ => true
  | _ => false

/-- The numbers a field of value `x` names. -/
def FK.names (k : FK) (x : Nat) : List Nat :=
  match k with
  | .v | .s => [x]
  | .v2 | .s2 => [x, x + 1]
  | .vg n _ | .sg n _ => (List.range n).map (x + ·)
  | _ => []

/-- The vector names of a field. -/
def FK.vnames (k : FK) (x : Nat) : List Nat := if k.isVec then k.names x else []

/-- The uniform names of a field. -/
def FK.snames (k : FK) (x : Nat) : List Nat := if k.isVec then [] else k.names x

/-- The check NAME of one field that needs no run-time state (R185). -/
def FK.nameOk (k : FK) (x : Nat) : Bool :=
  match k with
  | .v2 | .s2 => x % 2 == 0
  | .vg n al | .sg n al => x % al == 0 && x + n ≤ 64
  | .p => x < 24
  | .pT => x ≤ 24
  | .h => x < 4
  | .x => 1 ≤ x && x ≤ 7
  | _ => true

/-- The use of the operand fields and modifiers of an instruction: the four operand fields, the ML and MH bits that
may be set, whether two words are required (R178), and whether the guard must be always. -/
structure Use where
  d : FK := .none
  a : FK := .none
  b : FK := .none
  c : FK := .none
  ml : Nat := 0
  mh : Nat := 0
  two : Bool := false
  always : Bool := false
  deriving DecidableEq, Repr

/-- A vector operand of the access type `ty` (R181, R185). -/
def vecOfType (ty : Nat) : FK := if ty == 5 then .v2 else if ty == 6 then .vg 4 4 else .v

/-- A uniform operand of the access type `ty` (R295). -/
def uniOfType (ty : Nat) : FK := if ty == 5 then .s2 else if ty == 6 then .sg 4 4 else .s

/-- A CVT type of 64 bits (R243). -/
def cvt64 (t : Nat) : Bool := t == 11 || t == 12

/-- The bits of a CVT type, 0 for a reserved code (R243). -/
def cvtWidth (t : Nat) : Nat :=
  ([32, 16, 16, 8, 8, 32, 32, 16, 16, 8, 8, 64, 64, 0, 0, 0] : List Nat).getD t 0

/-- The special registers of 64 bits (R189). -/
def csr64 (n : Nat) : Bool := n == 0x0B || n == 0x0C

/-- Field use of the format G instructions (tables of R203, R214, R217, R221, R226, R235, R237, R239, R243, R245,
R246, R270, R273, R277 to R279, R293, R296 to R301, R305, R307, R308, R311 to R314). -/
def gUse (opc : Nat) (x : GForm) : Use :=
  let ml := x.ml.toNat
  let mh := (x.w1.map (·.mh.toNat)).getD 0
  match opc with
  | 0x02 | 0x05 => { a := .v }
  | 0x04 => { d := .v, a := .v }
  | 0x09 => { always := true }
  | 0x0A => { b := .lit, ml := 3, always := true }
  | 0x0B | 0x0C => { a := .lit, b := .lit }
  | 0x10 | 0x11 | 0x12 | 0x1C | 0x20 | 0x21 | 0x22 | 0x25 | 0x26 | 0x27 => { d := .v, a := .v, b := .v }
  | 0x13 | 0x17 | 0x18 | 0x29 => { d := .v, a := .v, b := .v, ml := 1 }
  | 0x14 | 0x2A => { d := .v, a := .v, b := .v, c := .v, two := true }
  | 0x15 | 0x16 => { d := .v, a := .v, b := .v, c := .p, mh := 31, two := true }
  | 0x19 => { d := .v, a := .v, ml := 1 }
  | 0x1A => { d := .v, a := .v, b := .v, c := .p, two := true }
  | 0x1B => { d := .v2, a := .v, b := .v, c := .v2, ml := 1, two := true }
  | 0x23 | 0x2B | 0x2C | 0x2D => { d := .v, a := .v }
  | 0x24 => { d := .v, a := .v, b := .v, c := .v, ml := 3, mh := 63, two := true }
  | 0x28 => { d := .v, a := .v, b := .v, c := .v, ml := 3, two := true }
  | 0x2E => if ml % 2 == 1 then { d := .v2, a := .v2, ml := 1 } else { d := .v, a := .v, ml := 1 }
  | 0x30 | 0x31 => { d := .p, a := .v, b := .v, mh := 15 }
  | 0x32 => { d := .p, a := .pT, b := .pT, c := .pT, ml := 3, mh := 63, two := true }
  | 0x33 => { d := .v }
  | 0x34 => { a := .v, b := .v }
  | 0x35 => { d := .v, a := .v, ml := 3 }
  | 0x40 => if ml ≥ 4 then { d := .v2, a := .v2, b := .v, ml := 7 } else { d := .v, a := .v, b := .v, ml := 7 }
  | 0x41 => if ml ≥ 4 then { d := .v2, a := .v2, ml := 7, mh := 3 } else { d := .v, a := .v, ml := 7, mh := 3 }
  | 0x42 => { d := .v, a := .v, ml := 3 }
  | 0x43 => { d := .p, a := .pT, ml := 3 }
  | 0x44 => { d := .v, a := .pT }
  | 0x45 => if ml % 2 == 1 then { d := .v2, a := .v2, ml := 1 } else { d := .v, a := .v, ml := 1 }
  | 0x46 => { d := .v, a := .v, mh := 15 }
  | 0x47 => { d := .v, a := .v, ml := 1, mh := 15 }
  | 0x48 => { d := .x, a := .lit, ml := 3 }
  | 0x50 | 0x51 => { d := .v, a := .v, b := .v, ml := 3, mh := 15 }
  | 0x52 => { d := .v, a := .v, b := .v, c := .v, ml := 3, mh := 3, two := true }
  | 0x53 | 0x54 => { d := .v, a := .v, b := .v, mh := 15 }
  | 0x55 => { d := .v, a := .v, ml := 3, mh := 5 }
  | 0x56 | 0x57 | 0x58 | 0x59 | 0x5A | 0x5B | 0x5C => { d := .v, a := .v, two := true }
  | 0x60 | 0x61 => { d := .v, a := .v, b := .v, ml := 7, mh := 3 }
  | 0x62 | 0x65 => { d := .v, a := .v, b := .v, c := .v, ml := 7, mh := 7, two := true }
  | 0x63 | 0x64 => { d := .v, a := .v, b := .v, ml := 4, mh := 3 }
  | 0x66 => { d := .v, a := .v, b := .v, c := .v, ml := 3, two := true }
  | 0x70 => { d := if cvt64 (x.b.toNat % 16) then .v2 else .v, a := if cvt64 (mh % 16) then .v2 else .v, b := .lit,
              ml := 3, mh := 31 }
  | 0x71 =>
    if mh % 8 == 2 || mh % 8 == 3 then { d := .v, a := .v, b := .v, c := .v, ml := 3, mh := 15, two := true }
    else if mh % 8 ≥ 6 then { d := .v, a := .v, b := .v, c := .v, mh := 15, two := true }
    else if mh % 8 ≥ 4 then { d := .v, a := .v, b := .v, mh := 7 }
    else { d := .v, a := .v, b := .v, ml := 3, mh := 7 }
  | 0x72 => { d := .h, a := .v }
  | 0x73 => { d := .v, a := .h, b := .v }
  | 0x74 => { a := .h, b := .v }
  | 0x75 => { d := .v, a := .v, b := .v, c := .v, two := true }
  | 0x76 => { d := .v, a := .v, ml := 3, mh := 7 }
  | 0x9A => { a := .v }
  | 0x9B => { always := true }
  | 0xA0 | 0xA2 => { d := .v, a := .v, b := .v, ml := 3 }
  | 0xA1 => { d := .v, a := .v, b := .v, ml := 1, mh := 63 }
  | 0xA3 => { d := .v, a := if ml % 4 == 0 then .v2 else .v, b := .v, ml := 3, mh := 15 }
  | 0xA4 => { a := .v2, b := .v }
  | 0xA5 => { d := .v2, a := .v2, b := .v2 }
  | 0xB0 => { d := .s, a := if ml % 4 == 0 then .s2 else if ml % 4 == 2 then .sg 4 4 else .s,
              b := if mh % 4 == 0 then .s2 else .s, ml := 7, mh := 31 }
  | 0xB1 => { d := .s, ml := 1 }
  | 0xB2 => { d := if ml % 4 == 0 then .v2 else .v, a := .v, b := if ml ≥ 4 then .v2 else .none, ml := 7, two := true }
  | 0xB3 => { d := .s, a := .s }
  | 0xB4 => { a := if ml % 2 == 1 then .s2 else .v2, ml := 1 }
  | 0xB5 => { d := if ml % 2 == 1 then .s else .v, ml := 1 }
  | 0xC0 => { d := .vg 5 1, a := .vg 8 4, b := .v2, c := .v, two := true }
  | 0xC1 => { d := .vg 4 1, a := .vg 3 1, b := .v2, two := true }
  | 0xC2 => { a := .s2, b := .s, c := .s, ml := 7, two := true }
  | 0xC3 => { d := .v2, a := .v, two := true }
  | 0xD0 => { d := .s, a := .s }
  | 0xD2 | 0xD3 | 0xD4 | 0xD6 | 0xD8 | 0xD9 | 0xDA => { d := .s, a := .s, b := .s }
  | 0xD5 => { d := .s, a := .s, b := .s, c := .s, two := true }
  | 0xD7 => { d := .s, a := .s, b := .s, ml := 1 }
  | 0xDB => { d := .p, a := .s, b := .s, mh := 15 }
  | 0xDC => { d := .s, a := .s, b := .s, c := .p, two := true }
  | 0xDF => { a := .s }
  | 0xE0 => { d := if csr64 x.b.toNat then .v2 else .v, b := .lit }
  | 0xE1 => { a := .v, b := .lit }
  | 0xE2 => { d := .v, a := .v }
  | 0xE3 | 0xE4 => { a := .v, b := .v }
  | _ => {}

/-- Field use of the immediate forms (R180 and the tables of gUse); `b` is the immediate. -/
def iUse (opc : Nat) : Use :=
  match opc with
  | 0x13 | 0x17 | 0x18 => { d := .v, a := .v, ml := 1 }
  | 0x2F => { d := .v }
  | 0x30 | 0x31 => { d := .p, a := .v, mh := 15 }
  | 0x50 | 0x51 => { d := .v, a := .v, ml := 3, mh := 15 }
  | 0x53 | 0x54 => { d := .v, a := .v, mh := 15 }
  | 0xD1 => { d := .s }
  | 0xD7 => { d := .s, a := .s, ml := 1 }
  | 0xD2 | 0xD3 | 0xD4 | 0xD6 | 0xD8 | 0xD9 | 0xDA => { d := .s, a := .s }
  | 0xDB => { d := .p, a := .s, mh := 15 }
  | _ => { d := .v, a := .v }

/-- The address operand of a vector memory access: an even pair for the generic space (R10). -/
def addrOf (space : Nat) : FK := if space == 0 then .v2 else .v

/-- Field use of the memory forms (R257, R259, R262 to R264, R269, R295). -/
def mUse (opc : Nat) (x : MForm) : Use :=
  let ml := x.ml.toNat
  let sp := x.space.toNat
  match opc with
  | 0x80 => { d := vecOfType ml, a := addrOf sp, ml := 7, two := true }
  | 0x81 => { a := addrOf sp, b := vecOfType ml, ml := 7, two := true }
  | 0x82 => { d := .v, a := addrOf sp, two := true }
  | 0x83 => { a := addrOf sp, b := .v, two := true }
  | 0x84 => { a := .v2, ml := 7, two := true }
  | 0x85 => { a := if ml ≥ 2 then .none else .v2, ml := 3, two := true }
  | 0x98 => { d := vecOfType ml, a := .v, ml := 7, two := true }
  | 0x99 => { a := .v, b := vecOfType ml, ml := 7, two := true }
  | 0xDE => { d := uniOfType ml, a := if sp == 0 then .s2 else .s, b := .lit, ml := 7, two := true }
  | _ => { two := true }

/-- Field use of ATOM, RED and OCALL (R265, R268). -/
def vUse (opc : Nat) (x : VForm) : Use :=
  let w64 := x.ml.toNat % 2 == 1
  let cas := x.method.toNat == 0xA
  let data : FK := if cas then (if w64 then .vg 4 4 else .v2) else if w64 then .v2 else .v
  match opc with
  | 0x90 => { d := if w64 then .v2 else .v, a := addrOf x.space.toNat, b := data, ml := 1, two := true }
  | 0x91 => { a := addrOf x.space.toNat, b := data, ml := 1, two := true }
  | _ => { d := .vg 5 1, a := .v2, b := .vg 4 1, two := true }

/-- Field use of any instruction word. -/
def Form.use : Form → Use
  | .g o x => gUse o x
  | .i o _ => iUse o
  | .m o x => mUse o x
  | .v o x => vUse o x
  | _ => {}

/-- The fields D, A, B and C of a form as numbers. -/
def Form.fields : Form → Nat × Nat × Nat × Nat
  | .g _ x => (x.d.toNat, x.a.toNat, x.b.toNat, (x.w1.map (·.c.toNat)).getD 0)
  | .i _ x => (x.d.toNat, x.a.toNat, 0, 0)
  | .m _ x => (x.d.toNat, x.a.toNat, x.b.toNat, 0)
  | .v _ x => (x.d.toNat, x.a.toNat, x.b.toNat, 0)
  | _ => (0, 0, 0, 0)

/-- Vector names an instruction reads: its A, B and C operands. CALL reads none. -/
def Form.vreads (f : Form) : List Nat :=
  let u := f.use
  let (_, a, b, k) := f.fields
  u.a.vnames a ++ u.b.vnames b ++ u.c.vnames k

/-- Vector names an instruction writes: its D operand, and v0 for CALL (R205). -/
def Form.vwrites (f : Form) : List Nat :=
  match f with
  | .c 0x03 _ => [0]
  | _ => f.use.d.vnames f.fields.1

/-- Names an instruction gives a last read of (R185, R186). -/
def Form.lastReads (f : Form) : List Nat :=
  let u := f.use
  let (_, a, b, k) := f.fields
  let pick (on : Bool) (fk : FK) (x : Nat) : List Nat := if on then fk.vnames x else []
  match f with
  | .g _ x => pick x.lra u.a a ++ pick x.lrb u.b b ++ pick ((x.w1.map (·.lrc)).getD false) u.c k
  | .i _ x => pick x.lra u.a a
  | .m _ x => pick x.lra u.a a ++ pick x.lrb u.b b
  | .v _ x => pick x.lra u.a a ++ pick x.lrb u.b b
  | _ => []

/-- Uniform names an instruction reads (R293, R295, R297 to R305, R311). MMA and MZERO also read their C tile's
name register D. -/
def Form.sreads (f : Form) : List Nat :=
  let u := f.use
  let (d, a, b, k) := f.fields
  let own := u.a.snames a ++ u.b.snames b ++ u.c.snames k
  match f with
  | .g 0xB0 _ | .g 0xB1 _ => d :: own
  | _ => own

/-- Uniform names an instruction writes. -/
def Form.swrites (f : Form) : List Nat :=
  match f with
  | .g 0xB0 _ | .g 0xB1 _ => []
  | _ => f.use.d.snames f.fields.1

/-- The words of an instruction (R177, R178). -/
def Form.len : Form → Nat
  | .g _ x => if x.w1.isSome then 2 else 1
  | .step => 0
  | _ => 2

/-- Guard predicate, negation and lookahead of a form; the immediate form is always guarded true (R180). -/
def Form.guard : Form → Nat × Bool × Nat
  | .g _ x => match x.w1 with
    | some w => (w.gp.toNat, w.gn, w.la.toNat)
    | none => (24, false, 0)
  | .m _ x => (x.gp.toNat, x.gn, x.la.toNat)
  | .v _ x => (x.gp.toNat, x.gn, x.la.toNat)
  | .c _ x => (x.gp.toNat, x.gn, 0)
  | _ => (24, false, 0)

/-- The opcodes of UNI clauses alone (R174, R191): the uniform instructions, MMA, MZERO, MTILE, VISR, and JOB and
JSTAT with ML[0] = 1. -/
def uniClass (opc ml : Nat) : Bool :=
  (0xD0 ≤ opc && opc ≤ 0xDF) || opc == 0xB0 || opc == 0xB1 || opc == 0xB3 || opc == 0xC2
    || ((opc == 0xB4 || opc == 0xB5) && ml % 2 == 1)

/-- Opcodes R191 assigns. -/
def assigned (o : Nat) : Bool :=
  o ≤ 0x0C || (0x10 ≤ o && o ≤ 0x1C) || (0x20 ≤ o && o ≤ 0x35) || (0x40 ≤ o && o ≤ 0x48) || (0x50 ≤ o && o ≤ 0x5C)
    || (0x60 ≤ o && o ≤ 0x66) || (0x70 ≤ o && o ≤ 0x76) || (0x80 ≤ o && o ≤ 0x86) || (0x90 ≤ o && o ≤ 0x92)
    || (0x98 ≤ o && o ≤ 0x9B) || (0xA0 ≤ o && o ≤ 0xA5) || (0xB0 ≤ o && o ≤ 0xB5) || (0xC0 ≤ o && o ≤ 0xC3)
    || (0xD0 ≤ o && o ≤ 0xE4)

/-- The base set of R174. -/
def baseSet (o : Nat) : Bool :=
  (o ≤ 0x05) || o == 0x07 || o == 0x08 || o == 0x0B || o == 0x0C || (0x10 ≤ o && o ≤ 0x76 && assigned o) || o == 0xE0

/-- Whether a clause of class `cls` admits the opcode (R174). -/
def classAdmits (cls opc ml : Nat) : Bool :=
  match cls with
  | 0 => baseSet opc
  | 1 => baseSet opc || (0x80 ≤ opc && opc ≤ 0x86) || (0x90 ≤ opc && opc ≤ 0x92) || (0x98 ≤ opc && opc ≤ 0x9B)
  | 2 => baseSet opc || opc == 0xC0 || opc == 0xC1 || opc == 0xC3
  | 3 => baseSet opc || opc == 0xB2 || ((opc == 0xB4 || opc == 0xB5) && ml % 2 == 0)
  | 4 => baseSet opc || opc == 0x06 || opc == 0x09 || opc == 0x0A || (0xA0 ≤ opc && opc ≤ 0xA5)
  | 5 => baseSet opc || (0xE1 ≤ opc && opc ≤ 0xE4)
  | 6 => uniClass opc ml || opc == 0x00 || opc == 0x0B || opc == 0x0C
  | _ => false

/-- Control transfers (R175). -/
def controlTransfer (o : Nat) : Bool :=
  (1 ≤ o && o ≤ 0x0C) || o == 0xDD || o == 0x9B || o == 0xE4

/-- Opcodes the map marks I (R191). -/
def immCapable (o : Nat) : Bool :=
  o == 0x10 || o == 0x11 || o == 0x12 || o == 0x13 || o == 0x17 || o == 0x18 || o == 0x1C || o == 0x20 || o == 0x21
    || o == 0x22 || o == 0x25 || o == 0x26 || o == 0x27 || o == 0x30 || o == 0x31 || o == 0x50 || o == 0x51
    || o == 0x53 || o == 0x54 || (0xD2 ≤ o && o ≤ 0xD4) || (0xD6 ≤ o && o ≤ 0xDB)

/-- Opcodes of which only the immediate form exists: MOVI and UMOVI (R180). -/
def immOnly (o : Nat) : Bool := o == 0x2F || o == 0xD1

/-- Bits of `x` outside `mask`. -/
def outside (x mask : Nat) : Bool := x != (x &&& mask)

/-- A field that names nothing must be zero (R177). -/
def unusedOk (k : FK) (x : Nat) : Bool := k != .none || x == 0

/-- Codes of the format G modifiers that their tables reserve. -/
def gCodeOk (opc : Nat) (x : GForm) : Bool :=
  let ml := x.ml.toNat
  let mh := (x.w1.map (·.mh.toNat)).getD 0
  match opc with
  | 0x00 => match x.w1 with
    | some w => w.gp == 0 && !w.gn
    | none => true
  | 0x0A | 0x35 | 0x43 => ml % 4 != 3
  | 0x15 | 0x16 => mh ≤ 24
  | 0x30 | 0xDB => mh % 8 ≤ 5
  | 0x31 => mh % 8 ≤ 5 || mh / 8 % 2 == 0
  | 0x46 | 0x47 => mh ≤ 10
  | 0x48 => x.a.toNat < 32 && x.w1.isNone
  | 0x70 =>
    let dt := x.b.toNat % 16
    let st := mh % 16
    let e := x.b.toNat / 16
    dt ≤ 12 && st ≤ 12 && (if cvt64 st then e == 0 else e < 32 / cvtWidth st)
      && (mh / 16 % 2 == 0 || (5 ≤ dt && 5 ≤ st))
  | 0xA1 => if mh ≥ 32 then mh % 32 ≤ 23 else mh == 0
  | 0xA3 => ml % 4 != 3 && mh % 8 ≤ 5
  | 0xB0 => mh % 4 != 2
  | 0xB2 => ml % 4 ≤ 1
  | 0xE0 => x.b.toNat ≤ 0x0D
  | 0xE1 => x.b.toNat == 0x20
  | _ => true

/-- RESERVED of a format G instruction (R190 order 8). -/
def gReserved (opc : Nat) (x : GForm) : Bool :=
  let u := gUse opc x
  let uni := uniClass opc x.ml.toNat
  let w := x.w1.getD { c := 0, lrc := false, gp := 24, gn := false, la := 0, xa := 0, xb := 0, xc := 0, mh := 0 }
  !(unusedOk u.d x.d.toNat && unusedOk u.a x.a.toNat && unusedOk u.b x.b.toNat && unusedOk u.c w.c.toNat
    && !outside x.ml.toNat u.ml && !outside w.mh.toNat u.mh && (u.a.isVec || !x.lra) && (u.b.isVec || !x.lrb)
    && (u.c.isVec || !w.lrc) && (!u.always || w.gp == 24) && (!uni || (w.xa == 0 && w.xb == 0 && w.xc == 0))
    && (opc != 0x00 || (w.xa == 0 && w.xb == 0 && w.xc == 0))
    && (opc != 0x9B || (!w.gn && w.la == 0 && w.xa == 0 && w.xb == 0 && w.xc == 0)) && gCodeOk opc x)

/-- RESERVED of an immediate form (R180). -/
def iReserved (opc : Nat) (x : IForm) : Bool :=
  let u := iUse opc
  !(unusedOk u.a x.a.toNat && !outside x.ml.toNat u.ml && !outside x.mh.toNat u.mh && !x.lrb && (u.a.isVec || !x.lra)
    && (match opc with
        | 0x30 | 0xDB => x.mh.toNat % 8 ≤ 5
        | 0x31 => x.mh.toNat % 8 ≤ 5 || x.mh.toNat / 8 % 2 == 0
        | _ => true))

/-- RESERVED of a memory form (R79, R181, R183 and the instructions' own limits). -/
def mReserved (opc : Nat) (x : MForm) : Bool :=
  let u := mUse opc x
  let ord := x.ord.toNat
  let space := x.space.toNat
  let pol := x.pol.toNat
  let combiner := opc == 0x98 || opc == 0x99
  !(unusedOk u.d x.d.toNat && unusedOk u.a x.a.toNat && unusedOk u.b x.b.toNat && !outside x.ml.toNat u.ml
    && (u.a.isVec || !x.lra) && (u.b.isVec || !x.lrb) && x.scope.toNat ≤ 4 && pol ≤ 3 && (space == 0 || pol == 0)
    && (u.ml != 7 || x.ml.toNat != 7)
    && (match opc with
        | 0x80 | 0x82 | 0xDE => ord ≤ 1
        | 0x81 | 0x83 => ord == 0 || ord == 2
        | _ => ord == 0)
    && (opc != 0x84 || (space == 0 && pol != 2))
    && (opc != 0x85 || (space == 0 && x.scope == 0 && pol == 0 && (x.ml.toNat < 2 || x.ofs == 0)))
    && (opc != 0x86 || (x.ofs == 0 && space == 0 && pol == 0))
    && (opc != 0xDE || x.b.toNat ≤ 1)
    && (!combiner || (x.scope == 0 && space == 0 && pol == 0)))

/-- The built-in methods that have only 32-bit widths (R113): FADD, INC and DEC. -/
def method32 (m : Nat) : Bool := m == 1 || m == 0xB || m == 0xC

/-- RESERVED of the method variant (R79, R182, R265, R268). -/
def vReserved (opc : Nat) (x : VForm) : Bool :=
  let m := x.method.toNat
  !(!outside x.ml.toNat (vUse opc x).ml && x.scope.toNat ≤ 4 && x.pol == 0
    && (match opc with
        | 0x90 => m ≤ 0xC && (!method32 m || x.ml.toNat % 2 == 0)
        | 0x91 => m ≤ 0xC && (!method32 m || x.ml.toNat % 2 == 0) && m != 9 && m != 0xA && x.d == 0
                    && (x.ord.toNat == 0 || x.ord.toNat == 2)
        | _ => m ≤ 3 && x.ofs == 0 && x.scope == 0 && x.ord == 0 && x.space == 0))

/-- RESERVED of a control form (R184, R294). -/
def cReserved (opc : Nat) (x : CForm) : Bool :=
  !(x.rsv == 0 && x.kind.toNat ≤ 1
    && (match opc with
        | 0x06 => x.ofs == 0 && x.gp == 24 && x.kind == 0
        | 0xDD => x.kind == 0 && x.aux == 0
        | _ => x.kind == 1 || x.aux == 0))

/-- The static RESERVED check of any instruction word. -/
def Form.reserved : Form → Bool
  | .g o x => gReserved o x
  | .i o x => iReserved o x
  | .m o x => mReserved o x
  | .v o x => vReserved o x
  | .c o x => cReserved o x
  | .step => false

/-- The check ONE_WORD (R178). -/
def Form.oneWord : Form → Bool
  | .g o x => x.w1.isNone && (gUse o x).two
  | _ => false

/-- The check GUARD that needs no run-time state (R179). A NOP's guard field is zero (R203). -/
def Form.badGuard (f : Form) : Bool :=
  let (gp, gn, _) := f.guard
  gp > 24 || (gp == 24 && gn)

/-- The check NAME that needs no run-time state (R185, R246, R270). -/
def Form.badName (f : Form) : Bool :=
  let u := f.use
  let (d, a, b, k) := f.fields
  !(u.d.nameOk d && u.a.nameOk a && u.b.nameOk b && u.c.nameOk k
    && (match f with
        | .g 0x9A x => x.a.toNat ≤ 28
        | _ => true))

/-- The check PATTERN that needs no run-time state: a pattern on an operand that is not a vector register (R187). -/
def Form.badPattern (f : Form) : Bool :=
  match f with
  | .g o x => match x.w1 with
    | some w =>
      let u := gUse o x
      (w.xa != 0 && !u.a.isVec) || (w.xb != 0 && !u.b.isVec) || (w.xc != 0 && !u.c.isVec)
    | none => false
  | _ => false

/-- The opcode of a form. -/
def Form.opc : Form → Nat
  | .g o _ | .i o _ | .m o _ | .v o _ | .c o _ => o
  | .step => 0

/-- The ML field of a form. -/
def Form.ml : Form → Nat
  | .g _ x => x.ml.toNat
  | .i _ x => x.ml.toNat + 4
  | .m _ x => x.ml.toNat
  | .v _ x => x.ml.toNat
  | _ => 0

/-- The predicates an instruction names, its guard and the carry or borrow that IADDC and ISUBB write included. -/
def Form.predNames (f : Form) : List Nat :=
  let u := f.use
  let (d, a, b, k3) := f.fields
  let one (k : FK) (n : Nat) : List Nat := match k with | .p | .pT => [n] | _ => []
  let carry : List Nat := match f with
    | .g o x => if o = 0x15 ∨ o = 0x16 then (x.w1.map fun w => w.mh.toNat % 32).toList else []
    | _ => []
  one u.d d ++ one u.a a ++ one u.b b ++ one u.c k3 ++ carry ++ [f.guard.1]

/-- The pattern fields of a form. -/
def Form.pats : Form → Nat × Nat × Nat
  | .g _ x => match x.w1 with
    | some w => (w.xa.toNat, w.xb.toNat, w.xc.toNat)
    | none => (0, 0, 0)
  | _ => (0, 0, 0)

/-- The immediate of an immediate form. -/
def Form.imm : Form → Option Word
  | .i _ x => some x.imm
  | _ => none


end Sys2Proof
end

