-- ==== Sys2Proof/WellFormed.lean ====
section
/-! DEFINITION. Well-formed instructions: the static decode checks of an instruction word (R178 to R187, R190), and for
a step of the part that the agents and structures it names exist (R3, R33, R38, R148, R315). -/

namespace Sys2Proof

/-- Cores of a die (R3). -/
def Die.cores : Die → Nat
  | .kapael => 12
  | .amdukor => 48

/-- Home slices of a die (R46). -/
def Die.slices : Die → Nat
  | .kapael => 8
  | .amdukor => 32

namespace WellFormed

/-- A core of a die (R3). -/
def coreOk (c : CoreRef) : Bool := c.core < c.die.cores

/-- A wave slot: 8 partitions of 16 slots (R3, R33). -/
def waveOk (w : WaveId) : Bool := w.core < w.die.cores && w.part < 8 && w.slot < 16

/-- An entry of a parison table of 64 (R33). -/
def parOk (p : ParId) : Bool := p.core < p.die.cores && p.entry < 64

/-- A block slot, 0 to 127 (R38). -/
def blockOk (b : BlockRef) : Bool := b.core < b.die.cores && b.bslot < 128

/-- A slice of a die (R46). -/
def sliceOk (r : SliceRef) : Bool := r.slice < r.die.slices

/-- An agent that exists. -/
def agentOk : AgentId → Bool
  | .none => true
  | .wave w k => waveOk w && k < 4
  | .gaffer p => parOk p
  | .combiner r => sliceOk r
  | .firmware _ c => c < 12

/-- Contexts are numbered 0 to 255 (R27). -/
def ctxOk (c : Nat) : Bool := c < 256

/-- A line address PA[47:7] (R47). -/
def lineOk (l : LineRef) : Bool := l.la < 2 ^ 41

/-- A generic virtual address of a context (R11). -/
def pageOk (p : PageRef) : Bool := ctxOk p.ctx && p.va < 2 ^ 64

/-- A walk request. -/
def walkOk (q : WalkReq) : Bool := agentOk q.agent && ctxOk q.ctx && q.va < 2 ^ 64

/-- A host access. -/
def hostOk (h : HostAcc) : Bool := ctxOk h.ctx && h.va < 2 ^ 64

/-- A user queue 0 to 15 of a context (R315). -/
def queueOk (q : QueueRef) : Bool := ctxOk q.ctx && q.queue < 16

/-- A blowpipe message: LEN at most 8,128 bytes (R136). -/
def msgOk (m : Msg) : Bool := ctxOk m.ctx && m.va < 2 ^ 64 && m.payload.length ≤ 8128

/-- The static decode checks of an instruction word (R190, orders 7 to 11 less what needs run-time state). -/
def wordOk (i : Instr) : Bool :=
  !i.form.oneWord && !i.form.reserved && !i.form.badGuard && !i.form.badName && !i.form.badPattern

end WellFormed

open WellFormed in
/-- A well-formed instruction or step. JOB and JSTAT are of the gaffer or of a wave by ML[0] (R174, R305, R307). -/
def Instr.wf : Instr → Bool
  | .nop x => wordOk (.nop x)
  | .bra x => wordOk (.bra x)
  | .brx x => wordOk (.brx x)
  | .call x => wordOk (.call x)
  | .callx x => wordOk (.callx x)
  | .ret x => wordOk (.ret x)
  | .join x => wordOk (.join x)
  | .exit x => wordOk (.exit x)
  | .kill x => wordOk (.kill x)
  | .reform x => wordOk (.reform x)
  | .yield x => wordOk (.yield x)
  | .trap x => wordOk (.trap x)
  | .bkpt x => wordOk (.bkpt x)
  | .iadd x => wordOk (.iadd x)
  | .iaddImm x => wordOk (.iaddImm x)
  | .isub x => wordOk (.isub x)
  | .isubImm x => wordOk (.isubImm x)
  | .imul x => wordOk (.imul x)
  | .imulImm x => wordOk (.imulImm x)
  | .imulh x => wordOk (.imulh x)
  | .imulhImm x => wordOk (.imulhImm x)
  | .imad x => wordOk (.imad x)
  | .iaddc x => wordOk (.iaddc x)
  | .isubb x => wordOk (.isubb x)
  | .imin x => wordOk (.imin x)
  | .iminImm x => wordOk (.iminImm x)
  | .imax x => wordOk (.imax x)
  | .imaxImm x => wordOk (.imaxImm x)
  | .iabs x => wordOk (.iabs x)
  | .sel x => wordOk (.sel x)
  | .imadw x => wordOk (.imadw x)
  | .rng x => wordOk (.rng x)
  | .rngImm x => wordOk (.rngImm x)
  | .and x => wordOk (.and x)
  | .andImm x => wordOk (.andImm x)
  | .or x => wordOk (.or x)
  | .orImm x => wordOk (.orImm x)
  | .xor x => wordOk (.xor x)
  | .xorImm x => wordOk (.xorImm x)
  | .not x => wordOk (.not x)
  | .logt x => wordOk (.logt x)
  | .shl x => wordOk (.shl x)
  | .shlImm x => wordOk (.shlImm x)
  | .shr x => wordOk (.shr x)
  | .shrImm x => wordOk (.shrImm x)
  | .sar x => wordOk (.sar x)
  | .sarImm x => wordOk (.sarImm x)
  | .funl x => wordOk (.funl x)
  | .bfe x => wordOk (.bfe x)
  | .bfi x => wordOk (.bfi x)
  | .popc x => wordOk (.popc x)
  | .clz x => wordOk (.clz x)
  | .brev x => wordOk (.brev x)
  | .mov x => wordOk (.mov x)
  | .movi x => wordOk (.movi x)
  | .icmp x => wordOk (.icmp x)
  | .icmpImm x => wordOk (.icmpImm x)
  | .fcmp x => wordOk (.fcmp x)
  | .fcmpImm x => wordOk (.fcmpImm x)
  | .plogt x => wordOk (.plogt x)
  | .ppack x => wordOk (.ppack x)
  | .punpk x => wordOk (.punpk x)
  | .fkind x => wordOk (.fkind x)
  | .lxch x => wordOk (.lxch x)
  | .qxch x => wordOk (.qxch x)
  | .qdd x => wordOk (.qdd x)
  | .vote x => wordOk (.vote x)
  | .ballot x => wordOk (.ballot x)
  | .matchLanes x => wordOk (.matchLanes x)
  | .lfold x => wordOk (.lfold x)
  | .scan x => wordOk (.scan x)
  | .xset x => wordOk (.xset x)
  | .fadd x => wordOk (.fadd x)
  | .faddImm x => wordOk (.faddImm x)
  | .fmul x => wordOk (.fmul x)
  | .fmulImm x => wordOk (.fmulImm x)
  | .ffma x => wordOk (.ffma x)
  | .fmin x => wordOk (.fmin x)
  | .fminImm x => wordOk (.fminImm x)
  | .fmax x => wordOk (.fmax x)
  | .fmaxImm x => wordOk (.fmaxImm x)
  | .frnd x => wordOk (.frnd x)
  | .frcp x => wordOk (.frcp x)
  | .frsq x => wordOk (.frsq x)
  | .fsqrt x => wordOk (.fsqrt x)
  | .fex2 x => wordOk (.fex2 x)
  | .flg2 x => wordOk (.flg2 x)
  | .fsin x => wordOk (.fsin x)
  | .fcos x => wordOk (.fcos x)
  | .hadd2 x => wordOk (.hadd2 x)
  | .hmul2 x => wordOk (.hmul2 x)
  | .hfma2 x => wordOk (.hfma2 x)
  | .hmin2 x => wordOk (.hmin2 x)
  | .hmax2 x => wordOk (.hmax2 x)
  | .vdot2 x => wordOk (.vdot2 x)
  | .vdot4 x => wordOk (.vdot4 x)
  | .cvt x => wordOk (.cvt x)
  | .pack2 x => wordOk (.pack2 x)
  | .qhist x => wordOk (.qhist x)
  | .qscale x => wordOk (.qscale x)
  | .qclr x => wordOk (.qclr x)
  | .qpack x => wordOk (.qpack x)
  | .qdeq x => wordOk (.qdeq x)
  | .ld x => wordOk (.ld x)
  | .st x => wordOk (.st x)
  | .ldblk x => wordOk (.ldblk x)
  | .stblk x => wordOk (.stblk x)
  | .pref x => wordOk (.pref x)
  | .cctl x => wordOk (.cctl x)
  | .fence x => wordOk (.fence x)
  | .atom x => wordOk (.atom x)
  | .red x => wordOk (.red x)
  | .ocall x => wordOk (.ocall x)
  | .old x => wordOk (.old x)
  | .ost x => wordOk (.ost x)
  | .reply x => wordOk (.reply x)
  | .oend x => wordOk (.oend x)
  | .bara x => wordOk (.bara x)
  | .barw x => wordOk (.barw x)
  | .bars x => wordOk (.bars x)
  | .waitv x => wordOk (.waitv x)
  | .qsig x => wordOk (.qsig x)
  | .qwait x => wordOk (.qwait x)
  | .mma x => wordOk (.mma x)
  | .mzero x => wordOk (.mzero x)
  | .mtile x => wordOk (.mtile x)
  | .mdrain x => wordOk (.mdrain x)
  | .jobGaffer x => wordOk (.jobGaffer x) && x.ml.getLsbD 0
  | .jobWave x => wordOk (.jobWave x) && !x.ml.getLsbD 0
  | .jstatGaffer x => wordOk (.jstatGaffer x) && x.ml.getLsbD 0
  | .jstatWave x => wordOk (.jstatWave x) && !x.ml.getLsbD 0
  | .trace x => wordOk (.trace x)
  | .sample x => wordOk (.sample x)
  | .pidld x => wordOk (.pidld x)
  | .visr x => wordOk (.visr x)
  | .umov x => wordOk (.umov x)
  | .umovi x => wordOk (.umovi x)
  | .uadd x => wordOk (.uadd x)
  | .uaddImm x => wordOk (.uaddImm x)
  | .usub x => wordOk (.usub x)
  | .usubImm x => wordOk (.usubImm x)
  | .umul x => wordOk (.umul x)
  | .umulImm x => wordOk (.umulImm x)
  | .umad x => wordOk (.umad x)
  | .ushl x => wordOk (.ushl x)
  | .ushlImm x => wordOk (.ushlImm x)
  | .ushr x => wordOk (.ushr x)
  | .ushrImm x => wordOk (.ushrImm x)
  | .uand x => wordOk (.uand x)
  | .uandImm x => wordOk (.uandImm x)
  | .uor x => wordOk (.uor x)
  | .uorImm x => wordOk (.uorImm x)
  | .uxor x => wordOk (.uxor x)
  | .uxorImm x => wordOk (.uxorImm x)
  | .ucmp x => wordOk (.ucmp x)
  | .ucmpImm x => wordOk (.ucmpImm x)
  | .usel x => wordOk (.usel x)
  | .ubra x => wordOk (.ubra x)
  | .uld x => wordOk (.uld x)
  | .ulaunch x => wordOk (.ulaunch x)
  | .csrr x => wordOk (.csrr x)
  | .csrw x => wordOk (.csrw x)
  | .winrd x => wordOk (.winrd x)
  | .winwr x => wordOk (.winwr x)
  | .tret x => wordOk (.tret x)
  | .clauseHeaderWaitMet a => agentOk a
  | .decisionConsume a => agentOk a
  | .parisonMerge p => parOk p
  | .pageWalk q => walkOk q
  | .mvHoldRelease a => agentOk a
  | .loadReply a _ => agentOk a
  | .storeAck a _ => agentOk a
  | .atomReply a _ => agentOk a
  | .ocallReply a _ => agentOk a
  | .texReply a _ => agentOk a
  | .fenceTimePassed a => agentOk a
  | .homeRead a _ => agentOk a
  | .homeWrite a _ => agentOk a
  | .ownershipGrant c l => coreOk c && lineOk l
  | .lineRecall l => lineOk l
  | .hostAccess h => hostOk h
  | .bundleArrive a _ => agentOk a
  | .formBatch r => sliceOk r
  | .batchPerform r => sliceOk r
  | .contentionSweep _ => true
  | .counterDecay _ => true
  | .moveStart p _ => pageOk p
  | .tileOp c => coreOk c
  | .visrSlotAction p _ => parOk p
  | .jobStart _ _ => true
  | .jobComplete _ _ => true
  | .blockAdmit c _ => coreOk c
  | .launchComplete _ => true
  | .dispatchReserve c _ => coreOk c
  | .reservePreempt c => coreOk c
  | .budgetExhausted ctx => ctxOk ctx
  | .budgetPeriodStart ctx => ctxOk ctx
  | .budgetReport _ => true
  | .firmwareEventTake _ core => core < 12
  | .trapDeliver _ core => core < 12
  | .preempt b => blockOk b
  | .saveRetry b => blockOk b
  | .blockRestore _ c => coreOk c
  | .registerFill w group => waveOk w && group < 16
  | .snapshot b => blockOk b
  | .rollback b => blockOk b
  | .profileSample c part => coreOk c && part < 8
  | .waitvReread a => agentOk a
  | .twaitGateMet _ => true
  | .refreshPhaseAdvance _ => true
  | .refreshModeChange _ _ => true
  | .ckptTimer ctx => ctxOk ctx
  | .doorbellWptr q _ => queueOk q
  | .doorbellCrptr q _ => queueOk q
  | .dispatch q _ => queueOk q
  | .graph q _ => queueOk q
  | .tsig q _ => queueOk q
  | .twait q _ => queueOk q
  | .ckpt q _ => queueOk q
  | .nopk q _ => queueOk q
  | .ctxCreate _ => true
  | .ctxDestroy _ => true
  | .ctxUpdate _ => true
  | .queueCreate _ => true
  | .queueReset _ => true
  | .graphLoad _ => true
  | .graphUnload _ => true
  | .finalise _ => true
  | .invalidate _ => true
  | .objClear _ => true
  | .ckptInterval _ => true
  | .debugSet _ => true
  | .debugBkset _ => true
  | .debugBkclr _ => true
  | .debugHalt _ => true
  | .debugResume _ => true
  | .debugStep _ => true
  | .debugDump _ => true
  | .debugLoad _ => true
  | .debugKill _ => true
  | .frameAlloc _ => true
  | .frameFree _ => true
  | .mqctlCreate => true
  | .mqctlReset => true
  | .mqwptrWrite _ => true
  | .mqcrptrWrite _ => true
  | .undock => true
  | .fwctlRollback => true
  | .attctlReq => true
  | .attestationSigned => true
  | .hctlEnable h _ => h < 2
  | .flip h _ => h < 2
  | .verticalBlank h => h < 2
  | .lineSend h _ => h < 2
  | .linkctlTrain h => h < 2
  | .headTrainDone h _ _ _ => h < 2
  | .auxgo h => h < 2
  | .auxReply h _ _ => h < 2
  | .hpdChange h _ => h < 2
  | .registerWrite _ _ => true
  | .powerOnReset _ => true
  | .hostLinkTrain => true
  | .presenceDetect _ _ => true
  | .pairing x => x.chalK.length == 16 && x.chalA.length == 16 && x.pubK.length == 32 && x.pubA.length == 32
      && x.sigK.length == 7856 && x.sigA.length == 7856
  | .ptmExchange _ => true
  | .dockMigration ctx => ctxOk ctx
  | .heartbeat _ => true
  | .heartbeatTimeout _ => true
  | .linkRecovery => true
  | .resyncTimeout _ => true
  | .linkLost => true
  | .blowpipeHeaderWrite _ slot m => slot < 4096 && msgOk m
  | .ackWrite _ _ => true
  | .ackTimer _ => true
  | .resync _ _ => true
  | .rdReq _ => true
  | .rdData _ => true
  | .wrReq _ => true
  | .wrAck _ => true
  | .combReq _ => true
  | .combRsp _ => true
  | .ptRd _ => true
  | .ptCas _ => true
  | .ptData _ => true
  | .shoot _ => true
  | .shootAck _ => true
  | .homeReq _ => true
  | .homeGrant _ => true
  | .homeDeny _ => true
  | .homeData _ => true
  | .homeDone _ => true
  | .migData _ => true
  | .ckptData _ => true
  | .ckptEnd _ => true
  | .ckptAck _ => true
  | .tokSig _ => true
  | .lifetimeRecordWrite _ => true
  | .linkExitL0 => true
  | .hostLinkDown => true
  | .fpFunctionResult a _ => agentOk a
  | .tileDrain a _ => agentOk a
  | .l1Drop c l => coreOk c && lineOk l

end Sys2Proof
end

