-- ==== Sys2Proof/Decode.lean ====
section
/-! DEFINITION. Decoding of instruction words (R177 to R184, R190, R191) and, after it, the encoder. -/

namespace Sys2Proof

/-- Why words are no instruction, by the subcause of R190 that names it. `truncated` is a two-word instruction whose
word 1 is not there, which a clause reports as CLAUSE_SPLIT (R171). -/
inductive Reject | opcode | truncated | oneWord | reserved | guard
  deriving DecidableEq, Repr

/-! ## Fields of the words -/

/-- OPC, word 0 [31:24] (R177). -/
def opcOf (w : Word) : Nat := (w.extractLsb' 24 8).toNat

/-- W, word 0 [23]. -/
def wOf (w : Word) : Bool := w.getLsbD 23

/-- ML, word 0 [2:0]. -/
def mlOf (w : Word) : BitVec 3 := w.extractLsb' 0 3

/-- The general word 1 (R179). -/
def w1Of (w : Word) : W1 :=
  { c := w.extractLsb' 26 6, lrc := w.getLsbD 25, gp := w.extractLsb' 20 5, gn := w.getLsbD 19,
    la := w.extractLsb' 15 4, xa := w.extractLsb' 12 3, xb := w.extractLsb' 9 3, xc := w.extractLsb' 6 3,
    mh := w.extractLsb' 0 6 }

/-- Format G (R177, R179). -/
def gOf (w : Word) (w1 : Option Word) : GForm :=
  { d := w.extractLsb' 17 6, a := w.extractLsb' 11 6, b := w.extractLsb' 5 6, lra := w.getLsbD 4, lrb := w.getLsbD 3,
    ml := mlOf w, w1 := w1.map w1Of }

/-- The immediate form (R180). -/
def iOf (w imm : Word) : IForm :=
  { d := w.extractLsb' 17 6, a := w.extractLsb' 11 6, mh := w.extractLsb' 5 6, lra := w.getLsbD 4,
    lrb := w.getLsbD 3, ml := w.extractLsb' 0 2, imm := imm }

/-- The memory form (R181). -/
def mOf (w x : Word) : MForm :=
  { d := w.extractLsb' 17 6, a := w.extractLsb' 11 6, b := w.extractLsb' 5 6, lra := w.getLsbD 4, lrb := w.getLsbD 3,
    ml := mlOf w, ofs := x.extractLsb' 20 12, gp := x.extractLsb' 15 5, gn := x.getLsbD 14, la := x.extractLsb' 10 4,
    scope := x.extractLsb' 7 3, ord := x.extractLsb' 5 2, space := x.extractLsb' 3 2, pol := x.extractLsb' 0 3 }

/-- The method variant (R182). -/
def vOf (w x : Word) : VForm :=
  { d := w.extractLsb' 17 6, a := w.extractLsb' 11 6, b := w.extractLsb' 5 6, lra := w.getLsbD 4, lrb := w.getLsbD 3,
    ml := mlOf w, method := x.extractLsb' 28 4, ofs := x.extractLsb' 20 8, gp := x.extractLsb' 15 5,
    gn := x.getLsbD 14, la := x.extractLsb' 10 4, scope := x.extractLsb' 7 3, ord := x.extractLsb' 5 2,
    space := x.extractLsb' 3 2, pol := x.extractLsb' 0 3 }

/-- The control form (R184). -/
def cOf (w x : Word) : CForm :=
  { ofs := w.extractLsb' 0 23, rsv := x.extractLsb' 25 7, gp := x.extractLsb' 20 5, gn := x.getLsbD 19,
    kind := x.extractLsb' 16 3, aux := x.extractLsb' 0 16 }

/-! ## The opcode map -/

/-- The instructions of format G by opcode (R191); JOB and JSTAT take their form from ML[0] (R174). -/
def gCtor (opc : Nat) (x : GForm) : Option Instr :=
  match opc with
  | 0x00 => some (.nop x)
  | 0x02 => some (.brx x)
  | 0x04 => some (.callx x)
  | 0x05 => some (.ret x)
  | 0x07 => some (.exit x)
  | 0x08 => some (.kill x)
  | 0x09 => some (.reform x)
  | 0x0A => some (.yield x)
  | 0x0B => some (.trap x)
  | 0x0C => some (.bkpt x)
  | 0x10 => some (.iadd x)
  | 0x11 => some (.isub x)
  | 0x12 => some (.imul x)
  | 0x13 => some (.imulh x)
  | 0x14 => some (.imad x)
  | 0x15 => some (.iaddc x)
  | 0x16 => some (.isubb x)
  | 0x17 => some (.imin x)
  | 0x18 => some (.imax x)
  | 0x19 => some (.iabs x)
  | 0x1A => some (.sel x)
  | 0x1B => some (.imadw x)
  | 0x1C => some (.rng x)
  | 0x20 => some (.and x)
  | 0x21 => some (.or x)
  | 0x22 => some (.xor x)
  | 0x23 => some (.not x)
  | 0x24 => some (.logt x)
  | 0x25 => some (.shl x)
  | 0x26 => some (.shr x)
  | 0x27 => some (.sar x)
  | 0x28 => some (.funl x)
  | 0x29 => some (.bfe x)
  | 0x2A => some (.bfi x)
  | 0x2B => some (.popc x)
  | 0x2C => some (.clz x)
  | 0x2D => some (.brev x)
  | 0x2E => some (.mov x)
  | 0x30 => some (.icmp x)
  | 0x31 => some (.fcmp x)
  | 0x32 => some (.plogt x)
  | 0x33 => some (.ppack x)
  | 0x34 => some (.punpk x)
  | 0x35 => some (.fkind x)
  | 0x40 => some (.lxch x)
  | 0x41 => some (.qxch x)
  | 0x42 => some (.qdd x)
  | 0x43 => some (.vote x)
  | 0x44 => some (.ballot x)
  | 0x45 => some (.matchLanes x)
  | 0x46 => some (.lfold x)
  | 0x47 => some (.scan x)
  | 0x48 => some (.xset x)
  | 0x50 => some (.fadd x)
  | 0x51 => some (.fmul x)
  | 0x52 => some (.ffma x)
  | 0x53 => some (.fmin x)
  | 0x54 => some (.fmax x)
  | 0x55 => some (.frnd x)
  | 0x56 => some (.frcp x)
  | 0x57 => some (.frsq x)
  | 0x58 => some (.fsqrt x)
  | 0x59 => some (.fex2 x)
  | 0x5A => some (.flg2 x)
  | 0x5B => some (.fsin x)
  | 0x5C => some (.fcos x)
  | 0x60 => some (.hadd2 x)
  | 0x61 => some (.hmul2 x)
  | 0x62 => some (.hfma2 x)
  | 0x63 => some (.hmin2 x)
  | 0x64 => some (.hmax2 x)
  | 0x65 => some (.vdot2 x)
  | 0x66 => some (.vdot4 x)
  | 0x70 => some (.cvt x)
  | 0x71 => some (.pack2 x)
  | 0x72 => some (.qhist x)
  | 0x73 => some (.qscale x)
  | 0x74 => some (.qclr x)
  | 0x75 => some (.qpack x)
  | 0x76 => some (.qdeq x)
  | 0x9A => some (.reply x)
  | 0x9B => some (.oend x)
  | 0xA0 => some (.bara x)
  | 0xA1 => some (.barw x)
  | 0xA2 => some (.bars x)
  | 0xA3 => some (.waitv x)
  | 0xA4 => some (.qsig x)
  | 0xA5 => some (.qwait x)
  | 0xB0 => some (.mma x)
  | 0xB1 => some (.mzero x)
  | 0xB2 => some (.mdrain x)
  | 0xB3 => some (.mtile x)
  | 0xB4 => some (if x.ml.getLsbD 0 then .jobGaffer x else .jobWave x)
  | 0xB5 => some (if x.ml.getLsbD 0 then .jstatGaffer x else .jstatWave x)
  | 0xC0 => some (.trace x)
  | 0xC1 => some (.sample x)
  | 0xC2 => some (.visr x)
  | 0xC3 => some (.pidld x)
  | 0xD0 => some (.umov x)
  | 0xD2 => some (.uadd x)
  | 0xD3 => some (.usub x)
  | 0xD4 => some (.umul x)
  | 0xD5 => some (.umad x)
  | 0xD6 => some (.ushl x)
  | 0xD7 => some (.ushr x)
  | 0xD8 => some (.uand x)
  | 0xD9 => some (.uor x)
  | 0xDA => some (.uxor x)
  | 0xDB => some (.ucmp x)
  | 0xDC => some (.usel x)
  | 0xDF => some (.ulaunch x)
  | 0xE0 => some (.csrr x)
  | 0xE1 => some (.csrw x)
  | 0xE2 => some (.winrd x)
  | 0xE3 => some (.winwr x)
  | 0xE4 => some (.tret x)
  | _ => none

/-- The immediate forms by opcode (R180, R191). -/
def iCtor (opc : Nat) (x : IForm) : Option Instr :=
  match opc with
  | 0x10 => some (.iaddImm x)
  | 0x11 => some (.isubImm x)
  | 0x12 => some (.imulImm x)
  | 0x13 => some (.imulhImm x)
  | 0x17 => some (.iminImm x)
  | 0x18 => some (.imaxImm x)
  | 0x1C => some (.rngImm x)
  | 0x20 => some (.andImm x)
  | 0x21 => some (.orImm x)
  | 0x22 => some (.xorImm x)
  | 0x25 => some (.shlImm x)
  | 0x26 => some (.shrImm x)
  | 0x27 => some (.sarImm x)
  | 0x2F => some (.movi x)
  | 0x30 => some (.icmpImm x)
  | 0x31 => some (.fcmpImm x)
  | 0x50 => some (.faddImm x)
  | 0x51 => some (.fmulImm x)
  | 0x53 => some (.fminImm x)
  | 0x54 => some (.fmaxImm x)
  | 0xD1 => some (.umovi x)
  | 0xD2 => some (.uaddImm x)
  | 0xD3 => some (.usubImm x)
  | 0xD4 => some (.umulImm x)
  | 0xD6 => some (.ushlImm x)
  | 0xD7 => some (.ushrImm x)
  | 0xD8 => some (.uandImm x)
  | 0xD9 => some (.uorImm x)
  | 0xDA => some (.uxorImm x)
  | 0xDB => some (.ucmpImm x)
  | _ => none

/-- The memory forms by opcode (R181). -/
def mCtor (opc : Nat) (x : MForm) : Option Instr :=
  match opc with
  | 0x80 => some (.ld x)
  | 0x81 => some (.st x)
  | 0x82 => some (.ldblk x)
  | 0x83 => some (.stblk x)
  | 0x84 => some (.pref x)
  | 0x85 => some (.cctl x)
  | 0x86 => some (.fence x)
  | 0x98 => some (.old x)
  | 0x99 => some (.ost x)
  | 0xDE => some (.uld x)
  | _ => none

/-- The method variants by opcode (R182). -/
def vCtor (opc : Nat) (x : VForm) : Option Instr :=
  match opc with
  | 0x90 => some (.atom x)
  | 0x91 => some (.red x)
  | 0x92 => some (.ocall x)
  | _ => none

/-- The control forms by opcode (R184). -/
def cCtor (opc : Nat) (x : CForm) : Option Instr :=
  match opc with
  | 0x01 => some (.bra x)
  | 0x03 => some (.call x)
  | 0x06 => some (.join x)
  | 0xDD => some (.ubra x)
  | _ => none

/-- The opcodes of each two-word form (R191): memory, method and control. -/
def isM (o : Nat) : Bool := (0x80 ≤ o && o ≤ 0x86) || o == 0x98 || o == 0x99 || o == 0xDE

@[inherit_doc isM]
def isV (o : Nat) : Bool := 0x90 ≤ o && o ≤ 0x92

@[inherit_doc isM]
def isC (o : Nat) : Bool := o == 0x01 || o == 0x03 || o == 0x06 || o == 0xDD

/-- The instruction that word 0 and, where it has one, word 1 spell, before the checks of R190. -/
def parse (w : Word) (x : Option Word) : Except Reject Instr :=
  let o := opcOf w
  let two (k : Word → Option Instr) : Except Reject Instr :=
    if wOf w then
      match x with
      | some x => match k x with
        | some i => .ok i
        | none => .error .opcode
      | none => .error .truncated
    else .error .oneWord
  if !assigned o then .error .opcode
  else if isM o then two fun x => mCtor o (mOf w x)
  else if isV o then two fun x => vCtor o (vOf w x)
  else if isC o then two fun x => cCtor o (cOf w x)
  else if (immCapable o || immOnly o) && w.getLsbD 2 then two fun x => iCtor o (iOf w x)
  else if immOnly o then .error .reserved
  else
    match wOf w, x with
    | true, none => .error .truncated
    | true, some x => match gCtor o (gOf w (some x)) with
      | some i => .ok i
      | none => .error .opcode
    | false, _ => match gCtor o (gOf w none) with
      | some i => .ok i
      | none => .error .opcode

/-- The static checks ONE_WORD, RESERVED and GUARD, in the order of R190. -/
def staticCheck (i : Instr) : Except Reject Instr :=
  if i.form.oneWord then .error .oneWord
  else if i.form.reserved then .error .reserved
  else if i.form.badGuard then .error .guard
  else .ok i

/-- Decoding of word 0 and, where there is one, the word after it (R190 orders 3 and 7 to 9). -/
def decode : List Word → Except Reject Instr
  | [] => .error .truncated
  | w :: rest =>
    match parse w rest.head? with
    | .ok i => staticCheck i
    | .error e => .error e

/-- Little-endian words of a byte list (R4); bytes that fill no word are dropped. -/
def wordsOfBytes : List Byte → List Word
  | b0 :: b1 :: b2 :: b3 :: rest => (b3 ++ b2 ++ b1 ++ b0 : BitVec 32) :: wordsOfBytes rest
  | _ => []

/-- Decoding from the bytes of memory. -/
def decodeBytes (bs : List Byte) : Except Reject Instr := decode (wordsOfBytes bs)

/-- The instruction the decoder reads from an instruction whose bits are `w`, numbered from bit 0 of the first
word, of a row of `nbits` bits; the bits above are zero. -/
def decodeTableWord (nbits w : Nat) : Option Instr :=
  let v := w % 2 ^ nbits
  match decode [BitVec.ofNat 32 v, BitVec.ofNat 32 (v / 2 ^ 32)] with
  | .ok i => some i
  | .error _ => none

/-! ## The encoder -/

/-- Bit `b` as a field of one bit. -/
abbrev flag (b : Bool) : BitVec 1 := BitVec.ofBool b

/-- The general word 1 (R179). -/
def w1Bits (x : W1) : Word :=
  x.c ++ flag x.lrc ++ x.gp ++ flag x.gn ++ x.la ++ x.xa ++ x.xb ++ x.xc ++ x.mh

/-- Word 0 (R177). -/
def w0Bits (opc : Nat) (w : Bool) (d a b : BitVec 6) (lra lrb : Bool) (ml : BitVec 3) : Word :=
  BitVec.ofNat 8 opc ++ flag w ++ d ++ a ++ b ++ flag lra ++ flag lrb ++ ml

/-- The words of an instruction, written from R177 to R184; a step of the part has none. -/
def encode (i : Instr) : List Word :=
  match i.form with
  | .g o x => match x.w1 with
    | none => [w0Bits o false x.d x.a x.b x.lra x.lrb x.ml]
    | some w => [w0Bits o true x.d x.a x.b x.lra x.lrb x.ml, w1Bits w]
  | .i o x => [w0Bits o true x.d x.a x.mh x.lra x.lrb ((1 : BitVec 1) ++ x.ml), x.imm]
  | .m o x => [w0Bits o true x.d x.a x.b x.lra x.lrb x.ml,
      x.ofs ++ x.gp ++ flag x.gn ++ x.la ++ x.scope ++ x.ord ++ x.space ++ x.pol]
  | .v o x => [w0Bits o true x.d x.a x.b x.lra x.lrb x.ml,
      x.method ++ x.ofs ++ x.gp ++ flag x.gn ++ x.la ++ x.scope ++ x.ord ++ x.space ++ x.pol]
  | .c o x => [BitVec.ofNat 8 o ++ flag true ++ x.ofs, x.rsv ++ x.gp ++ flag x.gn ++ x.kind ++ x.aux]
  | .step => []

/-- The bytes of an instruction as memory holds them (R4). -/
def encodeBytes (i : Instr) : List Byte :=
  (encode i).flatMap fun w => [w.extractLsb' 0 8, w.extractLsb' 8 8, w.extractLsb' 16 8, w.extractLsb' 24 8]

end Sys2Proof
end

