-- ==== Sys2Proof/Machine/WaveState.lean ====
section
/-! DEFINITION. The state of waves, parisons and blocks: what a partition, the gaffer and the core store hold for the
work resident on a core (R33, R36 to R39, R149, R163, R173, R188, R341, R351). -/

namespace Sys2Proof.Machine

/-! ## Causes (R338, R341) -/

/-- The trap causes and stop reasons of R338. -/
inductive Cause
  | pipeline | ecc | translation | protection | cls | quota | format | illegal | object | engine | trap | bkpt
  | preempt | step | halt
  deriving DecidableEq, Repr

/-- The subcauses of R399. -/
inductive Sub
  | none | notPresent | homeAbsent | homeRemote | scratchRange | cohortRange | weightRange | protRead | protWrite
  | protExec | bankOwner | bankUndeclared | paRange | misaligned | remoteRefused | classStore | classObject
  | classBlock | classToken | quotaFrame | pteReserved | pteLevel | pteSize | pteHome | pteAlign | pteCombo
  | blkFormat | blkOperand | barFormat | barLimit | trvDesc | trvRef | trvNest | trvDepth | sampDesc | tileName
  | header | clauseSplit | opcode | privileged | context | wrongClass | oneWord | reserved | guard | name | pattern
  | target | divergeU | lookahead | window | objAlign | descInvalid | entryAbsent | stateRange | stepLimit | diverge
  | eccCrucible | pipelineCrucible | cardFormat | footprint | wsSelf | jobHandle | graphHandle | graphUnderflow
  | residue | parity | decision | eccReg | eccCoreStore | eccAccum | eccWeight | eccL2 | eccDram | bkptOrdinal
  | refuseHome | refuseRa | refuseRights | refuseFirmware | ckptNoroom | snapNoroom | migNoroom
  deriving DecidableEq, Repr

/-- A pending cause, the fields of the cause record of R341. -/
structure CauseRec where
  cause : Cause
  sub : Sub
  slot : Nat := 0
  gaffer : Bool := false
  precise : Bool := false
  held : Bool := false
  ovf : Bool := false
  mask : Word := 0
  ea : DWord := 0
  wofs : Nat := 0
  ord : Nat := 0
  detail : Nat := 0
  ctx : Nat := 0
  image : Nat := 0
  deriving DecidableEq, Repr

/-! ## Counters and stalls -/

/-- The six counters of R173. -/
inductive Ctr | ldc | stc | enc | mxc | txc | obc
  deriving DecidableEq, Repr

/-- The values of the six counters, each 6 bits. -/
structure Counters where
  ldc : BitVec 6 := 0
  stc : BitVec 6 := 0
  enc : BitVec 6 := 0
  mxc : BitVec 6 := 0
  txc : BitVec 6 := 0
  obc : BitVec 6 := 0
  deriving DecidableEq, Repr

/-- The stall reasons of R360, in code order. -/
inductive Stall
  | issued | idle | other | fetch | count | lookahead | port | decision | catchup | memory | wsrefresh | fence | barrier
  | yield | waitv | token | object | engine | matrix | slot | fill | parked | stopped | held
  deriving DecidableEq, Repr

/-! ## Forms (R150, R153) -/

/-- A form: the value BASE + SX·x + SY·y + SZ·z of the item at (x, y, z). -/
structure Aff where
  base : Word
  sx : Word
  sy : Word
  sz : Word
  deriving DecidableEq, Repr

/-- The predicate map of a parison: uniform, or true on the interval of one dimension (0 x, 1 y, 2 z). -/
inductive PBind
  | uni (v : Bool)
  | range (d : Nat) (lo hi : Nat)
  deriving DecidableEq, Repr

/-- A box of items, bounds inclusive (R149). -/
structure Box where
  x0 : Nat
  x1 : Nat
  y0 : Nat
  y1 : Nat
  z0 : Nat
  z1 : Nat
  deriving DecidableEq, Repr

/-- What a vector name is bound to (R157): nothing, a slot of the core's form file, a physical register of 32 lanes, or
a register of a saved record that has not been filled yet, with its lanes (R346). -/
inductive VBind
  | undef
  | form (slot : Nat)
  | phys (lanes : List Word)
  | absent (lanes : List Word)
  deriving DecidableEq, Repr

/-! ## Positions and splits -/

/-- Where a split or a gaffer stands. `ord` is the ordinal of its open region's entry, `hofs` the word offset of its
clause header; `inside` says that the clause has been entered, and then `hdr` is its header word and `pc` the word
offset of the next instruction. `run` counts the words of the current run (R176). -/
structure Pos where
  ord : Nat := 0
  hofs : Nat := 0
  hdr : Word := 0
  inside : Bool := false
  pc : Nat := 0
  run : Nat := 0
  deriving DecidableEq, Repr

/-- Why a split is parked: at a JOIN, under the join record of that index, or at a REFORM (R161, R165). -/
inductive Park
  | join (rec : Nat)
  | reform
  deriving DecidableEq, Repr

/-- What a split or gaffer waits for: the scheduler-visible waits of R170, and the waits of fences and of releases
before an access (R90). A wait ends when the event that meets it clears it. -/
inductive Wait
  | none
  | yieldRuns (others : List WaveId)
  | yieldCount (c : Ctr) (n : Nat)
  | barrier
  | location
  | token
  | fence (d p : Nat)
  | snapshot
  deriving DecidableEq, Repr

/-- A split: position, active mask, innermost join record, flags of R349, wait and stall reason, and the lookahead
windows still open: operations in flight with the instructions each still lets issue (R186); `freed` are the names that its open region
has read for the last time, with what they held, which a return to the region's entry brings back (R337); `stepOff` marks one that stands
at the safe point its lane-focus step leaves from (R359). -/
structure Split where
  pos : Pos := {}
  act : Word := 0
  inner : Option Nat := none
  parked : Option Park := none
  deferred : Bool := false
  precise : Bool := false
  wait : Wait := .none
  stall : Stall := .issued
  ahead : List (Nat × Nat) := []
  passBk : Bool := false
  stepOff : Bool := false
  freed : List (Nat × List Word) := []
  deriving DecidableEq, Repr

/-- A join record (R163, R349). -/
structure JoinRec where
  id : Nat
  rejoin : Word
  arrived : Word
  encl : Option Nat
  deriving DecidableEq, Repr

/-! ## Operations in flight (R173, R186) -/

/-- The spaces an address can name (R10). -/
inductive Space | glb | scratch | cohort | weight
  deriving DecidableEq, Repr

/-- The orders of R91. -/
inductive Ord | relaxed | acquire | release | acqRel
  deriving DecidableEq, Repr

/-- The scopes of R79. -/
inductive Scope | lane | core | die | pair | sys
  deriving DecidableEq, Repr

/-- Where an access lands: a home's memory at a physical address, a core's scratch granules, a weight bank. -/
inductive Place
  | mem (home : Home) (pa : Nat)
  | scratch (b : BlockRef) (ofs : Nat)
  | weight (d : Die) (ofs : Nat)
  deriving DecidableEq, Repr

/-- The page classes (R19, R83). -/
inductive PClass | readShared | priv | coherent | object
  deriving DecidableEq, Repr

/-- One lane's request: where it lands, the leaf that translated it, its bytes, and what its reply brought, an uncorrectable error of
the data among it (R402). -/
structure LaneReq where
  lane : Nat
  va : Nat
  place : Place
  leaf : DWord := 0
  size : Nat
  data : List Byte := []
  arg : List Word := []
  reply : List Word := []
  status : Nat := 1
  sent : Bool := false
  done : Bool := false
  flaw : Option Sub := none
  deriving DecidableEq, Repr

/-- What an operation in flight does; `walk` is an access that waits for the page walker, counted but not yet made (R24): its `reqs`
are empty, its `walks` what it waits for; `shadow` is what a cut leaves the other part of an operation of the part that issued it: of
a job (1), of a store or write-back (3), of another access (2), or of none of these (0); it ends with that operation (R154). -/
inductive OpKind
  | load (pol : Nat) | store | atomic (meth : Nat) (w64 : Bool) (red : Bool) | ocall (method : Nat) | cctl (k : Nat)
  | fpFunction | mdrain (amx : Bool) | trace | sample | pidld | visr | mma | mzero | job (n : Nat) | uld | qsig
  | barrier (r : BlockRef) (ofs phase : Nat) (own : Bool) | waitv | qwait | walk | shadow (k : Nat)
  deriving DecidableEq, Repr

/-- An operation in flight: the counter it is counted on, the position that issued it (R402), its destinations, the
lanes that execute it, its requests, uniform operands it keeps, and the values it will write, per lane; `pos` is where the gaffer
stood when it issued it (R340), `kept` the slots of the form file that a parison's wait keeps for its result (R33). -/
structure Op where
  id : Nat
  kind : OpKind
  ctr : Option Ctr
  slot : Nat := 0
  wofs : Nat := 0
  ord : Nat := 0
  vdst : List Nat := []
  sdst : List Nat := []
  mask : Word := 0
  scope : Scope := .lane
  order : Ord := .relaxed
  reqs : List LaneReq := []
  args : List Word := []
  results : List (Nat × List Word) := []
  gd : Nat := 0
  gp : Nat := 0
  ready : Bool := false
  walks : List WalkReq := []
  pos : Pos := {}
  kept : List Nat := []
  deriving DecidableEq, Repr

/-! ## Waves -/

/-- What a wave is doing (R337, R343): running, stopping or stopped for the causes it holds, bound to a handler, held
for the debugger, parked at REFORM with its registers released. -/
inductive WStatus | running | stopped | held | ended
  deriving DecidableEq, Repr

/-- A wave (R33, R157, R163, R188, R348). `consumedAt` is the id the next operation had when the wave consumed its last
decision (R159); `synced` and `endTraced` say which trace records it has written (R361). -/
structure Wave where
  par : Option ParId := none
  block : Option BlockRef := none
  ctx : Nat := 0
  image : Nat := 0
  role : Nat := 0
  number : Nat := 0
  allot : Nat := 64
  prio : Nat := 0
  age : Nat := 0
  live : Word := 0xFFFFFFFF
  helper : Word := 0
  items : List (Word × Word × Word) := []
  vmap : List VBind := List.replicate 64 .undef
  preds : List Word := List.replicate 24 0
  xpat : List Byte := List.replicate 7 0
  sreg : List Word := List.replicate 64 0
  slots : List (Option Split) := List.replicate 4 none
  pend : List Split := []
  joins : List (Option JoinRec) := List.replicate 31 none
  ctr : Counters := {}
  ops : List Op := []
  gwd : Nat := 0
  gwp : Nat := 0
  causes : List CauseRec := []
  status : WStatus := .running
  stopWhy : List Cause := []
  dcons : Nat := 0
  consumedAt : Nat := 0
  runsIssued : Nat := 0
  stepLane : Option Nat := none
  stepSlot : Nat := 0
  synced : Bool := false
  endTraced : Bool := false
  replyRegs : List (List Word) := []
  deriving DecidableEq, Repr

/-! ## Parisons -/

/-- The modes of a parison (R149). -/
inductive PMode | form | blown | waitJoin | ended
  deriving DecidableEq, Repr

/-- A decision of the gaffer (R158): the clause's word offset, the outcome of its UBRA, and the names it wrote. -/
structure Decision where
  wofs : Nat
  outcome : Option Bool
  next : Nat
  sregs : List (Nat × Word)
  forms : List (Nat × Nat)
  deriving DecidableEq, Repr

/-- A parison (R149, R158, R350). `due` is the UNI clause whose decision is still to be pushed, `outcome` that of its
UBRA, `wroteS` the uniform registers it wrote. -/
structure Parison where
  block : BlockRef
  ctx : Nat := 0
  image : Nat := 0
  role : Nat := 0
  prio : Nat := 0
  allot : Nat := 64
  box : Box
  mode : PMode := .form
  pos : Pos := {}
  nmap : List (Option Nat) := List.replicate 64 none
  pmap : List PBind := List.replicate 24 (.uni false)
  xpat : List Byte := List.replicate 7 0
  cuts : List (Nat × Nat) := []
  queue : List Decision := []
  pushed : Nat := 0
  stopped : Bool := false
  sreg : List Word := List.replicate 64 0
  ctr : Counters := {}
  ops : List Op := []
  gwd : Nat := 0
  gwp : Nat := 0
  causes : List CauseRec := []
  status : WStatus := .running
  stopWhy : List Cause := []
  wait : Wait := .none
  stall : Stall := .issued
  ahead : List (Nat × Nat) := []
  wroteS : List Nat := []
  due : Option Nat := none
  outcome : Option Bool := none
  holes : Bool := false
  joinId : Nat := 0
  precise : Bool := false
  passBk : Bool := false
  deriving DecidableEq, Repr

/-! ## Blocks (R36 to R39, R70, R272, R289, R351) -/

/-- An accumulator tile: the physical tile its name maps to, the flags of its state word (R38) and its body, row-major,
empty while ZERO. -/
structure Tile where
  phys : Nat
  zero : Bool := true
  poison : Bool := false
  dirty : Bool := false
  body : List Word := []
  deriving DecidableEq, Repr

/-- A histogram unit (R70). -/
structure Hist where
  bins : List Word := List.replicate 32 0
  base : Byte := 0xF0
  deriving DecidableEq, Repr

/-- A barrier object of a block with arrivals in its phase (R272): where it stands, whether it counts live items, who has
arrived and whether with .RB, and the form-mode parisons captured at such an arrival, with their forms (R363); `items` is how many
live items its block had when it was last tested. -/
structure BarTrack where
  ofs : Nat
  live : Bool
  items : Nat := 0
  arrivals : List (AgentId × Bool) := []
  caps : List (ParId × Parison × List (Nat × Aff)) := []
  deriving DecidableEq, Repr

/-- One visibility slot of a bound block: its entries (ID, DEPTH) by position, rising, the cleared ones not listed
(R289). -/
structure VSlot where
  cells : List (Nat × Word × Word) := []
  deriving DecidableEq, Repr

/-- A resident block; `slots` are the core's four visibility slots while they are bound to it, else empty (R289); `rsv` lists the wave slots
reserved for it, as role, partition and slot (R156, R329); `stopped` says that it is being pre-empted, `waiter` that this is in
favour of blocks of its launch that wait for residency (R170); `snapDue` the
waves a snapshot under way waits for and `snapPars` the parisons it has captured (R363), `gd` and `gp` the write
completion times of its ended waves (R98), `snapNo` counts snapshots, `failsSince` the rollbacks since the latest
(R365). -/
structure Block where
  launch : Nat
  ctx : Nat
  queue : Nat
  lseq : Word := 0
  bindex : Nat
  origin : Word × Word × Word := (0, 0, 0)
  extent : Nat × Nat × Nat := (1, 1, 1)
  place : Nat × Nat := (0, 0)
  cohort : Nat × Nat := (0, 0)
  ngran : Nat := 0
  gmap : List Nat := []
  scratch : List Host.Cell := []
  tiles : List Tile := []
  hists : List Hist := []
  bars : List BarTrack := []
  slots : List VSlot := []
  irrev : Bool := false
  errs : Nat := 0
  w0 : Nat := 0
  rsv : List (Nat × Nat × Nat) := []
  quad : Bool := false
  stopped : Bool := false
  waiter : Bool := false
  snapDue : Option (List WaveId) := none
  snapPars : List (ParId × Parison × List (Nat × Aff)) := []
  gd : Nat := 0
  gp : Nat := 0
  snapNo : Nat := 0
  failsSince : Nat := 0
  deriving DecidableEq, Repr

/-- A saved block with its parisons and waves (R345, R347), the die that holds it, the forms its parisons name, the block
slot it had, and whether it was saved in favour of blocks of its launch that wait for residency (R170). -/
structure Saved where
  id : Nat
  die : Die
  blk : Block
  pars : List (ParId × Parison)
  waves : List (WaveId × Wave)
  forms : List (Nat × Aff)
  bslot : Nat := 0
  waiter : Bool := false
  deriving DecidableEq, Repr

end Sys2Proof.Machine
end

