-- ==== Sys2Proof/Machine/FirmState.lean ====
section
/-! DEFINITION. The state firmware and the dispatcher keep: contexts, images, queues, graph tables, launches, page
moves, checkpoints and the debugger's settings (R27, R30, R133, R141 to R143, R197, R315 to R334, R357). -/

namespace Sys2Proof.Machine

/-- Memory: (address, byte) pairs with strictly rising addresses, none of which holds the byte an unlisted address
reads as. -/
abbrev Memory := List Host.Cell

/-! ## Images (R195 to R198) -/

/-- A safe point: the finalised offset of its clause header, its frit offset and its live maps. -/
structure SafePoint where
  wofs : Nat
  fwofs : Nat
  vlive : Nat
  slive : Nat
  plive : Nat
  deriving DecidableEq, Repr

/-- Why the lehr rejects an image (R200). -/
inductive LehrReason
  | container | decode | schedBits | context | target | region | uniform | reform | undef | method | entry
  deriving DecidableEq, Repr

/-- An entry record (R196, R198). -/
structure Entry where
  wofs : Nat
  fwofs : Nat := 0
  scratch : Nat := 0
  tiles : Nat := 0
  cohort : Nat := 0
  banks : Nat := 0
  maxv : Nat := 0
  hist : Nat := 0
  deriving DecidableEq, Repr

/-- A finalised image of a context. -/
structure Image where
  id : Nat
  va : Nat
  objMethod : Bool := false
  codew : Nat
  dataVa : Nat
  sps : List SafePoint
  entries : List Entry
  deriving DecidableEq, Repr

/-! ## Queues, graphs and launches (R315 to R330) -/

/-- A queue descriptor (R315). -/
structure QDesc where
  ring : Nat := 0
  rwords : Nat := 256
  seq0 : Word := 0
  cring : Nat := 0
  centries : Nat := 16
  place : Nat := 0
  priocap : Nat := 0
  stateVa : Nat := 0
  deriving DecidableEq, Repr

/-- A completion record firmware holds because the ring is full, or has yet to write, with the member and the pair time of the
completion (R320). -/
structure Completion where
  seq : Word
  status : Nat
  replayed : Bool := false
  die : Die := .kapael
  time : Nat := 0
  deriving DecidableEq, Repr

/-- The states of a graph node within a run (R352). -/
inductive NodeState | waiting | launched | completed
  deriving DecidableEq, Repr

/-- A node of a graph table (R326). -/
structure GNode where
  desc : List Word
  initPred : Nat
  succ : List Nat
  count : Nat := 0
  state : NodeState := .waiting
  deriving DecidableEq, Repr

/-- A resident graph table; `run` is the packet of the active run: its sequence number and COMPL (R326); `later` is what the driver has
loaded in its place since the checkpoint whose run goes on (R146), no node at all when it was unloaded. -/
structure GTable where
  num : Nat
  nodes : List GNode
  run : Option (Word × Bool) := none
  gates : List (Nat × Nat) := []
  fault : Bool := false
  later : Option (List GNode) := none
  deriving DecidableEq, Repr

/-- A queue: descriptor, doorbell words, firmware's position (R317), shadow registers, pending TWAITs, held completion
records, graph tables. `running` lists packets consumed and not completed, `done` those completed since the latest
committed checkpoint, `replays` those completed before a loss that will run again (R146); `bell` says that firmware has
taken a doorbell it has not finished with, `locked` that a handler holds the ordering lock (R328); `owed` lists stores of the state
block that a page being moved holds up, oldest first, each with its offset. -/
structure Queue where
  desc : QDesc := {}
  mgmt : Bool := false
  wptr : Nat := 0
  crptr : Nat := 0
  rptr : Nat := 0
  cseq : Word := 0
  cwptr : Nat := 0
  status : Nat := 0
  sh : List Word := List.replicate 32 0
  twaits : List (Nat × Nat) := []
  held : List Completion := []
  tables : List GTable := []
  waitGraph : List (Nat × Word × Bool × List (Nat × Nat)) := []
  running : List Word := []
  bell : Bool := false
  locked : Bool := false
  done : List Word := []
  replays : List Word := []
  owed : List (Nat × List Byte) := []
  deriving DecidableEq, Repr

/-- A launch: its packet, its descriptor words sh0 to sh31, how many blocks it has admitted and how many have ended, its
gates (token and count) with the GWCT_DIE, GWCT_PAIR and PLACE read once they were met, its ticket, the cores that ran
blocks with their largest write completion times (R98), since when the dispatcher has passed it over, and its reservation
(R330). `cancelled` launches admit nothing more and complete with `status`; `signalled` says that the completion token has been
signalled. -/
structure Launch where
  id : Nat
  ctx : Nat
  queue : Nat
  seq : Word
  compl : Bool
  barrier : Bool
  node : Option (Nat × Nat) := none
  desc : List Word
  image : Nat
  die : Die
  prio : Nat
  ticket : Nat
  nextB : Nat := 0
  ended : Nat := 0
  gates : List (Nat × Nat) := []
  gatesMet : Bool := false
  gateToks : List (Nat × Nat × Nat) := []
  status : Nat := 0
  cancelled : Bool := false
  cores : List (CoreRef × Nat × Nat) := []
  passedAt : Option Nat := none
  reserved : List Nat := []
  reservedAt : Option Nat := none
  signalled : Bool := false
  snapva : Nat := 0
  deriving DecidableEq, Repr

/-! ## Contexts (R27 to R30, R141 to R143, R344, R357) -/

/-- The fields of a context descriptor (R27). -/
structure CtxDesc where
  root : Nat := 0
  rkey : BitVec 48 := 0
  leaseDie : Nat := 0
  leasePair : Nat := 0
  quotaK : Nat := 0
  quotaA : Nat := 0
  budget : Nat := 0
  period : Nat := 0
  banks : Nat := 0
  tileq : Nat := 0
  restart : Bool := false
  moveth : Nat := 0
  mirror : Nat := 0
  objimg : Nat := 0
  snapva : Nat := 0
  faultq : Nat := 0
  rsgen : Nat := 0
  deriving DecidableEq, Repr

/-- A frame firmware allocated to a context: member, physical address, size in bytes. -/
structure Frame where
  die : Die
  pa : Nat
  size : Nat
  deriving DecidableEq, Repr

/-- The stages of a page move (R133). -/
inductive MoveStage | wanted | asked | draining | streaming | done
  deriving DecidableEq, Repr

/-- A move of a page's home in progress (R133, R134). -/
structure PageMove where
  ctx : Nat
  va : Nat
  size : Nat
  src : Die
  dst : Die
  stage : MoveStage
  oldPa : Nat
  newPa : Nat := 0
  sent : Nat := 0
  deriving DecidableEq, Repr

/-- A page whose move has ended and whose waiting accesses are still to be served at the new home: the agents that the move held (R132,
R133). -/
structure Settling where
  ctx : Nat
  va : Nat
  size : Nat
  agents : List AgentId
  deriving DecidableEq, Repr

/-- A granule saved in the mirror reserve or the undo log: its address, where it stood and its bytes (R141, R143). -/
structure GranuleCopy where
  va : Nat
  home : Home
  pa : Nat
  size : Nat
  cells : List Host.Cell
  deriving DecidableEq, Repr

/-- A page table as a context record carries it (R352): level, where it stood, entries. -/
structure TableCopy where
  level : Nat
  pa : Nat
  entries : List DWord
  deriving DecidableEq, Repr

/-- A job of the die's scheduler (R303 to R306); `step` is the first step it has still to perform. -/
structure Job where
  id : Nat
  ctx : Nat
  seq : Nat
  cardVa : Nat
  card : List Byte
  issuer : AgentId
  launch : Nat
  opId : Nat
  ticket : Nat
  started : Bool := false
  fault : Option (Sub × Nat) := none
  performed : Bool := false
  step : Nat := 0
  waiting : Bool := false
  signalled : Bool := false
  gd : Nat := 0
  gp : Nat := 0
  deriving DecidableEq, Repr

/-- The stages of a checkpoint (R142, R144): the context's work is being stopped; its pieces are on their way; it has been
abandoned, after its work had been asked to stop or not. -/
inductive CkptStage | stopping | sending | failed
  deriving DecidableEq, Repr

/-- A checkpoint (R142): number, queues and launches as they stood, block records with those of snapshots, page tables, the
pages of RST homed on Amdukor with their leaves, granules, and the jobs that had not completed with their dies (log entry 97). `packets` lists the CKPT packets that wait for it (queue,
SEQ, COMPL), `recBytes` what its record pieces take, `pieces` and `got` count the pieces sent and received. -/
structure Checkpoint where
  num : Nat
  stage : CkptStage := .stopping
  resident : Die := .kapael
  queues : List (Nat × Queue) := []
  launches : List Launch := []
  blocks : List Saved := []
  snaps : List Saved := []
  tables : List TableCopy := []
  pages : List (Nat × DWord) := []
  granules : List GranuleCopy := []
  jobs : List (Die × Job) := []
  packets : List (Nat × Word × Bool) := []
  recBytes : Nat := 0
  pieces : Nat := 0
  got : Nat := 0
  deriving DecidableEq, Repr

/-- An undo epoch: the granules as they stood when it was opened, and the frames of pages that have moved away, each with
its page's address (R143). `leaves` are the ranges whose leaves firmware has changed in the epoch and that a rewind leaves changed, each with
the leaves of its pages: moves of pages without RST, and the driver's services (R133, R146). -/
structure Epoch where
  num : Nat
  copies : List GranuleCopy := []
  frames : List (Nat × Frame) := []
  leaves : List (Nat × Nat × List (Nat × DWord)) := []
  deriving DecidableEq, Repr

/-- A migration of a context (R354, R355): none; wanted; its work is being stopped; its records are on their way; the receiver has its
tables and restores its blocks, none of which runs before all stand there (R356). -/
inductive Mig
  | none
  | due (dst : Die)
  | stopping (dst : Die)
  | sent (dst : Die)
  | arriving (dst : Die)
  deriving DecidableEq, Repr

/-- What Kapael keeps of a context until Amdukor reports every block restored (R354 step 5): the root and the tables, and the launches and
snapshot records that went, as they stood. -/
structure Kept where
  root : Nat
  tables : List TableCopy
  launches : List Launch
  snaps : List Saved
  deriving DecidableEq, Repr

/-- An ordinal breakpoint (R358). -/
structure Breakpoint where
  slot : Nat
  image : Nat
  ord : Nat
  deriving DecidableEq, Repr

/-- The debugger's settings of a context (R357 to R361); `owedS` and `owedT` are the samples and trace records that a page being moved keeps
out of their rings, oldest first, each with the die it comes from. -/
structure Debug where
  enable : Bool := false
  faultHold : Bool := false
  sample : Bool := false
  k : Nat := 0
  trace : Bool := false
  sampleVa : Nat := 0
  sampleBytes : Nat := 0
  traceVa : Nat := 0
  traceBytes : Nat := 0
  traceLost : Nat := 0
  owedS : List (Die × List Byte) := []
  owedT : List (Die × List (List Byte)) := []
  breaks : List Breakpoint := []
  deriving DecidableEq, Repr

/-- A context. `lease` of the descriptor in force, the descriptor's fields that take effect at the next launch start
(R29), and everything firmware counts for it: `charge` is the running total of its time in core-nanoseconds, `shareK` and
`shareA` what a die has still to report (R334); `mig` is its migration, `inbox` what has arrived of its records,
`migAt` when it is tried again after its records found no room; `mirrorNext`
is the MIRROR that the next checkpoint takes, `mirror` the last committed checkpoint, `ckpt` the one under way, `ckptAgain`
the CKPT packets that wait for the next; `lastCommit` is when the latest ended; `rstWas` holds the RST bit of
each page at the latest capture (R141); `kept` is what Kapael keeps of a context that is arriving on Amdukor; `lost` is set
when the context's tables were lost with Amdukor, to the leaves homed elsewhere that firmware still knows (log entry 100); `snapUsed` says how far each snapshot region is filled (R363,
log entry 7). -/
structure Context where
  num : Nat
  desc : CtxDesc
  pendingDesc : Option CtxDesc := none
  mirrorNext : Option Nat := none
  resident : Die := .kapael
  ended : Option Nat := none
  images : List Image := []
  frames : List Frame := []
  usedK : Nat := 0
  usedA : Nat := 0
  dbg : Debug := {}
  created : Nat := 0
  charge : Nat := 0
  shareK : Nat := 0
  shareA : Nat := 0
  periodNo : Nat := 0
  heldBudget : Bool := false
  mig : Mig := .none
  inbox : List Byte := []
  migAt : Nat := 0
  ckptMs : Nat := 50
  lastCommit : Nat := 0
  nextCkpt : Nat := 1
  adopted : Nat := 0
  mirror : Option Checkpoint := none
  ckpt : Option Checkpoint := none
  epochs : List Epoch := []
  dirty : List (Nat × Nat) := []
  dirtyAll : Bool := true
  rstWas : List (Nat × Bool) := []
  kept : Option Kept := none
  lost : Option (List (Nat × DWord)) := none
  jobSeqK : Nat := 0
  jobSeqA : Nat := 0
  engFaultsK : Nat := 0
  engFaultsA : Nat := 0
  ckptNow : Bool := false
  ckptAgain : List (Nat × Word × Bool) := []
  snapUsed : List (Nat × Nat) := []
  faults : List (Nat × Die × List Byte) := []
  deriving DecidableEq, Repr

/-! ## The firmware pool (R313, R328) -/

/-- An event of a die's firmware queue (R328). -/
inductive FwEvent
  | doorbell (q : QueueRef)
  | mgmtDoorbell
  | trap (w : WaveId) (ctx queue : Nat)
  | trapPar (p : ParId) (ctx queue : Nat)
  | retrySave (b : BlockRef) (at_ : Nat)
  deriving DecidableEq, Repr

/-- What firmware or an engine makes an access for: a queue and its packets, the tokens of a launch, a job, the rings of a context, a
scan-out head, an access of the host by its address, the snapshot of a block; or a wait
that an agent has in memory. -/
inductive FwWho
  | queue (q : Option QueueRef)
  | launch (id : Nat)
  | job (id : Nat)
  | ring (ctx : Nat)
  | head (h : Nat)
  | host (va : Nat)
  | block (b : BlockRef)
  | agent (a : AgentId)
  deriving DecidableEq, Repr

/-- Who makes an access of firmware or an engine, and the die it is made on. -/
structure FwBy where
  die : Die
  who : FwWho
  deriving DecidableEq, Repr

/-- A firmware access that is held for a page or for an entry on its way, by the 4 KiB it is in; `fault` is what it ends at: a refusal of
the move it was held for (R30), or of the walk (R140). -/
structure FwWait where
  by_ : FwBy
  ctx : Nat
  va : Nat
  acc : Access
  fault : Option Sub := none
  deriving DecidableEq, Repr

/-- What a firmware core's trap window is bound to (R313). -/
inductive Bound
  | none
  | wave (w : WaveId)
  | par (p : ParId)
  deriving DecidableEq, Repr

/-- A firmware core: whether a handler wave runs on it, that wave, and its window (R313, R328). -/
structure FwCore where
  busy : Bool := false
  wave : Wave := {}
  window : Bound := .none
  deriving DecidableEq, Repr

end Sys2Proof.Machine
end

