-- ==== Sys2Proof/Machine/DieState.lean ====
section
/-! DEFINITION. The state of a die outside its waves and firmware tables: L1 lines, TLB entries, home line tags,
crucibles, marvers, the job scheduler, the blowpipe, boot and lifetime records, and the scan-out heads (R24, R35, R46,
R48, R86, R102, R109, R117, R132, R136 to R140, R299, R303, R385 to R396). -/

namespace Sys2Proof.Machine

/-! ## Caches and translation -/

/-- A line in a core's L1 (R35, R83): its virtual address and the leaf that translated it, its lease end, ownership and
data; `keep` is that of a line filled as the last victim of its set (R183). -/
structure L1Line where
  core : Nat
  line : LineRef
  ctx : Nat
  va : Nat
  leaf : DWord
  le : Nat := 0
  owned : Bool := false
  dirty : Bool := false
  keep : Bool := false
  data : List Byte
  deriving DecidableEq, Repr

/-- A TLB entry (R24): `core` is none in the die TLB; the leaf word and the physical address of the entry it was
read from. -/
structure TlbEntry where
  core : Option Nat
  ctx : Nat
  base : Nat
  size : Nat
  leaf : DWord
  entryPa : Nat
  deriving DecidableEq, Repr

/-- A table-pointer entry of the walk cache (R24): the level it stands at, the bits of the virtual address from that level's index up,
and the base of the table it points to. -/
structure WalkPtr where
  ctx : Nat
  level : Nat
  key : Nat
  base : Nat
  deriving DecidableEq, Repr

/-- What has come of a request to the page walker (R22): it waits for the walker, it is held on MV, or its walk ended at
a fault, with the level. -/
inductive WalkSt
  | pending
  | held
  | fault (sub : Sub) (level : Nat)
  deriving DecidableEq, Repr

/-- A core that ownership of a line is to be granted to (R88, R104), with the context, address and leaf of the access it asked by. -/
structure Grant where
  core : Nat
  ctx : Nat
  va : Nat
  leaf : DWord
  deriving DecidableEq, Repr

/-- A home's tag of a line that its slice holds: lease ends of either member, owner and contention record, the core that ownership will
be granted to once the leases have ended, and whether the slice's copy has been written since it was filled (R46, R51, R88, R102,
R104). -/
structure LineTag where
  home : Home
  la : Nat
  leK : Nat := 0
  leA : Nat := 0
  owner : Option Nat := none
  cnt : Nat := 0
  lastreq : Nat := 0
  lastt : Nat := 0
  old : Bool := true
  grantTo : Option Grant := none
  dirty : Bool := false
  deriving DecidableEq, Repr

/-- The fold register of an L2 set (R48). -/
structure FoldReg where
  slice : Nat
  set : Nat
  leK : Nat := 0
  leA : Nat := 0
  deriving DecidableEq, Repr

/-- The access counters of a page (R132). -/
structure AccCount where
  ctx : Nat
  base : Nat
  k : Nat := 0
  a : Nat := 0
  deriving DecidableEq, Repr

/-! ## Crucibles (R108 to R125) -/

/-- What requests must share to stand in one bundle (R108). -/
inductive BatchKey
  | line (l : LineRef) (meth : Nat) (w64 : Bool)
  | object (l : LineRef) (slotPa : Nat) (meth : Nat)
  deriving DecidableEq, Repr

/-- A request of a bundle: lane, physical address, argument words. -/
structure BReq where
  lane : Nat
  pa : Nat
  va : Nat
  args : List Word
  leaf : DWord
  deriving DecidableEq, Repr

/-- A bundle (R108): who sent it, its operation, or the tag of the message that carried it; `alone` says that it is to be a batch of its
own (R104). -/
structure Bundle where
  agent : AgentId
  op : Nat
  die : Die
  core : Nat
  ctx : Nat
  key : BatchKey
  reqs : List BReq
  tag : Option (BitVec 16) := none
  alone : Bool := false
  deriving DecidableEq, Repr

/-- A slice's crucible: the pile in arrival order, the batch being performed, and its combiner wave with the staging
copy, the replies so far and the count of executed instructions (R109, R117, R119 to R121); `desc` is the descriptor as it stood when
the batch was formed (R116), `half` what a batch that has read a host-homed line has still to write there, with its replies (R107). -/
structure Crucible where
  slice : Nat
  pile : List Bundle := []
  batch : List Bundle := []
  broken : Bool := false
  running : Bool := false
  wave : Wave := {}
  stage : List Byte := []
  rwidth : Nat := 0
  replies : List (Option (List Word)) := []
  steps : Nat := 0
  done : Bool := false
  fail : Option (Sub × Nat) := none
  desc : List Byte := []
  half : Option (List (Nat × List Byte)) := none
  late : List (Nat × List Word) := []
  deriving DecidableEq, Repr

/-! ## Engines -/

/-- A tile op in a marver's queue (R299): the issuing parison and operation, the C tile, the operand elements already
fetched, and the modifiers. -/
structure TileOp where
  par : ParId
  op : Nat
  zero : Bool
  tile : Nat
  a : List Byte := []
  b : List Byte := []
  mods : Nat := 0
  deriving DecidableEq, Repr

/-! ## The blowpipe (R136 to R140) -/

/-- The states of the cable link (R139). -/
inductive LinkState | down | l0 | outOfL0 | recovering
  deriving DecidableEq, Repr

/-- What an open request on the link was sent for (R140); the answer to `staleEntry` was asked for before an invalidation, and is dropped
(R26). `far` reads a line for firmware, an engine or a wait, `farWrite` and `farToken` write and signal for them; `fill` brings a line into
a core's L1, and `backed` writes one back from there; a last number tells writes of one place apart. -/
inductive ReqFor
  | read (a : AgentId) (op : Nat) (l : LineRef)
  | write (a : AgentId) (op : Nat) (l : LineRef)
  | bundle (a : AgentId) (op : Nat)
  | entry (ctx pa : Nat)
  | staleEntry
  | shoot (ctx va len : Nat)
  | move (ctx va : Nat)
  | ckpt (ctx num : Nat)
  | token (a : AgentId) (op va : Nat)
  | far (w : FwWho) (ctx va : Nat) (l : LineRef)
  | farWrite (w : FwWho) (ctx va n : Nat)
  | farToken (w : FwWho) (ctx va n : Nat)
  | fill (a : AgentId) (acc : Access) (ctx va : Nat) (leaf : DWord) (l : LineRef)
  | backed (ctx va n : Nat)
  deriving DecidableEq, Repr

/-- A line that a read in place has brought for what firmware, an engine or an agent's wait reads, or why there is none (R131, R140). -/
structure FarLine where
  who : FwWho
  line : LineRef
  data : List Byte
  sub : Option Sub := none
  deriving DecidableEq, Repr

/-- One die's end of the blowpipe: sender N and A with the messages from A to N, how many of them have been written to
the partner's window, receiver E with the bytes of its window's slots (R136), since when a delivery has not been acknowledged, control registers, open requests by tag, invalidations asked for and not yet answered, lines that reads in
place have brought, and the blowpipe log (R138 to R140). -/
structure PipeEnd where
  n : BitVec 16 := 0
  a : BitVec 16 := 0
  e : BitVec 16 := 0
  unacked : List Msg := []
  backlog : List Msg := []
  written : Nat := 0
  slots : List (Nat × List Byte) := []
  sinceAck : Nat := 0
  ackAt : Nat := 0
  ackReg : BitVec 16 := 0
  heartbeat : DWord := 0
  heardAt : Nat := 0
  resyncReg : BitVec 16 := 0
  sawResync : Bool := false
  nextTag : BitVec 16 := 0
  open_ : List (BitVec 16 × ReqFor) := []
  dups : Nat := 0
  shoots : List (Nat × Nat × Nat × BitVec 16) := []
  far : List FarLine := []
  deriving DecidableEq, Repr

/-! ## Boot, identity and records (R385 to R392) -/

/-- A firmware slot of the flash: its bytes, of which the first 8,192 are the header of R387 and the rest the body. -/
structure FwSlot where
  bytes : List Byte := []
  deriving DecidableEq, Repr

/-- A slot with an image for a member: MAGIC, SVN 0, no body and the SHA-256 of it, for any die, and zeros for a signature (R387). The
flash holds it at reset (DESIGN CHOICE, log entry 4). -/
def FwSlot.first (member : Byte) : FwSlot :=
  { bytes := [0x57, 0x46, 0x4B, 0x53, 0, 0, 0, 0, member, 0, 0, 0] ++ List.replicate 20 0
      ++ [0xE3, 0xB0, 0xC4, 0x42, 0x98, 0xFC, 0x1C, 0x14, 0x9A, 0xFB, 0xF4, 0xC8, 0x99, 0x6F, 0xB9, 0x24,
          0x27, 0xAE, 0x41, 0xE4, 0x64, 0x9B, 0x93, 0x4C, 0xA4, 0x95, 0x99, 0x1B, 0x78, 0x52, 0xB8, 0x55] ++ List.replicate 8128 0 }

/-- The counts of R392 that a die keeps for one of its links. -/
structure LinkCounts where
  retrains : Nat := 0
  recoveries : Nat := 0
  losses : Nat := 0
  deriving DecidableEq, Repr

/-- The lifetime records of a die (R392), of which Kapael alone has a host link: corrected errors by unit, in the order of R51; pipeline errors and rollbacks by core;
`uncorrectable` counts the contexts that ended UNCORRECTABLE; the residencies are in ns, of which the records keep the hours. -/
structure Lifetime where
  corrected : List (Nat × Nat) := []
  pipeline : List (Nat × Nat) := []
  rollbacks : List (Nat × Nat) := []
  uncorrectable : Nat := 0
  cable : LinkCounts := {}
  host : LinkCounts := {}
  failedPairings : Nat := 0
  failedTrainings : Nat := 0
  bootsA : Nat := 0
  bootsB : Nat := 0
  abandoned : Nat := 0
  windowFaults : Nat := 0
  tempNs : List Nat := List.replicate 16 0
  voltNs : List Nat := List.replicate 16 0
  deriving DecidableEq, Repr

/-- A 32-bit count one higher, which saturates (R392). -/
def more32 (n : Nat) : Nat := min (2 ^ 32 - 1) (n + 1)

/-- A 16-bit count one higher, which saturates (R392). -/
def more16 (n : Nat) : Nat := min (2 ^ 16 - 1) (n + 1)

/-- A core's figures that no other structure holds: S of the core store (R36), the RSGEN under which it last filled
READ-SHARED lines, by context (R85), the slot its partitions sample next and the clock of their last sample (R360), per partition the wave of the last run
with how many runs in a row it issued, and the wave and split slot of the run under way (R332), and the parison the
gaffer served last (R331). -/
structure CoreMisc where
  core : Nat
  s : Nat := 0
  rsgen : List (Nat × Nat) := []
  rotate : List Nat := List.replicate 8 0
  sampled : List Nat := List.replicate 8 0
  lastWave : List (Option Nat × Nat) := List.replicate 8 (none, 0)
  run : List (Option (Nat × Nat)) := List.replicate 8 none
  lastPar : Nat := 63
  deriving DecidableEq, Repr

/-- A die. `walks` are the requests to the page walker, `ptGot` the page-table entries read over the blowpipe for them
(R130), `wcache` the walk cache (R24); `slew` is the correction of pair time still to be made, in ns, and `slewRest` the time since
its last ns (R80); `boot` is the last step of R385 it has completed, `group` the refresh group of its latest phase (R42), `lifeFlash` the
lifetime records as flash holds them, `minute` the minute of pair time in which firmware wrote them of its own accord (R392), `writing` the
slot that firmware is writing, B for true (R389), `proven` that the driver's first CTX_CREATE since the boot has completed (R388). -/
structure DieState where
  ptime : DWord := 0
  cycle : DWord := 0
  boot : Nat := 0
  activeB : Bool := false
  tries : Nat := 0
  healthy : Bool := true
  bootFail : Bool := false
  slotA : FwSlot := .first 0
  slotB : FwSlot := .first 0
  minSvn : Nat := 0
  fast : Bool := false
  temp : Nat := 25
  fastNext : Bool := false
  l1 : List L1Line := []
  tlb : List TlbEntry := []
  walks : List (WalkReq × WalkSt) := []
  ptGot : List ((Nat × Nat) × DWord) := []
  wcache : List WalkPtr := []
  tags : List LineTag := []
  folds : List FoldReg := []
  acc : List AccCount := []
  crucibles : List Crucible := []
  marvers : List (Nat × List TileOp) := []
  jobs : List Job := []
  misc : List CoreMisc := []
  events : List FwEvent := []
  late : List FwEvent := []
  fw : List (Nat × FwCore) := []
  pipe : PipeEnd := {}
  life : Lifetime := {}
  lifeFlash : Lifetime := {}
  minute : Nat := 0
  writing : Option Bool := none
  proven : Bool := false
  disabled : List Nat := []
  sweep : Nat := 0
  decay : Nat := 0
  group : Nat := 0
  beatAt : Nat := 0
  slew : Int := 0
  slewRest : Nat := 0
  report : Nat := 0
  deriving DecidableEq, Repr

/-! ## Soft errors (R51, R362) -/

/-- Where a soft error stands: the lane of a wave's register, a granule of a block's scratchpad, a line of an L1, an accumulator tile, a
granule of the weight store, a line of an L2 slice or of DRAM, the staging copy of a crucible, the datapath of an agent (by its residues
or its parity), a row of a marver. -/
inductive FlawAt
  | reg (w : WaveId) (n lane : Nat)
  | store (b : BlockRef) (g : Nat)
  | path (w : WaveId) (k : Nat)
  | l1 (c : CoreRef) (l : LineRef) (g : Nat)
  | tile (b : BlockRef) (t g : Nat)
  | weight (d : Die) (g : Nat)
  | l2 (l : LineRef)
  | dram (l : LineRef)
  | stage (r : SliceRef)
  | datapath (a : AgentId) (parity : Bool)
  | row (c : CoreRef)
  deriving DecidableEq, Repr

/-- A soft error that nothing has met yet: `double` says that it cannot be corrected, `logged` that a refresh has found and logged it
(R51). -/
structure Flaw where
  at_ : FlawAt
  double : Bool := true
  logged : Bool := false
  deriving DecidableEq, Repr

/-! ## Scan-out heads (R393 to R398) -/

/-- A plane's registers (R395). -/
structure Plane where
  base : DWord := 0
  pitch : Word := 0
  size : Word := 0
  pos : Word := 0
  fmt : Word := 0
  deriving DecidableEq, Repr

/-- A page pinned by a latched plane, with the leaf it was latched through (R396). -/
structure Pin where
  plane : Nat
  ctx : Nat
  va : Nat
  size : Nat
  leaf : DWord
  deriving DecidableEq, Repr

/-- A head's registers (R394), the surfaces it has latched with the pages they pin (R396), the line it last fetched and sent,
and the tokens, by context and address, that its latches have still to signal. -/
structure Head where
  hctl : Word := 0
  hstatus : Word := 0
  herr : Word := 0
  hirq : Word := 0
  pclk : Word := 0
  htime0 : Word := 0
  htime1 : Word := 0
  vtime0 : Word := 0
  vtime1 : Word := 0
  sync : Word := 0
  vcount : Word := 0
  line : Word := 0
  ctxn : Word := 0
  flip : Word := 0
  linkctl : Word := 0
  linktgt : Word := 0
  ftoken : DWord := 0
  plane0 : Plane := {}
  plane1 : Plane := {}
  auxcmd : Word := 0
  auxgo : Word := 0
  auxstat : Word := 0
  auxdata : List Byte := List.replicate 16 0
  latched0 : Option Plane := none
  latched1 : Option Plane := none
  pins : List Pin := []
  sent : List Word := []
  due : List (Nat × Nat) := []
  deriving DecidableEq, Repr

end Sys2Proof.Machine
end

