-- ==== Sys2Proof/Machine/State.lean ====
section
/-! DEFINITION. The state of the part, plain data, and its value at reset. -/

namespace Sys2Proof.Machine

/-- Why the machine stops with no next state. -/
inductive Fault
  /-- Raised by the boot of a die whose two firmware slots both fail R387: "halt, with the host function reporting
  status BOOT_FAIL" (R388). Safe: the spec gives the halted die no further step. -/
  | bootFail (d : Die)
  deriving DecidableEq, Repr

/-- Why a step is refused. -/
inductive Refusal
  /-- Raised by an arm of the dispatcher whose instruction has no meaning yet. Safe. -/
  | notModelled (mnemonic : String)
  /-- Raised when an instruction word is run with no agent of the state to issue it. Safe: no hardware state has it. -/
  | noAgent
  deriving DecidableEq, Repr

/-- What moves next (log entry 1): an agent, a step of the part, a write of the host to its own memory, a soft error (R51, R362; log
entry 86), an image for a firmware slot or a shutdown (log entry 105), or another width and speed that the ends of the host link sustain
(log entry 27). -/
inductive Move
  | run (a : AgentId)
  | event (i : Instr)
  | hostWrite (addr : Nat) (bytes : List Byte)
  | upset (f : Flaw)
  | slotBegin (d : Die) (b : Bool)
  | slotDone (d : Die) (f : FwSlot)
  | shutdown (d : Die)
  | hostEnds (width speed : Nat)
  deriving DecidableEq, Repr

/-- What the world outside the part can observe of it, newest first. -/
inductive LogEv
  | msix (vector : Nat)
  | pipeLog (d : Die) (ctx ty va check : Nat)
  | aux (head : Nat) (cmd : Word) (data : List Byte)
  | line (head n : Nat) (repeated : Bool)
  | flashed (d : Die)
  | weightError (d : Die) (granule : Nat)
  | signed (d : Die) (sig : List Byte)
  | lehrReject (ctx fwofs : Nat) (reason : LehrReason)
  deriving DecidableEq, Repr

/-- The state of the SK7. `svc` is the SEQ of the management packet whose service has begun and goes on (R323), `hostHeld` are the
host's accesses that are held at the home they reached (R116, R133), `ptmAt` is when the dies last exchanged PTM (R80), `fwWaits` the pages that firmware's accesses are held for (R30),
`hostDownAt` is when the host link last went down, `hostEnds` the width and speed that both ends of the host link sustain, `cable` the width and speed that both ends of a cable in training sustain (R386). -/
structure State where
  -- the model's own
  agenda : List Move := []
  cur : AgentId := .none
  nsteps : Nat := 0
  freeCtr : Nat := 0
  opCtr : Nat := 0
  log : List LogEv := []
  flaws : List Flaw := []
  -- work on the cores
  waves : List (WaveId × Wave) := []
  pars : List (ParId × Parison) := []
  forms : List (CoreRef × List (Nat × Aff)) := []
  blocks : List (BlockRef × Block) := []
  -- dies
  kap : DieState := {}
  amd : DieState := { slotA := .first 1, slotB := .first 1 }
  memK : Memory := []
  memA : Memory := []
  memH : Memory := []
  wsK : Memory := []
  wsA : Memory := []
  -- firmware
  ctxs : List Context := []
  queues : List (QueueRef × Queue) := []
  mq : Option Queue := none
  svc : Option Word := none
  launches : List Launch := []
  saved : List Saved := []
  snaps : List Saved := []
  retained : List Saved := []
  moves : List PageMove := []
  settling : List Settling := []
  ticketCtr : Nat := 0
  launchCtr : Nat := 0
  jobCtr : Nat := 0
  savedCtr : Nat := 0
  ageCtr : Nat := 0
  hostHeld : List HostAcc := []
  fwWaits : List FwWait := []
  hostGd : Nat := 0
  hostGp : Nat := 0
  -- the pair and the outside
  link : LinkState := .down
  linkAt : Nat := 0
  ptmAt : Nat := 0
  linkWidth : Nat := 0
  linkSpeed : Nat := 0
  hostUp : Bool := false
  hostWidth : Nat := 0
  hostSpeed : Nat := 0
  hostDownAt : Option Nat := none
  hostEnds : Nat × Nat := (4, 128)
  cable : Option (Nat × Nat) := none
  pairState : Nat := 0
  pairResult : Nat := 0
  undockReq : Bool := false
  amdHash : BitVec 256 := 0
  amdSvn : Nat := 0
  amdSlot : Nat := 0
  amdPub : List Byte := []
  -- BAR0 registers of Kapael's host function
  mqdesc : List Byte := List.replicate 64 0
  mqctl : Word := 0
  mqstatus : Word := 0
  mqwptr : Word := 0
  mqcrptr : Word := 0
  fwctl : Word := 0
  fwcmd : List Byte := []
  fwNonce : Nat := 0
  attctl : Word := 0
  attNonce : List Byte := List.replicate 16 0
  report : List Byte := List.replicate 256 0
  sig : List Byte := List.replicate 7856 0
  repseq : Nat := 0
  head0 : Head := {}
  head1 : Head := {}
  deriving DecidableEq, Repr

/-- The part right after reset (R385 step 0): nothing resident, memory with nothing listed, every register at the
value its rule gives; the values the spec gives none for are those of log entry 4. -/
def State.reset : State := {}

end Sys2Proof.Machine
end

