-- ==== Sys2Proof/Machine/Lists.lean ====
section
/-! DEFINITION. Lists used as tables, lane masks, and bytes as numbers (R4). -/

namespace Sys2Proof.Machine

/-! ## Tables -/

/-- The entry of a key. -/
def look {κ α : Type} [DecidableEq κ] (k : κ) : List (κ × α) → Option α
  | [] => none
  | (k', a) :: t => if k' = k then some a else look k t

/-- The table with the entry of a key replaced, or added at the end. -/
def put {κ α : Type} [DecidableEq κ] (k : κ) (a : α) : List (κ × α) → List (κ × α)
  | [] => [(k, a)]
  | (k', a') :: t => if k' = k then (k, a) :: t else (k', a') :: put k a t

/-- The table without a key. -/
def drop {κ α : Type} [DecidableEq κ] (k : κ) (l : List (κ × α)) : List (κ × α) := l.filter fun e => e.1 ≠ k

/-- The `n`-th element, or the given default. -/
def nth {α : Type} (l : List α) (n : Nat) (d : α) : α := l.getD n d

/-- The list with its first element that satisfies `p` changed by `f`. -/
def updFirst {α : Type} (p : α → Bool) (f : α → α) : List α → List α
  | [] => []
  | a :: t => if p a then f a :: t else a :: updFirst p f t

/-- The list with every element that satisfies `p` changed by `f`. -/
def updAll {α : Type} (p : α → Bool) (f : α → α) (l : List α) : List α := l.map fun a => if p a then f a else a

/-- Duplicates removed, the first kept. -/
def dedup {α : Type} [DecidableEq α] : List α → List α
  | [] => []
  | a :: t => a :: (dedup t).filter (· ≠ a)

/-- The smallest number below `n` that fails `used`. -/
def lowestFree (used : Nat → Bool) (n : Nat) : Option Nat := (List.range n).find? fun k => !used k

/-! ## Lane masks -/

/-- The mask of the lanes below `n` that satisfy `p`. -/
def maskTo (p : Nat → Bool) : Nat → Word
  | 0 => 0
  | n + 1 => if p n then maskTo p n ||| BitVec.twoPow 32 n else maskTo p n

/-- The mask of the lanes that satisfy `p`. -/
def maskOf (p : Nat → Bool) : Word := maskTo p 32

/-- The lanes of a mask, ascending. -/
def lanesOf (m : Word) : List Nat := (List.range 32).filter fun l => m.getLsbD l

/-- The lowest lane of a mask. -/
def lowest (m : Word) : Option Nat := (lanesOf m).head?

/-- The number of lanes of a mask. -/
def popcount (m : Word) : Nat := (lanesOf m).length

/-- A value for each of the 32 lanes. -/
def perLane {α : Type} (f : Nat → α) : List α := (List.range 32).map f

/-! ## Bytes (R4) -/

/-- The number that bytes spell, the lowest first. -/
def natOf : List Byte → Nat
  | [] => 0
  | b :: t => b.toNat + 256 * natOf t

/-- The lowest `n` bytes of a number, the lowest first. -/
def bytesOf : Nat → Nat → List Byte
  | 0, _ => []
  | n + 1, v => BitVec.ofNat 8 v :: bytesOf n (v / 256)

/-- Words as bytes. -/
def bytesOfWords (ws : List Word) : List Byte := ws.flatMap fun w => bytesOf 4 w.toNat

/-- Bytes as 32-bit words; a last word that is short is filled with zeros. -/
def wordsOf : List Byte → List Word
  | [] => []
  | b0 :: b1 :: b2 :: b3 :: t => BitVec.ofNat 32 (natOf [b0, b1, b2, b3]) :: wordsOf t
  | l => [BitVec.ofNat 32 (natOf l)]

/-- Bytes `ofs` to `ofs + n - 1` of a list. -/
def slice {α : Type} (l : List α) (ofs n : Nat) : List α := (l.drop ofs).take n

/-- A list with the elements from `ofs` on replaced. -/
def patch {α : Type} (l : List α) (ofs : Nat) (new : List α) : List α :=
  l.take ofs ++ new.take (l.length - ofs) ++ l.drop (ofs + new.length)

/-- The little-endian field of `n` bytes at `ofs`. -/
def fieldOf (l : List Byte) (ofs n : Nat) : Nat := natOf (slice l ofs n)

/-! ## Memory -/

/-- What an unlisted address reads as (log entry 3). -/
def Memory.fill : Byte := 0

/-- One byte of memory. -/
def Memory.read (m : Memory) (a : Nat) : Byte := (look a m).getD Memory.fill

/-- A cell put in its place among rising addresses. -/
def Memory.insert : Memory → Nat → Byte → Memory
  | [], a, b => [(a, b)]
  | (k, x) :: t, a, b => if a < k then (a, b) :: (k, x) :: t else (k, x) :: Memory.insert t a b

/-- Memory with one byte written, in canonical form. -/
def Memory.write (m : Memory) (a : Nat) (b : Byte) : Memory :=
  let rest : Memory := m.filter fun c => c.1 != a
  if b = Memory.fill then rest else rest.insert a b

/-- Whether addresses rise strictly above `lo` and no entry holds the unlisted byte. -/
def Memory.wfFrom : Option Nat → Memory → Bool
  | _, [] => true
  | lo, (k, x) :: t => (match lo with | none => true | some l => decide (l < k)) && decide (x ≠ Memory.fill)
      && Memory.wfFrom (some k) t

/-- The canonical form of memory. -/
def Memory.wf (m : Memory) : Bool := Memory.wfFrom none m

/-- `n` bytes from `a` on. -/
def Memory.readN (m : Memory) (a : Nat) : Nat → List Byte
  | 0 => []
  | n + 1 => Memory.read m a :: Memory.readN m (a + 1) n

/-- Bytes written from `a` on. -/
def Memory.writeN (m : Memory) (a : Nat) : List Byte → Memory
  | [] => m
  | b :: t => Memory.writeN (Memory.write m a b) (a + 1) t

/-- A region of memory made to read as the unlisted byte. -/
def Memory.clear (m : Memory) (a n : Nat) : Memory := m.filter fun c => !(decide (a ≤ c.1) && decide (c.1 < a + n))

/-- The cells of a region. -/
def Memory.cells (m : Memory) (a n : Nat) : List Host.Cell :=
  m.filter fun c => decide (a ≤ c.1) && decide (c.1 < a + n)

/-- Memory with the cells of a region taken from another, moved to stand at `b`. -/
def Memory.copyIn (m : Memory) (cs : List Host.Cell) (a b : Nat) : Memory :=
  cs.foldl (fun m c => Memory.write m (c.1 - a + b) c.2) m

end Sys2Proof.Machine
end

