-- ==== Sys2Proof/Machine/Ops.lean ====
section
/-! DEFINITION. The named operations over the state: agents and their waves, counters, positions, the one operation
that records and takes a trap, the stop it makes, and the return from one (R157, R171 to R176, R314, R337 to R342). -/

namespace Sys2Proof.Machine

abbrev Out := Host.Outcome State Fault Refusal

/-! ## Dies and memories -/

/-- A die of the part. -/
def State.die (s : State) : Die → DieState
  | .kapael => s.kap
  | .amdukor => s.amd

/-- The state with a die replaced. -/
def State.setDie (s : State) (d : Die) (x : DieState) : State :=
  match d with
  | .kapael => { s with kap := x }
  | .amdukor => { s with amd := x }

/-- The other member. -/
def otherDie : Die → Die
  | .kapael => .amdukor
  | .amdukor => .kapael

/-- A member as a home. -/
def homeOf : Die → Home
  | .kapael => .kapael
  | .amdukor => .amdukor

/-- The member whose home slices serve a home; a host-homed line is served by Kapael (R47). -/
def serverOf : Home → Die
  | .kapael => .kapael
  | .amdukor => .amdukor
  | .host => .kapael

/-- The memory behind a home. -/
def State.mem (s : State) : Home → Memory
  | .kapael => s.memK
  | .amdukor => s.memA
  | .host => s.memH

/-- The state with the memory behind a home replaced. -/
def State.setMem (s : State) (h : Home) (m : Memory) : State :=
  match h with
  | .kapael => { s with memK := m }
  | .amdukor => { s with memA := m }
  | .host => { s with memH := m }

/-- A die's weight store. -/
def State.ws (s : State) : Die → Memory
  | .kapael => s.wsK
  | .amdukor => s.wsA

/-- The state with a die's weight store replaced. -/
def State.setWs (s : State) (d : Die) (m : Memory) : State :=
  match d with
  | .kapael => { s with wsK := m }
  | .amdukor => { s with wsA := m }

/-- Pair time of a die, in ns (R80). -/
def State.now (s : State) (d : Die) : Nat := (s.die d).ptime.toNat

/-- Whether the pair is docked: PAIRCTL STATE 2 to 4 (R355, R386). -/
def State.docked (s : State) : Bool := decide (2 ≤ s.pairState) && decide (s.pairState ≤ 4)

/-! ## Contexts and images -/

/-- A live context. -/
def State.ctx (s : State) (n : Nat) : Option Context := s.ctxs.find? fun c => c.num == n

/-- The state with a context replaced. -/
def State.putCtx (s : State) (c : Context) : State := { s with ctxs := updFirst (fun x => x.num == c.num) (fun _ => c) s.ctxs }

/-- Whether a context's work is being stopped for a migration or a checkpoint: no block of it is admitted (R142, R354). -/
def Context.quiesced (c : Context) : Bool :=
  (match c.mig with
    | .due _ | .stopping _ => true
    | _ => false) || c.ckpt.any fun k => k.stage == .stopping

/-- Whether the records of a context are on their way to another member (R354, R355). -/
def Context.inTransit (c : Context) : Bool :=
  match c.mig with
  | .sent _ | .arriving _ => true
  | _ => false

/-- Whether no move of a page of a context to a member may begin now, for its migration: while it undocks, only its pages on
Amdukor move (R355). -/
def Context.held (c : Context) (dst : Die) : Bool :=
  match c.mig with
  | .none => false
  | .due d | .stopping d => !(d == .kapael && dst == .kapael)
  | .sent _ | .arriving _ => true

/-- An image finalised for a context (R197). -/
def State.image (s : State) (ctx img : Nat) : Option Image :=
  (s.ctx ctx).bind fun c => c.images.find? fun i => i.id == img

/-- The ordinal of the safe point whose clause header stands at `wofs`. -/
def ordinalAt (im : Image) (wofs : Nat) : Option Nat :=
  ((List.range im.sps.length).zip im.sps).findSome? fun p => if p.2.wofs = wofs then some p.1 else none

/-- The clause header offset of a safe point. -/
def headerOf (im : Image) (ord : Nat) : Option Nat := (im.sps[ord]?).map (·.wofs)

/-! ## Counters (R173) -/

/-- A counter's value. -/
def Counters.get (c : Counters) : Ctr → BitVec 6
  | .ldc => c.ldc
  | .stc => c.stc
  | .enc => c.enc
  | .mxc => c.mxc
  | .txc => c.txc
  | .obc => c.obc

/-- A counter written. -/
def Counters.set (c : Counters) (k : Ctr) (v : BitVec 6) : Counters :=
  match k with
  | .ldc => { c with ldc := v }
  | .stc => { c with stc := v }
  | .enc => { c with enc := v }
  | .mxc => { c with mxc := v }
  | .txc => { c with txc := v }
  | .obc => { c with obc := v }

/-- An issue adds 1. -/
def Counters.up (c : Counters) (k : Ctr) : Counters := c.set k (c.get k + 1)

/-- A retirement takes 1 away. -/
def Counters.down (c : Counters) (k : Ctr) : Counters := if c.get k = 0 then c else c.set k (c.get k - 1)

/-- Whether all six are zero. -/
def Counters.clear (c : Counters) : Bool :=
  c.ldc == 0 && c.stc == 0 && c.enc == 0 && c.mxc == 0 && c.txc == 0 && c.obc == 0

/-- The counter that a WA or WB code names (R171). -/
def ctrOf : Nat → Option Ctr
  | 1 => some .ldc
  | 2 => some .stc
  | 3 => some .enc
  | 4 => some .mxc
  | 5 => some .txc
  | 6 => some .obc
  | _ => none

/-- The operations made and still counted, on one counter, oldest first; an access that waits for its walk has yet to take its place. -/
def opsOn (c : Ctr) (ops : List Op) : List Op := ops.filter fun o => o.ctr == some c && o.kind != .walk

/-- The operation of an id. -/
def opOf (ops : List Op) (id : Nat) : Option Op := ops.find? fun o => o.id == id

/-- The operations with one replaced. -/
def setOp (ops : List Op) (o : Op) : List Op := updFirst (fun x => x.id == o.id) (fun _ => o) ops

/-- The operations without one. -/
def delOp (ops : List Op) (id : Nat) : List Op := ops.filter fun o => o.id != id

/-- Whether an operation is the oldest on its counter, so that it may retire (R173). -/
def oldest (ops : List Op) (o : Op) : Bool :=
  match o.ctr with
  | none => true
  | some c => match opsOn c ops with
    | x :: _ => x.id == o.id
    | [] => true

/-! ## Agents -/

/-- The combiner engine of a slice (R109). -/
def State.crucible (s : State) (r : SliceRef) : Crucible :=
  ((s.die r.die).crucibles.find? fun c => c.slice == r.slice).getD { slice := r.slice }

/-- The state with a crucible replaced. -/
def State.putCrucible (s : State) (r : SliceRef) (c : Crucible) : State :=
  let d := s.die r.die
  let l := if d.crucibles.any (fun x => x.slice == r.slice)
    then updFirst (fun x => x.slice == r.slice) (fun _ => c) d.crucibles else d.crucibles ++ [c]
  s.setDie r.die { d with crucibles := l }

/-- A firmware core (R313). -/
def State.fwCore (s : State) (d : Die) (n : Nat) : FwCore := (look n (s.die d).fw).getD {}

/-- The state with a firmware core replaced. -/
def State.putFw (s : State) (d : Die) (n : Nat) (f : FwCore) : State :=
  s.setDie d { s.die d with fw := put n f (s.die d).fw }

/-- The wave an agent issues for. -/
def State.waveOf (s : State) : AgentId → Option Wave
  | .wave w _ => look w s.waves
  | .combiner r => let c := s.crucible r; if c.running then some c.wave else none
  | .firmware d n => let f := s.fwCore d n; if f.busy then some f.wave else none
  | _ => none

/-- The state with the wave of an agent replaced. -/
def State.setWave (s : State) (a : AgentId) (w : Wave) : State :=
  match a with
  | .wave id _ => { s with waves := put id w s.waves }
  | .combiner r => s.putCrucible r { s.crucible r with wave := w }
  | .firmware d n => s.putFw d n { s.fwCore d n with wave := w }
  | _ => s

/-- The split slot an agent issues for. -/
def slotOf : AgentId → Nat
  | .wave _ k => k
  | _ => 0

/-- The die and core an agent runs on; a combiner wave and a firmware core count as core 0 of their die. -/
def coreOf : AgentId → CoreRef
  | .wave w _ => ⟨w.die, w.core⟩
  | .gaffer p => ⟨p.die, p.core⟩
  | .combiner r => ⟨r.die, 0⟩
  | .firmware d _ => ⟨d, 0⟩
  | .none => ⟨.kapael, 0⟩

/-- An agent's wave or parison, whichever split it issues for. -/
def whoOf (a : AgentId) : AgentId :=
  match a with
  | .wave w _ => .wave w 0
  | a => a

/-- Who runs an instruction. -/
inductive Actor
  | wave (a : AgentId) (w : Wave) (sp : Split)
  | par (p : ParId) (r : Parison)
  deriving DecidableEq, Repr

/-- The agent of an actor. -/
def Actor.agent : Actor → AgentId
  | .wave a _ _ => a
  | .par p _ => .gaffer p

/-- The core of an actor. -/
def Actor.core (x : Actor) : CoreRef := coreOf x.agent

/-- The context of an actor. -/
def Actor.ctx : Actor → Nat
  | .wave _ w _ => w.ctx
  | .par _ r => r.ctx

/-- An agent of the state, when it exists. -/
def State.actorOf (s : State) (a : AgentId) : Option Actor :=
  match a with
  | .gaffer p => (look p s.pars).map fun r => .par p r
  | a => match s.waveOf a with
    | some w => match nth w.slots (slotOf a) none with
      | some sp => some (.wave a w sp)
      | none => none
    | none => none

/-- The agent that `cur` names, when it exists. -/
def State.actor (s : State) : Option Actor := s.actorOf s.cur

/-- A wave with one of its split slots replaced. -/
def Wave.setSlot (w : Wave) (k : Nat) (sp : Option Split) : Wave := { w with slots := w.slots.set k sp }

/-- The state with a parison replaced. -/
def State.setPar (s : State) (p : ParId) (r : Parison) : State := { s with pars := put p r s.pars }

/-- The block an agent runs for. -/
def State.blockOf (s : State) (b : BlockRef) : Option Block := look b s.blocks

/-- The state with a block replaced. -/
def State.putBlock (s : State) (b : BlockRef) (x : Block) : State := { s with blocks := put b x s.blocks }

/-- The state with a block changed. -/
def State.onBlock (s : State) (ref : BlockRef) (f : Block → Block) : State :=
  match s.blockOf ref with
  | some b => s.putBlock ref (f b)
  | none => s

/-- The launch of an id. -/
def State.launch (s : State) (id : Nat) : Option Launch := s.launches.find? fun l => l.id == id

/-- The state with a launch replaced. -/
def State.putLaunch (s : State) (l : Launch) : State :=
  { s with launches := updFirst (fun x => x.id == l.id) (fun _ => l) s.launches }

/-! ## Forms (R150, R157) -/

/-- The form file of a core. -/
def State.formFile (s : State) (c : CoreRef) : List (Nat × Aff) := (look c s.forms).getD []

/-- The value of a form for an item. -/
def Aff.at (f : Aff) (x y z : Word) : Word := f.base + f.sx * x + f.sy * y + f.sz * z

/-- Whether a form is uniform. -/
def Aff.uni (f : Aff) : Bool := f.sx == 0 && f.sy == 0 && f.sz == 0

/-- The uniform form of a value. -/
def Aff.ofWord (v : Word) : Aff := { base := v, sx := 0, sy := 0, sz := 0 }

/-- The item of a lane; the lanes inactive for life have none. -/
def Wave.item (w : Wave) (l : Nat) : Word × Word × Word := nth w.items l (0, 0, 0)

/-- The value a name has in a lane (R157). -/
def Wave.lane (w : Wave) (ff : List (Nat × Aff)) (n l : Nat) : Word :=
  if !w.live.getLsbD l then 0 else
  match nth w.vmap n .undef with
  | .undef => 0
  | .form k => match look k ff with
    | some f => let i := w.item l; f.at i.1 i.2.1 i.2.2
    | none => 0
  | .phys v => nth v l 0
  | .absent v => nth v l 0

/-- A name written in the lanes of a mask: a physical register is bound, and the other lanes keep what the name held
(R157). -/
def Wave.write (w : Wave) (ff : List (Nat × Aff)) (n : Nat) (m : Word) (f : Nat → Word) : Wave :=
  if m = 0 then w else
  { w with vmap := w.vmap.set n (.phys (perLane fun l => if m.getLsbD l then f l else w.lane ff n l)) }

/-- Names released by a last read (R186). -/
def Wave.release (w : Wave) (ns : List Nat) : Wave := { w with vmap := ns.foldl (fun v n => v.set n .undef) w.vmap }

/-- A predicate written in the lanes of a mask. -/
def Wave.writePred (w : Wave) (n : Nat) (m : Word) (f : Nat → Bool) : Wave :=
  { w with preds := w.preds.set n (maskOf fun l => if m.getLsbD l then f l else (nth w.preds n 0).getLsbD l) }

/-- Every form slot of a core that some parison, wave or queued decision names, or that a wait keeps (R150). -/
def State.slotUsed (s : State) (c : CoreRef) (k : Nat) : Bool :=
  s.pars.any (fun e => decide (e.1.die = c.die ∧ e.1.core = c.core) &&
      (e.2.nmap.any (· == some k) || (e.2.queue.any fun d => d.forms.any fun f => f.2 == k) || e.2.ops.any fun o => o.kept.contains k))
    || s.waves.any (fun e => decide (e.1.die = c.die ∧ e.1.core = c.core) && e.2.vmap.any (· == .form k))

/-- The first `n` numbers below `m` that are not used, if there are so many. -/
def takeFree (used : Nat → Bool) (m n : Nat) : Option (List Nat) :=
  let l := ((List.range m).filter fun k => !used k).take n
  if l.length = n then some l else none

/-- The first `n` free slots of the core's form file of 256, when there are so many (R33). -/
def State.freeSlots (s : State) (c : CoreRef) (n : Nat) : Option (List Nat) := takeFree (s.slotUsed c) 256 n

/-- A form put into a free slot of the core's form file of 256, when there is one. -/
def State.allocForm (s : State) (c : CoreRef) (f : Aff) : Option (State × Nat) :=
  (lowestFree (s.slotUsed c) 256).map fun k => ({ s with forms := put c (put k f (s.formFile c)) s.forms }, k)

/-! ## Positions (R171 to R176) -/

/-- The header fields of R171. -/
def hdrN (h : Word) : Nat := Word.bits h 3 0
@[inherit_doc hdrN] def hdrCls (h : Word) : Nat := Word.bits h 6 4
@[inherit_doc hdrN] def hdrBnd (h : Word) : Bool := Word.bit h 7
@[inherit_doc hdrN] def hdrSp (h : Word) : Bool := Word.bit h 8
@[inherit_doc hdrN] def hdrWa (h : Word) : Nat := Word.bits h 11 9
@[inherit_doc hdrN] def hdrTa (h : Word) : Nat := Word.bits h 17 12
@[inherit_doc hdrN] def hdrWb (h : Word) : Nat := Word.bits h 20 18
@[inherit_doc hdrN] def hdrTb (h : Word) : Nat := Word.bits h 26 21

/-- Whether a header is well formed (R171). -/
def hdrOk (h : Word) : Bool :=
  Word.bits h 31 27 == 0 && hdrN h != 0 && hdrCls h != 7 && hdrWa h != 7 && hdrWb h != 7
    && (hdrWa h != 0 || hdrTa h == 0) && (hdrWb h != 0 || hdrTb h == 0)

/-- The word offset after the clause a position is in. -/
def Pos.clauseEnd (p : Pos) : Nat := p.hofs + 1 + hdrN p.hdr

/-- The position at a clause header, its region unchanged. -/
def Pos.goHeader (p : Pos) (wofs : Nat) : Pos := { p with hofs := wofs, inside := false, pc := wofs }

/-- The position after an instruction of `len` words: the next word, or the next clause header. -/
def Pos.advance (p : Pos) (len : Nat) : Pos :=
  if p.pc + len < p.clauseEnd then { p with pc := p.pc + len, run := p.run + len }
  else { p with hofs := p.clauseEnd, inside := false, pc := p.clauseEnd, run := p.run + len }

/-- Lookahead windows after one more instruction has issued (R186). -/
def tickLook (l : List (Nat × Nat)) : List (Nat × Nat) := l.map fun e => (e.1, e.2 - 1)

/-- The executing lanes: the active lanes whose guard is true (R201). -/
def Wave.exec (w : Wave) (sp : Split) (f : Form) : Word :=
  let (gp, gn, _) := f.guard
  if gp = 24 then sp.act else
  let p := nth w.preds gp 0
  sp.act &&& (if gn then ~~~p else p)

/-- A split after an instruction of a form has issued. -/
def Split.issued (sp : Split) (f : Form) : Split :=
  { sp with pos := sp.pos.advance f.len, ahead := tickLook sp.ahead, stall := .issued }

/-- A parison after an instruction of a form has issued; the last reads of a form release its names (R186). -/
def Parison.issued (r : Parison) (f : Form) : Parison :=
  { r with pos := r.pos.advance f.len, ahead := tickLook r.ahead, stall := .issued,
           nmap := f.lastReads.foldl (fun m n => m.set n none) r.nmap }

/-! ## Codes of the records -/

/-- The code of a cause (R338). -/
def Cause.code : Cause → Nat
  | .pipeline => 0x01
  | .ecc => 0x02
  | .translation => 0x03
  | .protection => 0x04
  | .cls => 0x05
  | .quota => 0x06
  | .format => 0x07
  | .illegal => 0x08
  | .object => 0x09
  | .engine => 0x0A
  | .trap => 0x0B
  | .bkpt => 0x0C
  | .preempt => 0x10
  | .step => 0x11
  | .halt => 0x12

/-- The priority of a cause, lower first; the stop reasons rank below every cause (R338). -/
def Cause.prio : Cause → Nat
  | .pipeline => 1
  | .ecc => 2
  | .translation => 3
  | .protection | .cls => 4
  | .quota => 5
  | .format => 6
  | .illegal => 7
  | .object => 8
  | .engine => 9
  | .trap => 10
  | .bkpt => 11
  | .preempt | .step | .halt => 12

/-- The code of a subcause, the same in every record (R399). -/
def Sub.code : Sub → BitVec 8
  | .none => 0x00
  | .notPresent => 0x01
  | .homeAbsent => 0x02
  | .homeRemote => 0x03
  | .scratchRange => 0x04
  | .cohortRange => 0x05
  | .weightRange => 0x06
  | .protRead => 0x10
  | .protWrite => 0x11
  | .protExec => 0x12
  | .bankOwner => 0x13
  | .bankUndeclared => 0x14
  | .paRange => 0x15
  | .misaligned => 0x16
  | .remoteRefused => 0x17
  | .classStore => 0x20
  | .classObject => 0x21
  | .classBlock => 0x22
  | .classToken => 0x23
  | .quotaFrame => 0x28
  | .pteReserved => 0x30
  | .pteLevel => 0x31
  | .pteSize => 0x32
  | .pteHome => 0x33
  | .pteAlign => 0x34
  | .pteCombo => 0x35
  | .blkFormat => 0x36
  | .blkOperand => 0x37
  | .barFormat => 0x38
  | .barLimit => 0x39
  | .trvDesc => 0x3A
  | .trvRef => 0x3B
  | .trvNest => 0x3C
  | .trvDepth => 0x3D
  | .sampDesc => 0x3E
  | .tileName => 0x3F
  | .header => 0x40
  | .clauseSplit => 0x41
  | .opcode => 0x42
  | .privileged => 0x43
  | .context => 0x44
  | .wrongClass => 0x45
  | .oneWord => 0x46
  | .reserved => 0x47
  | .guard => 0x48
  | .name => 0x49
  | .pattern => 0x4A
  | .target => 0x4B
  | .divergeU => 0x4C
  | .lookahead => 0x4D
  | .window => 0x4E
  | .objAlign => 0x50
  | .descInvalid => 0x51
  | .entryAbsent => 0x52
  | .stateRange => 0x53
  | .stepLimit => 0x54
  | .diverge => 0x55
  | .eccCrucible => 0x56
  | .pipelineCrucible => 0x57
  | .cardFormat => 0x60
  | .footprint => 0x61
  | .wsSelf => 0x62
  | .jobHandle => 0x63
  | .graphHandle => 0x64
  | .graphUnderflow => 0x65
  | .residue => 0x70
  | .parity => 0x71
  | .decision => 0x72
  | .eccReg => 0x78
  | .eccCoreStore => 0x79
  | .eccAccum => 0x7A
  | .eccWeight => 0x7B
  | .eccL2 => 0x7C
  | .eccDram => 0x7D
  | .bkptOrdinal => 0x80
  | .refuseHome => 0x90
  | .refuseRa => 0x91
  | .refuseRights => 0x92
  | .refuseFirmware => 0x93
  | .ckptNoroom => 0xA0
  | .snapNoroom => 0xA1
  | .migNoroom => 0xA2

/-- The cause group a subcause belongs to (R31, R338, R399). -/
def Sub.cause : Sub → Cause
  | .notPresent | .homeAbsent | .homeRemote | .scratchRange | .cohortRange | .weightRange => .translation
  | .protRead | .protWrite | .protExec | .bankOwner | .bankUndeclared | .paRange | .misaligned | .remoteRefused =>
    .protection
  | .classStore | .classObject | .classBlock | .classToken => .cls
  | .quotaFrame => .quota
  | .pteReserved | .pteLevel | .pteSize | .pteHome | .pteAlign | .pteCombo | .blkFormat | .blkOperand | .barFormat
  | .barLimit | .trvDesc | .trvRef | .trvNest | .trvDepth | .sampDesc | .tileName => .format
  | .header | .clauseSplit | .opcode | .privileged | .context | .wrongClass | .oneWord | .reserved | .guard | .name
  | .pattern | .target | .divergeU | .lookahead | .window => .illegal
  | .objAlign => .object
  | .residue | .parity | .decision => .pipeline
  | .eccReg | .eccCoreStore | .eccAccum | .eccWeight | .eccL2 | .eccDram => .ecc
  | .bkptOrdinal => .bkpt
  | .none => .trap
  | _ => .engine


/-! ## Stalls -/

/-- The state in which an actor stalls, otherwise unchanged. -/
def State.stalled (s : State) (x : Actor) (why : Stall) : State :=
  match x with
  | .wave a w sp => s.setWave a (w.setSlot (slotOf a) (some { sp with stall := why }))
  | .par p r => s.setPar p { r with stall := why }

/-! ## Stops (R337) -/

/-- Operations a stop cancels: loads, TEX reads, row reads, and accesses that wait for their walks (R337 step 3). -/
def OpKind.cancellable : OpKind → Bool
  | .load _ | .trace | .sample | .pidld | .uld | .waitv | .qwait | .walk => true
  | .barrier _ _ _ own => !own
  | .mdrain amx => !amx
  | _ => false

/-- The counters of operations that are given up fall (R173). -/
def Counters.without (c : Counters) (gone : List Op) : Counters :=
  gone.foldl (fun (c : Counters) (o : Op) => match o.ctr with | some k => c.down k | none => c) c

/-- A parison whose access no longer waits for its walk. -/
def Parison.dropWalk (r : Parison) : Parison :=
  { r with ops := r.ops.filter fun o => o.kind != .walk, ctr := r.ctr.without (r.ops.filter fun o => o.kind == .walk) }

/-- An access of an agent that waited for its walk is made again: it is counted anew when it issues (R24). -/
def State.unwalk (s : State) (a : AgentId) : State :=
  match a with
  | .gaffer p => match look p s.pars with
    | some r => if r.ops.any (fun o => o.kind == .walk) then s.setPar p r.dropWalk else s
    | none => s
  | a => match s.waveOf a with
    | some w =>
      let mine (o : Op) : Bool := o.kind == .walk && o.slot == slotOf a
      if w.ops.any mine then s.setWave a { w with ops := w.ops.filter fun o => !mine o, ctr := w.ctr.without (w.ops.filter mine) } else s
    | none => s

/-- A split placed at a safe point. A split at a safe-point header stays; a parked one stays parked; every other one
goes back to the entry of its open region. -/
def placeSplit (im : Option Image) (sp : Split) : Split :=
  if sp.parked.isSome || sp.precise then { sp with wait := .none, ahead := [] } else
  match im with
  | none => { sp with wait := .none, ahead := [] }
  | some im =>
    match (if sp.pos.inside || sp.wait != .none then none else ordinalAt im sp.pos.hofs) with
    | some o => { sp with pos := { sp.pos with ord := o, pc := sp.pos.hofs }, wait := .none, ahead := [], freed := [] }
    | none => { sp with pos := (sp.pos.goHeader ((headerOf im sp.pos.ord).getD sp.pos.hofs)), wait := .none, ahead := [] }

/-- A name that a split's region has read for the last time, as it was: a name that is UNDEF gets every lane back, another one the
split's lanes. -/
def Wave.unfree (w : Wave) (act : Word) (e : Nat × List Word) : Wave :=
  let old : List Word := match nth w.vmap e.1 .undef with
    | .phys v => perLane fun l => if act.getLsbD l then nth e.2 l 0 else nth v l 0
    | _ => e.2
  { w with vmap := w.vmap.set e.1 (.phys old) }

/-- What the regions of a wave's splits did to its names is discarded: those whose splits stand at their regions' entries again get
back the names they had released (R337 step 2). -/
def Wave.unfreeAll (w : Wave) : Wave :=
  let sps := w.slots.filterMap id ++ w.pend
  let w := sps.foldl (fun (w : Wave) sp =>
    if sp.parked.isSome || sp.precise then w else sp.freed.foldl (fun w e => w.unfree sp.act e) w) w
  let clean (sp : Split) : Split := { sp with freed := [] }
  { w with slots := w.slots.map fun o => o.map clean, pend := w.pend.map clean }

/-- Every split of a wave, those on the pending-path stack included. -/
def Wave.splits (w : Wave) : List Split := w.slots.filterMap id ++ w.pend

/-- The names in no split's live map are released, and no result still on its way is written to them (R337 step 5); a precise split
keeps every name. -/
def Wave.dropDead (w : Wave) (im : Option Image) : Wave :=
  match im with
  | none => w
  | some im =>
    if w.splits.any (·.precise) then w else
    let live := w.splits.foldl (fun m sp => m ||| ((im.sps[sp.pos.ord]?).map (·.vlive)).getD 0) 0
    let keep (o : Op) : Op := if o.kind = .fpFunction then { o with vdst := o.vdst.filter fun n => Nat.testBit live n } else o
    { w with vmap := (List.range w.vmap.length).map fun n => if Nat.testBit live n then nth w.vmap n .undef else .undef
             ops := w.ops.map keep }

/-- Whether a split waits within an irrevocable instruction that has issued: a BARS whose phase has not completed, or a
QSIG whose signals are not all performed (R276, R278, R337). -/
def committed (ops : List Op) (slot : Nat) : Bool :=
  ops.any fun o => o.slot == slot && (match o.kind with | .barrier _ _ _ own => own | .qsig => true | _ => false)

/-- A wave stopped (R337): it issues nothing further, its splits stand at safe points, its loads are cancelled. -/
def Wave.stop (w : Wave) (im : Option Image) : Wave :=
  let gone := w.ops.filter fun (o : Op) => o.kind.cancellable
  let place (k : Nat) (x : Option Split) : Option Split := if committed w.ops k then x else x.map (placeSplit im)
  let w := { w with
    status := .stopped
    slots := (List.range w.slots.length).map fun k => place k (nth w.slots k none)
    pend := w.pend.map (placeSplit im)
    ops := w.ops.filter fun (o : Op) => !o.kind.cancellable
    ctr := w.ctr.without gone }
  w.unfreeAll.dropDead im

/-- Whether every store, atomic, call and barrier arrival a stopped wave issued has retired, and every long-latency result has been
written (R237, R337 step 3); submitted jobs keep running. -/
def settled (ops : List Op) : Bool := ops.all fun o => match o.kind with | .job _ | .shadow 1 => true | _ => false

/-- What the shadow of an operation is for whoever waits for it (R154): a job, a store or write-back, another access that a fence
waits for (R90), or nothing of these. What waits for a phase, for a value or for a walk has nothing left to perform. -/
def OpKind.shadowCode : OpKind → Nat
  | .job _ => 1
  | .fpFunction | .mma | .mzero | .pidld | .walk | .barrier _ _ _ _ | .waitv | .qwait => 0
  | .store | .cctl _ => 3
  | .shadow k => k
  | _ => 2

/-! ## Taking a trap (R339 to R342) -/

/-- A cause added to the pending ones: at most 16, a later one sets OVF in the first (R339). -/
def addCause (cs : List CauseRec) (c : CauseRec) : List CauseRec :=
  if cs.length < 16 then cs ++ [c]
  else match cs with
    | x :: t => { x with ovf := true } :: t
    | [] => []

/-- The queue whose event a block's traps are (R342). -/
def State.queueOfBlock (s : State) (b : Option BlockRef) : Nat :=
  ((b.bind s.blockOf).map (·.queue)).getD 0

/-- An event added to a die's firmware queue of 1,024 entries, or held by its source while that is full; an event already
there is not added again (R328). -/
def State.pushEvent (s : State) (d : Die) (e : FwEvent) : State :=
  let x := s.die d
  if x.events.contains e || x.late.contains e then s
  else if x.late.isEmpty && decide (x.events.length < 1024) then s.setDie d { x with events := x.events ++ [e] }
  else s.setDie d { x with late := x.late ++ [e] }

/-- Events that their sources held enter the queue while it has room, oldest first (R328). -/
def DieState.refill (x : DieState) : DieState :=
  let n := 1024 - x.events.length
  { x with events := x.events ++ x.late.take n, late := x.late.drop n }

/-- Whether one of the 12 firmware cores of a die is idle (R328). -/
def State.fwIdle (s : State) (d : Die) : Bool := (List.range 12).any fun n => !(s.fwCore d n).busy

/-- A wave whose every lane has exited (R208); it leaves its core once its counters are zero. -/
def Wave.end (w : Wave) : Wave :=
  { w with status := .ended, slots := List.replicate 4 none, pend := [], joins := List.replicate 31 none, causes := [] }

/-- An entry for a context's fault queue, which firmware writes (R344). -/
def State.faultEntry (s : State) (ctx : Nat) (d : Die) (kind : Nat) (body : List Byte) : State :=
  match s.ctx ctx with
  | some c => s.putCtx { c with faults := c.faults ++ [(kind, d, body)] }
  | none => s

/-- A record of kind 4 to 8: pair time, subcause, node index of a graph record, address (R344). -/
def State.faultNote (s : State) (ctx : Nat) (d : Die) (kind : Nat) (sub : BitVec 8) (node va : Nat) : State :=
  s.faultEntry ctx d kind (bytesOf 8 (s.now d) ++ [sub, 0, 0, 0] ++ bytesOf 4 node ++ bytesOf 8 va ++ List.replicate 8 0)

/-- A parison that waits at a JOIN for the one in `entry`, passing it alone: the top of its cut stack is popped
(R162). -/
def passAlone (p : ParId) (q : ParId × Parison) : ParId × Parison :=
  let r := q.2
  match r.cuts with
  | (sib, _) :: t =>
    if r.mode = .waitJoin && q.1.die = p.die && q.1.core = p.core && sib = p.entry
    then (q.1, { r with mode := .form, cuts := t, pos := r.pos.advance 2, stall := .issued }) else q
  | [] => q

/-- Siblings that wait for a parison which has blown, ended or been descheduled pass their JOIN alone (R162). -/
def State.freeSiblings (s : State) (p : ParId) : State := { s with pars := s.pars.map (passAlone p) }

/-- The cut stacks of a core after a parison's entry has come free: each entry that names it names `f` of it instead (R162). An entry from
64 on names nobody, so that a later parison in the same table entry is not taken for the sibling. -/
def State.renameSibling (s : State) (p : ParId) (f : Nat → Nat) : State :=
  let one (c : Nat × Nat) : Nat × Nat := if c.1 = p.entry then (f c.1, c.2) else c
  { s with pars := s.pars.map fun (q : ParId × Parison) =>
      if q.1.die = p.die ∧ q.1.core = p.core then (q.1, { q.2 with cuts := q.2.cuts.map one }) else q }

/-- A parison that has ended: a sibling that waits for it passes its JOIN alone, and no cut stack names it any more (R162). -/
def State.endSibling (s : State) (p : ParId) : State := (s.freeSiblings p).renameSibling p (· + 64)

/-- The parison of a wave marked as having lost items (R161). -/
def State.holed (s : State) (w : Wave) : State :=
  match w.par with
  | some p => match look p s.pars with
    | some r => s.setPar p { r with holes := true }
    | none => s
  | none => s

/-- The wave or parison a trap window is bound to, ended: every lane exits (R208, R314 action 0b01). A parison in form mode ends; the waves
of one that has blown end, and it with them. -/
def State.endBound (s : State) : Bound → State
  | .none => s
  | .wave w => match look w s.waves with
    | some x => { s.holed x with waves := put w x.end s.waves }
    | none => s
  | .par p => match look p s.pars with
    | none => s
    | some r =>
      if r.mode = .blown then
        let wave (e : WaveId × Wave) : WaveId × Wave := if e.2.par = some p then (e.1, e.2.end) else e
        { s.setPar p { r with causes := [], holes := true } with waves := s.waves.map wave }
      else (s.setPar p { r with mode := .ended, causes := [] }).endSibling p

/-- The queue of what a window is bound to. -/
def State.boundQueue (s : State) : Bound → Option QueueRef
  | .none => none
  | .wave w => (look w s.waves).map fun x => ⟨x.ctx, s.queueOfBlock x.block⟩
  | .par p => (look p s.pars).map fun r => ⟨r.ctx, s.queueOfBlock (some r.block)⟩

/-- The block of what a window is bound to. -/
def State.boundBlock (s : State) : Bound → Option BlockRef
  | .none => none
  | .wave w => (look w s.waves).bind fun x => x.block
  | .par p => (look p s.pars).map fun r => r.block

/-- The context a trap window's wave or parison belongs to. -/
def State.boundCtx (s : State) : Bound → Option Nat
  | .none => none
  | .wave w => (look w s.waves).map (·.ctx)
  | .par p => (look p s.pars).map (·.ctx)

/-- The subcause a batch fails with for that of a cause: every PIPELINE and every ECC error has one of the crucible's own (R399). -/
def batchSub (sub : Sub) : Sub :=
  match sub.cause with
  | .pipeline => .pipelineCrucible
  | .ecc => .eccCrucible
  | _ => sub

/-- What a trap of a combiner wave does: the batch fails with the subcause (R124). -/
def State.failBatch (s : State) (r : SliceRef) (sub : Sub) (wofs : Nat) : State :=
  let c := s.crucible r
  s.putCrucible r { c with fail := some (sub, wofs), done := true, wave := { c.wave with status := .ended } }

/-- Ending a firmware handler: its wave ends, the window is released, the core is free (R313, R314). -/
def State.freeFw (s : State) (d : Die) (n : Nat) : State := s.putFw d n {}

/-- A queue's ordering lock set or released (R328). -/
def State.lockQueue (s : State) (q : Option QueueRef) (on : Bool) : State :=
  match q with
  | some q => { s with queues := updFirst (fun e => decide (e.1 = q)) (fun e => (e.1, { e.2 with locked := on })) s.queues }
  | none => s

/-- A handler ends what its core's window is bound to (R314 action 0b01): its launch is marked ENDED, the queue's lock, the window and
the core are free. -/
def State.endsBound (s : State) (d : Die) (n : Nat) : State :=
  let b := (s.fwCore d n).window
  let id : Option Nat := ((s.boundBlock b).bind s.blockOf).map fun x => x.launch
  let mark (l : Launch) : Launch := if l.status = 0 then { l with status := 15 } else l
  ((({ s with launches := updAll (fun l => id == some l.id) mark s.launches }).endBound b).lockQueue (s.boundQueue b) false).freeFw d n

/-- The 32 bytes of a cause record (R341). -/
def CauseRec.bytes (c : CauseRec) : List Byte :=
  let b (x : Bool) (n : Nat) : Nat := if x then 2 ^ n else 0
  bytesOf 4 (b c.ovf 21 + b c.held 20 + b c.precise 19 + b c.gaffer 18 + c.slot * 2 ^ 16 + c.sub.code.toNat * 2 ^ 8
    + c.cause.code) ++ bytesOf 4 c.mask.toNat ++ bytesOf 8 c.ea.toNat ++ bytesOf 4 c.wofs ++ bytesOf 4 c.ord
    ++ bytesOf 4 c.detail ++ bytesOf 4 (c.ctx * 2 ^ 16 + c.image)

/-- A fault of a firmware wave (R313): the handler ends, what its window is bound to is ended, a trap record goes to
the fault queue of its context, and the event is counted. -/
def State.firmwareFault (s : State) (d : Die) (n : Nat) (c : CauseRec) : State :=
  let bound := (s.fwCore d n).window
  let s := match s.boundCtx bound with
    | some cx => s.faultEntry cx d 3 { c with ctx := cx }.bytes
    | none => s
  let s := s.endsBound d n
  let x := s.die d
  s.setDie d { x with life := { x.life with windowFaults := more32 x.life.windowFaults } }

/-- The record of a cause raised by an actor at its present position. -/
def Actor.record (x : Actor) (c : Cause) (sub : Sub) (mask : Word) (ea : DWord) (detail : Nat) : CauseRec :=
  match x with
  | .wave a w sp => { cause := c, sub := sub, slot := slotOf a, mask := mask, ea := ea, wofs := sp.pos.pc,
                      ord := sp.pos.ord, detail := detail, ctx := w.ctx, image := w.image }
  | .par _ r => { cause := c, sub := sub, gaffer := true, precise := true, mask := 0xFFFFFFFF, ea := ea,
                  wofs := r.pos.pc, ord := r.pos.ord, detail := detail, ctx := r.ctx, image := r.image }

/-- One cause for each distinct subcause, with the mask of its lanes, the address of the lowest and its walk level. -/
def faultRecs (x : Actor) (bad : List (Nat × Nat × Sub × Nat)) : List CauseRec :=
  (dedup (bad.map fun e => e.2.2.1)).map fun sub =>
    let mine := bad.filter fun e => e.2.2.1 == sub
    let (ea, level) := (mine.head?.map fun e => (e.2.1, e.2.2.2)).getD (0, 0)
    let mask := match x with
      | .wave _ _ _ => maskOf fun l => mine.any fun e => e.1 == l
      | .par _ _ => 0xFFFFFFFF
    x.record sub.cause sub mask (BitVec.ofNat 64 ea) level

/-- Whether two agents are one wave, or the same agent. -/
def sameWave : AgentId → AgentId → Bool
  | .wave v _, .wave w _ => decide (v = w)
  | a, b => decide (a = b)

/-- The walks of an agent, and of the other splits of its wave, that ended at a fault are done with. -/
def State.clearWalks (s : State) (a : AgentId) : State :=
  let c := coreOf a
  let d := s.die c.die
  let done (e : WalkReq × WalkSt) : Bool := sameWave a e.1.agent && (match e.2 with | .fault _ _ => true | _ => false)
  if d.walks.any done then s.setDie c.die { d with walks := d.walks.filter fun e => !done e } else s

/-- Lanes with their addresses, as an operation keeps them. -/
def laneVas (eas : List (Nat × Nat)) : List (Nat × List Word) :=
  eas.map fun e => (e.1, [BitVec.ofNat 32 e.2, BitVec.ofNat 32 (e.2 / 2 ^ 32)])

/-- The lanes and addresses that an operation keeps. -/
def Op.lanes (o : Op) : List (Nat × Nat) := o.results.map fun e => (e.1, (Word.pair (nth e.2 1 0) (nth e.2 0 0)).toNat)

/-- What a waiting access's walks have come to in the lanes that fault. -/
def State.walkBad (s : State) (o : Op) : List (Nat × Nat × Sub × Nat) :=
  o.lanes.filterMap fun e =>
    let va := e.2
    (o.walks.find? fun q => q.va == 4096 * (va / 4096)).bind fun q =>
      match look q (s.die (coreOf q.agent).die).walks with
      | some (.fault sub level) => some (e.1, va, sub, level)
      | _ => none

/-- The causes of the other splits of a wave whose accesses' walks have ended at a fault as well (R339: causes raised together are
all recorded before any is delivered). -/
def State.otherFaults (s : State) (x : Actor) : List CauseRec :=
  match x with
  | .wave (.wave id k) w _ => (List.range 4).flatMap fun j =>
    match nth w.slots j none, w.ops.find? fun o => o.kind == .walk && o.slot == j with
    | some sp, some o => if j = k then [] else faultRecs (.wave (.wave id j) w sp) (s.walkBad o)
    | _, _ => []
  | _ => []

/-- Taking a trap: the causes are recorded, with those of the wave's other splits that are raised together (R339), the wave or parison stops, and the stop becomes an event of its launch
queue (R339, R337, R342). A precise split stands where `pos` says with everything kept. A combiner wave's trap fails
its batch; a firmware wave's ends its handler (R124, R313). -/
def State.trap (s : State) (x : Actor) (cs : List CauseRec) (precise : Option Pos) : State :=
  match x with
  | .wave (.combiner r) _ sp => s.failBatch r (batchSub ((cs.head?.map (·.sub)).getD .none)) sp.pos.pc
  | .wave (.firmware d n) _ _ => match cs with
    | c :: _ => s.firmwareFault d n c
    | [] => s
  | .wave a w sp =>
    let sp' := match precise with
      | some p => { sp with pos := p, precise := true, stall := .stopped }
      | none => { sp with stall := .stopped }
    let others := s.otherFaults x
    let w := { w.setSlot (slotOf a) (some sp') with
      causes := ((cs.map fun (c : CauseRec) => { c with precise := precise.isSome }) ++ others).foldl addCause w.causes }
    let s := (s.clearWalks a).setWave a (w.stop (s.image w.ctx w.image))
    match a with
    | .wave id _ => s.pushEvent id.die (.trap id w.ctx (s.queueOfBlock w.block))
    | _ => s
  | .par p r =>
    let r0 := r.dropWalk
    let r1 := { r0 with causes := cs.foldl addCause r.causes, status := .stopped, stall := .stopped,
                        pos := precise.getD r.pos, precise := true }
    ((s.clearWalks (.gaffer p)).setPar p r1).pushEvent p.die (.trapPar p r.ctx (s.queueOfBlock (some r.block)))

/-- The lane a source is taken from (R187). -/
def srcLane (b : Byte) (l : Nat) : Nat :=
  let p := (b.extractLsb' 0 5).toNat
  match (b.extractLsb' 5 2).toNat with
  | 0 => (l + p) % 32
  | 1 => p
  | 2 => l ^^^ p
  | _ => l ^^^ (2 ^ p - 1)

/-- The lane an operand with a pattern field is read from. -/
def Wave.src (w : Wave) (pat l : Nat) : Nat := if pat = 0 then l else srcLane (nth w.xpat (pat - 1) 0) l

/-- The trap of one cause with no lanes of its own: the mask is the split's active lanes. -/
def State.raise (s : State) (x : Actor) (c : Cause) (sub : Sub) : State :=
  let m := match x with
    | .wave _ _ sp => sp.act
    | .par _ _ => 0xFFFFFFFF
  s.trap x [x.record c sub m 0 0] none

end Sys2Proof.Machine
end

