-- ==== Sys2Proof/Machine/Soft.lean ====
section
/-! DEFINITION. Soft errors: the checks of the memories and of the datapaths (R51, R362; log entry 86). -/

namespace Sys2Proof.Machine

/-- A table of counts with one raised, saturating at 32 bits (R392). -/
def bump (k n : Nat) (l : List (Nat × Nat)) : List (Nat × Nat) := put k (min (2 ^ 32 - 1) ((look k l).getD 0 + n)) l

/-- The unit of R51 that a place belongs to, in its table's order; a datapath and the staging copy of a crucible belong to none. -/
def FlawAt.unit : FlawAt → Option Nat
  | .reg _ _ _ => some 0
  | .store _ _ | .path _ _ | .l1 _ _ _ => some 1
  | .tile _ _ _ => some 2
  | .weight _ _ => some 3
  | .l2 _ => some 4
  | .dram _ => some 5
  | .stage _ | .datapath _ _ | .row _ => none

/-- The lifetime records of a die changed. -/
def State.onLife (s : State) (d : Die) (f : Lifetime → Lifetime) : State :=
  let x := s.die d
  s.setDie d { x with life := f x.life }

/-- A die's lifetime records written to flash (R392). -/
def State.flash (s : State) (d : Die) : State :=
  let x := s.die d
  { s.setDie d { x with lifeFlash := x.life } with log := .flashed d :: s.log }

/-- Single-bit errors of a die: each is corrected in the data returned and in the stored copy, and added to the count of its unit
(R51). -/
def State.corrected (s : State) (d : Die) (fs : List Flaw) : State :=
  let add (c : List (Nat × Nat)) (f : Flaw) : List (Nat × Nat) := match f.at_.unit with
    | some u => bump u 1 c
    | none => c
  s.onLife d fun l => { l with corrected := fs.foldl add l.corrected }

/-- A read of some places: the single-bit errors that stand there are corrected and counted, and an uncorrectable one is met, which
ends it. -/
def State.meets (s : State) (d : Die) (p : FlawAt → Bool) : State × Bool :=
  if s.flaws.any (fun f => p f.at_) then
    let mine := s.flaws.filter fun f => p f.at_
    (({ s with flaws := s.flaws.filter fun f => !p f.at_ }).corrected d (mine.filter fun f => !f.double), mine.any (·.double))
  else (s, false)

/-- Some places written: the errors that stood there are gone. -/
def State.heals (s : State) (p : FlawAt → Bool) : State :=
  if s.flaws.any (fun f => p f.at_) then { s with flaws := s.flaws.filter fun f => !p f.at_ } else s

/-- A mismatch of a core's datapath is counted; a crucible's and a firmware core's belong to no core (R392). -/
def State.pipelineError (s : State) (a : AgentId) : State :=
  let c := coreOf a
  match a with
  | .wave _ _ | .gaffer _ => s.onLife c.die fun l => { l with pipeline := bump c.core 1 l.pipeline }
  | _ => s

/-- The lanes of its sources that an instruction of a split reads: those that its executing lanes name, through its patterns (R187); STBLK
reads all 32 of B, and one that executes in no lane the lanes of act, where it takes an operand from there (R301, R305, R309). -/
def Wave.laneReads (w : Wave) (sp : Split) (f : Form) : Word :=
  let ex := w.exec sp f
  let (xa, xb, xc) := f.pats
  if f.opc = 0x83 then 0xFFFFFFFF
  else if ex = 0 then (if ([0xB2, 0xB4, 0xC0, 0xC1] : List Nat).contains f.opc then sp.act else 0)
  else maskOf fun l => (lanesOf ex).any fun e => l == w.src xa e || l == w.src xb e || l == w.src xc e

/-- The soft error that an instruction of an actor meets: a mismatch of its datapath, which suppresses its result (R362), or an
uncorrectable error in a register's lane that it reads (R51). Lanes that it writes hold no error any more. -/
def State.softAt (s : State) (a : AgentId) (f : Form) : State × Option (Cause × Sub) :=
  if s.flaws.isEmpty then (s, none) else
  let d := (coreOf a).die
  let (s, res) := s.meets d fun k => k == .datapath a false
  if res then (s.pipelineError a, some (.pipeline, .residue)) else
  let (s, par) := s.meets d fun k => k == .datapath a true
  if par then (s.pipelineError a, some (.pipeline, .parity)) else
  match a with
  | .wave id k =>
    (match (s.waveOf a).bind fun w => (nth w.slots k none).map fun sp => (w, sp) with
    | none => (s, none)
    | some (w, sp) =>
      let reads := w.laneReads sp f
      let ex := w.exec sp f
      let (s, bad) := s.meets d fun k => match k with
        | .reg v n l => v == id && f.vreads.contains n && reads.getLsbD l
        | _ => false
      if bad then (s, some (.ecc, .eccReg)) else
      (s.heals fun k => match k with
        | .reg v n l => v == id && f.vwrites.contains n && ex.getLsbD l
        | _ => false, none))
  | _ => (s, none)

/-- The error met where a wave has taken a pending path from the core store's reserved area: entry `k`, counted from the bottom of its
stack, stands there no longer (R35, R51). -/
def State.pathFlaw (s : State) (id : WaveId) (w : Wave) : State × Bool :=
  s.meets id.die fun k => match k with
    | .path v n => v == id && decide (w.pend.length ≤ n)
    | _ => false

/-- Whether an error arises where nothing reads: in an entry of a pending-path stack that holds no path. -/
def State.flawIdle (s : State) (f : Flaw) : Bool :=
  match f.at_ with
  | .path v n => (look v s.waves).all fun w => decide (w.pend.length ≤ n)
  | _ => false

/-- The soft error that a batch's engine meets: in its staging copy, or a mismatch of its datapath (R124, R362). -/
def State.engineFlaw (s : State) (r : SliceRef) : State × Option Sub :=
  if s.flaws.isEmpty then (s, none) else
  let (s, bad) := s.meets r.die fun k => k == .stage r
  if bad then (s, some .eccCrucible) else
  let (s, mis) := s.meets r.die fun k => k == .datapath (.combiner r) false || k == .datapath (.combiner r) true
  (s, if mis then some .pipelineCrucible else none)

/-- The error met where a line is read at its home: in the slice, whose clean copy is fetched again from DRAM, or in DRAM (R51). -/
def State.lineFlaw (s : State) (l : LineRef) (dirty : Bool) : State × Option Sub :=
  if s.flaws.isEmpty then (s, none) else
  let d := serverOf l.home
  let (s, slice) := s.meets d fun k => k == .l2 l
  if slice && dirty then (s, some .eccL2) else
  let (s, array) := s.meets d fun k => k == .dram l
  if array then (s, some .eccDram) else (s, none)

/-- The error met where a core reads `n` bytes of a place of its own store, of a scratchpad or of a weight store; a clean L1 line is
dropped, to be fetched again (R51). -/
def State.placeFlaw (s : State) (c : CoreRef) (n : Nat) (p : Place) : State × Option Sub :=
  match p with
  | .scratch r ofs =>
    let (s, bad) := s.meets c.die fun k => match k with
      | .store b g => b == r && decide (ofs / 8 ≤ g) && decide (g ≤ (ofs + n - 1) / 8)
      | _ => false
    if bad then (s, some .eccCoreStore) else (s, none)
  | .weight d ofs =>
    let (s, bad) := s.meets d fun k => match k with
      | .weight e g => e == d && decide (ofs / 32 ≤ g) && decide (g ≤ (ofs + n - 1) / 32)
      | _ => false
    if bad then (s, some .eccWeight) else (s, none)
  | .mem h pa =>
    let l : LineRef := ⟨h, pa / 128⟩
    let (s, bad) := s.meets c.die fun k => match k with
      | .l1 d m g => d == c && m == l && decide (pa % 128 / 8 ≤ g) && decide (g ≤ (pa % 128 + n - 1) / 8)
      | _ => false
    if !bad then (s, none) else
    let d := s.die c.die
    let mine (x : L1Line) : Bool := x.core == c.core && x.line == l
    match d.l1.find? mine with
    | some x => if x.owned || x.dirty then (s, some .eccCoreStore)
        else (s.setDie c.die { d with l1 := d.l1.filter fun x => !mine x }, none)
    | none => (s, none)

/-- The lanes whose places hold an uncorrectable error, with its subcause. -/
def State.laneFlaws (s : State) (c : CoreRef) (n : Nat) :
    List (Nat × Nat × Place × DWord) → State × List (Nat × Nat × Sub × Nat)
  | [] => (s, [])
  | e :: t =>
    let (s, b) := s.placeFlaw c n e.2.2.1
    let r := State.laneFlaws s c n t
    (r.1, match b with
      | some sub => (e.1, e.2.1, sub, 0) :: r.2
      | none => r.2)

end Sys2Proof.Machine
end

