-- ==== Sys2Proof/Machine/Translate.lean ====
section
/-! DEFINITION. Leaf entries, the checks of an access, the seven-level walk, the TLBs and the requests to the page walker
(R15 to R25, R50, R130, R131). -/

namespace Sys2Proof.Machine

/-! ## Entries (R19, R21) -/

/-- Bits `[hi:lo]` of an entry as a number. -/
def entryBits (e : DWord) (hi lo : Nat) : Nat := e.toNat / 2 ^ lo % 2 ^ (hi + 1 - lo)

/-- Size code. -/
def leafSz (e : DWord) : Nat := entryBits e 5 2

/-- Page size in bytes (R17). -/
def pageBytes (e : DWord) : Nat := 2 ^ (12 + 2 * leafSz e)

/-- Class. -/
def leafCls (e : DWord) : PClass :=
  match entryBits e 7 6 with
  | 0 => .priv
  | 1 => .readShared
  | 2 => .coherent
  | _ => .object

/-- Home (R19 HM); 0b11 faults before it is read. -/
def leafHome (e : DWord) : Home :=
  match entryBits e 13 12 with
  | 0 => .kapael
  | 1 => .amdukor
  | _ => .host

/-- The code of a home in HM. -/
def homeCode : Home → Nat
  | .kapael => 0
  | .amdukor => 1
  | .host => 2

/-- Physical address of the page. -/
def leafBase (e : DWord) : Nat := 4096 * entryBits e 55 20

/-- Physical address of a byte (R18). -/
def leafPa (e : DWord) (va : Nat) : Nat := leafBase e / pageBytes e * pageBytes e + va % pageBytes e

/-- First virtual address of the page that holds `va`. -/
def pageVa (e : DWord) (va : Nat) : Nat := va / pageBytes e * pageBytes e

/-- Fields of a leaf that are one bit (R19). -/
def leafR (e : DWord) : Bool := e.getLsbD 8
@[inherit_doc leafR] def leafW (e : DWord) : Bool := e.getLsbD 9
@[inherit_doc leafR] def leafX (e : DWord) : Bool := e.getLsbD 10
@[inherit_doc leafR] def leafBlk (e : DWord) : Bool := e.getLsbD 11
@[inherit_doc leafR] def leafRa (e : DWord) : Bool := e.getLsbD 14
@[inherit_doc leafR] def leafMv (e : DWord) : Bool := e.getLsbD 15
@[inherit_doc leafR] def leafD (e : DWord) : Bool := e.getLsbD 16
@[inherit_doc leafR] def leafA (e : DWord) : Bool := e.getLsbD 17
@[inherit_doc leafR] def leafRst (e : DWord) : Bool := e.getLsbD 18

/-- The illegal combinations of R20. -/
def comboIllegal (e : DWord) : Bool :=
  (leafW e && !leafR e) || (leafCls e == .object && (leafX e || leafBlk e))
    || (leafCls e == .object && leafHome e == .host)

/-- DRAM size of a member (R49). -/
def dramBytes : Die → Nat
  | .kapael => 24 * 2 ^ 30
  | .amdukor => 48 * 2 ^ 30

/-- The firmware reserve is the top 256 MiB (R49). -/
def reserveBytes : Nat := 2 ^ 28

/-- The range check of a leaf (R50). -/
def paRangeBad (e : DWord) : Bool :=
  match leafHome e with
  | .host => false
  | .kapael => decide (dramBytes .kapael - reserveBytes < leafBase e + pageBytes e)
  | .amdukor => decide (dramBytes .amdukor - reserveBytes < leafBase e + pageBytes e)

/-- Whether an access writes, so that D must be set (R23). -/
def accWrites : Access → Bool
  | .store | .atomic | .blkStore | .ocall | .engineWrite | .tokenWrite => true
  | _ => false

/-- The checks of R25, in order, with the token class of R279; PREF is checked as a load is (R262). -/
def checkAccess (e : DWord) (acc : Access) : Option Sub :=
  let cls := leafCls e
  let token := acc == .tokenRead || acc == .tokenWrite
  let waveStore := acc == .store || acc == .atomic || acc == .blkStore
  let plain := waveStore || acc == .load || acc == .blkLoad || acc == .pref
  if token && cls != .coherent then some .classToken
  else if waveStore && cls == .readShared then some .classStore
  else if (plain && cls == .object) || (acc == .ocall && cls != .object) then some .classObject
  else if (acc == .blkLoad || acc == .blkStore) && !leafBlk e then some .classBlock
  else if acc == .fetch && (!leafX e || cls != .readShared) then some .protExec
  else if (acc == .load || acc == .blkLoad || acc == .pref || acc == .engineRead || acc == .tokenRead) && !leafR e then
    some .protRead
  else if (waveStore || acc == .engineWrite || acc == .tokenWrite) && !leafW e then some .protWrite
  else none

/-! ## The walk (R22) -/

/-- What a walk comes to. -/
inductive Walk
  | fault (sub : Sub) (level : Nat)
  | need (pa : Nat)
  | hold
  | move (leaf : DWord)
  | leaf (pa : Nat) (e : DWord)
  deriving DecidableEq, Repr

/-- Whether a home can be reached (R22). -/
def State.reachable (s : State) : Home → Bool
  | .kapael => true
  | .amdukor => s.docked
  | .host => s.hostUp

/-- The index of an address at a level (R15). -/
def vaIndex (va level : Nat) : Nat :=
  if level = 6 then va / 2 ^ 60 % 16 else va / 2 ^ (12 + 8 * level) % 256

/-- The checks of a leaf at a level, for an access from a die; `moveth` is the context's MOVETH. -/
def leafCheck (s : State) (d : Die) (moveth : Nat) (acc : Access) (pa : Nat) (e : DWord) (level : Nat) : Walk :=
  if 11 < leafSz e then .fault .pteSize level
  else if 2 < level || leafSz e / 4 != level then .fault .pteLevel level
  else if entryBits e 13 12 == 3 then .fault .pteHome level
  else if comboIllegal e then .fault .pteCombo level
  else if entryBits e 55 20 % 2 ^ (2 * leafSz e) != 0 then .fault .pteAlign level
  else if paRangeBad e then .fault .paRange level
  else if !s.reachable (leafHome e) then .fault .homeAbsent level
  else if leafMv e then .hold
  else match checkAccess e acc with
    | some sub => .fault sub level
    | none =>
      if leafHome e != .host && leafHome e != homeOf d && !leafRa e then
        (if moveth = 0 then .fault .homeRemote level else .move e)
      else .leaf pa e

/-- The walk from a table down; `rd` reads an entry, and none means it has yet to come over the blowpipe. -/
def walkFrom (s : State) (d : Die) (moveth : Nat) (rd : Nat → Option DWord) (va : Nat) (acc : Access) :
    List Nat → Nat → Walk
  | [], _ => .fault .pteLevel 0
  | level :: rest, base =>
    let pa := base + 8 * vaIndex va level
    match rd pa with
    | none => .need pa
    | some e =>
      if !e.getLsbD 0 then .fault .notPresent level
      else if e.getLsbD 1 then
        (if entryBits e 63 56 != 0 || entryBits e 19 12 != 0 || entryBits e 10 2 != 0 then .fault .pteReserved level
        else if level = 0 then .fault .pteLevel level
        else walkFrom s d moveth rd va acc rest (4096 * entryBits e 55 20 + 0x800 * entryBits e 11 11))
      else if entryBits e 63 56 != 0 || e.getLsbD 19 then .fault .pteReserved level
      else leafCheck s d moveth acc pa e level

/-- The levels of the tree, root first (R15). -/
def levels : List Nat := [6, 5, 4, 3, 2, 1, 0]

/-- The table pointers that a walk passes, as the walk cache holds them (R24): level, key, base of the next table. -/
def walkTrail (rd : Nat → Option DWord) (va : Nat) : List Nat → Nat → List (Nat × Nat × Nat)
  | [], _ => []
  | level :: rest, base =>
    match rd (base + 8 * vaIndex va level) with
    | some e =>
      if e.getLsbD 0 && e.getLsbD 1 && level != 0 && entryBits e 63 56 == 0 && entryBits e 19 12 == 0 && entryBits e 10 2 == 0 then
        let next := 4096 * entryBits e 55 20 + 0x800 * entryBits e 11 11
        (level, va / 2 ^ (12 + 8 * level), next) :: walkTrail rd va rest next
      else []
    | none => []

/-- Where a walk begins: below the lowest table pointer that the walk cache holds for the address, else at the root (R24). -/
def walkStart (t : List WalkPtr) (ctx va root : Nat) : List Nat × Nat :=
  let at_ (l : Nat) : Option (List Nat × Nat) :=
    (t.find? fun e => e.ctx == ctx && e.level == l && e.key == va / 2 ^ (12 + 8 * l)).map fun e => ((List.range l).reverse, e.base)
  ((List.range 7).drop 1).findSome? at_ |>.getD (levels, root)

/-- An entry in the resident member's DRAM. -/
def State.entryAt (s : State) (d : Die) (pa : Nat) : DWord :=
  BitVec.ofNat 64 (natOf (Memory.readN (s.mem (homeOf d)) pa 8))

/-- An entry written with one 8-byte store. -/
def State.putEntry (s : State) (d : Die) (pa : Nat) (e : DWord) : State :=
  s.setMem (homeOf d) (Memory.writeN (s.mem (homeOf d)) pa (bytesOf 8 e.toNat))

/-- The walk of a context's tables for an access from a die, every entry at hand; where the tables are lost, the leaf that firmware still
knows, if it does (log entry 100). -/
def State.walkNow (s : State) (c : Context) (d : Die) (va : Nat) (acc : Access) : Walk :=
  match c.lost with
  | none => walkFrom s d c.desc.moveth (fun pa => some (s.entryAt c.resident pa)) va acc levels c.desc.root
  | some l => match l.find? fun e => decide (e.1 ≤ va) && decide (va < e.1 + pageBytes e.2) with
    | some e => leafCheck s d c.desc.moveth acc 0 e.2 (leafSz e.2 / 4)
    | none => .fault .notPresent 6

/-- An entry with A set, and D for a write (R23). -/
def withAD (e : DWord) (acc : Access) : DWord :=
  e ||| BitVec.twoPow 64 17 ||| (if accWrites acc then BitVec.twoPow 64 16 else 0)

/-! ## TLBs (R24) -/

/-- Entries of a die TLB (R24). -/
def dieTlbSize : Die → Nat
  | .kapael => 4096
  | .amdukor => 16384

/-- A TLB with an entry added; the oldest beyond the capacity is lost (log entry 9). -/
def tlbAdd (cap : Nat) (t : List TlbEntry) (e : TlbEntry) : List TlbEntry :=
  let others := t.filter fun x => !(x.core == e.core && x.ctx == e.ctx && x.base == e.base && x.size == e.size)
  let mine := (others.filter fun x => x.core == e.core).take (cap - 1)
  e :: (mine ++ others.filter fun x => x.core != e.core)

/-- A leaf put into a core's TLB and its die's (R22). -/
def State.fillTlb (s : State) (c : CoreRef) (ctx va pa : Nat) (leaf : DWord) : State :=
  let d := s.die c.die
  let e : TlbEntry := { core := some c.core, ctx := ctx, base := pageVa leaf va, size := pageBytes leaf, leaf := leaf, entryPa := pa }
  s.setDie c.die { d with tlb := tlbAdd (dieTlbSize c.die) (tlbAdd 256 d.tlb e) { e with core := none } }

/-- Whether an entry covers an address. -/
def TlbEntry.covers (e : TlbEntry) (ctx va : Nat) : Bool := e.ctx == ctx && decide (e.base ≤ va) && decide (va < e.base + e.size)

/-- The entry a core finds for an address, in its own TLB or its die's. -/
def State.tlbFind (s : State) (c : CoreRef) (ctx va : Nat) : Option TlbEntry :=
  let t := (s.die c.die).tlb
  match t.find? fun e => e.core == some c.core && e.covers ctx va with
  | some e => some e
  | none => t.find? fun e => e.core == none && e.covers ctx va

/-- TLB and walk-cache entries of a range invalidated on a die, with the entries read for walks, those on their way, and what walks of the
range have come to (R26). -/
def State.tlbDrop (s : State) (d : Die) (ctx va len : Nat) : State :=
  let x := s.die d
  let again (e : WalkReq × WalkSt) : WalkReq × WalkSt := match e.2 with
    | .fault _ _ => if e.1.ctx = ctx ∧ e.1.va < va + len ∧ va < e.1.va + 4096 then (e.1, .pending) else e
    | _ => e
  let stale (e : BitVec 16 × ReqFor) : BitVec 16 × ReqFor := match e.2 with
    | .entry n _ => if n = ctx then (e.1, .staleEntry) else e
    | _ => e
  s.setDie d { x with
    tlb := x.tlb.filter fun e => !(e.ctx == ctx && decide (e.base < va + len) && decide (va < e.base + e.size))
    ptGot := x.ptGot.filter fun e => e.1.1 != ctx
    walks := x.walks.map again
    wcache := x.wcache.filter fun e => !(e.ctx == ctx && decide (e.key * 2 ^ (12 + 8 * e.level) < va + len)
      && decide (va < (e.key + 1) * 2 ^ (12 + 8 * e.level)))
    pipe := { x.pipe with open_ := x.pipe.open_.map stale } }

/-- TLB entries that map a part of a frame invalidated on a die, whichever context they belong to (R26, R133). -/
def State.frameDrop (s : State) (d : Die) (h : Home) (pa len : Nat) : State :=
  let x := s.die d
  let hits (e : TlbEntry) : Bool := leafHome e.leaf == h && decide (leafBase e.leaf < pa + len) && decide (pa < leafBase e.leaf + e.size)
  if x.tlb.any hits then s.setDie d { x with tlb := x.tlb.filter fun e => !hits e } else s

/-! ## Translation -/

/-- What translating an address comes to. -/
inductive Tr
  | hit (leaf : DWord) (pa : Nat)
  | miss
  | fault (sub : Sub) (level : Nat)
  deriving DecidableEq, Repr

/-- The request to the walker that an access makes. -/
def walkReq (a : AgentId) (ctx va : Nat) (acc : Access) : WalkReq := { agent := a, ctx := ctx, va := 4096 * (va / 4096), acc := acc }

/-- Translating an address for an access of an agent (R22 to R25). A TLB entry whose D is 0 does not serve a write (R23). -/
def State.translate (s : State) (a : AgentId) (ctx va : Nat) (acc : Access) : Tr :=
  let c := coreOf a
  match look (walkReq a ctx va acc) (s.die c.die).walks with
  | some (.fault sub level) => .fault sub level
  | some _ => .miss
  | none => match s.tlbFind c ctx va with
    | none => .miss
    | some e =>
      if !s.reachable (leafHome e.leaf) then .miss else
      match checkAccess e.leaf acc with
      | some sub => .fault sub (leafSz e.leaf / 4)
      | none => if accWrites acc && !leafD e.leaf then .miss else .hit e.leaf (leafPa e.leaf va)

/-- A request to the walker made, once. -/
def State.wantWalk (s : State) (q : WalkReq) : State :=
  let d := s.die (coreOf q.agent).die
  match look q d.walks with
  | some _ => s
  | none => s.setDie (coreOf q.agent).die { d with walks := d.walks ++ [(q, .pending)] }

/-- What has come of a request to the walker. -/
def State.setWalk (s : State) (q : WalkReq) (w : WalkSt) : State :=
  let d := s.die (coreOf q.agent).die
  s.setDie (coreOf q.agent).die { d with walks := put q w d.walks }

/-- A request to the walker is done with. -/
def State.dropWalk (s : State) (q : WalkReq) : State :=
  let d := s.die (coreOf q.agent).die
  s.setDie (coreOf q.agent).die { d with walks := drop q d.walks }

/-- A move of a page's home to a die, unless one is under way (R131, R134). -/
def State.wantMove (s : State) (ctx va : Nat) (leaf : DWord) (dst : Die) : State :=
  let page := pageVa leaf va
  let src : Die := match leafHome leaf with | .amdukor => .amdukor | _ => .kapael
  if s.moves.any fun m => m.ctx == ctx && m.va == page then s else
  { s with moves := s.moves ++ [{ ctx := ctx, va := page, size := pageBytes leaf, src := src, dst := dst, stage := .wanted,
                                   oldPa := leafBase leaf }] }

end Sys2Proof.Machine
end

