-- ==== Sys2Proof/Machine/Link.lean ====
section
/-! DEFINITION. Sending a message of the blowpipe (R136 to R138), and the walks of a die, which may read entries over it
(R22, R23, R130). -/

namespace Sys2Proof.Machine

/-! ## Message types (R137) -/

/-- Message types, by name (R137). -/
def tyRdReq : Nat := 0x01
@[inherit_doc tyRdReq] def tyRdData : Nat := 0x02
@[inherit_doc tyRdReq] def tyWrReq : Nat := 0x03
@[inherit_doc tyRdReq] def tyWrAck : Nat := 0x04
@[inherit_doc tyRdReq] def tyCombReq : Nat := 0x05
@[inherit_doc tyRdReq] def tyCombRsp : Nat := 0x06
@[inherit_doc tyRdReq] def tyPtRd : Nat := 0x07
@[inherit_doc tyRdReq] def tyPtCas : Nat := 0x08
@[inherit_doc tyRdReq] def tyPtData : Nat := 0x09
@[inherit_doc tyRdReq] def tyShoot : Nat := 0x0A
@[inherit_doc tyRdReq] def tyShootAck : Nat := 0x0B
@[inherit_doc tyRdReq] def tyHomeReq : Nat := 0x0C
@[inherit_doc tyRdReq] def tyHomeGrant : Nat := 0x0D
@[inherit_doc tyRdReq] def tyHomeDeny : Nat := 0x0E
@[inherit_doc tyRdReq] def tyHomeData : Nat := 0x0F
@[inherit_doc tyRdReq] def tyHomeDone : Nat := 0x10
@[inherit_doc tyRdReq] def tyMigData : Nat := 0x11
@[inherit_doc tyRdReq] def tyCkptData : Nat := 0x12
@[inherit_doc tyRdReq] def tyCkptEnd : Nat := 0x13
@[inherit_doc tyRdReq] def tyCkptAck : Nat := 0x14
@[inherit_doc tyRdReq] def tyTokSig : Nat := 0x15

/-! ## Sending (R138) -/

/-- A die's end of the blowpipe. -/
def State.pipe (s : State) (d : Die) : PipeEnd := (s.die d).pipe

/-- The state with an end replaced. -/
def State.setPipe (s : State) (d : Die) (p : PipeEnd) : State := s.setDie d { s.die d with pipe := p }

/-- The key of a context. -/
def State.keyOf (s : State) (ctx : Nat) : BitVec 48 := ((s.ctx ctx).map (·.desc.rkey)).getD 0

/-- A message about a context's address, its sequence number not yet given. -/
def State.mkMsg (s : State) (d : Die) (ty ctx va : Nat) : Msg :=
  { seq := 0, ack := 0, ty := BitVec.ofNat 8 ty, ctx := ctx, rkey := s.keyOf ctx, tag := 0, va := va, aux0 := 0, aux1 := 0,
    time := (s.die d).ptime, payload := [] }

/-- Messages given sequence numbers while fewer than 4,096 are unacknowledged (R138). -/
def PipeEnd.push (p : PipeEnd) : List Msg → PipeEnd
  | [] => { p with backlog := [] }
  | m :: t =>
    if (p.n - p.a).toNat < 4096 then
      PipeEnd.push { p with n := p.n + 1, unacked := p.unacked ++ [{ m with seq := p.n, ack := p.e }] } t
    else { p with backlog := m :: t }

/-- A message sent from a die (R138). -/
def State.sendMsg (s : State) (d : Die) (m : Msg) : State :=
  let p := s.pipe d
  s.setPipe d (p.push (p.backlog ++ [m]))

/-- A request sent from a die under a new tag, unless one for the same purpose is open (R140). -/
def State.request (s : State) (d : Die) (f : ReqFor) (m : Msg) : State :=
  let p := s.pipe d
  if p.open_.any (fun e => e.2 == f) then s else
  (s.setPipe d { p with nextTag := p.nextTag + 1, open_ := p.open_ ++ [(p.nextTag, f)] }).sendMsg d { m with tag := p.nextTag }

/-- The byte mask of a WR_REQ, as AUX0 and AUX1, and the line's bytes (R137). -/
def maskBytes (ws : List (Nat × List Byte)) : Nat × List Byte :=
  let put (acc : List (Option Byte)) (w : Nat × List Byte) : List (Option Byte) := patch acc (w.1 % 128) (w.2.map some)
  let bs := ws.foldl put (List.replicate 128 none)
  (((List.range 128).map fun i => if (nth bs i none).isSome then 2 ^ i else 0).sum, bs.map fun b => b.getD 0)

/-! ## Accesses in place, but for those of an agent's operation (R131) -/

/-- A line of the other member asked for, for firmware, an engine or a wait; such a read takes no lease. Bits [1:0] of AUX0 are the cache
policy of a load, bits [3:2] what reads: a wave's load, a fetch, or an engine (log entry 11). -/
def State.askFar (s : State) (d : Die) (w : FwWho) (ctx va : Nat) (l : LineRef) : State :=
  let kind : DWord := match w with
    | .agent _ => 2
    | _ => 10
  s.request d (.far w ctx (va / 128 * 128) l) { s.mkMsg d tyRdReq ctx (va / 128 * 128) with aux0 := kind }

/-- A line of the other member asked for, for a core's L1 (R83). -/
def State.askLine (s : State) (a : AgentId) (acc : Access) (ctx va : Nat) (leaf : DWord) (l : LineRef) : State :=
  s.request (coreOf a).die (.fill a acc ctx (va / 128 * 128) leaf l) { s.mkMsg (coreOf a).die tyRdReq ctx (va / 128 * 128) with aux0 := if acc = .fetch then 4 else 0 }

/-- Pieces of a line of the other member written over the link. A byte after the line says that an engine writes it (log entry 11). -/
def State.writeFar (s : State) (d : Die) (f : Nat → ReqFor) (ctx va : Nat) (ws : List (Nat × List Byte)) : State :=
  let (m, bytes) := maskBytes ws
  let key := f (s.pipe d).nextTag.toNat
  let kind : List Byte := match key with
    | .farWrite _ _ _ _ => [1]
    | _ => []
  s.request d key { s.mkMsg d tyWrReq ctx (va / 128 * 128) with
    aux0 := BitVec.ofNat 64 m, aux1 := BitVec.ofNat 64 (m / 2 ^ 64), payload := bytes ++ kind }

/-- What an open request reaches: its context and address, for those whose translation is over. -/
def ReqFor.place : ReqFor → Option (Nat × Nat)
  | .far _ ctx va _ | .farWrite _ ctx va _ | .farToken _ ctx va _ | .fill _ _ ctx va _ _ | .backed ctx va _ => some (ctx, va)
  | _ => none

/-- Whether writes or signals that were made for one are still to be acknowledged. -/
def State.farOut (s : State) (d : Die) (w : FwWho) : Bool :=
  (s.pipe d).open_.any fun e => match e.2 with
    | .farWrite x _ _ _ | .farToken x _ _ _ => x == w
    | _ => false

/-- Whether lines of a context that a die's cores have written back are still on their way to the other member. -/
def State.backedOut (s : State) (d : Die) (ctx : Nat) : Bool :=
  (s.pipe d).open_.any fun e => match e.2 with
    | .backed c _ _ => c == ctx
    | _ => false

/-- The line that a read in place has brought for one, taken. -/
def State.takeFar (s : State) (d : Die) (w : FwWho) (l : LineRef) : Option (State × FarLine) :=
  let p := s.pipe d
  (p.far.find? fun x => x.who == w && x.line == l).map fun x =>
    (s.setPipe d { p with far := p.far.filter fun y => !(y.who == w && y.line == l) }, x)

/-- The line that a read in place has brought for one. -/
def State.seeFar (s : State) (d : Die) (w : FwWho) (l : LineRef) : Option FarLine := (s.pipe d).far.find? fun x => x.who == w && x.line == l

/-- The lines that reads in place have brought for one, kept no longer. -/
def State.dropFar (s : State) (d : Die) (w : FwWho) : State :=
  if (s.pipe d).far.any fun x => x.who == w then s.setPipe d { s.pipe d with far := (s.pipe d).far.filter fun x => x.who != w } else s

/-! ## The walker (R22, R23, R130) -/

/-- An entry as a die's walker sees it: read at once on the resident member, else from what has come over the link. -/
def State.walkRead (s : State) (d : Die) (c : Context) (pa : Nat) : Option DWord :=
  if d = c.resident then some (s.entryAt d pa) else look (c.num, pa) (s.die d).ptGot

/-- Bytes of a PT_CAS: expected and new entry. -/
def casPayload (e e' : DWord) : List Byte := bytesOf 8 e.toNat ++ bytesOf 8 e'.toNat

/-- The addresses of the entries that a walk reads. -/
def walkPas (rd : Nat → Option DWord) (va : Nat) : List Nat → Nat → List Nat
  | [], _ => []
  | level :: rest, base =>
    let pa := base + 8 * vaIndex va level
    pa :: (match rd pa with
      | some e => if e.getLsbD 0 && e.getLsbD 1 then walkPas rd va rest (4096 * entryBits e 55 20 + 0x800 * entryBits e 11 11) else []
      | none => [])

/-- The uncorrectable error that a walk meets in the entries that it reads on its own die (R51). -/
def State.walkFlaw (s : State) (d : Die) (pas : List Nat) : State × Option Sub :=
  if s.flaws.isEmpty then (s, none) else
  pas.foldl (fun (r : State × Option Sub) pa =>
    let l : LineRef := ⟨homeOf d, pa / 128⟩
    let q := r.1.lineFlaw l ((s.die d).tags.any fun t => t.home == l.home && t.la == l.la && t.dirty)
    (q.1, r.2 <|> q.2)) (s, none)

/-- Table pointers that a walk has passed put into the walk cache (R24, log entry 9). -/
def State.keepPtrs (s : State) (d : Die) (ctx : Nat) (l : List (Nat × Nat × Nat)) : State :=
  let x := s.die d
  let new := (l.map fun e => ({ ctx := ctx, level := e.1, key := e.2.1, base := e.2.2 } : WalkPtr)).filter fun e => !x.wcache.contains e
  if new.isEmpty then s else s.setDie d { x with wcache := x.wcache ++ new }

/-- A walk that is over: the leaf entries read for it over the link are kept no longer (R130). -/
def State.walkOver (s : State) (d : Die) (ctx : Nat) : State :=
  s.setDie d { s.die d with ptGot := (s.die d).ptGot.filter fun e => e.1.1 != ctx }

/-- One walk of a pending request (R22): the TLBs are filled, the request faults, is held on MV, starts a move, or asks
for an entry over the blowpipe. -/
def State.doWalk (s : State) (q : WalkReq) : State :=
  let d := (coreOf q.agent).die
  match s.ctx q.ctx with
  | none => s.setWalk q (.fault .notPresent 6)
  | some c =>
    let (ls, base) := walkStart (s.die d).wcache q.ctx q.va c.desc.root
    let (s, flaw) := if d = c.resident then s.walkFlaw d (walkPas (s.walkRead d c) q.va ls base) else (s, none)
    match flaw with
    | some sub => (s.walkOver d q.ctx).setWalk q (.fault sub 0)
    | none =>
    let s := s.keepPtrs d q.ctx (walkTrail (s.walkRead d c) q.va ls base)
    match walkFrom s d c.desc.moveth (s.walkRead d c) q.va q.acc ls base with
    | .fault sub level => (s.walkOver d q.ctx).setWalk q (.fault sub level)
    | .hold => (s.walkOver d q.ctx).setWalk q .held
    | .move leaf => ((s.walkOver d q.ctx).wantMove q.ctx q.va leaf d).setWalk q .held
    | .need pa => s.request d (.entry q.ctx pa) { s.mkMsg d tyPtRd q.ctx q.va with aux0 := BitVec.ofNat 64 pa }
    | .leaf pa e =>
      let e' := withAD e q.acc
      if d = c.resident then ((if e = e' then s else s.putEntry d pa e').fillTlb (coreOf q.agent) q.ctx q.va pa e').dropWalk q
      else if e = e' then ((s.walkOver d q.ctx).fillTlb (coreOf q.agent) q.ctx q.va pa e').dropWalk q
      else s.request d (.entry q.ctx pa)
        { s.mkMsg d tyPtCas q.ctx q.va with aux0 := BitVec.ofNat 64 pa, payload := casPayload e e' }

/-- Whether a request has one of its die's 64 walkers: it stands among the first 64 that are not over (R24). -/
def State.hasWalker (s : State) (q : WalkReq) : Bool :=
  (((s.die (coreOf q.agent).die).walks.filter fun e => match e.2 with
    | .fault _ _ => false
    | _ => true).take 64).any fun e => e.1 == q

/-- PAGE_WALK (R22): a walker takes a request that waits for it. -/
def execPageWalk (q : WalkReq) (s : State) : Out :=
  match look q (s.die (coreOf q.agent).die).walks with
  | some .pending => if s.hasWalker q then .next (s.doWalk q) else .next s
  | _ => .next s

/-- Whether a page is being moved. -/
def State.moving (s : State) (ctx va : Nat) : Bool :=
  s.moves.any fun m => m.ctx == ctx && decide (m.va ≤ va) && decide (va < m.va + m.size)

/-- The context an agent works for. -/
def State.ctxOf (s : State) (a : AgentId) : Nat :=
  match a with
  | .gaffer p => ((look p s.pars).map (·.ctx)).getD 0
  | a => ((s.waveOf a).map (·.ctx)).getD 0

/-- MV_HOLD_RELEASE (R22): the accesses of an agent that are held walk again once their page's move has ended. -/
def execMvHoldRelease (a : AgentId) (s : State) : Out :=
  let c := coreOf a
  let d := s.die c.die
  let again (e : WalkReq × WalkSt) : WalkReq × WalkSt :=
    if e.2 = .held ∧ e.1.agent = a ∧ s.moving e.1.ctx e.1.va = false then (e.1, .pending) else e
  .next (s.setDie c.die { d with walks := d.walks.map again })

/-! ## Firmware's own accesses (R400, R401): translated through the context's tables -/

/-- What an access of firmware comes to: done, to be tried again once a move has ended, or faulted at an address. -/
inductive FwRes (α : Type)
  | ok (a : α)
  | wait (s : State)
  | bad (s : State) (sub : Sub) (va : Nat)

/-- Whether a note of a held firmware access is one of its maker's for the 4 KiB of an address. -/
def FwWait.is (w : FwWait) (b : FwBy) (ctx va : Nat) : Bool := decide (w.by_ = b) && w.ctx == ctx && w.va == va / 4096 * 4096

/-- The notes of a firmware access that is held no longer go. -/
def State.fwFree (s : State) (b : FwBy) (ctx va : Nat) : State :=
  if s.fwWaits.any fun w => w.is b ctx va then { s with fwWaits := s.fwWaits.filter fun w => !w.is b ctx va } else s

/-- A firmware access is held at its walk. -/
def State.fwHold (s : State) (b : FwBy) (ctx va : Nat) (acc : Access) : State :=
  if s.fwWaits.any fun w => w.is b ctx va then s
  else { s with fwWaits := s.fwWaits ++ [{ by_ := b, ctx := ctx, va := va / 4096 * 4096, acc := acc }] }

/-- What a walk for firmware comes to that has reached no leaf it may use: it is held, asks for an entry over the link, or faults. -/
def State.fwStopped {α : Type} (s : State) (b : FwBy) (c : Context) (va : Nat) (acc : Access) : Walk → FwRes α
  | .fault sub _ => .bad (s.fwFree b c.num va) sub va
  | .move e => .wait ((s.wantMove c.num va e b.die).fwHold b c.num va acc)
  | .need pa =>
    .wait ((s.request b.die (.entry c.num pa) { s.mkMsg b.die tyPtRd c.num va with aux0 := BitVec.ofNat 64 pa }).fwHold b c.num va acc)
  | .hold | .leaf _ _ => .wait (s.fwHold b c.num va acc)

/-- One page translated for firmware or an engine on its context's member, with A and D set as a walk does (R23). -/
def State.fwNear (s : State) (b : FwBy) (c : Context) (va : Nat) (acc : Access) : FwRes (State × Home × Nat × DWord) :=
  match s.walkNow c b.die va acc with
  | .leaf pa e =>
    let e' := withAD e acc
    let s := s.fwFree b c.num va
    .ok (if e = e' ∨ c.lost.isSome = true then s else s.putEntry c.resident pa e', leafHome e, leafPa e va, e')
  | w => s.fwStopped b c va acc w

/-- One page translated for firmware or an engine on the other member: by the die's TLB, else by a walk whose entries are read, and its A
and D set, over the link (R24, R130). -/
def State.fwFar (s : State) (b : FwBy) (c : Context) (va : Nat) (acc : Access) : FwRes (State × Home × Nat × DWord) :=
  let d := b.die
  let serves (e : TlbEntry) : Bool := s.reachable (leafHome e.leaf) && (checkAccess e.leaf acc).isNone && (leafD e.leaf || !accWrites acc)
  match ((s.die d).tlb.find? fun e => e.core == none && e.covers c.num va).filter serves with
  | some e => .ok (s.fwFree b c.num va, leafHome e.leaf, leafPa e.leaf va, e.leaf)
  | none =>
    let (ls, base) := walkStart (s.die d).wcache c.num va c.desc.root
    let s := s.keepPtrs d c.num (walkTrail (s.walkRead d c) va ls base)
    match walkFrom s d c.desc.moveth (s.walkRead d c) va acc ls base with
    | .need pa => s.fwStopped b c va acc (.need pa)
    | .leaf pa e =>
      let e' := withAD e acc
      if e = e' then
        let s := (s.walkOver d c.num).fwFree b c.num va
        let t : TlbEntry := { core := none, ctx := c.num, base := pageVa e va, size := pageBytes e, leaf := e, entryPa := pa }
        .ok (s.setDie d { s.die d with tlb := tlbAdd (dieTlbSize d) (s.die d).tlb t }, leafHome e, leafPa e va, e)
      else .wait ((s.request d (.entry c.num pa)
        { s.mkMsg d tyPtCas c.num va with aux0 := BitVec.ofNat 64 pa, payload := casPayload e e' }).fwHold b c.num va acc)
    | w => (s.walkOver d c.num).fwStopped b c va acc w

/-- One page translated for firmware or an engine; an access that a refused move was held for, or whose walk was refused, ends at that fault
(R22, R30, R140). -/
def State.fwMap (s : State) (b : FwBy) (ctx va : Nat) (acc : Access) : FwRes (State × Home × Nat × DWord) :=
  match s.ctx ctx with
  | none => .bad s .notPresent va
  | some c =>
    let note := s.fwWaits.find? fun w => w.is b ctx va
    match note.bind fun w => w.fault with
    | some sub => .bad (s.fwFree b ctx va) sub va
    | none =>
      if note.isSome ∧ s.moving ctx va = true then .wait s
      else if b.die = c.resident ∨ c.lost.isSome = true then s.fwNear b c va acc
      else s.fwFar b c va acc

/-- A range translated for firmware, as pieces that lie in one page of 4 KiB each, each for the maker that `d` gives its address; `n`
bounds the pieces. -/
def State.fwPieces (s : State) (d : Nat → FwBy) (ctx : Nat) (acc : Access) :
    Nat → Nat → Nat → FwRes (State × List (Home × Nat × DWord × Nat × Nat))
  | 0, _, _ => .ok (s, [])
  | n + 1, va, len =>
    if len = 0 then .ok (s, []) else
    let k := min len (4096 - va % 4096)
    match s.fwMap (d va) ctx va acc with
    | .wait s => .wait s
    | .bad s sub va => .bad s sub va
    | .ok (s, h, pa, e) => match State.fwPieces s d ctx acc n (va + k) (len - k) with
      | .ok (s, l) => .ok (s, (h, pa, e, va, k) :: l)
      | .wait s => .wait s
      | .bad s sub va => .bad s sub va

/-- The pieces of a whole range. -/
def State.fwRange (s : State) (d : FwBy) (ctx : Nat) (acc : Access) (va len : Nat) :
    FwRes (State × List (Home × Nat × DWord × Nat × Nat)) := s.fwPieces (fun _ => d) ctx acc (len / 4096 + 2) va len

end Sys2Proof.Machine
end

