-- ==== Sys2Proof/Machine/Home.lean ====
section
/-! DEFINITION. Home slices and L1 caches: line tags and fold registers, leases and write completion times, ownership and
recall, the access counters of pages, dirty granules and undo copies (R46 to R48, R82 to R89, R102 to R106, R132,
R141 to R144). -/

namespace Sys2Proof.Machine

/-- SKEW, in ns (R80). -/
def skew : Nat := 40

/-! ## Slices and tags (R46 to R48) -/

/-- XOR of the fields of `k` bits of a number, `n` of them. -/
def xorFold (k : Nat) : Nat → Nat → Nat
  | 0, _ => 0
  | n + 1, x => (x % 2 ^ k) ^^^ xorFold k n (x / 2 ^ k)

/-- The home slice of a line (R47). -/
def sliceOf (l : LineRef) : SliceRef :=
  match serverOf l.home with
  | .kapael => ⟨.kapael, xorFold 3 14 (l.la % 2 ^ 41)⟩
  | .amdukor => ⟨.amdukor, xorFold 5 9 (l.la % 2 ^ 41)⟩

/-- The set of a line within its slice (log entry 9). -/
def setOf (l : LineRef) : Nat := l.la % 1536

/-- The line of a physical address. -/
def lineAt (h : Home) (pa : Nat) : LineRef := ⟨h, pa / 128⟩

/-- The tag of a line, if its home slice holds one. -/
def State.tag? (s : State) (l : LineRef) : Option LineTag :=
  (s.die (serverOf l.home)).tags.find? fun t => t.home == l.home && t.la == l.la

/-- The tag a line starts with: the lease ends of its set's fold register (R48), the contention record at reset. -/
def State.freshTag (s : State) (l : LineRef) : LineTag :=
  let f := (s.die (serverOf l.home)).folds.find? fun x => x.slice == (sliceOf l).slice && x.set == setOf l
  match l.home, f with
  | .host, _ => { home := l.home, la := l.la }
  | _, some f => { home := l.home, la := l.la, leK := f.leK, leA := f.leA }
  | _, none => { home := l.home, la := l.la }

/-- The tag of a line. -/
def State.tag (s : State) (l : LineRef) : LineTag := (s.tag? l).getD (s.freshTag l)

/-- The lease end a tag holds for a member. -/
def LineTag.le (t : LineTag) : Die → Nat
  | .kapael => t.leK
  | .amdukor => t.leA

/-- A tag with a member's lease end raised. -/
def LineTag.raise (t : LineTag) (d : Die) (le : Nat) : LineTag :=
  match d with
  | .kapael => { t with leK := max t.leK le }
  | .amdukor => { t with leA := max t.leA le }

/-- The line of a tag. -/
def LineTag.line (t : LineTag) : LineRef := ⟨t.home, t.la⟩

/-! ## Granules: dirty marks and undo copies (R141 to R144) -/

/-- The granule that holds an address of an RST page: its first address and size (R141). -/
def granuleOf (leaf : DWord) (va : Nat) : Nat × Nat :=
  if pageBytes leaf < 65536 then (pageVa leaf va, pageBytes leaf) else (65536 * (va / 65536), 65536)

/-- Bytes of a restartable context's mirror reserve: MIRROR, less the frames that adoption has taken from it (R27, R146). -/
def Context.room (c : Context) : Nat := 65536 * c.desc.mirror - c.adopted

/-- Bytes of the mirror reserve that a context's pieces and undo copies take. -/
def Context.mirrorUse (c : Context) : Nat :=
  let gs (l : List GranuleCopy) : Nat := (l.map (·.size)).sum
  let ck (o : Option Checkpoint) : Nat := match o with
    | some k => gs k.granules + k.recBytes
    | none => 0
  ck c.ckpt + ck c.mirror + (c.epochs.map fun e => gs e.copies + (e.frames.map fun f => f.2.size).sum).sum

/-- A context without some undo epochs: the frames they held are free (R143). -/
def Context.dropEpochs (c : Context) (p : Epoch → Bool) : Context :=
  let gone := (c.epochs.filter p).flatMap fun e => e.frames
  { c with epochs := c.epochs.filter fun e => !p e, usedK := c.usedK - (gone.map fun f => f.2.size).sum }

/-- The context's undo log has no room left (R144): its checkpoint under way is abandoned, its epochs are dropped, it
counts as not restartable, and a checkpoint is to start at once. The mirrored pieces of the last committed checkpoint go with it (DESIGN
CHOICE, log entry 92). -/
def State.epochsFull (s : State) (c : Context) (d : Die) : State :=
  let gone (k : Checkpoint) : Checkpoint := { num := k.num, stage := .failed, packets := k.packets }
  let c := c.dropEpochs fun _ => true
  (s.putCtx { c with mirror := none, ckpt := c.ckpt.map gone, dirtyAll := true, ckptNow := true }).faultNote c.num d 5
    Sub.ckptNoroom.code 0 0

/-- Whether checkpoints treat a page as one of RST: as its leaf said at the latest capture, which stands until the next, or, for a page
that there was none of then, as it says (R141). -/
def Context.rst (c : Context) (leaf : DWord) (va : Nat) : Bool := (look (pageVa leaf va) c.rstWas).getD (leafRst leaf)

/-- What a write to an RST page does first: a Kapael granule is copied into the newest undo epoch, an Amdukor granule is
marked dirty (R142, R143). -/
def State.touch (s : State) (ctx va : Nat) (leaf : DWord) (pa : Nat) : State :=
  match s.ctx ctx with
  | none => s
  | some c =>
    if !c.rst leaf va then s else
    let (g, size) := granuleOf leaf va
    match leafHome leaf with
    | .amdukor => if c.dirty.contains (g, size) then s else s.putCtx { c with dirty := c.dirty ++ [(g, size)] }
    | .kapael => match c.epochs with
      | [] => s
      | e :: t =>
        if e.copies.any (fun k => k.va == g) then s else
        let base := pa - (va - g)
        if c.room < c.mirrorUse + size then s.epochsFull c .kapael else
        s.putCtx { c with epochs := { e with copies := e.copies ++
          [{ va := g, home := .kapael, pa := base, size := size, cells := Memory.cells s.memK base size }] } :: t }
    | .host => s

/-! ## L1 lines (R35, R83 to R86) -/

/-- The copy of a line in a core's L1. -/
def State.l1Get (s : State) (c : CoreRef) (l : LineRef) : Option L1Line :=
  (s.die c.die).l1.find? fun x => x.core == c.core && x.line == l

/-- A core's L1 without a line. -/
def State.l1Del (s : State) (c : CoreRef) (l : LineRef) : State :=
  let d := s.die c.die
  s.setDie c.die { d with l1 := d.l1.filter fun x => !(x.core == c.core && x.line == l) }

/-- Whether a copy is present: owned, without a lease, or before its lease end (R86). -/
def State.l1Live (s : State) (d : Die) (x : L1Line) : Bool :=
  x.owned || leafCls x.leaf != .coherent || decide (s.now d < x.le)

/-- A clean copy of a line leaves a core's L1: what the core has read, or had performed, at the home is then not hidden from it by
an older copy (R82). -/
def State.l1Forget (s : State) (c : CoreRef) (l : LineRef) : State :=
  match s.l1Get c l with
  | some x => if x.owned || x.dirty then s else s.l1Del c l
  | none => s

/-- Whether a line is homed on the other member and has no copy present in a core's L1: a read of it goes over the link (R131). -/
def State.away (s : State) (c : CoreRef) (l : LineRef) : Bool :=
  serverOf l.home != c.die && !((s.l1Get c l).map (s.l1Live c.die)).getD false

/-! ## Access counters (R132) -/

/-- One more request for a page at its home; the counters may call for a move. -/
def State.countAccess (s : State) (ctx va : Nat) (leaf : DWord) (req : Die) : State :=
  match leafHome leaf with
  | .host => s
  | h =>
    let d := serverOf h
    let base := pageVa leaf va
    let x := s.die d
    let old := (x.acc.find? fun e => e.ctx == ctx && e.base == base).getD { ctx := ctx, base := base }
    let new : AccCount := match req with
      | .kapael => { old with k := min 255 (old.k + 1) }
      | .amdukor => { old with a := min 255 (old.a + 1) }
    let acc := new :: (x.acc.filter fun e => !(e.ctx == ctx && e.base == base)).take 8191
    let s := s.setDie d { x with acc := acc }
    let mine : Nat := match req with | .kapael => new.k | .amdukor => new.a
    let homes : Nat := match d with | .kapael => new.k | .amdukor => new.a
    let th : Nat := ((s.ctx ctx).map (·.desc.moveth)).getD 0
    if req != d && leafRa leaf && th != 0 && decide (th ≤ mine) && decide (homes < mine) then s.wantMove ctx va leaf req else s

/-! ## Write-backs (R84, R105) -/

/-- A tag that its slice holds changed. -/
def State.onTag (s : State) (l : LineRef) (f : LineTag → LineTag) : State :=
  let d := serverOf l.home
  let x := s.die d
  s.setDie d { x with tags := updFirst (fun t => t.home == l.home && t.la == l.la) f x.tags }

/-- A line that a core of a die held written to its home (R84, R105), over the link where that is the other member (R131). -/
def State.putBack (s : State) (d : Die) (x : L1Line) : State :=
  let pa := x.line.la * 128
  if serverOf x.line.home != d then s.writeFar d (.backed x.ctx x.va) x.ctx x.va [(pa, x.data.take 128)] else
  let s := (s.countAccess x.ctx x.va x.leaf d).touch x.ctx x.va x.leaf pa
  let wrote (t : LineTag) : LineTag := { t with dirty := true }
  (s.setMem x.line.home (Memory.writeN (s.mem x.line.home) pa (x.data.take 128))).onTag x.line wrote

/-- Whether a copy holds data its home lacks. -/
def L1Line.holds (x : L1Line) : Bool := x.owned || x.dirty

/-! ## Tags in their sets (R48) -/

/-- The owner of a line writes it back and gives it up (R88). -/
def State.recall (s : State) (l : LineRef) : State :=
  match s.tag? l with
  | none => s
  | some t => match t.owner with
    | none => s
    | some c =>
      let core : CoreRef := ⟨serverOf l.home, c⟩
      let s := match s.l1Get core l with
        | some x => (s.putBack core.die x).l1Del core l
        | none => s
      let free (x : LineTag) : LineTag := { x with owner := none }
      s.onTag l free

/-- The fold register of a line's set, with a victim's lease ends merged in (R48). -/
def foldIn (fs : List FoldReg) (slice set : Nat) (t : LineTag) : List FoldReg :=
  if fs.any (fun f => f.slice == slice && f.set == set) then
    updFirst (fun f => f.slice == slice && f.set == set)
      (fun f => { f with leK := max f.leK t.leK, leA := max f.leA t.leA }) fs
  else fs ++ [{ slice := slice, set := set, leK := t.leK, leA := t.leA }]

/-- A way of a line's set made free: the oldest tag without a future lease or an owner leaves first (R48, log entry 9). -/
def State.evict (s : State) (l : LineRef) : State :=
  let d := serverOf l.home
  let inSet := (s.die d).tags.filter fun t => t.home != .host && sliceOf t.line == sliceOf l && setOf t.line == setOf l
  if inSet.length < 16 then s else
  let now := s.now d
  let idle (t : LineTag) : Bool := t.leK ≤ now && t.leA ≤ now
  match (inSet.find? fun t => idle t && t.owner.isNone) <|> (inSet.find? idle) <|> inSet.head? with
  | none => s
  | some t =>
    let s := s.recall t.line
    let x := s.die d
    let lost (f : Flaw) : Flaw := if f.at_ = .l2 t.line then { f with at_ := .dram t.line } else f
    { s.setDie d { x with tags := x.tags.filter fun y => !(y.home == t.home && y.la == t.la)
                          folds := foldIn x.folds (sliceOf l).slice (setOf l) t } with
      flaws := if t.dirty then s.flaws.map lost else s.flaws.filter fun f => f.at_ != .l2 t.line }

/-- A line held by its home slice: a new one takes a way of its set, and starts with the lease ends of the fold register as the victim
has left them (R48). -/
def State.holdTag (s : State) (l : LineRef) : State :=
  match s.tag? l with
  | some _ => s
  | none =>
    let s := if l.home = .host then s else s.evict l
    let x := s.die (serverOf l.home)
    s.setDie (serverOf l.home) { x with tags := x.tags ++ [s.freshTag l] }

/-- The tag of a line that its slice holds from now on changed. -/
def State.putTag (s : State) (l : LineRef) (f : LineTag → LineTag) : State := (s.holdTag l).onTag l f

/-- A core writes a line back to its home, whose slice takes it in (R46, R84). -/
def State.writeBack (s : State) (d : Die) (x : L1Line) : State :=
  let s := s.putBack d x
  if x.line.home = .host ∨ serverOf x.line.home ≠ d then s else s.putTag x.line fun t => { t with dirty := true }

/-- The lines of a frame that a page comes to start with contention records at reset and no owner (R102, R127); their lease ends
stand. -/
def State.resetTags (s : State) (d : Die) (pa size : Nat) : State :=
  let x := s.die d
  let mine (t : LineTag) : Bool := t.home == homeOf d && decide (pa / 128 ≤ t.la) && decide (t.la < (pa + size) / 128)
  let fresh (t : LineTag) : LineTag := if mine t then { home := t.home, la := t.la, leK := t.leK, leA := t.leA } else t
  if x.tags.any mine then s.setDie d { x with tags := x.tags.map fresh } else s

/-- The writes of a batch that has read a host-homed line are made, before anything else of the part reaches the line (R107). -/
def State.finishHalf (s : State) (l : LineRef) : State :=
  if l.home != .host then s else
  let r := sliceOf l
  let c := s.crucible r
  match c.half, (c.batch.head?.map fun (b : Bundle) => b.key : Option BatchKey) with
  | some ws, some (.line k _ _) =>
    if k != l then s else
    (s.setMem l.home (ws.foldl (fun m w => Memory.writeN m w.1 w.2) (s.mem l.home))).putCrucible r { c with half := some [] }
  | _, _ => s

/-- A request for a line at its home: its owner gives it up, the request is counted for its page, and the slice holds the line from
then on (R46, R88, R132). -/
def State.atHome (s : State) (l : LineRef) (req : Die) (ctx va : Nat) (leaf : DWord) (dirty : Bool) : State :=
  let s := ((s.finishHalf l).recall l).countAccess ctx va leaf req
  if l.home = .host then s else
  s.putTag l fun t => { t with dirty := t.dirty || dirty }

/-! ## Reads and writes at the home (R86, R87) -/

/-- Lease lengths of a context (R28). -/
def leaseLen (s : State) (ctx : Nat) (pair : Bool) : Nat :=
  match s.ctx ctx with
  | some c => 2 ^ (6 + if pair then c.desc.leasePair else c.desc.leaseDie)
  | none => 2 ^ 6

/-- A line read at its home for a member, with the lease its class gives (R83, R86). -/
def State.homeRead (s : State) (l : LineRef) (req : Die) (ctx va : Nat) (leaf : DWord) : State × List Byte × Nat :=
  let s := s.atHome l req ctx va leaf false
  let data := Memory.readN (s.mem l.home) (l.la * 128) 128
  let server := serverOf l.home
  if leafCls leaf = .coherent then
    let le := s.now server + leaseLen s ctx (decide (l.home = .host) || req != server)
    (s.putTag l fun t => t.raise req le, data, le)
  else (s, data, 0)

/-- The write completion times of a write at a line's home (R87). -/
def State.gwct (s : State) (l : LineRef) (req : Die) : Nat × Nat :=
  let server := serverOf l.home
  let t := s.now server
  let g := s.tag l
  let gd := max t (g.le req) + if req != server then skew else 0
  let gp := max t (max g.leK g.leA) + if req != server || decide (t < g.le (otherDie server)) then skew else 0
  (gd, gp)

/-- A byte written into memory by a wave, an engine or the host; the BROKEN and FCOUNT fields of an object slot keep
their values (R115). -/
def putByte (obj : Bool) (m : Memory) (a : Nat) (b : Byte) : Memory :=
  if !obj then Memory.write m a b
  else if 24 ≤ a % 512 && a % 512 ≤ 27 then m
  else if a % 512 = 20 then Memory.write m a ((b &&& 0xFE) ||| (Memory.read m a &&& 1))
  else Memory.write m a b

/-- Bytes written one after another by `putByte`. -/
def putBytes (obj : Bool) (m : Memory) (a : Nat) : List Byte → Memory
  | [] => m
  | b :: t => putBytes obj (putByte obj m a b) (a + 1) t

/-- Pieces of one line written at its home: addresses with bytes (R87). -/
def State.homeWrite (s : State) (l : LineRef) (req : Die) (ctx va : Nat) (leaf : DWord) (ws : List (Nat × List Byte)) :
    State × Nat × Nat :=
  let s := (s.atHome l req ctx va leaf true).touch ctx va leaf (leafPa leaf va)
  let s := s.setMem l.home (ws.foldl (fun m w => putBytes (leafCls leaf == .object) m w.1 w.2) (s.mem l.home))
  let g := s.gwct l req
  (s, g.1, g.2)

/-! ## Filling and dropping L1 lines -/

/-- Lines an L1 of a core with S scratch steps holds (R35). -/
def l1Cap (sSteps : Nat) : Nat := ((8 - sSteps) * 131072 - 65536) / 128

/-- The figures of a core. -/
def State.core (s : State) (c : CoreRef) : CoreMisc :=
  ((s.die c.die).misc.find? fun m => m.core == c.core).getD { core := c.core }

/-- The state with a core's figures replaced. -/
def State.putCore (s : State) (c : CoreRef) (m : CoreMisc) : State :=
  let d := s.die c.die
  let l := if d.misc.any (fun x => x.core == c.core) then updFirst (fun x => x.core == c.core) (fun _ => m) d.misc
    else d.misc ++ [m]
  s.setDie c.die { d with misc := l }

/-- A line leaves a core's L1: written back if it holds data, and ownership given up (R105). -/
def State.l1Drop (s : State) (c : CoreRef) (l : LineRef) : State :=
  match s.l1Get c l with
  | none => s
  | some x =>
    if x.owned then s.recall l else ((if x.dirty then s.writeBack c.die x else s).l1Del c l)

/-- The RSGEN under which a core fills a READ-SHARED line noted (R85). -/
def State.noteGen (s : State) (c : CoreRef) (x : L1Line) : State :=
  if leafCls x.leaf = .readShared then
    let m := s.core c
    s.putCore c { m with rsgen := put x.ctx (((s.ctx x.ctx).map (·.desc.rsgen)).getD 0) m.rsgen }
  else s

/-- A line put into a core's L1 under a policy; when it is full, the line longest there leaves that was not filled as a last victim.
One filled as the first victim stands behind all others (R183, log entry 9). -/
def State.l1Put (s : State) (c : CoreRef) (x : L1Line) (pol : Nat := 0) : State :=
  let s := (s.noteGen c x).l1Del c x.line
  let mine := (s.die c.die).l1.filter fun y => y.core == c.core
  let s := if mine.length < l1Cap (s.core c).s then s else
    match (mine.reverse.find? fun y => !y.keep) <|> mine.getLast? with
    | some y => s.l1Drop c y.line
    | none => s
  let d := s.die c.die
  let new : L1Line := { x with core := c.core, keep := pol == 3 }
  s.setDie c.die { d with l1 := if pol = 1 then d.l1 ++ [new] else new :: d.l1 }

/-- Free bytes: what the specification leaves unpredictable (log entry 6). -/
def State.freeBytes (s : State) (n : Nat) : State × List Byte :=
  ({ s with freeCtr := s.freeCtr + n }, (List.range n).map fun k => Sys2Proof.Config.freeByte (s.freeCtr + k))

/-- Whether another core holds a copy of a PRIVATE line (R84). -/
def State.sharedPriv (s : State) (c : CoreRef) (l : LineRef) : Bool :=
  [Die.kapael, Die.amdukor].any fun d => (s.die d).l1.any fun x =>
    x.line == l && leafCls x.leaf == .priv && !(decide (d = c.die) && x.core == c.core)

/-- The bytes that a line's home gives a core: what it reads of a PRIVATE line that another core holds is unpredictable (R84). -/
def State.homeBytesFor (s : State) (c : CoreRef) (l : LineRef) (leaf : DWord) (data : List Byte) : State × List Byte :=
  if leafCls leaf = .priv && s.sharedPriv c l then s.freeBytes 128 else (s, data)

/-- A line read on behalf of a core whose L1 does not hold it, and kept there under a policy (R83, R84, R86, R183). -/
def State.fillLine (s : State) (c : CoreRef) (l : LineRef) (ctx va : Nat) (leaf : DWord) (pol : Nat := 0) : State × List Byte :=
  let (s, data, le) := s.homeRead l c.die ctx va leaf
  let (s, data) := s.homeBytesFor c l leaf data
  (s.l1Put c { core := c.core, line := l, ctx := ctx, va := va / 128 * 128, leaf := leaf, le := le, data := data } pol, data)

/-- A line read at its home past the core's L1, which keeps no copy of it: `.BYP` (R183). -/
def State.passLine (s : State) (c : CoreRef) (l : LineRef) (ctx va : Nat) (leaf : DWord) : State × List Byte :=
  let s := match s.l1Get c l with
    | some x => if x.dirty then s.l1Drop c l else s
    | none => s
  let s := (s.atHome l c.die ctx va leaf false).l1Forget c l
  s.homeBytesFor c l leaf (Memory.readN (s.mem l.home) (l.la * 128) 128)

/-- A line's bytes for a core: its own copy while present, else from the home (R86). -/
def State.loadLine (s : State) (c : CoreRef) (l : LineRef) (ctx va : Nat) (leaf : DWord) (pol : Nat := 0) : State × List Byte :=
  match s.l1Get c l with
  | some x => if s.l1Live c.die x then (s, x.data) else s.fillLine c l ctx va leaf pol
  | none => s.fillLine c l ctx va leaf pol

/-- Bytes of a line that lies in a core's L1 changed there. -/
def State.l1Write (s : State) (c : CoreRef) (l : LineRef) (ofs : Nat) (bytes : List Byte) : State :=
  let d := s.die c.die
  let f (x : L1Line) : L1Line := { x with data := patch x.data ofs bytes, dirty := true }
  s.setDie c.die { d with l1 := updFirst (fun x => x.core == c.core && x.line == l) f d.l1 }

/-- A clean copy brought up to date by its own core's store (R87). -/
def State.l1Refresh (s : State) (c : CoreRef) (l : LineRef) (ofs : Nat) (bytes : List Byte) : State :=
  let d := s.die c.die
  let f (x : L1Line) : L1Line := { x with data := patch x.data ofs bytes }
  s.setDie c.die { d with l1 := updFirst (fun x => x.core == c.core && x.line == l) f d.l1 }

/-- A core's dirty PRIVATE lines of a context written back and its PRIVATE lines dropped (R84). -/
def State.dropPrivate (s : State) (c : CoreRef) (ctx : Nat) : State :=
  ((s.die c.die).l1.filter fun x => x.core == c.core && x.ctx == ctx && leafCls x.leaf == .priv).foldl
    (fun s x => s.l1Drop c x.line) s

/-- What the first block of a launch does to its core's L1 (R85): the context's RSGEN of this moment is held against that of the core's
last READ-SHARED fill. -/
def State.launchL1 (s : State) (c : CoreRef) (ctx : Nat) : State :=
  let rsgen := ((s.ctx ctx).map (·.desc.rsgen)).getD 0
  let stale := look ctx (s.core c).rsgen != some rsgen
  ((s.die c.die).l1.filter fun x => x.core == c.core && x.ctx == ctx &&
      (x.line.home == .host || (stale && leafCls x.leaf == .readShared))).foldl (fun s x => s.l1Drop c x.line) s

/-! ## Steps of homes -/

/-- LINE_RECALL (R88). -/
def execLineRecall (l : LineRef) (s : State) : Out := .next (s.recall l)

/-- L1_DROP (R105). -/
def execL1Drop (c : CoreRef) (l : LineRef) (s : State) : Out := .next (s.l1Drop c l)

/-- Whether a bundle for a line stands in its slice's pile. -/
def State.piled (s : State) (l : LineRef) : Bool :=
  let c := s.crucible (sliceOf l)
  (c.pile ++ c.batch).any fun b => match b.key with
    | .line k _ _ => k == l
    | .object _ _ _ => false

/-- OWNERSHIP_GRANT (R88, R104): a quiet line is lent to the core that it was promised to, once pair time has passed both lease
ends. -/
def execOwnershipGrant (c : CoreRef) (l : LineRef) (s : State) : Out :=
  let t := s.tag l
  let server := serverOf l.home
  match t.grantTo with
  | none => .next s
  | some g =>
    if g.core = c.core && c.die = server && t.owner.isNone && decide (t.leK < s.now server)
        && decide (t.leA < s.now server) && !s.piled l then
      let line : L1Line := { core := c.core, line := l, ctx := g.ctx, va := g.va / 128 * 128, leaf := g.leaf, owned := true
                             data := Memory.readN (s.mem l.home) (l.la * 128) 128 }
      .next ((s.onTag l fun t => { t with owner := some c.core, grantTo := none }).l1Put c line)
    else .next s

/-- The first times by which a record can get OLD since the latest sweep: two sweeps meet every difference there is (R103). -/
def DieState.sweeps (x : DieState) (now : Nat) : List Nat := (List.range (min 2 (now / 2 ^ 25 - x.sweep))).map (x.sweep + 1 + ·)

/-- Every sweep whose time has come, each at its own multiple of 2^25 ns (R103): OLD is set in stale contention records. -/
def State.sweepAll (s : State) (d : Die) : State :=
  let x := s.die d
  let ns := x.sweeps (s.now d)
  if ns.isEmpty then s else
  let stale (t : LineTag) : Bool := ns.any fun n => 16 ≤ (2 ^ 25 * n / 1024 % 65536 + 65536 - t.lastt) % 65536
  s.setDie d { x with sweep := s.now d / 2 ^ 25, tags := x.tags.map fun t => if stale t then { t with old := true } else t }

/-- CONTENTION_SWEEP (R103). -/
def execContentionSweep (d : Die) (s : State) : Out := .next (s.sweepAll d)

/-- A die's access counters halved once for every multiple of 1,048,576 ns that its pair time has reached since the latest halving
(R132). -/
def DieState.decayed (x : DieState) : DieState :=
  let n := x.ptime.toNat / 1048576
  if n ≤ x.decay then x else
  let f := 2 ^ min 8 (n - x.decay)
  { x with decay := n, acc := x.acc.map fun e => { e with k := e.k / f, a := e.a / f } }

/-- COUNTER_DECAY (R132); it comes with the time that passes (State.tick). -/
def execCounterDecay (d : Die) (s : State) : Out := .next (s.setDie d (s.die d).decayed)

/-- The die a host access is translated as: the host reaches the home of the page directly (R131). -/
def State.hostSide (s : State) (ctx va : Nat) (acc : Access) : Die :=
  match (s.ctx ctx).map fun c => s.walkNow c .kapael va acc with
  | some (.move e) => if leafHome e = .amdukor then .amdukor else .kapael
  | some (.fault .homeRemote _) => .amdukor
  | _ => .kapael

/-- The batch that an object slot's crucible has formed and not performed yet, if it is one of the slot that holds an address
(R116). -/
def State.slotBusy (s : State) (h : Home) (pa : Nat) : Bool :=
  (s.crucible (sliceOf (lineAt h (pa / 512 * 512)))).batch.any fun b => match b.key with
    | .object l slotPa _ => l.home == h && slotPa == pa / 512 * 512
    | .line _ _ _ => false

/-- Whether some slot of translated pieces that a die's own slices serve is in the middle of a batch. -/
def State.slotsBusy (s : State) (d : Die) (ps : List (Home × Nat × DWord × Nat × Nat)) : Bool :=
  ps.any fun p => leafCls p.2.2.1 == .object && serverOf p.1 == d &&
    (List.range (p.2.2.2.2 / 512 + 2)).any fun k => decide (512 * k < p.2.1 % 512 + p.2.2.2.2) && s.slotBusy p.1 (p.2.1 + 512 * k)

/-- A host access performed at the home of each piece: what a read brings the host is no state of the part; firmware keeps the largest
write completion times of all host writes (R98). The home member's counter is charged (DESIGN CHOICE, log entry 87). -/
def State.hostPieces (s : State) (h : HostAcc) (ps : List (Home × Nat × DWord × Nat × Nat)) : State :=
  ps.foldl (fun s p =>
    let (home, pa, leaf, va, n) := p
    (List.range (n / 128 + 2)).foldl (fun s k =>
      -- one line at a time
      let lo := if k = 0 then pa else (pa / 128 + k) * 128
      let hi := min (pa + n) ((pa / 128 + k + 1) * 128)
      if hi ≤ lo then s else
      if h.data.isEmpty then s.atHome (lineAt home lo) (serverOf home) h.ctx (va + (lo - pa)) leaf false else
      let bytes := slice h.data (va - h.va + (lo - pa)) (hi - lo)
      let r := s.homeWrite (lineAt home lo) (serverOf home) h.ctx (va + (lo - pa)) leaf [(lo, bytes)]
      { r.1 with hostGd := max r.1.hostGd r.2.1, hostGp := max r.1.hostGp r.2.2 }) s) s

/-- A host access made, or held at the home it reached: while its page is being moved (R133), and within a batch of its object slot
(R116). -/
def State.hostTry (s : State) (h : HostAcc) : State :=
  let acc : Access := if h.data.isEmpty then .pref else .engineWrite
  let hold (s : State) : State := { s with hostHeld := s.hostHeld ++ [h] }
  match s.fwPieces (fun va => ⟨s.hostSide h.ctx va acc, .host h.va⟩) h.ctx acc (h.data.length / 4096 + 2) h.va (max 1 h.data.length) with
  | .wait s => hold s
  | .bad s _ _ => s
  | .ok (t, pieces) => if s.slotsBusy .kapael pieces || s.slotsBusy .amdukor pieces then hold s else t.hostPieces h pieces

/-- HOST_ACCESS (R83): a host read or write of part memory, performed at the page's home. -/
def execHostAccess (h : HostAcc) (s : State) : Out := .next (s.hostTry h)

/-- The host accesses that are held tried again, in order (R116, R133). -/
def State.hostAgain (s : State) : State :=
  s.hostHeld.foldl State.hostTry { s with hostHeld := [] }

end Sys2Proof.Machine
end

