-- ==== Sys2Proof/Machine/Firm.lean ====
section
/-! DEFINITION. What firmware reads and writes for a context through its page tables, the rings it appends to, and the
fault queue (R344, R357, R400, R401). -/

namespace Sys2Proof.Machine

/-! ## Reads and writes -/

/-- The parts of a range of physical addresses that lie in one line each. -/
def lineParts (pa n : Nat) : List (Nat × Nat) :=
  (List.range ((pa % 128 + n + 127) / 128)).map fun k =>
    let lo := if k = 0 then pa else (pa / 128 + k) * 128
    (lo, min (pa + n) ((pa / 128 + k + 1) * 128) - lo)

/-- A piece of memory: home and address, leaf, virtual address and length. -/
abbrev Piece := Home × Nat × DWord × Nat × Nat

/-- Bytes of translated pieces read at their homes on a die; each line counts as a request for its page (R132). -/
def State.nearBytes (s : State) (d : Die) (ctx : Nat) : List Piece → State × List Byte
  | [] => (s, [])
  | (h, pa, leaf, va, n) :: t =>
    let s := (lineParts pa n).foldl (fun (s : State) p => s.atHome (lineAt h p.1) d ctx (va + (p.1 - pa)) leaf false) s
    let r := State.nearBytes s d ctx t
    (r.1, Memory.readN (s.mem h) pa n ++ r.2)

/-- The lines of some pieces that are homed on the other member, with their virtual addresses. -/
def farLines (d : Die) (ps : List Piece) : List (LineRef × Nat) :=
  dedup (ps.flatMap fun (h, pa, _, va, n) =>
    if serverOf h = d then [] else (lineParts pa n).map fun p => (lineAt h p.1, (va + (p.1 - pa)) / 128 * 128))

/-- The lines that have come for one, taken, with their data; the first of them that was refused, or holds an error, with its address. -/
def State.takeLines (s : State) (b : FwBy) : List (LineRef × Nat) → State × List (LineRef × List Byte) × Option (Sub × Nat)
  | [] => (s, [], none)
  | (l, va) :: t => match s.takeFar b.die b.who l with
    | none => State.takeLines s b t
    | some (s, x) =>
      let r := State.takeLines s b t
      (r.1, (l, x.data) :: r.2.1, (x.sub.map fun e => (e, va)) <|> r.2.2)

/-- The bytes of a piece from lines that have come. -/
def pieceFrom (ls : List (LineRef × List Byte)) (p : Piece) : List Byte :=
  (lineParts p.2.1 p.2.2.2.2).flatMap fun q => slice ((look (lineAt p.1 q.1) ls).getD []) (q.1 % 128) q.2

/-- Bytes of translated pieces read for firmware or an engine: at their homes on its die, and in place over the link from the other member,
for whose lines it waits (R131). -/
def State.homeBytes (s : State) (b : FwBy) (ctx : Nat) (ps : List Piece) : FwRes (State × List Byte) :=
  let far := farLines b.die ps
  let need := far.filter fun l => !(s.pipe b.die).far.any fun x => x.who == b.who && x.line == l.1
  if need != [] then .wait (need.foldl (fun (s : State) l => s.askFar b.die b.who ctx l.2 l.1) s) else
  let (s, ls, bad) := s.takeLines b far
  match bad with
  | some (sub, va) => .bad s sub va
  | none =>
    let go (r : State × List Byte) (p : Piece) : State × List Byte :=
      if serverOf p.1 = b.die then let q := r.1.nearBytes b.die ctx [p]; (q.1, r.2 ++ q.2) else (r.1, r.2 ++ pieceFrom ls p)
    .ok (ps.foldl go (s, []))

/-- Bytes written at the homes of translated pieces, a line at a time, with the largest write completion times; a line of the other member is
written over the link (R131). -/
def State.homeStoreG (s : State) (b : FwBy) (ctx : Nat) : List Piece → List Byte → Nat → Nat → State × Nat × Nat
  | [], _, gd, gp => (s, gd, gp)
  | (h, pa, leaf, va, n) :: t, data, gd, gp =>
    let (s, gd, gp) := (lineParts pa n).foldl (fun (acc : State × Nat × Nat) p =>
      let (x, at_) := (va + (p.1 - pa), [(p.1, slice data (p.1 - pa) p.2)])
      if serverOf h ≠ b.die then (acc.1.writeFar b.die (.farWrite b.who ctx x) ctx x at_, acc.2) else
      let r := acc.1.homeWrite (lineAt h p.1) b.die ctx x leaf at_
      (r.1, max acc.2.1 r.2.1, max acc.2.2 r.2.2)) (s, gd, gp)
    State.homeStoreG s b ctx t (data.drop n) gd gp

/-- Bytes written at the homes of translated pieces. -/
def State.homeStore (s : State) (b : FwBy) (ctx : Nat) (ps : List Piece) (data : List Byte) : State :=
  (s.homeStoreG b ctx ps data 0 0).1

/-- A range read by firmware of a die. -/
def State.fwRead (s : State) (d : FwBy) (ctx : Nat) (acc : Access) (va n : Nat) : FwRes (State × List Byte) :=
  match s.fwRange d ctx acc va n with
  | .ok (s, ps) => s.homeBytes d ctx ps
  | .wait s => .wait s
  | .bad s sub a => .bad s sub a

/-- A range written by firmware of a die. -/
def State.fwWrite (s : State) (d : FwBy) (ctx : Nat) (acc : Access) (va : Nat) (data : List Byte) : FwRes State :=
  match s.fwRange d ctx acc va data.length with
  | .ok (s, ps) => .ok (s.homeStore d ctx ps data)
  | .wait s => .wait s
  | .bad s sub a => .bad s sub a

/-! ## Rings with the header of R344 -/

/-- What appending to a ring comes to: written (and whether the ring was empty), counted as lost, no ring to be used, or
to be tried again once a page has moved. -/
inductive RingRes
  | put (s : State) (first : Bool)
  | lost (s : State)
  | none (s : State)
  | wait (s : State)

/-- Whether a ring may have this many entries (R344). -/
def ringCapOk (cap : Nat) : Bool := decide (16 ≤ cap) && decide (cap ≤ 65536) && 2 ^ Nat.log2 cap == cap

/-- LOST of a ring raised by one, saturating. -/
def State.ringLost (s : State) (d : FwBy) (ctx va lost : Nat) : RingRes :=
  match s.fwWrite d ctx .tokenWrite (va + 12) (bytesOf 4 (min (lost + 1) (2 ^ 32 - 1))) with
  | .ok s => .lost s
  | .wait s => .wait s
  | .bad s _ _ => .none s

/-- Entries of `size` bytes written one after another from index `widx` on. -/
def State.ringWrite (s : State) (d : FwBy) (ctx va cap size : Nat) : Nat → List (List Byte) → FwRes State
  | _, [] => .ok s
  | widx, e :: t => match s.fwWrite d ctx .tokenWrite (va + 64 + size * (widx % cap)) e with
    | .ok s => State.ringWrite s d ctx va cap size (widx + 1) t
    | r => r

/-- Entries appended to a ring, all or none (R344). -/
def State.ringAppend (s : State) (d : FwBy) (ctx va size : Nat) (es : List (List Byte)) : RingRes :=
  if va = 0 then .none s else
  match s.fwRead d ctx .tokenRead va 16 with
  | .wait s => .wait s
  | .bad s _ _ => .none s
  | .ok (s, h) =>
    let cap := fieldOf h 0 4
    let widx := fieldOf h 4 4
    let ridx := fieldOf h 8 4
    let lost := fieldOf h 12 4
    if !ringCapOk cap || decide (cap < (widx + 2 ^ 32 - ridx) % 2 ^ 32 + es.length) then s.ringLost d ctx va lost else
    match s.ringWrite d ctx va cap size widx es with
    | .wait s => .wait s
    | .bad s _ _ => s.ringLost d ctx va lost
    | .ok s => match s.fwWrite d ctx .tokenWrite (va + 4) (bytesOf 4 ((widx + es.length) % 2 ^ 32)) with
      | .ok s => .put s (widx == ridx)
      | .wait s => .wait s
      | .bad s _ _ => .none s

/-! ## The fault queue (R344) -/

/-- A fault-queue entry of a record. -/
def faultBytes (kind : Nat) (d : Die) (body : List Byte) : List Byte :=
  [BitVec.ofNat 8 kind, (match d with | .kapael => 0 | .amdukor => 1)] ++ List.replicate 6 0
    ++ body.take 32 ++ List.replicate (32 - body.length) 0 ++ List.replicate 24 0

/-- The oldest record a context still has to get into its fault queue is written; a first entry raises MSI-X vector
1 + context. -/
def State.writeFault (s : State) (c : Context) : State :=
  match c.faults with
  | [] => s
  | (kind, d, body) :: t =>
    match s.ringAppend ⟨c.resident, .ring c.num⟩ c.num c.desc.faultq 64 [faultBytes kind d body] with
    | .wait s => s
    | .put s first =>
      let s := match s.ctx c.num with | some c => s.putCtx { c with faults := t } | none => s
      if first then { s with log := .msix (1 + c.num) :: s.log } else s
    | .lost s => match s.ctx c.num with | some c => s.putCtx { c with faults := t } | none => s
    | .none s => match s.ctx c.num with | some c => s.putCtx { c with faults := t } | none => s

/-! ## The trace ring (R361) -/

/-- The wave id of the DEBUG service and of trace records (R357). -/
def waveCode (w : WaveId) : Nat :=
  (match w.die with | .kapael => 0 | .amdukor => 2 ^ 24) + w.core * 2 ^ 16 + w.part * 2 ^ 8 + w.slot

/-- A record of 16 bytes: its kind in bits [31:28] of the first word beside the wave id, and three words (log entry 28). -/
def traceRec (kind : Nat) (id : Nat) (a b c : Nat) : List Byte :=
  bytesOf 4 (kind * 2 ^ 28 + id) ++ bytesOf 4 a ++ bytesOf 4 b ++ bytesOf 4 c

/-- The 16 bytes of a split or pending entry (R349); `wofs` is where it resumes. -/
def Split.bytes (sp : Option Split) : List Byte :=
  match sp with
  | none => List.replicate 16 0
  | some sp =>
    let b (x : Bool) (n : Nat) : Nat := if x then 2 ^ n else 0
    bytesOf 4 sp.pos.ord ++ bytesOf 4 sp.act.toNat ++ bytesOf 4 (if sp.pos.inside then sp.pos.pc else sp.pos.hofs)
      ++ bytesOf 1 (sp.inner.getD 0xFF) ++ bytesOf 1 (1 + b sp.precise 1 + b sp.parked.isSome 2 + b sp.deferred 3)
      ++ [0, 0]

/-- The debugger's settings of a context changed. -/
def State.onDbg (s : State) (ctx : Nat) (f : Debug → Debug) : State :=
  match s.ctx ctx with
  | some c => s.putCtx { c with dbg := f c.dbg }
  | none => s

/-- Records of a context's trace ring appended; those that do not fit are counted, and those that a page being moved holds up come later,
in their order. -/
def State.tracePut (s : State) (d : Die) (ctx : Nat) (es : List (List Byte)) : State × Bool :=
  match s.ctx ctx with
  | none => (s, false)
  | some c =>
    let miss (s : State) : State := s.onDbg ctx fun x => { x with traceLost := x.traceLost + 1 }
    let later (s : State) : State := s.onDbg ctx fun x => { x with owedT := x.owedT ++ [(d, es)] }
    if !c.dbg.owedT.isEmpty then (later s, true) else
    match s.ringAppend ⟨d, .ring ctx⟩ ctx c.dbg.traceVa 16 es with
    | .put s _ => (s, true)
    | .lost s => (miss s, false)
    | .none s => (miss s, false)
    | .wait s => (later s, true)

/-- A sample of a context's sample ring appended (R360), after those that a page being moved holds up. -/
def State.samplePut (s : State) (d : Die) (ctx : Nat) (e : List Byte) : State :=
  match s.ctx ctx with
  | none => s
  | some c =>
    let later (s : State) : State := s.onDbg ctx fun x => { x with owedS := x.owedS ++ [(d, e)] }
    if !c.dbg.owedS.isEmpty then later s else
    match s.ringAppend ⟨d, .ring ctx⟩ ctx c.dbg.sampleVa 16 [e] with
    | .wait s => later s
    | .put s _ => s
    | .lost s => s
    | .none s => s

/-- The oldest samples and trace records of a context that were held up, in their rings now, as far as they can be; `n` bounds them. -/
def State.payRings (s : State) (ctx : Nat) : Nat → State
  | 0 => s
  | n + 1 => match (s.ctx ctx).map (·.dbg) with
    | none => s
    | some x => match x.owedS, x.owedT with
      | [], [] => s
      | (d, e) :: t, _ => (match s.ringAppend ⟨d, .ring ctx⟩ ctx x.sampleVa 16 [e] with
        | .wait s => s
        | .put s _ => State.payRings (s.onDbg ctx fun x => { x with owedS := t }) ctx n
        | .lost s => State.payRings (s.onDbg ctx fun x => { x with owedS := t }) ctx n
        | .none s => State.payRings (s.onDbg ctx fun x => { x with owedS := t }) ctx n)
      | [], (d, es) :: t => match s.ringAppend ⟨d, .ring ctx⟩ ctx x.traceVa 16 es with
        | .wait s => s
        | .put s _ => State.payRings (s.onDbg ctx fun x => { x with owedT := t }) ctx n
        | .lost s => State.payRings (s.onDbg ctx fun x => { x with owedT := t, traceLost := x.traceLost + 1 }) ctx n
        | .none s => State.payRings (s.onDbg ctx fun x => { x with owedT := t, traceLost := x.traceLost + 1 }) ctx n

/-- A pending LOST record written; every wave of the context then starts with SYNC again. -/
def State.traceLostOut (s : State) (d : Die) (ctx : Nat) : State :=
  match s.ctx ctx with
  | none => s
  | some c =>
    if c.dbg.traceLost = 0 || !c.dbg.owedT.isEmpty then s else
    match s.ringAppend ⟨d, .ring ctx⟩ ctx c.dbg.traceVa 16 [traceRec 5 0 c.dbg.traceLost 0 0] with
    | .put s _ =>
      let s := match s.ctx ctx with
        | some c => s.putCtx { c with dbg := { c.dbg with traceLost := 0 } }
        | none => s
      { s with waves := s.waves.map fun (e : WaveId × Wave) => if e.2.ctx == ctx then (e.1, { e.2 with synced := false }) else e }
    | _ => s

/-- Whether trace is on for a context (R357). -/
def State.traceOn (s : State) (ctx : Nat) : Bool :=
  ((s.ctx ctx).map fun c => c.dbg.trace).getD false

/-- The SYNC record of a wave, 80 bytes in five entries; a split within a region stands there with its entry's header (R349). -/
def syncRec (id : WaveId) (w : Wave) (im : Option Image) : List (List Byte) :=
  traceRec 2 (waveCode id) ((w.par.map (·.entry)).getD 0) w.dcons 0 :: w.slots.map fun o => Split.bytes (o.map (placeSplit im))

/-- What a wave traces when a split of it passes a safe point: SYNC at its first, then ENTRY (R361). -/
def State.traceEntry (s : State) (id : WaveId) (ord : Nat) (act : Word) : State :=
  match look id s.waves with
  | none => s
  | some w =>
    if !s.traceOn w.ctx then s else
    let s := s.traceLostOut id.die w.ctx
    let synced := ((look id s.waves).map (·.synced)).getD false
    let (s, ok) := if synced then (s, true) else
      let (s, ok) := s.tracePut id.die w.ctx (syncRec id w (s.image w.ctx w.image))
      (if ok then { s with waves := put id { (look id s.waves).getD w with synced := true } s.waves } else s, ok)
    if ok then (s.tracePut id.die w.ctx [traceRec 1 (waveCode id) ord act.toNat 0]).1 else s

/-- A MARKER or END record of a wave that has written its SYNC; a LOST record that is due comes first, and the wave then has its SYNC to
write again. -/
def State.traceMark (s : State) (id : WaveId) (kind v : Nat) : State :=
  match look id s.waves with
  | none => s
  | some w =>
    if !s.traceOn w.ctx then s else
    let s := s.traceLostOut id.die w.ctx
    if (look id s.waves).any (·.synced) then (s.tracePut id.die w.ctx [traceRec kind (waveCode id) v 0 0]).1 else s

end Sys2Proof.Machine
end

