-- ==== Sys2Proof/Machine/Operands.lean ====
section
/-! DEFINITION. What stands between an instruction and its effect: the run-time decode checks in the order of R190, the
stalls of R173 and R186, the fetch of operands (R157, R187), and the shared running of an instruction. -/

namespace Sys2Proof.Machine

/-! ## Counters -/

/-- The counter an instruction is counted on (R173). -/
def counterOf (opc : Nat) : Option Ctr :=
  match opc with
  | 0x80 | 0x82 | 0x90 | 0xDE => some .ldc
  | 0x81 | 0x83 | 0x91 | 0x85 => some .stc
  | 0xB4 => some .enc
  | 0xB0 | 0xB1 | 0xB2 => some .mxc
  | 0xC0 | 0xC1 | 0xC2 | 0xC3 => some .txc
  | 0x92 => some .obc
  | _ => none

/-! ## Decode checks -/

/-- The position of an actor. -/
def Actor.pos : Actor → Pos
  | .wave _ _ sp => sp.pos
  | .par _ r => r.pos

/-- The image an actor runs. -/
def Actor.image : Actor → Nat
  | .wave _ w _ => w.image
  | .par _ r => r.image

/-- Whether an actor is a combiner wave (R174). -/
def Actor.combiner : Actor → Bool
  | .wave (.combiner _) _ _ => true
  | _ => false

/-- Whether an actor is the wave of a firmware core (R313). -/
def Actor.firmware : Actor → Bool
  | .wave (.firmware _ _) _ _ => true
  | _ => false

/-- The vector names, uniform registers and predicates an actor has (R117, R185). -/
def Actor.limits : Actor → Nat × Nat × Nat
  | .wave (.combiner _) _ _ => (32, 16, 8)
  | .wave _ w _ => (w.allot, 64, 24)
  | .par _ r => (r.allot, 64, 24)

/-- The checks of an opcode at a position, CLAUSE_SPLIT to CLASS (R190 orders 2 to 6). `len` is the words the
instruction has. -/
def rawCheck (x : Actor) (opc ml len : Nat) : Option Sub :=
  let p := x.pos
  if p.clauseEnd < p.pc + len then some .clauseSplit
  else if controlTransfer opc && p.pc + len != p.clauseEnd then some .clauseSplit
  else if !assigned opc then some .opcode
  else if (opc == 0xE2 || opc == 0xE3 || opc == 0xE4) && !x.firmware then some .privileged
  else if (0x98 ≤ opc && opc ≤ 0x9B) && !x.combiner then some .context
  else if !classAdmits (hdrCls p.hdr) opc ml then some .wrongClass
  else none

/-- The check NAME, the actor's own limits included (R117, R185). -/
def nameBad (x : Actor) (f : Form) : Bool :=
  let (v, u, p) := x.limits
  f.badName || (f.vreads ++ f.vwrites).any (fun n => v ≤ n) || (f.sreads ++ f.swrites).any (fun n => u ≤ n)
    || (f.predNames).any fun n => p ≤ n && n != 24

/-- The pattern registers of an actor. -/
def Actor.xpat : Actor → List Byte
  | .wave _ w _ => w.xpat
  | .par _ r => r.xpat

/-- A pattern register that no operand may use (R187). -/
def patIllegal (b : Byte) : Bool := b.getLsbD 7 || (b.extractLsb' 5 2 == 3 && 5 < (b.extractLsb' 0 5).toNat)

/-- The check PATTERN (R187). -/
def patBad (x : Actor) (f : Form) : Bool :=
  let (a, b, c) := f.pats
  f.badPattern || [a, b, c].any fun n => n != 0 && patIllegal (nth x.xpat (n - 1) 0)

/-- Whether an instruction of a UNI clause carries a pattern field: RESERVED, for those too that other clauses admit (R292). -/
def uniReserved (x : Actor) (f : Form) : Bool := hdrCls x.pos.hdr == 6 && f.pats != (0, 0, 0)

/-- Whether a predicate of the gaffer map is a range. -/
def Parison.isRange (r : Parison) (n : Nat) : Bool :=
  match nth r.pmap n (.uni false) with
  | .uni _ => false
  | .range _ _ _ => n != 24

/-- Whether a range predicate guards an instruction of a UNI clause other than UBRA, or selects for USEL: GUARD (R292, R293). -/
def rangeGuard (x : Actor) (f : Form) : Bool :=
  match x with
  | .wave _ _ _ => false
  | .par _ r => hdrCls r.pos.hdr == 6 &&
      ((f.opc != 0xDD && r.isRange f.guard.1) || (f.opc == 0xDC && r.isRange f.fields.2.2.2))

/-- The decode checks of a decoded instruction at an actor's position, in order (R190). -/
def decodeCheck (x : Actor) (f : Form) : Option Sub :=
  match rawCheck x f.opc f.ml f.len with
  | some e => some e
  | none =>
    if f.oneWord then some .oneWord
    else if f.reserved || uniReserved x f then some .reserved
    else if f.badGuard || rangeGuard x f then some .guard
    else if nameBad x f then some .name
    else if patBad x f then some .pattern
    else none

/-! ## Stalls -/

/-- The operations an actor has in flight. -/
def Actor.ops : Actor → List Op
  | .wave _ w _ => w.ops
  | .par _ r => r.ops

/-- The counters of an actor. -/
def Actor.ctr : Actor → Counters
  | .wave _ w _ => w.ctr
  | .par _ r => r.ctr

/-- The open lookahead windows of an actor. -/
def Actor.ahead : Actor → List (Nat × Nat)
  | .wave _ _ sp => sp.ahead
  | .par _ r => r.ahead

/-- Whether an instruction names a register that an operation in flight will write (R186); the operations of every split of a wave
count, since its splits share its names. No instruction that takes time writes a predicate: the pending mark of a predicate ends in the
step that issues its writer. -/
def touches (f : Form) (o : Op) : Bool :=
  (f.vreads ++ f.vwrites ++ f.lastReads).any (fun n => o.vdst.contains n)
    || (f.sreads ++ f.swrites).any fun n => o.sdst.contains n


/-- Whether an operation is a long-latency FP32 function, whose result is waited for (R237). -/
def OpKind.isFp : OpKind → Bool
  | .fpFunction => true
  | _ => false

/-- What the checks before an instruction's effect say. -/
inductive Gate
  | go
  | trap (sub : Sub)
  | stall (why : Stall)
  deriving DecidableEq, Repr

/-- Whether the actor can issue at all: it runs, stands within a clause and waits for nothing. -/
def Actor.held : Actor → Option Stall
  | .wave _ w sp =>
    if w.status != .running then some .stopped
    else if sp.parked.isSome then some .parked
    else if sp.deferred then some .held
    else if sp.wait != .none then some sp.stall
    else if !sp.pos.inside then some .other
    else none
  | .par _ r =>
    if r.status != .running then some .stopped
    else if r.mode == .waitJoin || r.mode == .ended then some .parked
    else if r.wait != .none then some r.stall
    else if !r.pos.inside then some .other
    else if r.mode == .blown && hdrCls r.pos.hdr != 6 then some .other
    else none

/-- Whether some vector name in the group of four of a name of the instruction is absent and must be filled first (R346). -/
def needsFill (x : Actor) (f : Form) : Bool :=
  match x with
  | .wave _ w _ => (f.vreads ++ f.vwrites).any fun n => ((List.range 4).map (n / 4 * 4 + ·)).any fun m =>
    match nth w.vmap m .undef with | .absent _ => true | _ => false
  | .par _ _ => false

/-- The counter an actor counts an instruction on; a vector instruction of a parison in form mode blows it instead. -/
def counted (x : Actor) (f : Form) : Option Ctr :=
  match x with
  | .wave _ _ _ => counterOf f.opc
  | .par _ r => if hdrCls r.pos.hdr = 6 then counterOf f.opc else none

/-- Whether a ULD of the gaffer has not passed every fault check: its data has not come, or came with an uncorrectable error that is
still to be raised; nothing issues after it (R340). -/
def Actor.uldAway : Actor → Bool
  | .wave _ _ _ => false
  | .par _ r => r.ops.any fun o => o.kind == .uld && o.reqs.any fun q => !q.done || q.flaw.isSome

/-- The gate of an instruction (R173, R186, R190). -/
def gate (x : Actor) (f : Form) : Gate :=
  match x.held with
  | some why => .stall why
  | none =>
    match decodeCheck x f with
    | some e => .trap e
    | none =>
      if needsFill x f then .stall .fill
      else if x.uldAway then .stall .memory
      else if x.ops.any (fun o => !o.kind.isFp && touches f o) then .trap .lookahead
      else if x.ahead.any (fun e => e.2 == 0 && x.ops.any fun o => o.id == e.1) then .stall .lookahead
      else if x.ops.any (fun o => o.kind.isFp && f.vreads.any fun n => o.vdst.contains n) then .stall .lookahead
      else if x.ops.any (fun o => o.kind.isFp && touches f o) then .trap .lookahead
      else match counted x f with
        | some c => if x.ctr.get c = 63 then .stall .count else .go
        | none => .go

/-! ## Operands (R157, R187) -/

/-- What one lane's sources hold: the words of A, B and C, and the truth of predicate operands. -/
structure LaneIn where
  lane : Nat := 0
  a : List Word := []
  b : List Word := []
  c : List Word := []
  pa : Bool := false
  pb : Bool := false
  pc : Bool := false
  deriving DecidableEq, Repr

/-- The first word of a source. -/
def LaneIn.a0 (i : LaneIn) : Word := nth i.a 0 0
@[inherit_doc LaneIn.a0] def LaneIn.b0 (i : LaneIn) : Word := nth i.b 0 0
@[inherit_doc LaneIn.a0] def LaneIn.c0 (i : LaneIn) : Word := nth i.c 0 0

/-- A pair of words as a 64-bit value (R52). -/
def pairOf (ws : List Word) : DWord := Word.pair (nth ws 1 0) (nth ws 0 0)

/-- A 64-bit value as the words of an even-odd pair. -/
def wordsOfPair (d : DWord) : List Word := [Word.loOf d, Word.hiOf d]

/-- The truth of a predicate operand in a lane; 24 is true where the field allows it. -/
def Wave.predAt (w : Wave) (k : FK) (n l : Nat) : Bool :=
  match k with
  | .p => (nth w.preds n 0).getLsbD l
  | .pT => n == 24 || (nth w.preds n 0).getLsbD l
  | _ => false

/-- The sources of an instruction in a lane. -/
def Wave.operands (w : Wave) (ff : List (Nat × Aff)) (f : Form) (l : Nat) : LaneIn :=
  let u := f.use
  let (_, a, b, c) := f.fields
  let (xa, xb, xc) := f.pats
  { lane := l
    a := (u.a.vnames a).map fun n => w.lane ff n (w.src xa l)
    b := match f.imm with
      | some v => [v]
      | none => (u.b.vnames b).map fun n => w.lane ff n (w.src xb l)
    c := (u.c.vnames c).map fun n => w.lane ff n (w.src xc l)
    pa := w.predAt u.a a l
    pb := w.predAt u.b b l
    pc := w.predAt u.c c l }

/-! ## Running an instruction -/

/-- What an instruction does once its gate is open, and for a branch the check of its target, which ranks before LOOKAHEAD (R190). -/
structure Effect where
  wave : State → AgentId → Wave → Split → State
  par : State → ParId → Parison → State
  target : State → Actor → Option Sub := fun _ _ => none

/-- One more instruction of a combiner wave: the 257th fails its batch (R121). -/
def State.countStep (s : State) (x : Actor) : State × Bool :=
  match x with
  | .wave (.combiner r) _ sp =>
    let c := s.crucible r
    if 256 ≤ c.steps then (s.failBatch r .stepLimit sp.pos.pc, false)
    else (s.putCrucible r { c with steps := c.steps + 1 }, true)
  | _ => (s, true)

/-- Running an instruction on behalf of the agent that `cur` names: a stall, a trap of R190 or of a soft error, or its effect. -/
def runInstr (f : Form) (e : Effect) (s : State) : Out :=
  match s.actor with
  | none => .refused .noAgent
  | some x =>
    match gate x f with
    | .stall why => .next (s.stalled x why)
    | .trap sub => .next (s.raise x .illegal (if sub = .lookahead then (e.target s x).getD sub else sub))
    | .go =>
      match s.softAt s.cur f with
      | (s, some (c, sub)) => .next (s.raise x c sub)
      | (s, none) =>
        let (s, on) := s.countStep x
        if !on then .next s else
        match x with
        | .wave a w sp => .next (e.wave s a w sp)
        | .par p r => .next (e.par s p r)

end Sys2Proof.Machine
end

