-- ==== Sys2Proof/Machine/Blow.lean ====
section
/-! DEFINITION. Blowing a parison into waves (R155, R156, R168), and what a blow or an end does to a sibling that waits
at a JOIN (R162). -/

namespace Sys2Proof.Machine

/-- The numbers `lo` to `hi`. -/
def span (lo hi : Nat) : List Nat := (List.range (hi + 1 - lo)).map (lo + ·)

/-- The items of a box in linear order, x fastest (R155). -/
def Box.items (b : Box) : List (Nat × Nat × Nat) :=
  (span b.z0 b.z1).flatMap fun z => (span b.y0 b.y1).flatMap fun y => (span b.x0 b.x1).map fun x => (x, y, z)

/-- The items of a box. -/
def Box.count (b : Box) : Nat := (b.x1 + 1 - b.x0) * (b.y1 + 1 - b.y0) * (b.z1 + 1 - b.z0)

/-- Whether an item lies in a box. -/
def Box.has (b : Box) (i : Nat × Nat × Nat) : Bool :=
  b.x0 ≤ i.1 && i.1 ≤ b.x1 && b.y0 ≤ i.2.1 && i.2.1 ≤ b.y1 && b.z0 ≤ i.2.2 && i.2.2 ≤ b.z1

/-- The items of the quads of a box in linear order, four to a quad (R168). -/
def Box.quadItems (b : Box) : List (Nat × Nat × Nat) :=
  (span b.z0 b.z1).flatMap fun z => (span (b.y0 / 2) (b.y1 / 2)).flatMap fun qy =>
    (span (b.x0 / 2) (b.x1 / 2)).flatMap fun qx =>
      [(2 * qx, 2 * qy, z), (2 * qx + 1, 2 * qy, z), (2 * qx, 2 * qy + 1, z), (2 * qx + 1, 2 * qy + 1, z)]

/-- The waves that a blow of a box makes: its items by 32, or its quads by eight (R155, R168). -/
def Box.waves (b : Box) (quad : Bool) : Nat :=
  if quad then ((b.x1 / 2 + 1 - b.x0 / 2) * (b.y1 / 2 + 1 - b.y0 / 2) * (b.z1 + 1 - b.z0) + 7) / 8 else (b.count + 31) / 32

/-- A list cut into groups of 32. -/
def chunks32 {α : Type} : Nat → List α → List (List α)
  | 0, _ => []
  | n + 1, l => if l.isEmpty then [] else l.take 32 :: chunks32 n (l.drop 32)

/-- The truth of a parison's predicate for an item (R153). -/
def PBind.at (p : PBind) (i : Nat × Nat × Nat) : Bool :=
  match p with
  | .uni v => v
  | .range d lo hi => let c := if d = 0 then i.1 else if d = 1 then i.2.1 else i.2.2; lo ≤ c && c ≤ hi

/-- The wave slots that are reserved for a block's role and free, in ascending order (R156): a blow finds as many as it needs. -/
def State.slotsFor (s : State) (c : CoreRef) (b : Block) (role : Nat) : List (Nat × Nat) :=
  ((b.rsv.filter fun e => e.1 == role).map (·.2)).filter fun e => (look (⟨c.die, c.core, e.1, e.2⟩ : WaveId) s.waves).isNone

/-- Whether a parison blows in quads: role 0 of a QUAD launch (R168, log entry 20). -/
def State.quadPar (s : State) (r : Parison) : Bool := ((s.blockOf r.block).map (·.quad)).getD false && r.role == 0

/-- One wave of a blow: its number and its items (R155). -/
def waveOfBlow (p : ParId) (r : Parison) (quad : Bool) (age num : Nat) (its : List (Nat × Nat × Nat)) : Wave :=
  let live := maskOf fun l => l < its.length
  { par := some p, block := some r.block, ctx := r.ctx, image := r.image, role := r.role, number := num,
    allot := r.allot, prio := r.prio, age := age, live := live
    helper := if quad then maskOf fun l => l < its.length && !r.box.has (nth its l (0, 0, 0)) else 0
    items := its.map fun i => (BitVec.ofNat 32 i.1, BitVec.ofNat 32 i.2.1, BitVec.ofNat 32 i.2.2)
    vmap := r.nmap.map fun n => match n with | some k => .form k | none => .undef
    preds := r.pmap.map fun b => maskOf fun l => l < its.length && b.at (nth its l (0, 0, 0))
    xpat := r.xpat, sreg := r.sreg, gwd := r.gwd, gwp := r.gwp
    slots := [some { pos := r.pos, act := live }, none, none, none] }

/-- The core of a parison. -/
def parCore (p : ParId) : CoreRef := ⟨p.die, p.core⟩

/-- The waves of a blow put into wave slots. -/
def State.placeWaves (s : State) (p : ParId) (r : Parison) (quad : Bool) :
    List (Nat × List (Nat × Nat × Nat)) → List (Nat × Nat) → State
  | (num, its) :: t, (part, k) :: sl =>
    State.placeWaves { s with waves := put (⟨p.die, p.core, part, k⟩ : WaveId) (waveOfBlow p r quad s.ageCtr num its) s.waves,
                              ageCtr := s.ageCtr + 1 } p r quad t sl
  | _, _ => s

/-- Blowing a parison (R155): its items become waves at the blowing instruction, its mode becomes BLOWN, and a sibling
that waits for it passes its JOIN alone. The gaffer goes on from the header of the blowing clause, which it passes over (R158). -/
def State.blow (s : State) (p : ParId) (r : Parison) : State :=
  let b := s.blockOf r.block
  let quad := s.quadPar r
  let its := if quad then r.box.quadItems else r.box.items
  let groups := chunks32 (its.length + 1) its
  let nums := (List.range groups.length).zip groups
  let slots := match b with
    | some b => s.slotsFor (parCore p) b r.role
    | none => []
  let s := s.setPar p { r with mode := .blown, queue := [], pushed := 0, stopped := false, stall := .issued, wait := .none, pos := r.pos.goHeader r.pos.hofs }
  (s.placeWaves p r quad nums slots).freeSiblings p

end Sys2Proof.Machine
end

