-- ==== Sys2Proof/Machine/Vector.lean ====
section
/-! DEFINITION. The running of vector instructions: per lane in a wave (R201), on forms in form mode (R151, R152). -/

namespace Sys2Proof.Machine

/-- What an instruction gives one lane: the words of D, and the predicates it writes. -/
structure LaneOut where
  words : List Word := []
  preds : List (Nat × Bool) := []
  deriving DecidableEq, Repr

/-- A vector instruction's computation: the sources of every lane, the executing lanes, the collecting lanes (helper
lanes removed), and the lane computed. -/
abbrev VFn := (Nat → LaneIn) → Word → Word → Nat → LaneOut

/-- The computation of an instruction whose lanes are independent. -/
def each (f : LaneIn → LaneOut) : VFn := fun inp _ _ l => f (inp l)

/-- One word of D from a lane's sources. -/
def each1 (f : LaneIn → Word) : VFn := each fun i => { words := [f i] }

/-- A pair of D from a lane's sources. -/
def each2 (f : LaneIn → DWord) : VFn := each fun i => { words := wordsOfPair (f i) }

/-- The names of D written from the lanes' outputs, `k` words in; a lane with no words keeps its destination. -/
def Wave.writeDst (w : Wave) (ff : List (Nat × Aff)) (m : Word) (out : List LaneOut) : List Nat → Nat → Wave
  | [], _ => w
  | n :: t, k =>
    let sel := maskOf fun l => m.getLsbD l && decide (k < (nth out l {}).words.length)
    Wave.writeDst (w.write ff n sel fun l => nth (nth out l {}).words k 0) ff m out t (k + 1)

/-- The predicates the lanes' outputs write. -/
def Wave.writePreds (w : Wave) (m : Word) (out : List LaneOut) : List Nat → Wave
  | [] => w
  | n :: t =>
    let sel := maskOf fun l => m.getLsbD l && (look n (nth out l {}).preds).isSome
    Wave.writePreds (w.writePred n sel fun l => (look n (nth out l {}).preds).getD false) m out t

/-- The predicates written in some executing lane. -/
def predsWritten (m : Word) (out : List LaneOut) : List Nat :=
  dedup ((lanesOf m).flatMap fun l => (nth out l {}).preds.map (·.1))

/-- The outputs of all 32 lanes. -/
def outputs (w : Wave) (ff : List (Nat × Aff)) (f : Form) (fn : VFn) (ex : Word) : List LaneOut :=
  let inp := perLane fun l => w.operands ff f l
  perLane fun l => if ex.getLsbD l then fn (fun k => nth inp k {}) ex (ex &&& ~~~w.helper) l else {}

/-- The effect of a vector instruction in a wave (R201): the executing lanes write D and the predicates, and last reads
release their names (R186). -/
def vecResult (w : Wave) (ff : List (Nat × Aff)) (f : Form) (fn : VFn) (ex : Word) : Wave :=
  let out := outputs w ff f fn ex
  (((w.release f.lastReads).writeDst ff ex out f.vwrites 0)).writePreds ex out (predsWritten ex out)

/-- The names an instruction reads for the last time, with what they hold (R186). -/
def State.freedBy (s : State) (a : AgentId) (f : Form) : List (Nat × List Word) :=
  match s.waveOf a with
  | some w => f.lastReads.map fun n => (n, perLane fun l => w.lane (s.formFile (coreOf a)) n l)
  | none => []

/-- The wave after an instruction has issued from a split. -/
def State.finishWave (s : State) (a : AgentId) (w : Wave) (sp : Split) (f : Form) : State :=
  s.setWave a (w.setSlot (slotOf a) (some { sp.issued f with freed := sp.freed ++ s.freedBy a f }))

/-- A vector instruction in a wave. -/
def vecWave (f : Form) (fn : VFn) (s : State) (a : AgentId) (w : Wave) (sp : Split) : State :=
  s.finishWave a (vecResult w (s.formFile (coreOf a)) f fn (w.exec sp f)) sp f

/-! ## Form mode -/

/-- The guard of an instruction in form mode: none for a range predicate (R151, R152). -/
def Parison.guard (r : Parison) (f : Form) : Option Bool :=
  let (gp, gn, _) := f.guard
  if gp = 24 then some true else
  match nth r.pmap gp (.uni false) with
  | .uni v => some (v != gn)
  | .range _ _ _ => none

/-- The forms of a source's names; none when a name is UNDEF. -/
def Parison.formsOf (r : Parison) (ff : List (Nat × Aff)) : List Nat → Option (List Aff)
  | [] => some []
  | n :: t => match (nth r.nmap n none).bind fun k => look k ff, Parison.formsOf r ff t with
    | some x, some l => some (x :: l)
    | _, _ => none

/-- A predicate operand's value when it is uniform; a field that names no predicate counts as uniform. -/
def Parison.predOf (r : Parison) (k : FK) (n : Nat) : Option Bool :=
  match k with
  | .p | .pT => if n = 24 then some true else match nth r.pmap n (.uni false) with
    | .uni v => some v
    | .range _ _ _ => none
  | _ => some false

/-- Whether a pattern register is the identity (R187). -/
def patIdentity (b : Byte) : Bool := (b.extractLsb' 0 5 == 0) && (b.extractLsb' 5 2 != 1)

/-- Whether an instruction reads a source through a pattern that exchanges lanes (R187). -/
def Parison.exchanges (r : Parison) (f : Form) : Bool :=
  let (xa, xb, xc) := f.pats
  [xa, xb, xc].any fun n => n != 0 && !patIdentity (nth r.xpat (n - 1) 0)

/-- The sources of an instruction in form mode. -/
structure FormIn where
  a : List Aff
  b : List Aff
  c : List Aff
  pa : Bool
  pb : Bool
  pc : Bool
  deriving DecidableEq, Repr

/-- The sources of an instruction in form mode, unless it reads UNDEF, a range predicate, or through a pattern that
exchanges lanes (R152, R187). -/
def Parison.operands (r : Parison) (ff : List (Nat × Aff)) (f : Form) : Option FormIn :=
  let u := f.use
  let (_, a, b, c) := f.fields
  if r.exchanges f then none else
  match r.formsOf ff (u.a.vnames a), (match f.imm with | some v => some [Aff.ofWord v] | none => r.formsOf ff (u.b.vnames b)),
      r.formsOf ff (u.c.vnames c), r.predOf u.a a, r.predOf u.b b, r.predOf u.c c with
  | some a, some b, some c, some pa, some pb, some pc => some { a := a, b := b, c := c, pa := pa, pb := pb, pc := pc }
  | _, _, _, _, _, _ => none

/-- Whether every source is uniform. -/
def FormIn.uni (i : FormIn) : Bool := i.a.all Aff.uni && i.b.all Aff.uni && i.c.all Aff.uni

/-- Uniform sources as a lane's sources. -/
def FormIn.lane (i : FormIn) : LaneIn :=
  { a := i.a.map (·.base), b := i.b.map (·.base), c := i.c.map (·.base), pa := i.pa, pb := i.pb, pc := i.pc }

/-- What an instruction does in form mode (the form column of the tables, R201): its result stays a form, it does so
when all sources are uniform, or it blows. -/
inductive FormRule
  | stays (g : FormIn → Option (List Aff))
  | uniform
  | blows

/-- Forms put into the form file for the names of a destination. -/
def State.bindForms (s : State) (c : CoreRef) (p : ParId) : List (Nat × Aff) → Option State
  | [] => some s
  | (n, x) :: t => match s.allocForm c x with
    | none => none
    | some (s1, k) => match look p s1.pars with
      | none => none
      | some r => State.bindForms (s1.setPar p { r with nmap := r.nmap.set n (some k) }) c p t

/-- The parison's predicates after uniform writes. -/
def setPmap (m : List PBind) (ps : List (Nat × Bool)) : List PBind := ps.foldl (fun m e => m.set e.1 (.uni e.2)) m

/-- The parison after an instruction in form mode whose results are forms; none when the form file is full. -/
def State.finishForm (s : State) (p : ParId) (r : Parison) (f : Form) (dst : List Aff) (ps : List (Nat × Bool)) :
    Option State :=
  let r1 := r.issued f
  (s.setPar p { r1 with pmap := setPmap r1.pmap ps }).bindForms (parCore p) p (f.vwrites.zip dst)

/-- An instruction in form mode whose guard is UNI-false: it has no effect, but a source named through a pattern that exchanges lanes
blows the parison all the same (R187, R217). -/
def State.passPar (s : State) (p : ParId) (r : Parison) (f : Form) : State :=
  if r.exchanges f then s.blow p r else s.setPar p (r.issued f)

/-- A vector instruction in form mode (R151, R152). -/
def vecPar (f : Form) (rule : FormRule) (fn : VFn) (s : State) (p : ParId) (r : Parison) : State :=
  match rule, r.guard f with
  | .blows, _ => s.blow p r
  | _, none => s.blow p r
  | _, some false => s.passPar p r f
  | rule, some true =>
    match r.operands (s.formFile (parCore p)) f with
    | none => s.blow p r
    | some i =>
      let res : Option (List Aff × List (Nat × Bool)) :=
        match rule with
        | .stays g => (g i).map fun l => (l, [])
        | _ => if i.uni then
            let o := fn (fun _ => i.lane) 0xFFFFFFFF 0xFFFFFFFF 0
            some (o.words.map Aff.ofWord, o.preds)
          else none
      match res with
      | none => s.blow p r
      | some (ws, ps) => (s.finishForm p r f ws ps).getD (s.blow p r)

/-- A vector instruction: its gate, then its lanes or its forms. -/
def runVec (f : Form) (rule : FormRule) (fn : VFn) (s : State) : Out :=
  runInstr f { wave := vecWave f fn, par := vecPar f rule fn } s

end Sys2Proof.Machine
end

