-- ==== Sys2Proof/Machine/Flags.lean ====
section
/-! DEFINITION. Carries, compares and the other truth values integer instructions compute (R215, R221, R222). -/

namespace Sys2Proof.Machine

/-- A word read as two's complement, or as unsigned with `.Z32` (R215). -/
def numOf (z : Bool) (x : Word) : Int := if z then (x.toNat : Int) else x.toInt

/-- The low word of an exact value. -/
def low32 (x : Int) : Word := BitVec.ofInt 32 x

/-- The sum of IADDC: the word and the carry out (R215). -/
def addCarry (a b : Word) (cin : Bool) : Word × Bool :=
  let s := a.toNat + b.toNat + cin.toNat
  (BitVec.ofNat 32 s, decide (2 ^ 32 ≤ s))

/-- The difference of ISUBB: the word and the borrow out (R215). -/
def subBorrow (a b : Word) (bin : Bool) : Word × Bool :=
  let d := (a.toNat : Int) - b.toNat - bin.toNat
  (BitVec.ofInt 32 d, decide (d < 0))

/-- The integer conditions of R221; codes 6 and 7 are reserved. -/
def intCond (code : Nat) (a b : Int) : Bool :=
  match code with
  | 0 => decide (a = b)
  | 1 => decide (a ≠ b)
  | 2 => decide (a < b)
  | 3 => decide (a ≤ b)
  | 4 => decide (a > b)
  | _ => decide (a ≥ b)

/-- ICMP and UCMP on two words: MH gives the condition and .Z32 (R221). -/
def icmpOf (mh : Nat) (a b : Word) : Bool :=
  let z := mh / 8 % 2 == 1
  intCond (mh % 8) (numOf z a) (numOf z b)

/-- Entry `i` of a table of eight bits. -/
def table (t : Nat) (a b c : Bool) : Bool := Nat.testBit t (a.toNat + 2 * b.toNat + 4 * c.toNat)

end Sys2Proof.Machine
end

