-- ==== Sys2Proof/Machine/Integer.lean ====
section
/-! DEFINITION. The integer instructions (R214 to R216). -/

namespace Sys2Proof.Machine

/-! ## Results on forms (R151) -/

/-- A form from an operation on each of its four words. -/
def Aff.map2 (f : Word → Word → Word) (a b : Aff) : Aff :=
  { base := f a.base b.base, sx := f a.sx b.sx, sy := f a.sy b.sy, sz := f a.sz b.sz }

/-- Each word of a form changed alike. -/
def Aff.map1 (f : Word → Word) (a : Aff) : Aff := { base := f a.base, sx := f a.sx, sy := f a.sy, sz := f a.sz }

/-- The product of two forms of which one is uniform. -/
def Aff.mul? (a b : Aff) : Option Aff :=
  if b.uni then some (a.map1 (· * b.base)) else if a.uni then some (b.map1 (· * a.base)) else none

/-- The first form of a source. -/
def aff0 (l : List Aff) : Aff := nth l 0 (Aff.ofWord 0)

/-- IADD on forms. -/
def addForm : FormRule := .stays fun i => some [(aff0 i.a).map2 (· + ·) (aff0 i.b)]

/-- ISUB on forms. -/
def subForm : FormRule := .stays fun i => some [(aff0 i.a).map2 (· - ·) (aff0 i.b)]

/-- IMUL on forms. -/
def mulForm : FormRule := .stays fun i => ((aff0 i.a).mul? (aff0 i.b)).map fun m => [m]

/-- IMAD on forms. -/
def madForm : FormRule :=
  .stays fun i => ((aff0 i.a).mul? (aff0 i.b)).map fun m => [m.map2 (· + ·) (aff0 i.c)]

/-! ## Results per lane (R215, R216) -/

/-- The high word of a product, `z` for .Z32. -/
def mulHigh (z : Bool) (a b : Word) : Word := low32 (numOf z a * numOf z b / 2 ^ 32)

/-- The minimum under s or z. -/
def minOf (z : Bool) (a b : Word) : Word := if numOf z a ≤ numOf z b then a else b

/-- The maximum under s or z. -/
def maxOf (z : Bool) (a b : Word) : Word := if numOf z a ≤ numOf z b then b else a

/-- IABS: abs(-2^31) is 0x8000_0000, or 0x7FFF_FFFF with .SAT. -/
def absOf (sat : Bool) (a : Word) : Word :=
  if a = 0x80000000 then (if sat then 0x7FFFFFFF else 0x80000000) else low32 a.toInt.natAbs

/-- IMADW: the 64-bit product and sum. -/
def madWide (z : Bool) (a b : Word) (c : DWord) : DWord := BitVec.ofInt 64 (numOf z a * numOf z b + c.toInt)

/-- One round of RNG (R216). -/
def rngRound (key x : Word) (k m : Word) : Word :=
  let x := x + key + k
  let x := x ^^^ (x >>> 16)
  let x := x * m
  x ^^^ (x >>> 13)

/-- The mixing function of R216. -/
def rngOf (key ctr : Word) : Word :=
  let x := rngRound key ctr 0x1B873593 0x9A3B1E65
  let x := rngRound key x 0x4CF5AD43 0xD3C24B2F
  let x := rngRound key x 0x7A2E3C5D 0x6E1F58A3
  rngRound key x 0xE16D0B27 0xB47DC61B

/-- ML[0] of a form. -/
def ml0 (f : Form) : Bool := f.ml % 2 == 1

/-- The MH field of a general word 1, zero in one-word form. -/
def gMh (x : GForm) : Nat := (x.w1.map (·.mh.toNat)).getD 0

/-- A result with a carry or borrow predicate: MH[4:0] names it, 24 names none (R215). -/
def withCarry (mh : Nat) (r : Word × Bool) : LaneOut :=
  { words := [r.1], preds := if mh % 32 = 24 then [] else [(mh % 32, r.2)] }

/-! ## Meanings -/

/-- IADD (R215). -/
def execIadd (x : GForm) (s : State) : Out := runVec (Instr.form (.iadd x)) addForm (each1 fun i => i.a0 + i.b0) s

/-- IADD with an immediate (R180, R215). -/
def execIaddImm (x : IForm) (s : State) : Out := runVec (Instr.form (.iaddImm x)) addForm (each1 fun i => i.a0 + i.b0) s

/-- ISUB (R215). -/
def execIsub (x : GForm) (s : State) : Out := runVec (Instr.form (.isub x)) subForm (each1 fun i => i.a0 - i.b0) s

/-- ISUB with an immediate (R180, R215). -/
def execIsubImm (x : IForm) (s : State) : Out := runVec (Instr.form (.isubImm x)) subForm (each1 fun i => i.a0 - i.b0) s

/-- IMUL (R215). -/
def execImul (x : GForm) (s : State) : Out := runVec (Instr.form (.imul x)) mulForm (each1 fun i => i.a0 * i.b0) s

/-- IMUL with an immediate (R180, R215). -/
def execImulImm (x : IForm) (s : State) : Out := runVec (Instr.form (.imulImm x)) mulForm (each1 fun i => i.a0 * i.b0) s

/-- IMULH (R215). -/
def execImulh (x : GForm) (s : State) : Out :=
  runVec (Instr.form (.imulh x)) .uniform (each1 fun i => mulHigh (x.ml.getLsbD 0) i.a0 i.b0) s

/-- IMULH with an immediate (R180, R215). -/
def execImulhImm (x : IForm) (s : State) : Out :=
  runVec (Instr.form (.imulhImm x)) .uniform (each1 fun i => mulHigh (x.ml.getLsbD 0) i.a0 i.b0) s

/-- IMAD (R215). -/
def execImad (x : GForm) (s : State) : Out := runVec (Instr.form (.imad x)) madForm (each1 fun i => i.a0 * i.b0 + i.c0) s

/-- IADDC (R215). -/
def execIaddc (x : GForm) (s : State) : Out :=
  runVec (Instr.form (.iaddc x)) .uniform (each fun i => withCarry (gMh x) (addCarry i.a0 i.b0 i.pc)) s

/-- ISUBB (R215). -/
def execIsubb (x : GForm) (s : State) : Out :=
  runVec (Instr.form (.isubb x)) .uniform (each fun i => withCarry (gMh x) (subBorrow i.a0 i.b0 i.pc)) s

/-- IMIN (R215). -/
def execImin (x : GForm) (s : State) : Out :=
  runVec (Instr.form (.imin x)) .uniform (each1 fun i => minOf (x.ml.getLsbD 0) i.a0 i.b0) s

/-- IMIN with an immediate (R180, R215). -/
def execIminImm (x : IForm) (s : State) : Out :=
  runVec (Instr.form (.iminImm x)) .uniform (each1 fun i => minOf (x.ml.getLsbD 0) i.a0 i.b0) s

/-- IMAX (R215). -/
def execImax (x : GForm) (s : State) : Out :=
  runVec (Instr.form (.imax x)) .uniform (each1 fun i => maxOf (x.ml.getLsbD 0) i.a0 i.b0) s

/-- IMAX with an immediate (R180, R215). -/
def execImaxImm (x : IForm) (s : State) : Out :=
  runVec (Instr.form (.imaxImm x)) .uniform (each1 fun i => maxOf (x.ml.getLsbD 0) i.a0 i.b0) s

/-- IABS (R215). -/
def execIabs (x : GForm) (s : State) : Out :=
  runVec (Instr.form (.iabs x)) .uniform (each1 fun i => absOf (x.ml.getLsbD 0) i.a0) s

/-- SEL (R215). -/
def execSel (x : GForm) (s : State) : Out :=
  runVec (Instr.form (.sel x)) .uniform (each1 fun i => if i.pc then i.a0 else i.b0) s

/-- IMADW (R215). -/
def execImadw (x : GForm) (s : State) : Out :=
  runVec (Instr.form (.imadw x)) .uniform (each2 fun i => madWide (x.ml.getLsbD 0) i.a0 i.b0 (pairOf i.c)) s

/-- RNG (R216). -/
def execRng (x : GForm) (s : State) : Out := runVec (Instr.form (.rng x)) .uniform (each1 fun i => rngOf i.a0 i.b0) s

/-- RNG with an immediate counter (R216). -/
def execRngImm (x : IForm) (s : State) : Out :=
  runVec (Instr.form (.rngImm x)) .uniform (each1 fun i => rngOf i.a0 i.b0) s

end Sys2Proof.Machine
end

