-- ==== Sys2Proof/Machine/Logic.lean ====
section
/-! DEFINITION. Logic, shifts, bit fields, moves and the integer and predicate compares (R217 to R223). -/

namespace Sys2Proof.Machine

/-! ## Results per lane -/

/-- A word built bit by bit. -/
def bitwise (f : Nat → Bool) : Word := maskOf f

/-- SHL: zero from 32 on (R218). -/
def shlOf (a b : Word) : Word := if 32 ≤ b.toNat then 0 else a <<< b.toNat

/-- SHR: zero fill (R218). -/
def shrOf (a b : Word) : Word := if 32 ≤ b.toNat then 0 else a >>> b.toNat

/-- SAR: sign fill (R218). -/
def sarOf (a b : Word) : Word := a.sshiftRight (min b.toNat 32)

/-- LOGT with its table of eight bits (R218). -/
def logtOf (t : Nat) (a b c : Word) : Word := bitwise fun i => table t (a.getLsbD i) (b.getLsbD i) (c.getLsbD i)

/-- FUNL: `left` and `sat` are ML[0] and ML[1] (R219). -/
def funlOf (left sat : Bool) (a b c : Word) : Word :=
  let n := if sat then min c.toNat 32 else c.toNat % 32
  if left then Word.hiOf (Word.pair a b <<< n) else Word.loOf (Word.pair b a >>> n)

/-- The position and length of BFE and BFI (R220). -/
def fieldPos (b : Word) : Nat × Nat := (b.toNat % 256, min (b.toNat / 256 % 256) 32)

/-- Bit `i` of the field BFE extracts, for `i` below its length (R220). -/
def bfeBit (sgn : Bool) (a : Word) (pos i : Nat) : Bool :=
  if pos + i ≤ 31 then a.getLsbD (pos + i) else sgn && a.getLsbD 31

/-- BFE (R220). -/
def bfeOf (sgn : Bool) (a b : Word) : Word :=
  let (pos, len) := fieldPos b
  bitwise fun i => if i < len then bfeBit sgn a pos i else sgn && decide (0 < len) && bfeBit sgn a pos (len - 1)

/-- BFI (R220). -/
def bfiOf (a b c : Word) : Word :=
  let (pos, len) := fieldPos b
  bitwise fun j => if pos ≤ j && j < pos + len then a.getLsbD (j - pos) else c.getLsbD j

/-- CLZ: 32 for zero (R218). -/
def clzOf (a : Word) : Word :=
  BitVec.ofNat 32 (match (lanesOf a).getLast? with | some k => 31 - k | none => 32)

/-- The eight-bit table of LOGT and PLOGT: MH and ML[1:0] (R217, R221). -/
def tableOf (x : GForm) : Nat := gMh x * 4 + x.ml.toNat % 4

/-- SHL on forms: B uniform (R151). -/
def shlForm : FormRule :=
  .stays fun i => if (aff0 i.b).uni then some [(aff0 i.a).map1 fun w => shlOf w (aff0 i.b).base] else none

/-! ## Meanings: logic and shifts -/

/-- AND (R218). -/
def execAnd (x : GForm) (s : State) : Out := runVec (Instr.form (.and x)) .uniform (each1 fun i => i.a0 &&& i.b0) s

/-- AND with an immediate. -/
def execAndImm (x : IForm) (s : State) : Out := runVec (Instr.form (.andImm x)) .uniform (each1 fun i => i.a0 &&& i.b0) s

/-- OR (R218). -/
def execOr (x : GForm) (s : State) : Out := runVec (Instr.form (.or x)) .uniform (each1 fun i => i.a0 ||| i.b0) s

/-- OR with an immediate. -/
def execOrImm (x : IForm) (s : State) : Out := runVec (Instr.form (.orImm x)) .uniform (each1 fun i => i.a0 ||| i.b0) s

/-- XOR (R218). -/
def execXor (x : GForm) (s : State) : Out := runVec (Instr.form (.xor x)) .uniform (each1 fun i => i.a0 ^^^ i.b0) s

/-- XOR with an immediate. -/
def execXorImm (x : IForm) (s : State) : Out := runVec (Instr.form (.xorImm x)) .uniform (each1 fun i => i.a0 ^^^ i.b0) s

/-- NOT (R218). -/
def execNot (x : GForm) (s : State) : Out := runVec (Instr.form (.not x)) .uniform (each1 fun i => ~~~i.a0) s

/-- LOGT (R218). -/
def execLogt (x : GForm) (s : State) : Out :=
  runVec (Instr.form (.logt x)) .uniform (each1 fun i => logtOf (tableOf x) i.a0 i.b0 i.c0) s

/-- SHL (R218). -/
def execShl (x : GForm) (s : State) : Out := runVec (Instr.form (.shl x)) shlForm (each1 fun i => shlOf i.a0 i.b0) s

/-- SHL by an immediate. -/
def execShlImm (x : IForm) (s : State) : Out := runVec (Instr.form (.shlImm x)) shlForm (each1 fun i => shlOf i.a0 i.b0) s

/-- SHR (R218). -/
def execShr (x : GForm) (s : State) : Out := runVec (Instr.form (.shr x)) .uniform (each1 fun i => shrOf i.a0 i.b0) s

/-- SHR by an immediate. -/
def execShrImm (x : IForm) (s : State) : Out := runVec (Instr.form (.shrImm x)) .uniform (each1 fun i => shrOf i.a0 i.b0) s

/-- SAR (R218). -/
def execSar (x : GForm) (s : State) : Out := runVec (Instr.form (.sar x)) .uniform (each1 fun i => sarOf i.a0 i.b0) s

/-- SAR by an immediate. -/
def execSarImm (x : IForm) (s : State) : Out := runVec (Instr.form (.sarImm x)) .uniform (each1 fun i => sarOf i.a0 i.b0) s

/-- FUNL (R219). -/
def execFunl (x : GForm) (s : State) : Out :=
  runVec (Instr.form (.funl x)) .uniform (each1 fun i => funlOf (x.ml.getLsbD 0) (x.ml.getLsbD 1) i.a0 i.b0 i.c0) s

/-- BFE (R220). -/
def execBfe (x : GForm) (s : State) : Out :=
  runVec (Instr.form (.bfe x)) .uniform (each1 fun i => bfeOf (x.ml.getLsbD 0) i.a0 i.b0) s

/-- BFI (R220). -/
def execBfi (x : GForm) (s : State) : Out := runVec (Instr.form (.bfi x)) .uniform (each1 fun i => bfiOf i.a0 i.b0 i.c0) s

/-- POPC (R218). -/
def execPopc (x : GForm) (s : State) : Out :=
  runVec (Instr.form (.popc x)) .uniform (each1 fun i => BitVec.ofNat 32 (popcount i.a0)) s

/-- CLZ (R218). -/
def execClz (x : GForm) (s : State) : Out := runVec (Instr.form (.clz x)) .uniform (each1 fun i => clzOf i.a0) s

/-- BREV (R218). -/
def execBrev (x : GForm) (s : State) : Out :=
  runVec (Instr.form (.brev x)) .uniform (each1 fun i => bitwise fun k => i.a0.getLsbD (31 - k)) s

/-- MOV: a register or, with .B64, a pair (R218). -/
def execMov (x : GForm) (s : State) : Out :=
  runVec (Instr.form (.mov x)) (.stays fun i => some i.a) (each fun i => { words := i.a }) s

/-- MOVI (R218). -/
def execMovi (x : IForm) (s : State) : Out :=
  runVec (Instr.form (.movi x)) (.stays fun i => some i.b) (each1 fun i => i.b0) s

/-! ## Compares and predicates -/

/-- The exact value of a form for an item: coefficients in two's complement, BASE under s or z (R153). -/
def Aff.exact (f : Aff) (z : Bool) (x y w : Nat) : Int :=
  numOf z f.base + f.sx.toInt * x + f.sy.toInt * y + f.sz.toInt * w

/-- The extents of a box. -/
def Box.ext (b : Box) (d : Nat) : Nat × Nat :=
  if d = 0 then (b.x0, b.x1) else if d = 1 then (b.y0, b.y1) else (b.z0, b.z1)

/-- The coefficient of a dimension. -/
def Aff.coef (f : Aff) (d : Nat) : Word := if d = 0 then f.sx else if d = 1 then f.sy else f.sz

/-- The dimension a form depends on across a box, when there is at most one (R153). -/
def Box.dimOf (b : Box) (f : Aff) : Option Nat :=
  match ([0, 1, 2] : List Nat).filter fun d => f.coef d != 0 && (b.ext d).1 != (b.ext d).2 with
  | [d] => some d
  | [] => ([0, 1, 2] : List Nat).find? fun d => f.coef d != 0
  | _ => none

/-- The range predicate of an ordered compare of an affine form with a uniform one (R153). -/
def rangePred (b : Box) (mh : Nat) (f : Aff) (v : Word) : Option PBind :=
  let z := mh / 8 % 2 == 1
  let c := mh % 8
  match b.dimOf f with
  | none => none
  | some d =>
    let at_ (k : Nat) : Int :=
      f.exact z (if d = 0 then k else b.x0) (if d = 1 then k else b.y0) (if d = 2 then k else b.z0)
    let (lo, hi) := b.ext d
    let ok (n : Int) : Bool := if z then decide (0 ≤ n ∧ n < 2 ^ 32) else decide (-(2 ^ 31) ≤ n ∧ n < 2 ^ 31)
    if !(2 ≤ c && c ≤ 5) || !ok (at_ lo) || !ok (at_ hi) then none else
    match (span lo hi).filter fun k => intCond c (at_ k) (numOf z v) with
    | [] => some (.uni false)
    | k :: t => if t.length + 1 = hi + 1 - lo then some (.uni true) else some (.range d k (k + t.length))

/-- An ICMP of an affine form in form mode becomes a range predicate or blows; any other follows R151 (R153). -/
def icmpPar (f : Form) (mh : Nat) (fn : VFn) (s : State) (p : ParId) (r : Parison) : State :=
  match r.guard f, r.operands (s.formFile (parCore p)) f with
  | some true, some i =>
    if i.uni then vecPar f .uniform fn s p r
    else if !(aff0 i.b).uni then s.blow p r
    else match rangePred r.box mh (aff0 i.a) (aff0 i.b).base with
      | some q => let r1 := r.issued f; s.setPar p { r1 with pmap := r1.pmap.set f.fields.1 q }
      | none => s.blow p r
  | _, _ => vecPar f .uniform fn s p r

/-- A result that is the predicate D. -/
def predD (f : Form) (c : LaneIn → Bool) : VFn := each fun i => { preds := [(f.fields.1, c i)] }

/-- ICMP (R221). -/
def execIcmp (x : GForm) (s : State) : Out :=
  let f := Instr.form (.icmp x)
  let fn := predD f fun i => icmpOf (gMh x) i.a0 i.b0
  runInstr f { wave := vecWave f fn, par := icmpPar f (gMh x) fn } s

/-- ICMP with an immediate comparand (R180, R221). -/
def execIcmpImm (x : IForm) (s : State) : Out :=
  let f := Instr.form (.icmpImm x)
  let fn := predD f fun i => icmpOf x.mh.toNat i.a0 i.b0
  runInstr f { wave := vecWave f fn, par := icmpPar f x.mh.toNat fn } s

/-- PLOGT (R222). -/
def execPlogt (x : GForm) (s : State) : Out :=
  let f := Instr.form (.plogt x)
  runVec f .uniform (predD f fun i => table (tableOf x) i.pa i.pb i.pc) s

/-- PPACK in a wave: bit i of lane l is p_i of lane l (R223). -/
def packPreds (ps : List Word) (l : Nat) : Word := bitwise fun i => decide (i < 24) && (nth ps i 0).getLsbD l

/-- PPACK (R223). In form mode it stays a form when every predicate is uniform. -/
def execPpack (x : GForm) (s : State) : Out :=
  let f := Instr.form (.ppack x)
  runInstr f
    { wave := fun s a w sp => vecWave f (each1 fun i => packPreds w.preds i.lane) s a w sp
      par := fun s p r =>
        let vals := r.pmap.map fun b => match b with | .uni v => some v | .range _ _ _ => none
        if r.guard f != some false && vals.any (·.isNone) then s.blow p r
        else vecPar f .uniform (each1 fun _ => bitwise fun i => (nth vals i none).getD false) s p r } s

/-- The predicates PUNPK sets in a lane (R223). -/
def unpackPreds (v m : Word) : List (Nat × Bool) :=
  ((List.range 24).filter fun i => m.getLsbD i).map fun i => (i, v.getLsbD i)

/-- PUNPK (R223). -/
def execPunpk (x : GForm) (s : State) : Out :=
  runVec (Instr.form (.punpk x)) .uniform (each fun i => { preds := unpackPreds i.a0 i.b0 }) s

end Sys2Proof.Machine
end

