-- ==== Sys2Proof/Machine/Float.lean ====
section
/-! DEFINITION. Floating-point values, one rounding (R53 to R57), conversions (R58) and the correctly rounded functions
of R237. -/

namespace Sys2Proof.Machine

/-! ## Formats and values (R53, R54) -/

/-- A format: exponent and fraction bits, and whether it has infinities. -/
structure Fmt where
  eb : Nat
  fb : Nat
  inf : Bool := true
  deriving DecidableEq, Repr

def fF32 : Fmt := { eb := 8, fb := 23 }
def fF16 : Fmt := { eb := 5, fb := 10 }
def fBF16 : Fmt := { eb := 8, fb := 7 }
def fE5M2 : Fmt := { eb := 5, fb := 2 }
def fE4M3 : Fmt := { eb := 4, fb := 3, inf := false }

/-- The bias of a format. -/
def Fmt.bias (f : Fmt) : Nat := 2 ^ (f.eb - 1) - 1

/-- The bits of a format. -/
def Fmt.width (f : Fmt) : Nat := 1 + f.eb + f.fb

/-- The exponent of the smallest subnormal. -/
def Fmt.emin (f : Fmt) : Int := 1 - (f.bias : Int) - f.fb

/-- The canonical NaN (R54). -/
def Fmt.nan (f : Fmt) : Nat :=
  if f.inf then (2 ^ f.eb - 1) * 2 ^ f.fb + 2 ^ (f.fb - 1) else 2 ^ (f.eb + f.fb) - 1

/-- The magnitude bits of infinity, or past the largest finite value. -/
def Fmt.top (f : Fmt) : Nat := if f.inf then (2 ^ f.eb - 1) * 2 ^ f.fb else 2 ^ (f.eb + f.fb) - 1

/-- A floating-point value: NaN, an infinity, or plus or minus `m` times 2 to the `e`. -/
inductive FV
  | nan
  | inf (neg : Bool)
  | fin (neg : Bool) (m : Nat) (e : Int)
  deriving DecidableEq, Repr

/-- The value of a code (R53). -/
def decodeF (f : Fmt) (x : Nat) : FV :=
  let x := x % 2 ^ f.width
  let neg := Nat.testBit x (f.width - 1)
  let mag := x % 2 ^ (f.width - 1)
  let ex := mag / 2 ^ f.fb
  let fr := mag % 2 ^ f.fb
  if f.inf && ex = 2 ^ f.eb - 1 then (if fr = 0 then .inf neg else .nan)
  else if !f.inf && mag = 2 ^ (f.eb + f.fb) - 1 then .nan
  else if ex = 0 then .fin neg fr f.emin
  else .fin neg (2 ^ f.fb + fr) (f.emin + ex - 1)

/-! ## Rounding (R55, R56) -/

/-- The four modes of R55. -/
inductive Mode | rn | rz | rm | rp
  deriving DecidableEq, Repr

/-- The mode of a 2-bit code. -/
def modeOf (n : Nat) : Mode :=
  match n % 4 with
  | 0 => .rn
  | 1 => .rz
  | 2 => .rm
  | _ => .rp

/-- Whether a magnitude rounds up, from its low bit, the comparison of the discarded part with a half (0 none, 1 below,
2 equal, 3 above), and the sign. -/
def roundsUp (md : Mode) (neg odd : Bool) (part : Nat) : Bool :=
  match md with
  | .rn => part == 3 || (part == 2 && odd)
  | .rz => false
  | .rm => neg && part != 0
  | .rp => !neg && part != 0

/-- The discarded part of `m` below bit `k`, with `sticky` for a nonzero rest below `m` itself. -/
def partOf (m k : Nat) (sticky : Bool) : Nat :=
  if k = 0 then (if sticky then 1 else 0) else
  let r := m % 2 ^ k
  let h := 2 ^ (k - 1)
  if r < h then (if r = 0 && !sticky then 0 else 1) else if r = h then (if sticky then 3 else 2) else 3

/-- `m` times 2 to the minus `k`, rounded to a whole number. -/
def roundShift (md : Mode) (neg : Bool) (m k : Nat) (sticky : Bool) : Nat :=
  let n := m / 2 ^ k
  if roundsUp md neg (n % 2 == 1) (partOf m k sticky) then n + 1 else n

/-- What a finite overflow gives (R55); in a format without infinities, the largest finite value (R58). -/
def overflowOf (f : Fmt) (md : Mode) (neg : Bool) : Nat :=
  let big := f.top
  if !f.inf then big - 1 else
  match md with
  | .rn => big
  | .rz => big - 1
  | .rm => if neg then big else big - 1
  | .rp => if neg then big - 1 else big

/-- The code of a sign and a magnitude code. -/
def signed (f : Fmt) (neg : Bool) (mag : Nat) : Nat := if neg then 2 ^ (f.width - 1) + mag else mag

/-- The exact value (m + part of one) times 2 to the `e`, rounded once (R56). With `sticky`, `m` has more bits than the
format. -/
def roundF (f : Fmt) (md : Mode) (neg : Bool) (m : Nat) (e : Int) (sticky : Bool) : Nat :=
  let q := max ((Nat.log2 m : Int) + e - f.fb) f.emin
  let n := if e < q then roundShift md neg m (q - e).toNat sticky else m * 2 ^ (e - q).toNat
  let mag := if n < 2 ^ f.fb then n else (q - f.emin).toNat * 2 ^ f.fb + n
  signed f neg (if f.top ≤ mag then overflowOf f md neg else mag)

/-- A value as a code of a format (R58 float to float). -/
def encodeF (f : Fmt) (md : Mode) : FV → Nat
  | .nan => f.nan
  | .inf neg => if f.inf then signed f neg f.top else f.nan
  | .fin neg m e => if m = 0 then signed f neg 0 else roundF f md neg m e false

/-! ## Exact arithmetic -/

/-- The value negated. -/
def FV.neg : FV → FV
  | .nan => .nan
  | .inf n => .inf (!n)
  | .fin n m e => .fin (!n) m e

/-- The absolute value. -/
def FV.abs : FV → FV
  | .nan => .nan
  | .inf _ => .inf false
  | .fin _ m e => .fin false m e

/-- A source after its modifiers: the absolute value first, then the sign (R234). -/
def FV.mods (neg abs : Bool) (x : FV) : FV :=
  let y := if abs then x.abs else x
  if neg then y.neg else y

/-- The exact product; infinity times zero is invalid (R56). -/
def FV.mul : FV → FV → FV
  | .nan, _ => .nan
  | _, .nan => .nan
  | .inf a, .inf b => .inf (a != b)
  | .inf a, .fin b m _ => if m = 0 then .nan else .inf (a != b)
  | .fin a m _, .inf b => if m = 0 then .nan else .inf (a != b)
  | .fin a m e, .fin b n k => .fin (a != b) (m * n) (e + k)

/-- Whether a value is a NaN. -/
def FV.isNan : FV → Bool
  | .nan => true
  | _ => false

/-- Whether a value is an infinity of a sign. -/
def FV.isInf (neg : Bool) : FV → Bool
  | .inf n => n == neg
  | _ => false

/-- The exponent of a finite value. -/
def FV.exp : FV → Int
  | .fin _ _ e => e
  | _ => 0

/-- A finite value as a whole number of units of 2 to the `e`, for `e` at most its exponent. -/
def FV.units (e : Int) : FV → Int
  | .fin neg m k => let v : Int := (m : Int) * 2 ^ (k - e).toNat; if neg then -v else v
  | _ => 0

/-- Whether a value is a zero of a sign. -/
def FV.isZero (neg : Bool) : FV → Bool
  | .fin n m _ => n == neg && m == 0
  | _ => false

/-- The exact sum of terms, rounded once (R56, R241). -/
def sumF (f : Fmt) (md : Mode) (ts : List FV) : Nat :=
  if ts.any FV.isNan || (ts.any (FV.isInf true) && ts.any (FV.isInf false)) then f.nan
  else if ts.any (FV.isInf true) then encodeF f md (.inf true)
  else if ts.any (FV.isInf false) then encodeF f md (.inf false)
  else
    let e := ts.foldl (fun m t => min m t.exp) 0
    let v := ts.foldl (fun a t => a + t.units e) (0 : Int)
    if v = 0 then signed f (if ts.all (FV.isZero true) then true else if ts.all (FV.isZero false) then false else md == .rm) 0
    else roundF f md (decide (v < 0)) v.natAbs e false

/-- Ordering of two numbers, none for a NaN; -0 equals +0. -/
def cmpF (a b : FV) : Option Ordering :=
  match a, b with
  | .nan, _ => none
  | _, .nan => none
  | .inf x, .inf y => some (if x == y then .eq else if x then .lt else .gt)
  | .inf x, .fin _ _ _ => some (if x then .lt else .gt)
  | .fin _ _ _, .inf y => some (if y then .gt else .lt)
  | a, b => let e := min a.exp b.exp; some (compare (a.units e) (b.units e))

/-- Whether the sign of a value is negative. -/
def FV.sign : FV → Bool
  | .nan => false
  | .inf n => n
  | .fin n _ _ => n

/-- minimumNumber and maximumNumber (R57). -/
def minMaxF (f : Fmt) (mx : Bool) (a b : FV) : Nat :=
  match a, b with
  | .nan, .nan => f.nan
  | .nan, b => encodeF f .rn b
  | a, .nan => encodeF f .rn a
  | a, b =>
    let less := match cmpF a b with
      | some .lt => true
      | some .eq => a.sign && !b.sign
      | _ => false
    encodeF f .rn (if less != mx then a else b)

/-- The float conditions of R221. -/
def floatCond (code : Nat) (un : Bool) (a b : FV) : Bool :=
  match cmpF a b with
  | none => match code with
    | 1 | 7 => true
    | 6 => false
    | _ => un
  | some o => match code with
    | 0 => o == .eq
    | 1 => o != .eq
    | 2 => o == .lt
    | 3 => o != .gt
    | 4 => o == .gt
    | 5 => o != .lt
    | 6 => true
    | _ => false

/-- The class bit of FKIND (R224). -/
def kindOf (f : Fmt) (x : Nat) : Nat :=
  let sub := x % 2 ^ (f.width - 1) < 2 ^ f.fb
  match decodeF f x with
  | .nan => 0
  | .inf n => if n then 8 else 1
  | .fin n m _ => if m = 0 then (if n then 5 else 4) else if sub then (if n then 6 else 3) else (if n then 7 else 2)

/-- A value rounded to a whole number in a mode: its sign and magnitude (R58, R236). -/
def roundInt (md : Mode) : FV → Option (Bool × Nat)
  | .fin neg m e => some (neg, if 0 ≤ e then m * 2 ^ e.toNat else roundShift md neg m (-e).toNat false)
  | _ => none

/-- FRND (R236): infinities and zeros are unchanged. -/
def frndOf (md : Mode) (x : FV) : Nat :=
  match roundInt md x with
  | some (neg, n) => encodeF fF32 .rn (.fin neg n 0)
  | none => encodeF fF32 .rn x

/-- An F32 code as a value. -/
def f32 (w : Word) : FV := decodeF fF32 w.toNat

/-- A code as a word. -/
def ofF (n : Nat) : Word := BitVec.ofNat 32 n

/-- F32 addition rounded to nearest: the step of LFOLD, SCAN, QDD and the atomic FADD. -/
def addRn (a b : Word) : Word := ofF (sumF fF32 .rn [f32 a, f32 b])

/-! ## Correctly rounded functions (R237, R238) -/

/-- The whole square root of `n`, by bits from `k` down. -/
def isqrtFrom (n : Nat) : Nat → Nat → Nat
  | 0, r => r
  | k + 1, r => let t := r + 2 ^ k; isqrtFrom n k (if t * t ≤ n then t else r)

/-- The whole square root. -/
def isqrt (n : Nat) : Nat := isqrtFrom n (Nat.log2 n / 2 + 1) 0

/-- FRCP. -/
def frcpOf (x : FV) : Nat :=
  match x with
  | .nan => fF32.nan
  | .inf n => signed fF32 n 0
  | .fin n m e =>
    if m = 0 then encodeF fF32 .rn (.inf n) else
    let k := Nat.log2 m + 60
    roundF fF32 .rn n (2 ^ k / m) (-(k : Int) - e) (2 ^ k % m != 0)

/-- The mantissa made so that the exponent is even. -/
def evenExp (m : Nat) (e : Int) : Nat × Int := if e % 2 = 0 then (m, e) else (2 * m, e - 1)

/-- FSQRT. -/
def fsqrtOf (x : FV) : Nat :=
  match x with
  | .nan => fF32.nan
  | .inf n => if n then fF32.nan else encodeF fF32 .rn x
  | .fin n m e =>
    if m = 0 then signed fF32 n 0 else if n then fF32.nan else
    let (m, e) := evenExp m e
    let z := m * 2 ^ 80
    let r := isqrt z
    roundF fF32 .rn false r (e / 2 - 40) (r * r != z)

/-- FRSQ. -/
def frsqOf (x : FV) : Nat :=
  match x with
  | .nan => fF32.nan
  | .inf n => if n then fF32.nan else 0
  | .fin n m e =>
    if m = 0 then encodeF fF32 .rn (.inf n) else if n then fF32.nan else
    let (m, e) := evenExp m e
    let z := 2 ^ 160 / m
    let r := isqrt z
    roundF fF32 .rn false r (-(e / 2) - 80) (z * m != 2 ^ 160 || r * r != z)

/-- Fixed-point numbers with `p` bits below the point: the product. -/
def fmulFix (p : Nat) (a b : Int) : Int := a * b / 2 ^ p

/-- The sum of a power series from term `t` on, where `next k t` is the term after the `k`-th. -/
def series (next : Nat → Int → Int) : Nat → Nat → Int → Int
  | 0, _, t => t
  | n + 1, k, t => t + series next n (k + 1) (next k t)

/-- atanh of `a` in fixed point: a + a^3/3 + a^5/5 + ... -/
def atanhFix (p n : Nat) (a : Int) : Int :=
  let a2 := fmulFix p a a
  let rec go : Nat → Nat → Int → Int
    | 0, _, _ => 0
    | m + 1, k, t => t / (2 * k + 1) + go m (k + 1) (fmulFix p t a2)
  go n 0 a

/-- ln 2 in fixed point: 2 atanh(1/3). -/
def ln2Fix (p : Nat) : Int := 2 * atanhFix p (p / 3 + 4) (2 ^ p / 3)

/-- arctan(1/q) in fixed point. -/
def atanInvFix (p q : Nat) : Int :=
  let rec go : Nat → Nat → Int → Int
    | 0, _, _ => 0
    | m + 1, k, t => t / (2 * k + 1) - go m (k + 1) (t / (q * q))
  go (p / 4 + 4) 0 (2 ^ p / q)

/-- pi in fixed point, by Machin's formula. -/
def piFix (p : Nat) : Int := 4 * (4 * atanInvFix p 5 - atanInvFix p 239)

/-- exp of `y` in fixed point, for y from 0 to 1. -/
def expFix (p : Nat) (y : Int) : Int := series (fun k t => fmulFix p t y / (k + 1)) (p / 3 + 8) 0 (2 ^ p)

/-- sin of `y` in fixed point. -/
def sinFix (p : Nat) (y : Int) : Int :=
  let y2 := fmulFix p y y
  series (fun k t => -(fmulFix p t y2) / ((2 * k + 2) * (2 * k + 3))) (p / 6 + 8) 0 y

/-- cos of `y` in fixed point. -/
def cosFix (p : Nat) (y : Int) : Int :=
  let y2 := fmulFix p y y
  series (fun k t => -(fmulFix p t y2) / ((2 * k + 1) * (2 * k + 2))) (p / 6 + 8) 0 (2 ^ p)

/-- A fixed-point number scaled by a power of two, rounded to F32; it stands for a value that is not itself a whole
number of its units. -/
def roundFix (p : Nat) (v : Int) (scale : Int) : Nat :=
  if v = 0 then 0 else roundF fF32 .rn (decide (v < 0)) v.natAbs (scale - p) true

/-- The result that an enclosure of the exact value settles: fixed-point values at most `2^24` units off, with `p` bits
first and with more if both ends do not round alike (R237). -/
def settle (g : Nat → Int) (scale : Int) : Nat :=
  let at_ (p : Nat) : Nat × Nat := (roundFix p (g p - 2 ^ 24) scale, roundFix p (g p + 2 ^ 24) scale)
  let a := at_ 160
  if a.1 = a.2 then a.1 else let b := at_ 512; if b.1 = b.2 then b.1 else roundFix 512 (g 512) scale

/-- A finite value in fixed point, rounded down. -/
def toFix (p : Nat) (neg : Bool) (m : Nat) (e : Int) : Int :=
  let v : Int := if 0 ≤ e + p then (m : Int) * 2 ^ (e + p).toNat else (m : Int) / 2 ^ (-(e + p)).toNat
  if neg then -v else v

/-- FEX2. -/
def fex2Of (x : FV) : Nat :=
  match x with
  | .nan => fF32.nan
  | .inf n => if n then 0 else encodeF fF32 .rn x
  | .fin n m e =>
    if m = 0 then 0x3F800000
    else if (Nat.log2 m : Int) + e ≥ 8 then (if n then 0 else encodeF fF32 .rn (.inf false))
    else
      let whole (p : Nat) : Int := toFix p n m e / 2 ^ p
      if 0 ≤ e then roundF fF32 .rn false 1 (whole 0) false
      else
        let k := whole 160
        if e ≥ -160 && toFix 160 n m e % 2 ^ 160 = 0 then roundF fF32 .rn false 1 k false
        else settle (fun p => expFix p (fmulFix p (toFix p n m e - k * 2 ^ p) (ln2Fix p))) k

/-- FLG2. -/
def flg2Of (x : FV) : Nat :=
  match x with
  | .nan => fF32.nan
  | .inf n => if n then fF32.nan else encodeF fF32 .rn x
  | .fin n m e =>
    if m = 0 then encodeF fF32 .rn (.inf true) else if n then fF32.nan else
    let l := Nat.log2 m
    let k : Int := l + e
    if m = 2 ^ l then encodeF fF32 .rn (.fin (decide (k < 0)) k.natAbs 0)
    else settle (fun p =>
      let one : Int := 2 ^ p
      let y : Int := (m : Int) * 2 ^ p / 2 ^ l
      k * one + 2 * atanhFix p (p / 3 + 8) ((y - one) * one / (y + one)) * one / ln2Fix p) 0

/-- The quadrant of a finite value and its remainder below pi/2 in size, in fixed point (R237: exact reduction). -/
def reduceFix (p : Nat) (n : Bool) (m : Nat) (e : Int) : Int × Int :=
  let w := p + 160
  let h := piFix w / 2
  let v := toFix w n m e
  let q := (2 * v + h) / (2 * h)
  (q % 4, (v - q * h) / 2 ^ 160)

/-- Sine or cosine, `c` for cosine, of a finite value that is not tiny. -/
def trigOf (c : Bool) (n : Bool) (m : Nat) (e : Int) : Nat :=
  settle (fun p =>
    let (q, r) := reduceFix p n m e
    let q := if c then (q + 1) % 4 else q
    match q.toNat with
    | 0 => sinFix p r
    | 1 => cosFix p r
    | 2 => -(sinFix p r)
    | _ => -(cosFix p r)) 0

/-- FSIN. An argument below 2^-12 in size is its own sine once rounded. -/
def fsinOf (x : FV) : Nat :=
  match x with
  | .nan | .inf _ => fF32.nan
  | .fin n m e => if m = 0 || (Nat.log2 m : Int) + e < -12 then encodeF fF32 .rn x else trigOf false n m e

/-- FCOS. An argument below 2^-13 in size has cosine 1 once rounded. -/
def fcosOf (x : FV) : Nat :=
  match x with
  | .nan | .inf _ => fF32.nan
  | .fin n m e => if m = 0 || (Nat.log2 m : Int) + e < -13 then 0x3F800000 else trigOf true n m e

/-! ## Conversions (R58, R243, R244) -/

/-- A CVT type: a float format, or an integer of a width, unsigned or not. -/
inductive CType
  | float (f : Fmt)
  | int (w : Nat) (z : Bool)
  deriving DecidableEq, Repr

/-- The type of a code (R243). -/
def ctypeOf (n : Nat) : CType :=
  match n with
  | 0 => .float fF32
  | 1 => .float fF16
  | 2 => .float fBF16
  | 3 => .float fE4M3
  | 4 => .float fE5M2
  | 5 => .int 32 false
  | 6 => .int 32 true
  | 7 => .int 16 false
  | 8 => .int 16 true
  | 9 => .int 8 false
  | 10 => .int 8 true
  | 11 => .int 64 false
  | _ => .int 64 true

/-- The bits of a type. -/
def CType.width : CType → Nat
  | .float f => f.width
  | .int w _ => w

/-- The least and greatest value of an integer type. -/
def intRange (w : Nat) (z : Bool) : Int × Int := if z then (0, 2 ^ w - 1) else (-(2 ^ (w - 1)), 2 ^ (w - 1) - 1)

/-- A whole number held in an integer type: saturated, or its low bits. -/
def fitInt (w : Nat) (z sat : Bool) (v : Int) : Int :=
  let (lo, hi) := intRange w z
  if sat then max lo (min hi v) else
  let u := v % 2 ^ w
  if z || u < 2 ^ (w - 1) then u else u - 2 ^ w

/-- The bits of a type as the integer they stand for. -/
def intOfBits (w : Nat) (z : Bool) (n : Nat) : Int := fitInt w z false n

/-- One element converted (R58): the result in its register representation, as an integer modulo 2^64. -/
def convert (dst src : CType) (md : Mode) (sat : Bool) (n : Nat) : Int :=
  match src, dst with
  | .float a, .float b => encodeF b md (decodeF a n)
  | .float a, .int w z => match decodeF a n with
    | .nan => 0
    | .inf neg => if neg then (intRange w z).1 else (intRange w z).2
    | v => match roundInt md v with
      | some (neg, m) => fitInt w z true (if neg then -(m : Int) else m)
      | none => 0
  | .int a za, .float b => let v := intOfBits a za n; encodeF b md (.fin (decide (v < 0)) v.natAbs 0)
  | .int a za, .int w z => fitInt w z sat (intOfBits a za n)

end Sys2Proof.Machine
end

