-- ==== Sys2Proof/Machine/FloatOps.lean ====
section
/-! DEFINITION. The floating-point, packed, dot-product and conversion instructions, and the float compares
(R221, R224, R234 to R245). -/

namespace Sys2Proof.Machine

/-- A after .AA and .NA, B after .AB and .NB, from MH (R234, R235). -/
def srcA (mh : Nat) (w : Word) : FV := (f32 w).mods (Nat.testBit mh 0) (Nat.testBit mh 2)
@[inherit_doc srcA] def srcB (mh : Nat) (w : Word) : FV := (f32 w).mods (Nat.testBit mh 1) (Nat.testBit mh 3)

/-- FADD's result. -/
def faddOf (md : Mode) (mh : Nat) (i : LaneIn) : Word := ofF (sumF fF32 md [srcA mh i.a0, srcB mh i.b0])

/-- FMUL's result. -/
def fmulOf (md : Mode) (mh : Nat) (i : LaneIn) : Word := ofF (encodeF fF32 md ((srcA mh i.a0).mul (srcB mh i.b0)))

/-- FMIN's and FMAX's result. -/
def fminOf (mx : Bool) (mh : Nat) (i : LaneIn) : Word := ofF (minMaxF fF32 mx (srcA mh i.a0) (srcB mh i.b0))

/-- FFMA's result: the exact product, negated with .NP, and C, negated with .NC, rounded once. -/
def ffmaOf (md : Mode) (mh : Nat) (i : LaneIn) : Word :=
  ofF (sumF fF32 md [((f32 i.a0).mul (f32 i.b0)).mods (Nat.testBit mh 0) false, (f32 i.c0).mods (Nat.testBit mh 1) false])

/-- FADD (R236). -/
def execFadd (x : GForm) (s : State) : Out :=
  runVec (Instr.form (.fadd x)) .uniform (each1 fun i => faddOf (modeOf x.ml.toNat) (gMh x) i) s

/-- FADD with an immediate. -/
def execFaddImm (x : IForm) (s : State) : Out :=
  runVec (Instr.form (.faddImm x)) .uniform (each1 fun i => faddOf (modeOf x.ml.toNat) x.mh.toNat i) s

/-- FMUL (R236). -/
def execFmul (x : GForm) (s : State) : Out :=
  runVec (Instr.form (.fmul x)) .uniform (each1 fun i => fmulOf (modeOf x.ml.toNat) (gMh x) i) s

/-- FMUL with an immediate. -/
def execFmulImm (x : IForm) (s : State) : Out :=
  runVec (Instr.form (.fmulImm x)) .uniform (each1 fun i => fmulOf (modeOf x.ml.toNat) x.mh.toNat i) s

/-- FFMA (R236). -/
def execFfma (x : GForm) (s : State) : Out :=
  runVec (Instr.form (.ffma x)) .uniform (each1 fun i => ffmaOf (modeOf x.ml.toNat) (gMh x) i) s

/-- FMIN (R236). -/
def execFmin (x : GForm) (s : State) : Out :=
  runVec (Instr.form (.fmin x)) .uniform (each1 fun i => fminOf false (gMh x) i) s

/-- FMIN with an immediate. -/
def execFminImm (x : IForm) (s : State) : Out :=
  runVec (Instr.form (.fminImm x)) .uniform (each1 fun i => fminOf false x.mh.toNat i) s

/-- FMAX (R236). -/
def execFmax (x : GForm) (s : State) : Out :=
  runVec (Instr.form (.fmax x)) .uniform (each1 fun i => fminOf true (gMh x) i) s

/-- FMAX with an immediate. -/
def execFmaxImm (x : IForm) (s : State) : Out :=
  runVec (Instr.form (.fmaxImm x)) .uniform (each1 fun i => fminOf true x.mh.toNat i) s

/-- FRND (R236). -/
def execFrnd (x : GForm) (s : State) : Out :=
  runVec (Instr.form (.frnd x)) .uniform (each1 fun i => ofF (frndOf (modeOf x.ml.toNat) (srcA (gMh x) i.a0))) s

/-! ## The long-latency functions (R237) -/

/-- The lanes of a wave that belong to some split: neither inactive for life, nor exited. -/
def Wave.alive (w : Wave) : Word := w.splits.foldl (fun m sp => m ||| sp.act) 0

/-- A function instruction in a wave: its result is held in flight until it is written, and opens a lookahead window
(R186, R237). -/
def fpWave (f : Form) (g : FV → Nat) (s : State) (a : AgentId) (w : Wave) (sp : Split) : State :=
  let ff := s.formFile (coreOf a)
  let ex := w.exec sp f
  let res := (lanesOf ex).map fun l => (l, [ofF (g (f32 (w.operands ff f l).a0))])
  let op : Op := { id := s.opCtr, kind := .fpFunction, ctr := none, slot := slotOf a, wofs := sp.pos.pc, ord := sp.pos.ord,
                   vdst := f.vwrites, mask := ex, results := res, ready := true }
  let w := { w.release f.lastReads with ops := w.ops ++ [op] }
  let sp' := sp.issued f
  { s with opCtr := s.opCtr + 1 }.setWave a
    (w.setSlot (slotOf a) (some { sp' with ahead := sp'.ahead ++ [(s.opCtr, f.guard.2.2)], freed := sp.freed ++ s.freedBy a f }))

/-- A function instruction. -/
def runFp (f : Form) (g : FV → Nat) (s : State) : Out :=
  runInstr f { wave := fpWave f g, par := vecPar f .uniform (each1 fun i => ofF (g (f32 i.a0))) } s

/-- FRCP. -/
def execFrcp (x : GForm) (s : State) : Out := runFp (Instr.form (.frcp x)) frcpOf s

/-- FRSQ. -/
def execFrsq (x : GForm) (s : State) : Out := runFp (Instr.form (.frsq x)) frsqOf s

/-- FSQRT. -/
def execFsqrt (x : GForm) (s : State) : Out := runFp (Instr.form (.fsqrt x)) fsqrtOf s

/-- FEX2. -/
def execFex2 (x : GForm) (s : State) : Out := runFp (Instr.form (.fex2 x)) fex2Of s

/-- FLG2. -/
def execFlg2 (x : GForm) (s : State) : Out := runFp (Instr.form (.flg2 x)) flg2Of s

/-- FSIN. -/
def execFsin (x : GForm) (s : State) : Out := runFp (Instr.form (.fsin x)) fsinOf s

/-- FCOS. -/
def execFcos (x : GForm) (s : State) : Out := runFp (Instr.form (.fcos x)) fcosOf s

/-- The results an operation brought, written into its destination names in the lanes that are still alive. -/
def Wave.writeResults (w : Wave) (ff : List (Nat × Aff)) (o : Op) : List Nat → Nat → Wave
  | [], _ => w
  | n :: t, k =>
    let sel := maskOf fun l => w.alive.getLsbD l && (look l o.results).any fun ws => decide (k < ws.length)
    Wave.writeResults (w.write ff n sel fun l => nth ((look l o.results).getD []) k 0) ff o t (k + 1)

/-- FP_FUNCTION_RESULT: the result is written, which ends its pending mark and its lookahead window (R186, R237). -/
def execFpFunctionResult (a : AgentId) (op : Nat) (s : State) : Out :=
  match s.waveOf a with
  | some w => match opOf w.ops op with
    | some o =>
      if o.kind.isFp then
        let w := w.writeResults (s.formFile (coreOf a)) o o.vdst 0
        .next (s.setWave a { w with ops := delOp w.ops op })
      else .next s
    | none => .next s
  | none => .next s

/-! ## Packed and dot products (R239 to R242) -/

/-- Element `e` of a packed pair. -/
def half (w : Word) (e : Nat) : Nat := w.toNat / 2 ^ (16 * e) % 2 ^ 16

/-- Two halves as a packed pair. -/
def packHalves (f : Nat → Nat) : Word := BitVec.ofNat 32 (f 0 % 2 ^ 16 + 2 ^ 16 * (f 1 % 2 ^ 16))

/-- Element `e` of a packed operand as a value, negated with its modifier. -/
def elem (f : Fmt) (neg : Bool) (w : Word) (e : Nat) : FV := (decodeF f (half w e)).mods neg false

/-- The format of the H instructions: ML[2] is .BF16. -/
def hFmt (x : GForm) : Fmt := if x.ml.getLsbD 2 then fBF16 else fF16

/-- HADD2 (R240). -/
def execHadd2 (x : GForm) (s : State) : Out :=
  let f := hFmt x
  runVec (Instr.form (.hadd2 x)) .uniform (each1 fun i => packHalves fun e =>
    sumF f (modeOf x.ml.toNat) [elem f (Nat.testBit (gMh x) 0) i.a0 e, elem f (Nat.testBit (gMh x) 1) i.b0 e]) s

/-- HMUL2 (R240). -/
def execHmul2 (x : GForm) (s : State) : Out :=
  let f := hFmt x
  runVec (Instr.form (.hmul2 x)) .uniform (each1 fun i => packHalves fun e =>
    encodeF f (modeOf x.ml.toNat)
      ((elem f (Nat.testBit (gMh x) 0) i.a0 e).mul (elem f (Nat.testBit (gMh x) 1) i.b0 e))) s

/-- HFMA2 (R240). -/
def execHfma2 (x : GForm) (s : State) : Out :=
  let f := hFmt x
  runVec (Instr.form (.hfma2 x)) .uniform (each1 fun i => packHalves fun e =>
    sumF f (modeOf x.ml.toNat)
      [(elem f (Nat.testBit (gMh x) 0) i.a0 e).mul (elem f (Nat.testBit (gMh x) 1) i.b0 e),
       elem f (Nat.testBit (gMh x) 2) i.c0 e]) s

/-- HMIN2 (R240). -/
def execHmin2 (x : GForm) (s : State) : Out :=
  let f := hFmt x
  runVec (Instr.form (.hmin2 x)) .uniform (each1 fun i => packHalves fun e =>
    minMaxF f false (elem f (Nat.testBit (gMh x) 0) i.a0 e) (elem f (Nat.testBit (gMh x) 1) i.b0 e)) s

/-- HMAX2 (R240). -/
def execHmax2 (x : GForm) (s : State) : Out :=
  let f := hFmt x
  runVec (Instr.form (.hmax2 x)) .uniform (each1 fun i => packHalves fun e =>
    minMaxF f true (elem f (Nat.testBit (gMh x) 0) i.a0 e) (elem f (Nat.testBit (gMh x) 1) i.b0 e)) s

/-- VDOT2 (R241): BF16 pairs, or F16 pairs with .F16. -/
def execVdot2 (x : GForm) (s : State) : Out :=
  let f := if x.ml.getLsbD 2 then fF16 else fBF16
  let na := Nat.testBit (gMh x) 0
  let nb := Nat.testBit (gMh x) 1
  runVec (Instr.form (.vdot2 x)) .uniform (each1 fun i => ofF (sumF fF32 (modeOf x.ml.toNat)
    [(elem f na i.a0 0).mul (elem f nb i.b0 0), (elem f na i.a0 1).mul (elem f nb i.b0 1),
     (f32 i.c0).mods (Nat.testBit (gMh x) 2) false])) s

/-- Element `k` of four 8-bit elements (R242). -/
def quarter (z : Bool) (w : Word) (k : Nat) : Int := intOfBits 8 z (w.toNat / 2 ^ (8 * k) % 256)

/-- VDOT4's result. -/
def vdot4Of (za zb : Bool) (a b c : Word) : Word :=
  low32 (c.toInt + quarter za a 0 * quarter zb b 0 + quarter za a 1 * quarter zb b 1 + quarter za a 2 * quarter zb b 2
    + quarter za a 3 * quarter zb b 3)

/-- VDOT4 (R242). -/
def execVdot4 (x : GForm) (s : State) : Out :=
  runVec (Instr.form (.vdot4 x)) .uniform
    (each1 fun i => vdot4Of (x.ml.getLsbD 0) (x.ml.getLsbD 1) i.a0 i.b0 i.c0) s

/-! ## Conversions (R243 to R245) -/

/-- CVT's source element (R244). -/
def cvtElem (w e : Nat) (a : List Word) : Nat :=
  if w = 64 then (pairOf a).toNat else (nth a 0 0).toNat / 2 ^ (w * e) % 2 ^ w

/-- CVT's result words (R244). -/
def cvtOf (x : GForm) (i : LaneIn) : List Word :=
  let dst := ctypeOf (x.b.toNat % 16)
  let src := ctypeOf (gMh x % 16)
  let v := convert dst src (modeOf x.ml.toNat) (Nat.testBit (gMh x) 4) (cvtElem src.width (x.b.toNat / 16) i.a)
  if dst.width = 64 then wordsOfPair (BitVec.ofInt 64 v) else [low32 v]

/-- CVT (R244). -/
def execCvt (x : GForm) (s : State) : Out :=
  runVec (Instr.form (.cvt x)) .uniform (each fun i => { words := cvtOf x i }) s

/-- One value of PACK2 converted, as the bits of its target (R245). -/
def pack1 (t : Nat) (md : Mode) (w : Word) : Nat :=
  let dst : CType := match t with
    | 0 => .float fF16
    | 1 => .float fBF16
    | 2 => .float fE4M3
    | 3 => .float fE5M2
    | 4 => .int 16 false
    | 5 => .int 16 true
    | 6 => .int 8 false
    | _ => .int 8 true
  let src : CType := if t < 4 then .float fF32 else .int 32 (t % 2 == 1)
  (convert dst src md true w.toNat % 2 ^ dst.width).toNat

/-- PACK2's result (R245). -/
def pack2Of (t : Nat) (hi : Bool) (md : Mode) (a b c : Word) : Word :=
  let ta := pack1 t md a
  let tb := pack1 t md b
  if t = 2 || t = 3 || t = 6 || t = 7 then
    BitVec.ofNat 32 (if hi then c.toNat % 2 ^ 16 + 2 ^ 16 * ta + 2 ^ 24 * tb
      else ta + 2 ^ 8 * tb + 2 ^ 16 * (c.toNat / 2 ^ 16))
  else BitVec.ofNat 32 (ta + 2 ^ 16 * tb)

/-- PACK2 (R245). -/
def execPack2 (x : GForm) (s : State) : Out :=
  runVec (Instr.form (.pack2 x)) .uniform
    (each1 fun i => pack2Of (gMh x % 8) (Nat.testBit (gMh x) 3) (modeOf x.ml.toNat) i.a0 i.b0 i.c0) s

/-! ## Float compares and classes -/

/-- FCMP (R221). -/
def execFcmp (x : GForm) (s : State) : Out :=
  let f := Instr.form (.fcmp x)
  runVec f .uniform (predD f fun i => floatCond (gMh x % 8) (Nat.testBit (gMh x) 3) (f32 i.a0) (f32 i.b0)) s

/-- FCMP with an immediate (R180, R221). -/
def execFcmpImm (x : IForm) (s : State) : Out :=
  let f := Instr.form (.fcmpImm x)
  runVec f .uniform (predD f fun i => floatCond (x.mh.toNat % 8) (x.mh.getLsbD 3) (f32 i.a0) (f32 i.b0)) s

/-- The format of FKIND (R224). -/
def kindFmt (n : Nat) : Fmt := if n = 0 then fF32 else if n = 1 then fF16 else fBF16

/-- FKIND (R224). -/
def execFkind (x : GForm) (s : State) : Out :=
  let f := kindFmt (x.ml.toNat % 4)
  runVec (Instr.form (.fkind x)) .uniform
    (each1 fun i => BitVec.ofNat 32 (2 ^ kindOf f (i.a0.toNat % 2 ^ f.width))) s

end Sys2Proof.Machine
end

