-- ==== Sys2Proof/Machine/Lanes.lean ====
section
/-! DEFINITION. Lane and quad exchange, votes, folds and pattern registers (R225 to R232). -/

namespace Sys2Proof.Machine

/-- LXCH's source lane; out of range gives the lane itself (R227). -/
def lxchLane (mode : Nat) (b : Word) (l : Nat) : Nat :=
  match mode with
  | 0 => b.toNat % 32
  | 1 => if b.toNat ≤ l then l - b.toNat else l
  | 2 => if l + b.toNat ≤ 31 then l + b.toNat else l
  | _ => l ^^^ (b.toNat % 32)

/-- LXCH (R227). -/
def execLxch (x : GForm) (s : State) : Out :=
  runVec (Instr.form (.lxch x)) .blows
    (fun inp _ _ l => { words := (inp (lxchLane (x.ml.toNat % 4) (inp l).b0 l)).a }) s

/-- QXCH's lane within the quad (R228). -/
def qxchLane (mode mh l : Nat) : Nat :=
  match mode with
  | 0 => mh % 4
  | m => (l % 4) ^^^ m

/-- QXCH (R228). -/
def execQxch (x : GForm) (s : State) : Out :=
  runVec (Instr.form (.qxch x)) .blows
    (fun inp _ _ l => { words := (inp (l / 4 * 4 + qxchLane (x.ml.toNat % 4) (gMh x) l)).a }) s

/-- The lanes QDD subtracts within a quad: minuend, subtrahend (R229). -/
def qddLanes (y fine : Bool) (i : Nat) : Nat × Nat :=
  if fine then (if y then (i ||| 2, i &&& 1) else (i ||| 1, i &&& 2)) else (if y then (2, 0) else (1, 0))

/-- QDD (R229). -/
def execQdd (x : GForm) (s : State) : Out :=
  runVec (Instr.form (.qdd x)) .blows
    (fun inp _ _ l =>
      let p := qddLanes (x.ml.getLsbD 0) (x.ml.getLsbD 1) (l % 4)
      let q := l / 4 * 4
      { words := [ofF (sumF fF32 .rn [f32 (inp (q + p.1)).a0, (f32 (inp (q + p.2)).a0).neg])] }) s

/-- VOTE's result over the collecting lanes (R230). -/
def voteOf (mode : Nat) (inp : Nat → LaneIn) (c : Word) : Bool :=
  let vs := (lanesOf c).map fun j => (inp j).pa
  match mode with
  | 0 => vs.all id
  | 1 => vs.any id
  | _ => vs.all id || vs.all (!·)

/-- VOTE (R230). -/
def execVote (x : GForm) (s : State) : Out :=
  let f := Instr.form (.vote x)
  runVec f .blows (fun inp _ c _ => { preds := [(f.fields.1, voteOf (x.ml.toNat % 4) inp c)] }) s

/-- BALLOT (R230). -/
def execBallot (x : GForm) (s : State) : Out :=
  runVec (Instr.form (.ballot x)) .blows
    (fun inp _ c _ => { words := [maskOf fun j => c.getLsbD j && (inp j).pa] }) s

/-- MATCH's mask: zero for a helper lane (R230). -/
def matchOf (inp : Nat → LaneIn) (c : Word) (l : Nat) : Word :=
  if c.getLsbD l then maskOf fun j => c.getLsbD j && (inp j).a == (inp l).a else 0

/-- MATCH (R230): with .B64 pairs are compared and D+1 receives zero. -/
def execMatchLanes (x : GForm) (s : State) : Out :=
  runVec (Instr.form (.matchLanes x)) .blows
    (fun inp _ c l => { words := if x.ml.getLsbD 0 then [matchOf inp c l, 0] else [matchOf inp c l] }) s

/-- A fold step and its identity (R231). -/
def foldOp (n : Nat) : (Word → Word → Word) × Word :=
  match n with
  | 0 => ((· + ·), 0)
  | 1 => (minOf false, 0x7FFFFFFF)
  | 2 => (minOf true, 0xFFFFFFFF)
  | 3 => (maxOf false, 0x80000000)
  | 4 => (maxOf true, 0)
  | 5 => ((· &&& ·), 0xFFFFFFFF)
  | 6 => ((· ||| ·), 0)
  | 7 => ((· ^^^ ·), 0)
  | 8 => (addRn, 0x80000000)
  | 9 => (fun a b => ofF (minMaxF fF32 false (f32 a) (f32 b)), 0x7FC00000)
  | _ => (fun a b => ofF (minMaxF fF32 true (f32 a) (f32 b)), 0x7FC00000)

/-- One step of the butterfly of R75. -/
def flyStep (w : List Word) (d : Nat) : List Word := perLane fun l => addRn (nth w l 0) (nth w (l ^^^ d) 0)

/-- LFOLD.FADD's butterfly (R75). -/
def butterfly (w : List Word) : Word := nth ([1, 2, 4, 8, 16].foldl flyStep w) 0 0

/-- LFOLD's result (R231). -/
def lfoldOf (n : Nat) (inp : Nat → LaneIn) (c : Word) : Word :=
  let (g, e) := foldOp n
  if n = 8 then butterfly (perLane fun l => if c.getLsbD l then (inp l).a0 else e)
  else ((lanesOf c).map fun l => (inp l).a0).foldl g e

/-- LFOLD (R231). -/
def execLfold (x : GForm) (s : State) : Out :=
  runVec (Instr.form (.lfold x)) .blows (fun inp _ c _ => { words := [lfoldOf (gMh x) inp c] }) s

/-- SCAN's result for a lane: the lanes of the set below it, and itself unless .EXCL (R231). -/
def scanOf (n : Nat) (excl : Bool) (inp : Nat → LaneIn) (c : Word) (l : Nat) : Word :=
  let (g, e) := foldOp n
  (((lanesOf c).filter fun j => if excl then j < l else j ≤ l).map fun j => (inp j).a0).foldl g e

/-- SCAN (R231): the lanes of ex outside the set keep their destination. -/
def execScan (x : GForm) (s : State) : Out :=
  runVec (Instr.form (.scan x)) .blows
    (fun inp _ c l => { words := if c.getLsbD l then [scanOf (gMh x) (x.ml.getLsbD 0) inp c l] else [] }) s

/-- XSET (R232): acts once for the wave whatever the active lanes; it blows a parison (R226). -/
def execXset (x : GForm) (s : State) : Out :=
  let f := Instr.form (.xset x)
  runInstr f
    { wave := fun s a w sp =>
        let v : Byte := BitVec.ofNat 8 (x.ml.toNat % 4 * 32 + x.a.toNat % 32)
        s.finishWave a { w with xpat := w.xpat.set (x.d.toNat - 1) v } sp f
      par := fun s p r => s.blow p r } s

end Sys2Proof.Machine
end

