-- ==== Sys2Proof/Machine/Quant.lean ====
section
/-! DEFINITION. Histogram units, the down-converter and the unpacked block layout (R60 to R74, R246 to R252). -/

namespace Sys2Proof.Machine

/-! ## Histograms -/

/-- BASE as a signed value (R70). -/
def Hist.exp (h : Hist) : Int := h.base.toInt

/-- The exponent of a finite nonzero value: floor of the binary logarithm of its size. -/
def ilog2 (m : Nat) (e : Int) : Int := (Nat.log2 m : Int) + e

/-- The bin of a value (R71). -/
def histBin (base : Int) (x : Word) : Nat :=
  match f32 x with
  | .nan | .inf _ => 31
  | .fin _ m e => if m = 0 then 0 else
    let b := ilog2 m e - base + 1
    if b < 0 then 0 else if 31 < b then 31 else b.toNat

/-- A saturating count (R72). -/
def satAdd (w : Word) (n : Nat) : Word := BitVec.ofNat 32 (min (w.toNat + n) (2 ^ 32 - 1))

/-- `n` increments of a value's bin. -/
def Hist.count (h : Hist) (x : Word) (n : Nat) : Hist :=
  let b := histBin h.exp x
  { h with bins := h.bins.set b (satAdd (nth h.bins b 0) n) }

/-- The sum of the bins above `b`. -/
def Hist.above (h : Hist) (b : Nat) : Nat := ((h.bins.drop (b + 1)).map (·.toNat)).sum

/-- QSCALE's scale byte (R73). -/
def scaleFor (h : Hist) (pct : Nat) : Nat :=
  let total := (h.bins.map (·.toNat)).sum
  let limit := total * (256 - pct) / 256
  let b := ((List.range 32).find? fun b => decide (h.above b ≤ limit)).getD 31
  let v : Int := h.exp + b - 1 - 6 + 127
  (max 0 (min 254 v)).toNat

/-- A histogram unit of an actor's block. -/
def State.hist (s : State) (b : Option BlockRef) (u : Nat) : Hist :=
  ((b.bind s.blockOf).bind fun x => x.hists[u]?).getD {}

/-- The state with a histogram unit of a block replaced; a name no unit is mapped to holds nothing. -/
def State.setHist (s : State) (b : Option BlockRef) (u : Nat) (h : Hist) : State :=
  match b with
  | some r => match s.blockOf r with
    | some x => s.putBlock r { x with hists := x.hists.set u h }
    | none => s
  | none => s

/-- The histogram units that an actor's block has. -/
def State.histCount (s : State) (b : Option BlockRef) : Nat := ((b.bind s.blockOf).map fun x => x.hists.length).getD 0

/-- Whether a parison has a tile op still queued that counts into a histogram unit: the gaffer's operations on a unit are performed in
program order (R250). -/
def State.histBusy (s : State) (p : ParId) (r : Parison) (u : Nat) : Bool :=
  ((look p.core (s.die p.die).marvers).getD []).any fun t =>
    t.mods / 4 % 2 == 1 && t.mods / 8 == u && r.ops.any fun o => o.id == t.op

/-- An instruction on a histogram unit: a name beyond the block's count raises NAME, whatever the guard (R297). -/
def onHist (u : Nat) (e : Effect) : Effect :=
  { e with
    wave := fun s a w sp => if s.histCount w.block ≤ u then s.raise (.wave a w sp) .illegal .name else e.wave s a w sp
    par := fun s p r =>
      if s.histCount (some r.block) ≤ u then s.raise (.par p r) .illegal .name
      else if s.histBusy p r u then s.stalled (.par p r) .matrix else e.par s p r }

/-- QHIST (R247). -/
def execQhist (x : GForm) (s : State) : Out :=
  let f := Instr.form (.qhist x)
  let u := x.d.toNat
  runInstr f (onHist u
    { wave := fun s a w sp =>
        let ff := s.formFile (coreOf a)
        let h := (lanesOf (w.exec sp f &&& ~~~w.helper)).foldl (fun h l => h.count (w.operands ff f l).a0 1)
          (s.hist w.block u)
        (s.setHist w.block u h).finishWave a (w.release f.lastReads) sp f
      par := fun s p r =>
        match r.guard f with
        | some false => s.setPar p (r.issued f)
        | none => s.blow p r
        | some true => match r.operands (s.formFile (parCore p)) f with
          | some i => if i.uni
            then (s.setHist (some r.block) u ((s.hist (some r.block) u).count i.lane.a0 r.box.count)).setPar p (r.issued f)
            else s.blow p r
          | none => s.blow p r }) s

/-- QSCALE (R249). -/
def execQscale (x : GForm) (s : State) : Out :=
  let f := Instr.form (.qscale x)
  let fn (h : Hist) : VFn := each1 fun i => BitVec.ofNat 32 (scaleFor h (min i.b0.toNat 256))
  runInstr f (onHist x.a.toNat
    { wave := fun s a w sp => vecWave f (fn (s.hist w.block x.a.toNat)) s a w sp
      par := fun s p r => vecPar f .uniform (fn (s.hist (some r.block) x.a.toNat)) s p r }) s

/-- A unit cleared, its BASE loaded (R248). -/
def clearedHist (b : Word) : Hist := { bins := List.replicate 32 0, base := b.extractLsb' 0 8 }

/-- QCLR (R248). -/
def execQclr (x : GForm) (s : State) : Out :=
  let f := Instr.form (.qclr x)
  let u := x.a.toNat
  runInstr f (onHist u
    { wave := fun s a w sp =>
        let s1 := match lowest (w.exec sp f) with
          | some l => s.setHist w.block u (clearedHist (w.operands (s.formFile (coreOf a)) f l).b0)
          | none => s
        s1.finishWave a (w.release f.lastReads) sp f
      par := fun s p r =>
        match r.guard f with
        | some false => s.setPar p (r.issued f)
        | none => s.blow p r
        | some true => match r.operands (s.formFile (parCore p)) f with
          | some i => if i.uni then (s.setHist (some r.block) u (clearedHist i.lane.b0)).setPar p (r.issued f)
            else s.blow p r
          | none => s.blow p r }) s

/-! ## The down-converter and blocks -/

/-- A signed number as the low 16 bits of a word. -/
def sext16 (v : Int) : Nat := (v % 2 ^ 16).toNat

/-- FP32 to INT8 with a scale byte (R74). -/
def downConvert (x : FV) (sc : Nat) : Int :=
  match x with
  | .nan => 0
  | .inf n => if n then -127 else 127
  | .fin n m e => match roundInt .rn (.fin n m (e + 127 - sc)) with
    | some (neg, k) => max (-127) (min 127 (if neg then -(k : Int) else k))
    | none => 0

/-- QPACK's element: zero under the NaN scale (R251). -/
def qpackElem (x : Word) (sc : Nat) : Int := if sc = 0xFF then 0 else downConvert (f32 x) sc

/-- QPACK's header lane (R251). -/
def qpackHeader (inp : Nat → LaneIn) (col : Word) : Word :=
  let s31 := (inp 31).c0.toNat % 256
  let bad := (lanesOf col).any fun l => l ≤ 30 && ((f32 (inp l).a0).isNan || (f32 (inp l).b0).isNan)
  BitVec.ofNat 32 ((if bad then 0xFF else s31) * 256 + 2)

/-- QPACK (R251). -/
def execQpack (x : GForm) (s : State) : Out :=
  runVec (Instr.form (.qpack x)) .blows
    (fun inp _ col l =>
      if l = 31 then { words := [qpackHeader inp col] } else
      let sc := (inp l).c0.toNat % 256
      { words := [BitVec.ofNat 32 (sext16 (qpackElem (inp l).a0 sc) + 2 ^ 16 * sext16 (qpackElem (inp l).b0 sc))] }) s

/-- The elements a lane of an unpacked block holds (R252). -/
def unpackedCount (fmt : Nat) : Nat :=
  match fmt with
  | 1 => 8
  | 2 => 2
  | 3 => 4
  | 4 | 5 => 2
  | _ => 1

/-- An integer as a value. -/
def ofInt (v : Int) : FV := .fin (decide (v < 0)) v.natAbs 0

/-- Element `k` of a lane of an unpacked block (R252). -/
def unpackedElem (fmt k : Nat) (w : Word) : FV :=
  match fmt with
  | 1 => ofInt (intOfBits 4 false (w.toNat / 2 ^ (4 * k) % 16))
  | 2 => ofInt (intOfBits 16 false (w.toNat / 2 ^ (16 * k) % 2 ^ 16))
  | 3 => ofInt (intOfBits 8 false (w.toNat / 2 ^ (8 * k) % 256))
  | 4 | 5 => decodeF fF16 (w.toNat / 2 ^ (16 * k) % 2 ^ 16)
  | _ => f32 w

/-- A value times a power of two. -/
def FV.scale (x : FV) (k : Int) : FV :=
  match x with
  | .fin n m e => .fin n m (e + k)
  | y => y

/-- QDEQ's result in a lane from the header of lane 31 (R252). -/
def qdeqOf (md : Mode) (k : Nat) (h a : Word) (l : Nat) : Word :=
  let fmt := h.toNat % 256
  let sc := h.toNat / 256 % 256
  if l = 31 then 0
  else if fmt = 0 then (if sc = 0xFF then 0x7FC00000 else 0)
  else if unpackedCount fmt ≤ k then 0
  else if sc = 0xFF || (fmt = 1 && h.getLsbD 16) then 0x7FC00000
  else ofF (encodeF fF32 md ((unpackedElem fmt k a).scale ((sc : Int) - 127)))

/-- QDEQ (R252): a reserved format in lane 31 raises BLK_FORMAT. -/
def execQdeq (x : GForm) (s : State) : Out :=
  let f := Instr.form (.qdeq x)
  let fn : VFn := fun inp _ _ l =>
    { words := [qdeqOf (modeOf x.ml.toNat) (gMh x % 8) (inp 31).a0 (inp l).a0 l] }
  runInstr f
    { wave := fun s a w sp =>
        let ex := w.exec sp f
        let h := (w.operands (s.formFile (coreOf a)) f 31).a0
        if ex != 0 && 8 ≤ h.toNat % 256 then
          let y := Actor.wave a w sp
          s.trap y [y.record .format .blkFormat ex 0 0] none
        else vecWave f fn s a w sp
      par := vecPar f .blows fn } s

/-! ## Blocks in memory (R60 to R66) -/

/-- The trits of a ternary payload and whether a byte is malformed (R63). -/
def tritsOf (payload : List Byte) : List Int × Bool :=
  let one (j : Nat) : List Int × Bool :=
    let v := (nth payload j 0).toNat
    let n := if j < 49 then 5 else 3
    if 3 ^ n ≤ v then (List.replicate n 0, true)
    else ((List.range n).map fun i => ((v / 3 ^ i % 3 : Nat) : Int) - 1, false)
  let l := (List.range 50).map one
  (l.flatMap (·.1), l.any (·.2))

/-- A 64-byte block as 32 words in the unpacked layout (R66). -/
def unpackBlock (b : List Byte) : List Word :=
  let fmt := (nth b 0 0).toNat
  let sc := (nth b 1 0).toNat
  let pay := b.drop 2
  let byte (i : Nat) : Nat := (nth pay i 0).toNat
  let (ts, mal) := tritsOf pay
  let word (l : Nat) : Nat :=
    match fmt with
    | 1 => ((List.range 8).map fun i => (nth ts (8 * l + i) 0 % 16).toNat * 2 ^ (4 * i)).sum
    | 2 => sext16 (intOfBits 8 false (byte (2 * l))) + 2 ^ 16 * sext16 (intOfBits 8 false (byte (2 * l + 1)))
    | 3 => ((List.range 4).map fun i =>
        let n := byte (2 * l + i / 2) / 2 ^ (4 * (i % 2)) % 16
        (intOfBits 4 false n % 256).toNat * 2 ^ (8 * i)).sum
    | 4 => encodeF fF16 .rn (decodeF fE4M3 (byte (2 * l))) + 2 ^ 16 * encodeF fF16 .rn (decodeF fE4M3 (byte (2 * l + 1)))
    | 5 => byte (2 * l) * 2 ^ 8 + byte (2 * l + 1) * 2 ^ 24
    | 6 => (byte (2 * l) + 256 * byte (2 * l + 1)) * 2 ^ 16
    | 7 => encodeF fF32 .rn (decodeF fF16 (byte (2 * l) + 256 * byte (2 * l + 1)))
    | _ => 0
  perLane fun l =>
    if l = 31 then BitVec.ofNat 32 (fmt + 256 * sc + (if fmt = 1 && mal then 2 ^ 16 else 0))
    else BitVec.ofNat 32 (word l)

end Sys2Proof.Machine
end

