-- ==== Sys2Proof/Machine/Control.lean ====
section
/-! DEFINITION. Control transfer: branches, calls, joins, exits, REFORM, YIELD, TRAP, BKPT and NOP, for splits and for
parisons (R154, R161 to R165, R203 to R213). -/

namespace Sys2Proof.Machine

/-! ## Splits (R163 to R165) -/

/-- Whether a split can be given a slot. -/
def Split.runnable (sp : Split) : Bool := sp.parked.isNone && !sp.deferred

/-- The first element that satisfies `p` taken out of a list. -/
def takeFirst {α : Type} (p : α → Bool) : List α → Option (α × List α)
  | [] => none
  | a :: t => if p a then some (a, t) else (takeFirst p t).map fun r => (r.1, a :: r.2)

/-- Free slots filled from the pending-path stack, the most recently pushed runnable split first. -/
def fillSlots : List (Option Split) → List Split → List (Option Split) × List Split
  | [], pend => ([], pend)
  | some sp :: t, pend => let r := fillSlots t pend; (some sp :: r.1, r.2)
  | none :: t, pend => match takeFirst Split.runnable pend with
    | some (sp, pend) => let r := fillSlots t pend; (some sp :: r.1, r.2)
    | none => let r := fillSlots t pend; (none :: r.1, r.2)

/-- A wave with its free slots filled. -/
def Wave.fill (w : Wave) : Wave := let r := fillSlots w.slots w.pend; { w with slots := r.1, pend := r.2 }

/-- Whether every lane a join record awaits has arrived (R165). -/
def JoinRec.met (j : JoinRec) : Bool := (j.rejoin &&& ~~~j.arrived) == 0

/-- The parked splits of a met record become one split, with the record's enclosing record as innermost; the record is
freed (R165). -/
def Wave.rejoin (w : Wave) (k : Nat) (j : JoinRec) : Wave :=
  let here := w.pend.filter fun sp => sp.parked == some (.join k)
  let rest := w.pend.filter fun sp => sp.parked != some (.join k)
  let act := here.foldl (fun m sp => m ||| sp.act) 0
  let w := { w with joins := w.joins.set k none }
  match here with
  | [] => { w with pend := rest }
  | sp :: _ => { w with pend := { sp with act := act, inner := j.encl, parked := none, stall := .issued,
                                          ahead := here.flatMap (·.ahead) } :: rest }

/-- Every met record rejoined; not while a lane-focus step lasts, which a park ends (R359). -/
def Wave.rejoinAll (w : Wave) : Wave :=
  if w.stepLane.isSome then w else
  (List.range w.joins.length).foldl (fun w k => match nth w.joins k none with
    | some j => if j.met then w.rejoin k j else w
    | none => w) w

/-- A wave after its splits have changed: records are resolved, slots filled, and it ends when no split is left. -/
def Wave.settle (w : Wave) : Wave :=
  let w := w.rejoinAll.fill
  if w.splits.isEmpty then w.end else w

/-- Lanes removed from every split and from the rejoin mask of every record (R165). -/
def Wave.dropLanes (w : Wave) (m : Word) : Wave :=
  let cut (sp : Split) : Option Split := if sp.act &&& ~~~m = 0 then none else some { sp with act := sp.act &&& ~~~m }
  { w with slots := w.slots.map fun x => x.bind cut
           pend := w.pend.filterMap cut
           joins := w.joins.map fun x => x.map fun j => { j with rejoin := j.rejoin &&& ~~~m, arrived := j.arrived &&& ~~~m } }

/-- The helper lanes of the quads that have no other live lane left (R168). -/
def Wave.orphans (w : Wave) : Word :=
  let real := w.alive &&& ~~~w.helper
  maskOf fun l => w.alive.getLsbD l && w.helper.getLsbD l && !((List.range 4).any fun i => real.getLsbD (l / 4 * 4 + i))

/-- The lanes of a mask exit (R208), and with them the helper lanes they leave alone (R168). -/
def Wave.exitLanes (w : Wave) (m : Word) : Wave :=
  let w := w.dropLanes m
  (w.dropLanes w.orphans).settle

/-- A split divided: the lanes of `m` go to a new split at `pos`, the others fall through; both have a new record of
that id as innermost (R164). -/
def Wave.divide (w : Wave) (k : Nat) (sp : Split) (f : Form) (m : Word) (pos : Pos) (id : Nat) : Wave :=
  let r := (lowestFree (fun i => (nth w.joins i none).isSome) 31).getD 0
  let w := { w with joins := w.joins.set r (some { id := id, rejoin := sp.act, arrived := 0, encl := sp.inner }) }
  let stay := { sp.issued f with act := sp.act &&& ~~~m, inner := some r }
  let taken := { sp.issued f with act := m, pos := pos, inner := some r }
  ({ w.setSlot k (some stay) with pend := taken :: w.pend }).fill

/-! ## Branch targets (R184, R204 to R206) -/

/-- The header a branch goes to: its own header plus the signed offset. -/
def branchTarget (p : Pos) (ofs : BitVec 23) : Nat := ((p.hofs : Int) + ofs.toInt).toNat

/-- The position after a branch to a header. -/
def Pos.jump (p : Pos) (f : Form) (wofs : Nat) : Pos := (p.advance f.len).goHeader wofs

/-- The link of a call: the ordinal of the region entry after its clause (R205). An image with none there is rejected
by the lehr; the link is then a free value (log entry 6). -/
def State.link? (s : State) (ctx img : Nat) (p : Pos) : Word :=
  match (s.image ctx img).bind fun im => ordinalAt im p.clauseEnd with
  | some o => BitVec.ofNat 32 o
  | none => Sys2Proof.Config.freeWord s.freeCtr

/-- BRA and CALL in a wave: `link` is written into v0 of the lanes that go to the target. -/
def braWave (f : Form) (x : CForm) (call : Bool) (s : State) (a : AgentId) (w : Wave) (sp : Split) : State :=
  let g := w.exec sp f
  let ff := s.formFile (coreOf a)
  let k := slotOf a
  let linked (m : Word) : Wave := if call then w.write ff 0 m fun _ => s.link? w.ctx w.image sp.pos else w
  let pos := sp.pos.jump f (branchTarget sp.pos x.ofs)
  if g = 0 then s.finishWave a w sp f
  else if g = sp.act then s.setWave a ((linked g).setSlot k (some { sp.issued f with pos := pos }))
  else if (Actor.wave a w sp).combiner then s.raise (.wave a w sp) .illegal .diverge
  else if x.kind = 0 then s.raise (.wave a w sp) .illegal .divergeU
  else s.setWave a ((linked g).divide k sp f g pos x.aux.toNat)

/-! ## Cuts (R154, R156) -/

/-- Wave slots a role of a block may use, and those it uses (R156). -/
def State.reserveUse (s : State) (b : BlockRef) (role : Nat) : Nat × Nat :=
  let cap := ((s.blockOf b).map fun x => (x.rsv.filter fun e => e.1 == role).length).getD 0
  let forms := (s.pars.filter fun e => decide (e.2.block = b) && e.2.role == role && (e.2.mode == .form || e.2.mode == .waitJoin)).map
    fun e => e.2.box.waves (s.quadPar e.2)
  let waves := (s.waves.filter fun e => decide (e.2.block = some b) && e.2.role == role).length
  (cap, forms.sum + waves)

/-- The box with one dimension's bounds replaced. -/
def Box.withExt (b : Box) (d lo hi : Nat) : Box :=
  if d = 0 then { b with x0 := lo, x1 := hi } else if d = 1 then { b with y0 := lo, y1 := hi } else { b with z0 := lo, z1 := hi }

/-- A predicate as seen from a part of the box: an empty interval is false, a full one true (R153). -/
def PBind.clip (p : PBind) (b : Box) : PBind :=
  match p with
  | .uni v => .uni v
  | .range d lo hi =>
    let e := b.ext d
    if hi < e.1 || e.2 < lo then .uni false else if lo ≤ e.1 && e.2 ≤ hi then .uni true else .range d (max lo e.1) (min hi e.2)

/-- The two parts of a box that a range predicate makes: where it holds, and the rest (R153). -/
def cutBox (b : Box) (d lo hi : Nat) : Box × Box :=
  let e := b.ext d
  if lo ≤ e.1 then (b.withExt d e.1 hi, b.withExt d (hi + 1) e.2) else (b.withExt d lo e.2, b.withExt d e.1 (lo - 1))

/-- One part of a cut: its box, its predicates and its cut stack of at most four entries. -/
def cutPart (r : Parison) (b : Box) (gp : Nat) (v : Bool) (sib id : Nat) : Parison :=
  { r with box := b, pmap := (r.pmap.map fun p => p.clip b).set gp (.uni v), cuts := ((sib, id) :: r.cuts).take 4 }

/-- The part of a cut that takes a new entry: of the operations in flight it holds shadows, which end with them. -/
def Parison.shadowed (r : Parison) : Parison :=
  { r with ops := r.ops.map fun o => { o with kind := .shadow o.kind.shadowCode, reqs := [], ready := false } }

/-- Cutting a parison at a branch with a range predicate (R154): the part where the guard holds takes the branch. None
when there is no free entry or the reservation does not allow it. -/
def State.cut (s : State) (p : ParId) (r : Parison) (f : Form) (d lo hi : Nat) (pos : Pos) (id : Nat) (call : Bool) :
    Option State :=
  let (gp, gn, _) := f.guard
  let (yes, no) := cutBox r.box d lo hi
  let (tBox, fBox) := if gn then (no, yes) else (yes, no)
  match lowestFree (fun e => (look { p with entry := e } s.pars).isSome) 64 with
  | none => none
  | some e =>
    let (cap, used) := s.reserveUse r.block r.role
    let quad := s.quadPar r
    let grow := tBox.waves quad + fBox.waves quad - r.box.waves quad
    if cap < used + grow then none else
    let tLow := (tBox.ext d).1 ≤ (fBox.ext d).1
    let pT : ParId := if tLow then p else { p with entry := e }
    let pF : ParId := if tLow then { p with entry := e } else p
    let link := s.link? r.ctx r.image r.pos
    let rT := { cutPart (r.issued f) tBox gp (!gn) pF.entry id with pos := pos }
    let rF := cutPart (r.issued f) fBox gp gn pT.entry id
    let s := if tLow then (s.setPar pT rT).setPar pF rF.shadowed else (s.setPar pT rT.shadowed).setPar pF rF
    if call then s.bindForms (parCore p) pT [(0, Aff.ofWord link)] else some s

/-- BRA and CALL in form mode (R204, R205). -/
def braPar (f : Form) (x : CForm) (call : Bool) (s : State) (p : ParId) (r : Parison) : State :=
  let pos := r.pos.jump f (branchTarget r.pos x.ofs)
  match r.guard f with
  | some false => s.setPar p (r.issued f)
  | some true =>
    let s1 := s.setPar p { r.issued f with pos := pos }
    if call then (s1.bindForms (parCore p) p [(0, Aff.ofWord (s.link? r.ctx r.image r.pos))]).getD (s.blow p r) else s1
  | none =>
    if x.kind = 0 then s.raise (.par p r) .illegal .divergeU else
    match nth r.pmap f.guard.1 (.uni false) with
    | .range d lo hi => (s.cut p r f d lo hi pos x.aux.toNat call).getD (s.blow p r)
    | .uni _ => s

/-- What a .U branch fails in: a guard that differs between the lanes of act, or a range predicate (R190 order 12). A combiner wave
fails its batch instead (R124). -/
def braTarget (f : Form) (x : CForm) (_s : State) (y : Actor) : Option Sub :=
  if x.kind != 0 || y.combiner then none else
  match y with
  | .wave _ w sp => if w.exec sp f = 0 ∨ w.exec sp f = sp.act then none else some .divergeU
  | .par _ r => if (r.guard f).isNone then some .divergeU else none

/-- BRA (R204). -/
def execBra (x : CForm) (s : State) : Out :=
  let f := Instr.form (.bra x)
  runInstr f { wave := braWave f x false, par := braPar f x false, target := braTarget f x } s

/-- CALL (R205). -/
def execCall (x : CForm) (s : State) : Out :=
  let f := Instr.form (.call x)
  runInstr f { wave := braWave f x true, par := braPar f x true, target := braTarget f x } s

/-! ## Branches through ordinals (R206) -/

/-- BRX, CALLX and RET in a wave. -/
def brxWave (f : Form) (call : Bool) (s : State) (a : AgentId) (w : Wave) (sp : Split) : State :=
  let ff := s.formFile (coreOf a)
  let ex := w.exec sp f
  let x := Actor.wave a w sp
  let at_ (l : Nat) : Word := (w.operands ff f l).a0
  match lowest ex with
  | none => s.finishWave a (w.release f.lastReads) sp f
  | some l0 =>
    let t := at_ l0
    if (lanesOf ex).any (fun l => at_ l != t) then s.trap x [x.record .illegal .divergeU ex 0 0] none
    else if ex != sp.act then s.trap x [x.record .illegal .divergeU ex 0 0] none
    else match (s.image w.ctx w.image).bind fun im => headerOf im t.toNat with
      | none => s.trap x [x.record .illegal .target ex 0 0] none
      | some h =>
        let w := w.release f.lastReads
        let w := if call then w.write ff f.fields.1 ex fun _ => s.link? w.ctx w.image sp.pos else w
        s.setWave a (w.setSlot (slotOf a) (some { sp.issued f with pos := sp.pos.jump f h }))

/-- BRX, CALLX and RET in form mode. -/
def brxPar (f : Form) (call : Bool) (s : State) (p : ParId) (r : Parison) : State :=
  match r.guard f with
  | none => s.blow p r
  | some false => s.passPar p r f
  | some true => match r.operands (s.formFile (parCore p)) f with
    | none => s.blow p r
    | some i =>
      if !i.uni then s.blow p r else
      match (s.image r.ctx r.image).bind fun im => headerOf im i.lane.a0.toNat with
      | none => s.raise (.par p r) .illegal .target
      | some h =>
        let s1 := s.setPar p { r.issued f with pos := r.pos.jump f h }
        if call then (s1.bindForms (parCore p) p [(f.fields.1, Aff.ofWord (s.link? r.ctx r.image r.pos))]).getD (s.blow p r)
        else s1

/-- What the branch of BRX, CALLX and RET fails in, from the registers as they stand (R190 order 12). -/
def brxTarget (f : Form) (s : State) (x : Actor) : Option Sub :=
  let header (n : Nat) : Option Sub := if ((s.image x.ctx x.image).bind fun im => headerOf im n).isSome then none else some .target
  match x with
  | .wave a w sp =>
    let at_ (l : Nat) : Word := (w.operands (s.formFile (coreOf a)) f l).a0
    let ex := w.exec sp f
    match lowest ex with
    | none => none
    | some l0 => if ex != sp.act || (lanesOf ex).any (fun l => at_ l != at_ l0) then some .divergeU else header (at_ l0).toNat
  | .par p r => match r.guard f, r.operands (s.formFile (parCore p)) f with
    | some true, some i => if i.uni then header i.lane.a0.toNat else none
    | _, _ => none

/-- BRX (R206). -/
def execBrx (x : GForm) (s : State) : Out :=
  let f := Instr.form (.brx x)
  runInstr f { wave := brxWave f false, par := brxPar f false, target := brxTarget f } s

/-- CALLX (R206). -/
def execCallx (x : GForm) (s : State) : Out :=
  let f := Instr.form (.callx x)
  runInstr f { wave := brxWave f true, par := brxPar f true, target := brxTarget f } s

/-- RET (R206): a BRX to the link. -/
def execRet (x : GForm) (s : State) : Out :=
  let f := Instr.form (.ret x)
  runInstr f { wave := brxWave f false, par := brxPar f false, target := brxTarget f } s

/-! ## JOIN (R162, R165, R207) -/

/-- JOIN in a wave: a split whose innermost record has the id parks there. -/
def joinWave (f : Form) (id : Nat) (s : State) (a : AgentId) (w : Wave) (sp : Split) : State :=
  match sp.inner.bind fun k => (nth w.joins k none).map fun j => (k, j) with
  | some (k, j) =>
    if j.id != id then s.finishWave a w sp f else
    let w := { w with joins := w.joins.set k (some { j with arrived := j.arrived ||| sp.act }) }
    let parked := { sp.issued f with parked := some (.join k), stall := .parked }
    s.setWave a ({ w.setSlot (slotOf a) none with pend := parked :: w.pend }).settle
  | none => s.finishWave a w sp f

/-- Whether a wait deschedules (R170). -/
def Wait.descheduled : Wait → Bool
  | .yieldRuns _ | .yieldCount _ _ | .barrier | .location | .token => true
  | .none | .fence _ _ | .snapshot => false

/-- JOIN in form mode (R162). -/
def joinPar (f : Form) (id : Nat) (s : State) (p : ParId) (r : Parison) : State :=
  match r.cuts with
  | [] => s.setPar p (r.issued f)
  | (sib, j) :: t =>
    if j != id then s.setPar p (r.issued f) else
    match look { p with entry := sib } s.pars with
    | some q =>
      if decide (q.block = r.block) && ((q.mode == .form && !q.wait.descheduled)
          || (q.mode == .waitJoin && q.joinId == id && q.pos.pc == r.pos.pc))
      then s.setPar p { r with mode := .waitJoin, joinId := id, stall := .parked }
      else
        -- the sibling has blown, has ended, is descheduled or waits at another JOIN
        s.setPar p { r.issued f with cuts := t }
    | none => s.setPar p { r.issued f with cuts := t }

/-- A parison waiting at another JOIN than its sibling's lets the sibling pass alone (R162). -/
def State.freeOtherJoin (s : State) (p : ParId) : State :=
  match look p s.pars with
  | some r => if r.mode != .waitJoin then s else
      { s with pars := s.pars.map fun q => if q.2.mode == .waitJoin && q.2.pos.pc != r.pos.pc then passAlone p q else q }
  | none => s

/-- JOIN (R207). -/
def execJoin (x : CForm) (s : State) : Out :=
  let f := Instr.form (.join x)
  runInstr f { wave := joinWave f x.aux.toNat, par := fun s p r => (joinPar f x.aux.toNat s p r).freeOtherJoin p } s

/-- Two predicates of merging siblings: equal, or complementary along the abutting dimension (R162). -/
def mergePred (d : Nat) (lo hi : Box) (a b : PBind) : Option PBind :=
  match a, b with
  | .uni x, .uni y =>
    if x = y then some (.uni x)
    else if x then some (.range d (lo.ext d).1 (lo.ext d).2) else some (.range d (hi.ext d).1 (hi.ext d).2)
  | a, b => if a = b then some a else none

/-- The dimension along which two boxes abut, the first below the second (R162). -/
def Box.abut (a b : Box) : Option Nat :=
  ([0, 1, 2] : List Nat).find? fun d => (a.ext d).2 + 1 = (b.ext d).1 &&
    ([0, 1, 2] : List Nat).all fun e => e = d || a.ext e = b.ext e

/-- The forms a parison's names hold. -/
def Parison.values (r : Parison) (ff : List (Nat × Aff)) : List (Option Aff) :=
  r.nmap.map fun n => n.bind fun k => look k ff

/-- PARISON_MERGE (R162): two siblings that wait at the same JOIN merge, or pass it as two; the merge waits until every
counter of both is zero. Pattern registers are not compared; those of the lower sibling stay (DESIGN CHOICE, log entry 93). R162 does not
say what the parison waits for whose sibling's entry a merge with another part frees: its cut stack names the merged parison from then on,
and a WAITJOIN goes on for that one (DESIGN CHOICE, log entry 107). -/
def execParisonMerge (p : ParId) (s : State) : Out :=
  match look p s.pars with
  | none => .next s
  | some r => match r.mode, r.cuts with
    | .waitJoin, (sib, _) :: _ =>
      let q : ParId := { p with entry := sib }
      match look q s.pars with
      | none => .next s
      | some t =>
        if t.mode != .waitJoin || t.joinId != r.joinId || t.pos.pc != r.pos.pc then .next s else
        let (lp, lr, hp, hr) := if (r.box.abut t.box).isSome then (p, r, q, t) else (q, t, p, r)
        let ff := s.formFile (parCore p)
        let preds := (lr.box.abut hr.box).bind fun d =>
          (lr.pmap.zip hr.pmap).foldr (fun e acc => match mergePred d lr.box hr.box e.1 e.2, acc with
            | some x, some l => some (x :: l)
            | _, _ => none) (some [])
        let pass (x : Parison) : Parison :=
          { x with mode := .form, cuts := x.cuts.drop 1, pos := x.pos.advance 2, stall := .issued }
        match preds with
        | some ps =>
          if decide (lr.values ff = hr.values ff) && decide (lr.sreg = hr.sreg) then
            if !(lr.ctr.clear && hr.ctr.clear) then .next s else
            let box := { lr.box with x1 := hr.box.x1, y1 := hr.box.y1, z1 := hr.box.z1 }
            let m := { pass lr with box := box, pmap := ps.map fun x => x.clip box, gwd := max lr.gwd hr.gwd, gwp := max lr.gwp hr.gwp }
            .next (({ s with pars := drop hp s.pars }.setPar lp m).renameSibling hp fun _ => lp.entry)
          else .next ((s.setPar lp (pass lr)).setPar hp (pass hr))
        | none => .next ((s.setPar lp (pass lr)).setPar hp (pass hr))
    | _, _ => .next s

/-! ## REFORM (R161, R210) -/

/-- The REFORM that every split of a wave stands at, by the header after it (R161). -/
def Wave.reformAt (w : Wave) : Option Nat :=
  match w.splits with
  | [] => none
  | sp :: t => if (sp :: t).all (fun x => x.parked == some .reform && x.pos.hofs == sp.pos.hofs) then some sp.pos.hofs else none

/-- Whether every split of a wave is parked at one REFORM. -/
def Wave.reformed (w : Wave) : Bool := w.reformAt.isSome

/-- A wave whose splits all stand at the REFORM: they merge, and its physical registers are released (R161). -/
def Wave.parkReform (w : Wave) : Wave :=
  match w.splits with
  | [] => w
  | sp :: _ =>
    { w with slots := [some { sp with act := w.alive, inner := none }, none, none, none], pend := []
             joins := List.replicate 31 none
             vmap := w.vmap.map fun b => match b with | .form k => .form k | _ => .undef }

/-- A predicate rebuilt from the items for which it holds: uniform, or a prefix or suffix of the box (R153, R161). -/
def rebuildPred (b : Box) (yes : List (Nat × Nat × Nat)) (n : Nat) : Option PBind :=
  if yes.isEmpty then some (.uni false) else if yes.length = n then some (.uni true) else
  ([0, 1, 2] : List Nat).findSome? fun d =>
    let c (i : Nat × Nat × Nat) : Nat := if d = 0 then i.1 else if d = 1 then i.2.1 else i.2.2
    let lo := yes.foldl (fun m i => min m (c i)) (2 ^ 32)
    let hi := yes.foldl (fun m i => max m (c i)) 0
    let e := b.ext d
    if (lo = e.1 || hi = e.2) && (b.withExt d lo hi).count = yes.length then some (.range d lo hi) else none

/-- The items of a parison's waves for which a predicate holds; a helper lane holds none. -/
def trueItems (ws : List (WaveId × Wave)) (n : Nat) : List (Nat × Nat × Nat) :=
  ws.flatMap fun e => (lanesOf (nth e.2.preds n 0 &&& e.2.live &&& ~~~e.2.helper)).map fun l =>
    let i := e.2.item l
    (i.1.toNat, i.2.1.toNat, i.2.2.toNat)

/-- The waves of a parison. -/
def State.wavesOf (s : State) (p : ParId) : List (WaveId × Wave) :=
  s.waves.filter fun e => decide (e.2.par = some p) && e.2.status != .ended

/-- Whether nothing an agent issued is still counted or to be performed. -/
def quiet (ops : List Op) (c : Counters) : Bool :=
  c.clear && ops.all fun o => o.ctr.isNone && (match o.kind with | .qsig => false | .barrier _ _ _ own => !own | _ => true)

/-- The waves of a parison that has folded: each has retired, with its END record, and has freed its slot (R161, R361). -/
def State.retireWaves (s : State) (ws : List (WaveId × Wave)) : State :=
  let s := ws.foldl (fun (s : State) e => s.traceMark e.1 4 0) s
  { s with waves := s.waves.filter fun e => !ws.any fun w => w.1 == e.1 }

/-- REFORM once every live wave of the parison has parked at it (R161): the parison returns to form mode, or, if items have
gone or a predicate cannot be rebuilt (log entry 10), every wave resumes. It folds once every counter of its waves is zero, so that their
slots are free at once (DEDUCED from R156 and R208, log entry 108); of pattern registers that the waves have set differently, those of the
first wave stay (DESIGN CHOICE, log entry 93). -/
def State.resolveReform (s : State) (p : ParId) : State :=
  let ws := s.wavesOf p
  if !((ws.head?.bind fun e => e.2.reformAt).any fun n => ws.all fun e => e.2.reformAt == some n && e.2.status == .running) then s else
  match look p s.pars, ws with
  | some r, (_, w0) :: _ =>
    let resume : State :=
      { s with waves := s.waves.map fun (e : WaveId × Wave) => if decide (e.2.par = some p) && e.2.reformed
          then (e.1, { e.2 with slots := e.2.slots.map fun (x : Option Split) => x.map fun sp => { sp with parked := none, stall := .issued } })
          else e }
    if r.holes then resume
    else if !ws.all (fun e => quiet e.2.ops e.2.ctr) then s
    else
      let preds := (List.range 24).map fun n => rebuildPred r.box (trueItems ws n) r.box.count
      if preds.any (·.isNone) then resume else
      let r1 := { r with
        mode := .form, pos := ((w0.splits.head?).map (·.pos)).getD r.pos, queue := [], pushed := 0, stopped := false, stall := .issued
        sreg := w0.sreg, xpat := w0.xpat
        nmap := w0.vmap.map fun (b : VBind) => match b with | .form k => some k | _ => none
        pmap := preds.map fun (o : Option PBind) => o.getD (.uni false)
        gwd := ws.foldl (fun m e => max m e.2.gwd) r.gwd
        gwp := ws.foldl (fun m e => max m e.2.gwp) r.gwp }
      (s.retireWaves ws).setPar p r1
  | _, _ => s

/-- A wave written back after one of its splits has parked or gone: when every split it has left stands at one REFORM, it parks there
(R161). -/
def State.putReform (s : State) (a : AgentId) (w : Wave) : State :=
  if !w.reformed then s.setWave a w else
  let s := s.setWave a w.parkReform
  match w.par with
  | some p => s.resolveReform p
  | none => s

/-! ## EXIT and KILL (R208, R209) -/

/-- The lanes of a mask exit, and the split goes on after its clause (R208). A helper lane holds no item of the box, so that its exit
leaves no hole (R161, R168). -/
def exitWave (f : Form) (m : Word) (s : State) (a : AgentId) (w : Wave) (sp : Split) : State :=
  let w := w.setSlot (slotOf a) (some (sp.issued f))
  if m = 0 then s.setWave a w else (if m &&& ~~~w.helper = 0 then s else s.holed w).putReform a (w.exitLanes m)

/-- EXIT and KILL in form mode: the parison ends (R208, R209). -/
def exitPar (f : Form) (s : State) (p : ParId) (r : Parison) : State :=
  match r.guard f with
  | none => s.blow p r
  | some false => s.setPar p (r.issued f)
  | some true => (s.setPar p { r.issued f with mode := .ended }).endSibling p

/-- EXIT (R208). -/
def execExit (x : GForm) (s : State) : Out :=
  let f := Instr.form (.exit x)
  runInstr f { wave := fun s a w sp => exitWave f (w.exec sp f) s a w sp, par := exitPar f } s

/-- The lanes KILL ends, and those it makes helper lanes: in a QUAD launch a killed lane stays while its quad keeps a
live lane that is no helper (R168, R209). -/
def killSplit (w : Wave) (quad : Bool) (ex : Word) : Word × Word :=
  if !quad then (ex, 0) else
  let killed := ex &&& ~~~w.helper
  let real := w.alive &&& ~~~w.helper &&& ~~~killed
  let keep := maskOf fun l => killed.getLsbD l && (List.range 4).any fun i => real.getLsbD (l / 4 * 4 + i)
  (killed &&& ~~~keep, keep)

/-- KILL (R209). -/
def execKill (x : GForm) (s : State) : Out :=
  let f := Instr.form (.kill x)
  runInstr f
    { wave := fun s a w sp =>
        let quad := ((w.block.bind s.blockOf).map (·.quad)).getD false
        let (gone, help) := killSplit w quad (w.exec sp f)
        let w := { w with helper := w.helper ||| help }
        exitWave f gone (if help = 0 then s else s.holed w) a w sp
      par := exitPar f } s

/-! ## REFORM, the instruction (R210) -/

/-- REFORM (R210): it has no effect in form mode. -/
def execReform (x : GForm) (s : State) : Out :=
  let f := Instr.form (.reform x)
  runInstr f
    { wave := fun s a w sp =>
        let parked := { sp.issued f with parked := some .reform, stall := .parked }
        let w := ({ w.setSlot (slotOf a) none with pend := parked :: w.pend }).fill
        s.putReform a w
      par := fun s p r => s.setPar p (r.issued f) } s

/-! ## YIELD (R211) -/

/-- Whether a split is ready as far as the waits of this chapter go (R332). -/
def Split.ready (sp : Split) : Bool := sp.runnable && sp.wait == .none

/-- The other waves of a wave's partition with a ready split, as a YIELD of mode 0 finds them as it issues; one that becomes ready later is
not awaited (DESIGN CHOICE, log entry 95). -/
def State.rivals (s : State) (id : WaveId) : List WaveId :=
  (s.waves.filter fun e => decide (e.1.die = id.die ∧ e.1.core = id.core ∧ e.1.part = id.part ∧ e.1.slot ≠ id.slot)
    && e.2.status == .running && e.2.slots.any fun x => match x with | some sp => sp.ready | none => false).map (·.1)

/-- Whether a counter condition of YIELD holds. -/
def yieldMet (c : Counters) (k : Ctr) (n : Nat) : Bool := (c.get k).toNat ≤ n

/-- YIELD (R211): the split waits, or goes on at the next clause when nothing holds it. Mode 0 of a parison in form mode passes at once
(DESIGN CHOICE, log entry 95). -/
def execYield (x : GForm) (s : State) : Out :=
  let f := Instr.form (.yield x)
  let n := x.b.toNat
  let cond : Option Ctr := match x.ml.toNat with
    | 1 => some .enc
    | 2 => some .obc
    | _ => none
  runInstr f
    { wave := fun s a w sp =>
        let wait : Wait := match cond with
          | some c => if yieldMet w.ctr c n then .none else .yieldCount c n
          | none => match a with
            | .wave id _ => match s.rivals id with
              | [] => .none
              | l => .yieldRuns l
            | _ => .none
        let sp' := sp.issued f
        s.setWave a (w.setSlot (slotOf a)
          (some (if wait = .none then sp' else { sp' with wait := wait, stall := .yield })))
      par := fun s p r =>
        let r1 := r.issued f
        match cond with
        | some c => if yieldMet r.ctr c n then s.setPar p r1
            else (s.setPar p { r1 with wait := .yieldCount c n, stall := .yield }).freeSiblings p
        | none => s.setPar p r1 } s

/-! ## TRAP, BKPT and NOP (R212, R213, R340) -/

/-- The 12-bit code of TRAP and BKPT. -/
def trapCode (x : GForm) : Nat := x.a.toNat * 64 + x.b.toNat

/-- TRAP and an enabled BKPT in a wave: once every earlier instruction of the split has retired, a precise stop at the
next clause (R340). -/
def trapWave (f : Form) (c : Cause) (code : Nat) (s : State) (a : AgentId) (w : Wave) (sp : Split) : State :=
  let ex := w.exec sp f
  let x := Actor.wave a w sp
  if ex = 0 then s.finishWave a w sp f
  else if w.ops.any (fun o => o.mask &&& sp.act != 0 || (o.mask == 0 && o.slot == slotOf a)) then s.stalled x .count
  else s.trap x [x.record c .none ex 0 code] (some (sp.pos.advance f.len))

/-- TRAP and an enabled BKPT in form mode: the parison as a whole, once its earlier instructions have retired (R340). -/
def trapPar (f : Form) (c : Cause) (code : Nat) (s : State) (p : ParId) (r : Parison) : State :=
  let x := Actor.par p r
  match r.guard f with
  | none => s.blow p r
  | some false => s.setPar p (r.issued f)
  | some true =>
    if !r.ops.isEmpty then s.stalled x .count else s.trap x [x.record c .none 0xFFFFFFFF 0 code] (some (r.pos.advance f.len))

/-- TRAP (R212). -/
def execTrap (x : GForm) (s : State) : Out :=
  let f := Instr.form (.trap x)
  runInstr f { wave := trapWave f .trap (trapCode x), par := trapPar f .trap (trapCode x) } s

/-- Whether debug is enabled for a context (R357). -/
def State.debugOn (s : State) (ctx : Nat) : Bool := ((s.ctx ctx).map (·.dbg.enable)).getD false

/-- BKPT (R212): NOP unless debug is enabled. -/
def execBkpt (x : GForm) (s : State) : Out :=
  let f := Instr.form (.bkpt x)
  runInstr f
    { wave := fun s a w sp =>
        if s.debugOn w.ctx then trapWave f .bkpt (trapCode x) s a w sp else s.finishWave a w sp f
      par := fun s p r => if s.debugOn r.ctx then trapPar f .bkpt (trapCode x) s p r else s.setPar p (r.issued f) } s

/-- NOP (R213). -/
def execNop (x : GForm) (s : State) : Out :=
  let f := Instr.form (.nop x)
  runInstr f { wave := fun s a w sp => s.finishWave a w sp f, par := fun s p r => s.setPar p (r.issued f) } s

end Sys2Proof.Machine
end

