-- ==== Sys2Proof/Machine/Access.lean ====
section
/-! DEFINITION. Where an access lands and what it meets there: effective addresses, the four spaces, the per-lane faults,
fences and order modifiers, and operations in flight on lines (R10 to R14, R32, R90 to R92, R254, R255, R402). -/

namespace Sys2Proof.Machine

/-! ## Addresses (R254) -/

/-- Bytes of an access type (R181). -/
def typeBytes (ml : Nat) : Nat :=
  match ml with
  | 0 | 1 => 1
  | 2 | 3 => 2
  | 4 => 4
  | 5 => 8
  | _ => 16

/-- The effective address: base plus the scaled signed offset, modulo the space's width (R10). -/
def effAddr (space : Nat) (base : List Word) (ofs : Int) (size : Nat) : Nat :=
  if space = 0 then ((((pairOf base).toNat : Int) + ofs * size) % 2 ^ 64).toNat
  else ((((nth base 0 0).toNat : Int) + ofs * size) % 2 ^ 32).toNat

/-! ## Grid (R3, R189) -/

/-- Columns and rows of a die's grid of cores. -/
def gridOf : Die → Nat × Nat
  | .kapael => (4, 3)
  | .amdukor => (8, 6)

/-- Weight-store banks of a die (R41). -/
def bankCount : Die → Nat
  | .kapael => 32
  | .amdukor => 128

/-! ## Spaces (R12 to R14) -/

/-- Where an address lands: a place, a walk still to be made, or a fault with its level. -/
inductive Loc
  | place (p : Place) (leaf : DWord)
  | miss
  | bad (sub : Sub) (level : Nat)
  deriving DecidableEq, Repr

/-- A SCRATCH address within a block (R12). -/
def scratchLoc (ref : BlockRef) (b : Block) (a : Nat) : Loc :=
  if a / 2 ^ 20 != 0 || decide (b.ngran ≤ a / 2 ^ 14) then .bad .scratchRange 0 else .place (.scratch ref a) 0

/-- Where a block's cohort lies among the cohorts of its grid (R167): its block coordinates in units of the cohort's. -/
def Block.cohortAt (b : Block) : Nat × Nat × Nat :=
  (b.origin.1.toNat / b.extent.1 / b.cohort.1, b.origin.2.1.toNat / b.extent.2.1 / b.cohort.2, b.origin.2.2.toNat / b.extent.2.2)

/-- The block at a place of the same cohort (R13, R167). -/
def State.cohortBlock (s : State) (ref : BlockRef) (b : Block) (i j : Nat) : Option (BlockRef × Block) :=
  let (cols, _) := gridOf ref.die
  let col := ref.core % cols + i - b.place.1
  let row := ref.core / cols + j - b.place.2
  s.blocks.find? fun e => e.1.die == ref.die && e.1.core == row * cols + col && e.2.launch == b.launch && e.2.place == (i, j)
    && e.2.cohort == b.cohort && e.2.cohortAt == b.cohortAt

/-- A signed 4-bit field. -/
def sext4 (n : Nat) : Int := if n < 8 then n else (n : Int) - 16

/-- A COHORT address (R13). -/
def State.cohortLoc (s : State) (ref : BlockRef) (b : Block) (a : Nat) : Loc :=
  let i := (b.place.1 : Int) + sext4 (a / 2 ^ 28 % 16)
  let j := (b.place.2 : Int) + sext4 (a / 2 ^ 24 % 16)
  if a / 2 ^ 20 % 16 != 0 || i < 0 || j < 0 || decide ((b.cohort.1 : Int) ≤ i) || decide ((b.cohort.2 : Int) ≤ j) then
    .bad .cohortRange 0
  else match s.cohortBlock ref b i.toNat j.toNat with
    | some (r, x) => scratchLoc r x (a % 2 ^ 20)
    | none => .bad .cohortRange 0

/-- A launch's declared banks (R325). -/
def Launch.banks (l : Launch) : Nat := natOf (bytesOfWords (slice l.desc 20 4))

/-- Whether an access stores, for the last check of R14. -/
def accStores (acc : Access) : Bool := acc == .store || acc == .atomic || acc == .blkStore || acc == .ocall

/-- A WEIGHT address (R14). -/
def State.weightLoc (s : State) (d : Die) (ctx : Nat) (launch : Option Nat) (acc : Access) (a : Nat) : Loc :=
  let bk := a / 2 ^ 23
  let owned := ((s.ctx ctx).map (·.desc.banks)).getD 0
  let declared := ((launch.bind s.launch).map (·.banks)).getD 0
  if bankCount d ≤ bk then .bad .weightRange 0
  else if !owned.testBit bk then .bad .bankOwner 0
  else if !declared.testBit bk then .bad .bankUndeclared 0
  else if accStores acc then .bad .classStore 0
  else .place (.weight d a) 0

/-- An address of a space, for an access of some alignment from an agent for a context and a block (R10, R254). -/
def State.locate (s : State) (ag : AgentId) (ctx : Nat) (blk : Option BlockRef) (acc : Access) (space align a : Nat) : Loc :=
  if a % align != 0 then .bad .misaligned 0 else
  let b := blk.bind fun r => (s.blockOf r).map fun b => (r, b)
  match space with
  | 0 => match s.translate ag ctx a acc with
    | .hit leaf pa => .place (.mem (leafHome leaf) pa) leaf
    | .miss => .miss
    | .fault sub level => .bad sub level
  | 1 => match b with
    | some (r, b) => scratchLoc r b a
    | none => .bad .scratchRange 0
  | 2 => match b with
    | some (r, b) => s.cohortLoc r b a
    | none => .bad .cohortRange 0
  | _ => s.weightLoc (coreOf ag).die ctx (b.map fun e => e.2.launch) acc a

/-- What the lanes of an instruction meet: places for all of them, walks still to be made, or the faults of some. -/
inductive Located
  | places (l : List (Nat × Nat × Place × DWord))
  | miss (l : List (Nat × Nat))
  | bad (l : List (Nat × Nat × Sub × Nat))
  deriving DecidableEq, Repr

/-- Every lane's address located; all are checked before any access is performed (R255). -/
def State.locateLanes (s : State) (ag : AgentId) (ctx : Nat) (blk : Option BlockRef) (acc : Access) (space align : Nat)
    (eas : List (Nat × Nat)) : Located :=
  let ls := eas.map fun e => (e.1, e.2, s.locate ag ctx blk acc space align e.2)
  let misses := ls.filterMap fun e => match e.2.2 with | .miss => some (e.1, e.2.1) | _ => none
  let bads := ls.filterMap fun e => match e.2.2 with | .bad sub level => some (e.1, e.2.1, sub, level) | _ => none
  if !misses.isEmpty then .miss misses
  else if !bads.isEmpty then .bad bads
  else .places (ls.filterMap fun e => match e.2.2 with | .place p leaf => some (e.1, e.2.1, p, leaf) | _ => none)

/-! ## Faults of lanes (R31, R339, R341) -/

/-- The block of an actor. -/
def Actor.block : Actor → Option BlockRef
  | .wave _ w _ => w.block
  | .par _ r => some r.block

/-- The trap of an instruction's per-lane faults. -/
def State.faultLanes (s : State) (x : Actor) (bad : List (Nat × Nat × Sub × Nat)) : State :=
  s.trap x (faultRecs x bad) none

/-- An access that waits for the page walker: counted on its memory counter, and not yet made (R24). -/
def walkOp (id slot : Nat) (k : Option Ctr) (pos : Pos) (eas : List (Nat × Nat)) (qs : List WalkReq) : Op :=
  { id := id, kind := .walk, ctr := k, slot := slot, wofs := pos.pc, ord := pos.ord, walks := qs
    results := laneVas eas }

/-- An actor's access waits for the page walker, unless it does so already: its counter rises. -/
def State.countWalk (s : State) (x : Actor) (k : Option Ctr) (eas : List (Nat × Nat)) (qs : List WalkReq) : State :=
  let up (c : Counters) : Counters := match k with
    | some k => c.up k
    | none => c
  match x with
  | .wave a w sp =>
    if w.ops.any (fun o => o.kind == .walk && o.slot == slotOf a) then s else
    { s with opCtr := s.opCtr + 1 }.setWave a
      { w with ops := w.ops ++ [walkOp s.opCtr (slotOf a) k sp.pos eas qs], ctr := up w.ctr }
  | .par p r =>
    if r.ops.any (fun o => o.kind == .walk) then s else
    { s with opCtr := s.opCtr + 1 }.setPar p { r with ops := r.ops ++ [walkOp s.opCtr 0 k r.pos eas qs], ctr := up r.ctr }

/-- Walks asked for by the lanes of an instruction, and its actor stalled on them, its access counted (R24). -/
def State.waitWalks (s : State) (x : Actor) (k : Option Ctr) (acc : Access) (eas : List (Nat × Nat)) : State :=
  let qs := dedup (eas.map fun e => walkReq x.agent x.ctx e.2 acc)
  let s := (qs.foldl State.wantWalk s).countWalk x k eas qs
  match s.actorOf x.agent with
  | some x => s.stalled x .memory
  | none => s

/-! ## Operations in flight -/

/-- The operations of an agent. -/
def State.agentOps (s : State) (a : AgentId) : List Op :=
  match a with
  | .gaffer p => ((look p s.pars).map (·.ops)).getD []
  | a => ((s.waveOf a).map (·.ops)).getD []

/-- The operations of an agent changed. -/
def State.mapOps (s : State) (a : AgentId) (g : List Op → List Op) : State :=
  match a with
  | .gaffer p => match look p s.pars with
    | some r => s.setPar p { r with ops := g r.ops }
    | none => s
  | a => match s.waveOf a with
    | some w => s.setWave a { w with ops := g w.ops }
    | none => s

/-- The operation of an id. -/
def State.agentOp (s : State) (a : AgentId) (id : Nat) : Option Op := opOf (s.agentOps a) id

/-- An operation replaced. -/
def State.setAgentOp (s : State) (a : AgentId) (o : Op) : State := s.mapOps a fun l => setOp l o

/-- What is left of an operation in the parts that a cut made ends with it: its counter falls, and the uniform registers that it wrote
are written there as well (R154). -/
def Parison.retireShadow (r : Parison) (src : Parison) (o : Op) : Parison :=
  match r.ops.find? fun q => q.id == o.id with
  | some q =>
    if !(match q.kind with | .shadow _ => true | _ => false) then r else
    { r with ops := delOp r.ops o.id, ctr := r.ctr.without [q], sreg := o.sdst.foldl (fun m n => m.set n (nth src.sreg n 0)) r.sreg
             wroteS := r.wroteS ++ o.sdst, gwd := max r.gwd o.gd, gwp := max r.gwp o.gp }
  | none => r

/-- An operation retired: its counter falls, and the write completion times it brought are merged (R87, R173). -/
def State.retire (s : State) (a : AgentId) (o : Op) : State :=
  let down (c : Counters) : Counters := match o.ctr with | some k => c.down k | none => c
  match a with
  | .gaffer p => match look p s.pars with
    | some r =>
      let s := s.setPar p { r with ops := delOp r.ops o.id, ctr := down r.ctr, gwd := max r.gwd o.gd, gwp := max r.gwp o.gp }
      if s.pars.any fun e => e.2.ops.any fun q => q.id == o.id
      then { s with pars := s.pars.map fun (e : ParId × Parison) => (e.1, e.2.retireShadow r o) } else s
    | none => s
  | a => match s.waveOf a with
    | some w => s.setWave a { w with ops := delOp w.ops o.id, ctr := down w.ctr, gwd := max w.gwd o.gd, gwp := max w.gwp o.gp }
    | none => s

/-- Whether an agent's operation may retire now. -/
def State.mayRetire (s : State) (a : AgentId) (o : Op) : Bool := oldest (s.agentOps a) o

/-- A request's line, when it lands in memory. -/
def LaneReq.line? (r : LaneReq) : Option LineRef :=
  match r.place with
  | .mem h pa => some (lineAt h pa)
  | _ => none

/-- The clean copies of lines that requests have been performed on elsewhere leave their core's L1 (R82). -/
def State.forgetLines (s : State) (c : CoreRef) (rs : List LaneReq) : State :=
  (dedup (rs.filterMap (·.line?))).foldl (fun (s : State) l => s.l1Forget c l) s

/-- Whether an operation still has a request to perform on a line. What a WAITV or a QWAIT watches is read when the line may have
changed, and holds nothing up (R277, R279); nor does a bundle that has left for the crucible of the line's home (R110). -/
def Op.busyOn (o : Op) (l : LineRef) : Bool :=
  match o.kind with
  | .waitv | .qwait => false
  | .atomic _ _ _ | .ocall _ | .mdrain true => o.reqs.any fun r => !r.done && !r.sent && r.line? == some l
  | _ => o.reqs.any fun r => !r.done && r.line? == some l

/-- The operations in flight of everything that runs on a core. -/
def State.coreOps (s : State) (c : CoreRef) : List Op :=
  (s.waves.filter fun e => e.1.die == c.die && e.1.core == c.core).flatMap (fun e => e.2.ops)
    ++ (s.pars.filter fun e => e.1.die == c.die && e.1.core == c.core).flatMap fun e => e.2.ops

/-- Whether some operation of a core, with an id below `id`, still has a request to perform on a line. -/
def State.lineBusy (s : State) (c : CoreRef) (id : Nat) (l : LineRef) : Bool :=
  (s.coreOps c).any fun o => decide (o.id < id) && o.busyOn l

/-- Whether an operation is an atomic or object request that is outstanding for some lanes on the line an access is for: the merge of
an MDRAIN, made once, is a request of every lane that executes it (R112, R301). -/
def Op.atomicOn (o : Op) (lanes : Nat → Bool) (h : Home) (pa : Nat) : Bool :=
  let here (r : LaneReq) : Bool := match r.place with
    | .mem h' pa' => h' == h && (pa' / 128 == pa / 128 || (o.ctr == some .obc && pa' / 512 == pa / 512))
    | _ => false
  match o.kind with
  | .atomic _ _ _ | .ocall _ => o.reqs.any fun r => lanes r.lane && here r
  | .mdrain true => (lanesOf o.mask).any lanes && o.reqs.any here
  | _ => false

/-- Whether a lane has an atomic or object request outstanding on the line an access is for (R112). -/
def atomicOut (ops : List Op) (lane : Nat) (p : Place) : Bool :=
  match p with
  | .mem h pa => ops.any fun o => o.atomicOn (· == lane) h pa
  | _ => false

/-- Faults that come with a reply (R402): one cause for each distinct subcause, recorded at the position the operation was issued from.
A parison whose gaffer still stands at the instruction stays there (R340). -/
def State.faultsArrive (s : State) (a : AgentId) (o : Op) (bad : List (Nat × Nat × Sub × Nat)) : State :=
  match a with
  | .gaffer p => match look p s.pars with
    | some r =>
      let r := { r with wait := if o.kind = .waitv || o.kind = .qwait then .none else r.wait, pos := if o.kind = .uld then o.pos else r.pos }
      let late (c : CauseRec) : CauseRec := { c with wofs := o.wofs, ord := o.ord, precise := false }
      s.trap (.par p r) ((faultRecs (.par p r) bad).map late) none
    | none => s
  | .wave id _ => match look id s.waves with
    | some w =>
      let late (c : CauseRec) : CauseRec := { c with slot := o.slot, wofs := o.wofs, ord := o.ord, precise := false }
      let cs := (faultRecs (.wave (.wave id o.slot) w {}) bad).map late
      let others := s.otherFaults (.wave (.wave id 4) w {})
      let w := ({ w with causes := (cs ++ others).foldl addCause w.causes }).stop (s.image w.ctx w.image)
      ({ s.clearWalks a with waves := put id w s.waves }).pushEvent id.die (.trap id w.ctx (s.queueOfBlock w.block))
    | none => s
  | _ => s

/-- Faults that come with the last reply of an operation: it is gone, and its results are not written. -/
def State.replyFaults (s : State) (a : AgentId) (o : Op) (bad : List (Nat × Nat × Sub × Nat)) : State :=
  (s.retire a o).faultsArrive a o bad

/-- The lanes of a mask with a fault of one subcause, as `faultRecs` takes them; without lanes it is no lane's. -/
def maskFaults (sub : Sub) (mask : Word) (ea : Nat) : List (Nat × Nat × Sub × Nat) :=
  match lanesOf mask with
  | [] => [(32, ea, sub, 0)]
  | l => l.map fun k => (k, ea, sub, 0)

/-- A fault of one subcause that comes with a reply, in some lanes. -/
def State.replyFault (s : State) (a : AgentId) (o : Op) (sub : Sub) (mask : Word) (ea : Nat) : State :=
  s.replyFaults a o (maskFaults sub mask ea)

/-- Refusals that come with one reply of an operation, `o` as that reply leaves it (R140, R402): its results are not written, and it
stays in flight until its other replies have come, each of which may bring a cause of its own. -/
def State.replyRefused (s : State) (a : AgentId) (o : Op) (mask : Word) (ea : Nat) : State :=
  let o := { o with vdst := [], sdst := [] }
  let bad := maskFaults .remoteRefused mask ea
  if o.reqs.all (·.done) then (s.setAgentOp a o).replyFaults a o bad else (s.setAgentOp a o).faultsArrive a o bad

/-! ## Fences and order modifiers (R78, R90, R91) -/

/-- Operations whose accesses a fence waits for (R90), their shadows in the other parts of a cut among them (R154). -/
def OpKind.memory (k : OpKind) : Bool := decide (2 ≤ k.shadowCode)

/-- Whether every earlier access of an actor is performed at the level of a scope (R78): at CORE the write queue is
enough for stores. -/
def fenceAcked (ops : List Op) (scope : Nat) : Bool :=
  ops.all fun o => !o.kind.memory || (scope == 0 && o.kind.shadowCode == 3)

/-- Whether pair time has passed the write completion times that a scope waits for (R90); in handheld mode PAIR waits
as DIE does (R78). -/
def State.fenceTimed (s : State) (d : Die) (scope gwd gwp : Nat) : Bool :=
  scope == 0 || decide ((if scope ≤ 2 || !s.docked then gwd else gwp) < s.now d)

/-- The counters of time of an actor. -/
def Actor.gw : Actor → Nat × Nat
  | .wave _ w _ => (w.gwd, w.gwp)
  | .par _ r => (r.gwd, r.gwp)

/-- Whether fence(scope) of an actor is met. -/
def State.fenceMet (s : State) (x : Actor) (scope : Nat) : Bool :=
  fenceAcked x.ops scope && s.fenceTimed x.core.die scope x.gw.1 x.gw.2

/-- An actor made to wait. -/
def State.waits (s : State) (x : Actor) (wt : Wait) (why : Stall) : State :=
  match x with
  | .wave a w sp => s.setWave a (w.setSlot (slotOf a) (some { sp with wait := wt, stall := why }))
  | .par p r => s.setPar p { r with wait := wt, stall := why }

/-- An actor made to wait at fence(scope): COUNT for the acknowledgements, then FENCE for the time (R90). -/
def State.fenceWait (s : State) (x : Actor) (scope : Nat) : State :=
  s.waits x (.fence scope 0) (if fenceAcked x.ops scope then .fence else .count)

/-- Whether the actor's later memory accesses are held: by an acquire whose value has not returned, or by a fence of
another split of its wave (R90, R91). -/
def Actor.ordered (x : Actor) : Option Stall :=
  if x.ops.any fun o => o.order == .acquire || o.order == .acqRel then some .memory else
  match x with
  | .wave a w _ => if (List.range 4).any fun k => k != slotOf a && (match nth w.slots k none with
      | some sp => (match sp.wait with | .fence _ _ => true | _ => false)
      | none => false) then some .fence else none
  | .par _ _ => none

/-- The order of an ORD code (R79). -/
def ordOf (n : Nat) : Ord :=
  match n with
  | 0 => .relaxed
  | 1 => .acquire
  | 2 => .release
  | _ => .acqRel

/-- A block made irrevocable (R364). -/
def State.irrevocable (s : State) (b : Option BlockRef) : State :=
  match b with
  | some r => match s.blockOf r with
    | some x => s.putBlock r { x with irrev := true }
    | none => s
  | none => s

/-- What a fence does once it is met: PRIVATE lines go home at COHORT scope or wider (R84), and a release at SYS scope
makes its block irrevocable (R364). -/
def State.fenceDone (s : State) (x : Actor) (scope : Nat) : State :=
  let s := if scope = 0 then s else s.dropPrivate x.core x.ctx
  if scope = 4 then s.irrevocable x.block else s

/-- A memory access of an actor under its order modifier: it stalls, waits at its release, or goes on (R91). -/
def State.inOrder (s : State) (x : Actor) (ord : Ord) (scope : Nat) (go : State → State) : State :=
  match x.ordered with
  | some why => s.stalled x why
  | none =>
    if ord = .release || ord = .acqRel then
      (if s.fenceMet x scope then go (s.fenceDone x scope) else s.fenceWait x scope)
    else go s

/-- FENCE_TIME_PASSED (R90): a fence or release of an agent that waits goes on once its accesses are acknowledged and
pair time has passed. -/
def execFenceTimePassed (a : AgentId) (s : State) : Out :=
  match a with
  | .gaffer p => match look p s.pars with
    | some r => match r.wait with
      | .fence scope _ => if s.fenceMet (.par p r) scope then .next (s.setPar p { r with wait := .none }) else .next s
      | _ => .next s
    | none => .next s
  | a => match s.waveOf a with
    | some w => match nth w.slots (slotOf a) none with
      | some sp => match sp.wait with
        | .fence scope _ =>
          if s.fenceMet (.wave a w sp) scope then .next (s.setWave a (w.setSlot (slotOf a) (some { sp with wait := .none })))
          else .next s
        | _ => .next s
      | none => .next s
    | none => .next s

end Sys2Proof.Machine
end

