-- ==== Sys2Proof/Machine/Memory.lean ====
section
/-! DEFINITION. Loads, stores, block transfers, prefetch, cache control and FENCE, and the steps that serve and retire
them (R81 to R87, R256 to R264). -/

namespace Sys2Proof.Machine

/-! ## Register representation (R52, R258) -/

/-- Loaded bytes as destination words (R258). -/
def loadWords (ml : Nat) (bs : List Byte) : List Word :=
  let n := natOf bs
  match ml with
  | 1 => [BitVec.ofInt 32 (intOfBits 8 false n)]
  | 3 => [BitVec.ofInt 32 (intOfBits 16 false n)]
  | _ => wordsOf bs

/-- Source words as the bytes to store (R258). -/
def storeBytes (ml : Nat) (ws : List Word) : List Byte := (bytesOfWords ws).take (typeBytes ml)

/-- A field of the unpacked layout as a number in two's complement. -/
def fieldInt (w : Word) (lo k : Nat) : Int := intOfBits k false (Word.bits w (lo + k - 1) lo)

/-- A number saturated to `k` bits. -/
def satInt (k : Nat) (v : Int) : Nat := (fitInt k false true v % 2 ^ k).toNat

/-- Payload bytes of a block of a format from the unpacked layout (R261). -/
def packPayload (fmt : Nat) (w : Nat → Word) : List Byte :=
  match fmt with
  | 1 =>
    let trit (e : Nat) : Nat :=
      let v := fieldInt (w (e / 8)) (4 * (e % 8)) 4
      if 0 < v then 2 else if v = 0 then 1 else 0
    (List.range 62).map fun j => BitVec.ofNat 8 (if 50 ≤ j then 0 else
      ((List.range (if j < 49 then 5 else 3)).map fun i => trit (5 * j + i) * 3 ^ i).sum)
  | 2 => (List.range 62).map fun e => BitVec.ofNat 8 (satInt 8 (fieldInt (w (e / 2)) (16 * (e % 2)) 16))
  | 3 => (List.range 62).map fun i =>
      let n (e : Nat) : Nat := satInt 4 (fieldInt (w (e / 4)) (8 * (e % 4)) 8)
      BitVec.ofNat 8 (n (2 * i) + 16 * n (2 * i + 1))
  | 4 => (List.range 62).map fun e => BitVec.ofNat 8 (encodeF fE4M3 .rn (decodeF fF16 (half (w (e / 2)) (e % 2))))
  | 5 => (List.range 62).map fun e => BitVec.ofNat 8 (encodeF fE5M2 .rn (decodeF fF16 (half (w (e / 2)) (e % 2))))
  | 6 => (List.range 31).flatMap fun l => bytesOf 2 (encodeF fBF16 .rn (f32 (w l)))
  | 7 => (List.range 31).flatMap fun l => bytesOf 2 (encodeF fF16 .rn (f32 (w l)))
  | _ => List.replicate 62 0

/-- The block that STBLK builds from 32 lanes; none for a reserved format (R261). -/
def packBlock (w : Nat → Word) : Option (List Byte) :=
  let fmt := Word.bits (w 31) 7 0
  if 8 ≤ fmt then none
  else some (BitVec.ofNat 8 fmt :: BitVec.ofNat 8 (Word.bits (w 31) 15 8) :: packPayload fmt w)

/-! ## Places read and written at issue -/

/-- Bytes of a block's scratchpad written (R92). -/
def State.scratchWrite (s : State) (ref : BlockRef) (ofs : Nat) (bytes : List Byte) : State :=
  match s.blockOf ref with
  | some b => s.putBlock ref { b with scratch := Memory.writeN b.scratch ofs bytes }
  | none => s

/-- Bytes of a block's scratchpad (R92). -/
def State.scratchRead (s : State) (ref : BlockRef) (ofs n : Nat) : List Byte :=
  match s.blockOf ref with
  | some b => Memory.readN b.scratch ofs n
  | none => List.replicate n 0

/-- What a load finds at issue: the bytes of core store and weight store, and of a line present in the core's L1 with no
earlier access of the core to it still to be performed (R82); `.BYP` stops the hit of a line that the core does not own (R88, R183). -/
def State.readNow (s : State) (c : CoreRef) (pol : Nat) (p : Place) (n : Nat) : Option (List Byte) :=
  match p with
  | .scratch r ofs => some (s.scratchRead r ofs n)
  | .weight d ofs => some (Memory.readN (s.ws d) ofs n)
  | .mem h pa =>
    let l := lineAt h pa
    if s.lineBusy c s.opCtr l then none else
    match s.l1Get c l with
    | some x => if s.l1Live c.die x && (pol != 2 || x.owned) then some (slice x.data (pa % 128) n)
        else none
    | none => none

/-- A lane's request, answered at once where it can be. -/
def State.loadReq (s : State) (c : CoreRef) (pol n : Nat) (e : Nat × Nat × Place × DWord) : LaneReq :=
  let (lane, va, p, leaf) := e
  match s.readNow c pol p n with
  | some bs => { lane := lane, va := va, place := p, leaf := leaf, size := n, data := bs, done := true }
  | none => { lane := lane, va := va, place := p, leaf := leaf, size := n }

/-- An operation issued by a split: counted, its sources released, its position passed. -/
def State.issueOp (s : State) (a : AgentId) (w : Wave) (sp : Split) (f : Form) (o : Op) : State :=
  let w := { w.release f.lastReads with ops := w.ops ++ [o], ctr := match o.ctr with | some k => w.ctr.up k | none => w.ctr }
  { s with opCtr := s.opCtr + 1 }.finishWave a w sp f

/-- The addresses of the lanes that access. -/
def Wave.addrs (w : Wave) (ff : List (Nat × Aff)) (f : Form) (space : Nat) (ofs : Int) (size : Nat) (m : Word) :
    List (Nat × Nat) :=
  (lanesOf m).map fun l => (l, effAddr space (w.operands ff f l).a ofs size)

/-- The access of a memory instruction of a wave once its order modifier allows it: located, checked against atomics of
its lanes still out (R112) and for errors where it reads (R51), then performed by `go`. -/
def waveAccess (f : Form) (acc : Access) (space align : Nat) (eas : List (Nat × Nat))
    (go : State → List (Nat × Nat × Place × DWord) → State) (s : State) (a : AgentId) (w : Wave) (sp : Split) : State :=
  let x := Actor.wave a w sp
  match s.locateLanes a w.ctx w.block acc space align eas with
  | .miss l => s.waitWalks x (counterOf f.opc) acc l
  | .bad l => s.faultLanes x l
  | .places l =>
    if l.any fun e => atomicOut w.ops e.1 e.2.2.1 then s.stalled x .object else
    if s.flaws.isEmpty then go s l else
    match s.laneFlaws (coreOf a) align l with
    | (s, []) => go s l
    | (s, bad) => s.trap x (faultRecs x bad) none

/-- The new operation of a split. -/
def newOp (s : State) (a : AgentId) (sp : Split) (f : Form) (k : OpKind) (ex : Word) : Op :=
  { id := s.opCtr, kind := k, ctr := counterOf f.opc, slot := slotOf a, wofs := sp.pos.pc, ord := sp.pos.ord,
    vdst := f.vwrites, mask := ex }

/-- LD and LDBLK in a wave (R258, R260). -/
def loadWave (f : Form) (x : MForm) (blk : Bool) (s : State) (a : AgentId) (w : Wave) (sp : Split) : State :=
  let ex := w.exec sp f
  let n := if blk then 64 else typeBytes x.ml.toNat
  let space := x.space.toNat
  let eas := w.addrs (s.formFile (coreOf a)) f space x.ofs.toInt n (ex &&& ~~~w.helper)
  s.inOrder (.wave a w sp) (ordOf x.ord.toNat) x.scope.toNat fun s =>
    waveAccess f (if blk then .blkLoad else .load) space n eas (fun s l =>
      s.issueOp a w sp f { newOp s a sp f (.load x.pol.toNat) ex with
        order := ordOf x.ord.toNat, args := [if blk then 7 else x.ml.setWidth 32]
        reqs := l.map (s.loadReq (coreOf a) x.pol.toNat n) }) s a w sp

/-- LD (R258). -/
def execLd (x : MForm) (s : State) : Out :=
  let f := Instr.form (.ld x)
  runInstr f { wave := loadWave f x false, par := fun s p r => s.blow p r } s

/-- LDBLK (R260). -/
def execLdblk (x : MForm) (s : State) : Out :=
  let f := Instr.form (.ldblk x)
  runInstr f { wave := loadWave f x true, par := fun s p r => s.blow p r } s

/-! ## Stores -/

/-- Whether a store to a place must wait: a PRIVATE or owned line with earlier accesses of the core still to be performed
(R82). -/
def State.storeHeld (s : State) (c : CoreRef) (p : Place) (leaf : DWord) : Bool :=
  match p with
  | .mem h pa =>
    let l := lineAt h pa
    s.lineBusy c s.opCtr l && (leafCls leaf == .priv || ((s.l1Get c l).map (·.owned)).getD false)
  | _ => false

/-- One lane's store under a policy: performed at once in core store, in an owning L1 or on a PRIVATE line, which is filled under the
policy (R83, R88, R92, R183), else left to its home, as a `.BYP` store is to a PRIVATE line that the L1 does not hold; with the write
completion time it returns at once. -/
def State.storeReq (s : State) (c : CoreRef) (ctx pol : Nat) (e : Nat × Nat × Place × DWord) (bytes : List Byte) :
    State × LaneReq × Nat :=
  let (lane, va, p, leaf) := e
  let r : LaneReq := { lane := lane, va := va, place := p, leaf := leaf, size := bytes.length, data := bytes }
  match p with
  | .scratch ref ofs => (s.scratchWrite ref ofs bytes, { r with done := true }, 0)
  | .weight _ _ => (s, { r with done := true }, 0)
  | .mem h pa =>
    let l := lineAt h pa
    if leafCls leaf = .priv then
      if pol = 2 ∧ s.l1Get c l = none then (s, r, 0) else
      let s := (s.loadLine c l ctx va leaf pol).1
      (s.l1Write c l (pa % 128) bytes, { r with done := true }, 0)
    else match s.l1Get c l with
      | some y => if y.owned then (s.l1Write c l (pa % 128) bytes, { r with done := true }, s.now c.die) else (s, r, 0)
      | none => (s, r, 0)

/-- Every lane's store, in ascending lane order (R81). -/
def State.storeReqs (s : State) (c : CoreRef) (ctx pol : Nat) (data : Nat → List Byte) :
    List (Nat × Nat × Place × DWord) → State × List LaneReq × Nat
  | [] => (s, [], 0)
  | e :: t =>
    let (s, r, g) := s.storeReq c ctx pol e (data e.1)
    let (s, rs, g') := State.storeReqs s c ctx pol data t
    (s, r :: rs, max g g')

/-- Whether a place lies outside the block or on the host, which makes the block irrevocable when it is stored to
(R364). -/
def outsideStore (blk : Option BlockRef) (p : Place) : Bool :=
  match p with
  | .scratch r _ => decide (blk ≠ some r)
  | .mem .host _ => true
  | _ => false

/-- A located place of the other member asked for, for a core's L1. -/
def State.askPlace (s : State) (a : AgentId) (acc : Access) (ctx : Nat) (e : Nat × Nat × Place × DWord) : State :=
  match e.2.2.1 with
  | .mem h pa => s.askLine a acc ctx e.2.1 e.2.2.2 (lineAt h pa)
  | _ => s

/-- Whether a place lies on a PRIVATE line of the other member that the core's L1 does not hold: it is brought there before the core writes it
(R84, R131). -/
def State.privAway (s : State) (c : CoreRef) (e : Nat × Nat × Place × DWord) : Bool :=
  match e.2.2.1 with
  | .mem h pa => leafCls e.2.2.2 == .priv && s.away c (lineAt h pa)
  | _ => false

/-- A store of a wave at located places. -/
def storeAt (f : Form) (x : MForm) (ex : Word) (data : Nat → List Byte) (a : AgentId) (w : Wave) (sp : Split) (s : State)
    (l : List (Nat × Nat × Place × DWord)) : State :=
  let c := coreOf a
  let away := if x.pol.toNat = 2 then [] else l.filter (s.privAway c)
  if away != [] then (away.foldl (fun (s : State) e => s.askPlace (whoOf a) .store w.ctx e) s).stalled (.wave a w sp) .memory else
  if l.any fun e => s.storeHeld c e.2.2.1 e.2.2.2 then s.stalled (.wave a w sp) .memory else
  let s := if l.any fun e => outsideStore w.block e.2.2.1 then s.irrevocable w.block else s
  let (s, reqs, g) := s.storeReqs c w.ctx x.pol.toNat data l
  s.issueOp a w sp f { newOp s a sp f .store ex with order := ordOf x.ord.toNat, reqs := reqs, gd := g, gp := g }

/-- ST in a wave (R258). -/
def storeWave (f : Form) (x : MForm) (s : State) (a : AgentId) (w : Wave) (sp : Split) : State :=
  let ex := w.exec sp f
  let n := typeBytes x.ml.toNat
  let ff := s.formFile (coreOf a)
  let eas := w.addrs ff f x.space.toNat x.ofs.toInt n (ex &&& ~~~w.helper)
  s.inOrder (.wave a w sp) (ordOf x.ord.toNat) x.scope.toNat fun s =>
    waveAccess f .store x.space.toNat n eas
      (storeAt f x ex (fun l => storeBytes x.ml.toNat (w.operands ff f l).b) a w sp) s a w sp

/-- ST (R258). -/
def execSt (x : MForm) (s : State) : Out :=
  let f := Instr.form (.st x)
  runInstr f { wave := storeWave f x, par := fun s p r => s.blow p r } s

/-- STBLK in a wave (R261): the block of the lowest lane that names each address. -/
def stblkWave (f : Form) (x : MForm) (s : State) (a : AgentId) (w : Wave) (sp : Split) : State :=
  let ex := w.exec sp f
  let ff := s.formFile (coreOf a)
  let all := w.addrs ff f x.space.toNat x.ofs.toInt 64 (ex &&& ~~~w.helper)
  let eas := (dedup (all.map (·.2))).filterMap fun ea => all.find? fun e => e.2 == ea
  let y := Actor.wave a w sp
  s.inOrder y (ordOf x.ord.toNat) x.scope.toNat fun s =>
    waveAccess f .blkStore x.space.toNat 64 all (fun s l =>
      match packBlock fun k => (w.operands ff f k).b0 with
      | none => if ex &&& ~~~w.helper = 0 then s.issueOp a w sp f { newOp s a sp f .store ex with reqs := [] }
          else s.trap y [y.record .format .blkFormat (ex &&& ~~~w.helper) ((eas.head?.map fun e => BitVec.ofNat 64 e.2).getD 0) 0] none
      | some blk => storeAt f x ex (fun _ => blk) a w sp s (l.filter fun e => eas.any fun d => d.1 == e.1)) s a w sp

/-- STBLK (R261). -/
def execStblk (x : MForm) (s : State) : Out :=
  let f := Instr.form (.stblk x)
  runInstr f { wave := stblkWave f x, par := fun s p r => s.blow p r } s

/-! ## Prefetch, cache control, FENCE (R262 to R264) -/

/-- A line asked for by a prefetch: filled when its home is at hand and nothing of the core is under way on it. -/
def State.prefetch (s : State) (c : CoreRef) (ctx pol : Nat) (e : Nat × Nat × Place × DWord) : State :=
  match e.2.2.1 with
  | .mem h pa =>
    let l := lineAt h pa
    if leafCls e.2.2.2 = .object || serverOf h != c.die || s.lineBusy c s.opCtr l then s
    else (s.loadLine c l ctx e.2.1 e.2.2.2 pol).1
  | _ => s

/-- The address of a parison's instruction when it is uniform. -/
def Parison.uniAddr (r : Parison) (ff : List (Nat × Aff)) (f : Form) (ofs : Int) (size : Nat) : Option Nat :=
  match r.operands ff f with
  | some i => if i.uni then some (effAddr 0 i.lane.a ofs size) else none
  | none => none

/-- An instruction that a parison executes itself, held while its counter stands at 63 (R173). -/
def State.parCount (s : State) (p : ParId) (r : Parison) (f : Form) (go : State) : State :=
  match counterOf f.opc with
  | some c => if r.ctr.get c = 63 then s.stalled (.par p r) .count else go
  | none => go

/-- An instruction that acts once for a parison when its address is uniform, and blows it otherwise (R256); its wait for the walker is
counted as it is itself (R24). -/
def uniAccess (f : Form) (acc : Access) (align size : Nat) (ofs : Int)
    (go : State → List (Nat × Nat × Place × DWord) → State) (s : State) (p : ParId) (r : Parison) : State :=
  match r.guard f with
  | none => s.blow p r
  | some false => s.parCount p r f (go s [])
  | some true => match r.uniAddr (s.formFile (parCore p)) f ofs size with
    | none => s.blow p r
    | some ea =>
      let x := Actor.par p r
      s.parCount p r f (match s.locateLanes (.gaffer p) r.ctx (some r.block) acc 0 align [(0, ea)] with
      | .miss l => s.waitWalks x (counterOf f.opc) acc l
      | .bad l => s.faultLanes x l
      | .places l => go s l)

/-- PREF (R262). -/
def execPref (x : MForm) (s : State) : Out :=
  let f := Instr.form (.pref x)
  let n := typeBytes x.ml.toNat
  runInstr f
    { wave := fun s a w sp =>
        let eas := w.addrs (s.formFile (coreOf a)) f 0 x.ofs.toInt n (w.exec sp f &&& ~~~w.helper)
        let y := Actor.wave a w sp
        match y.ordered with
        | some why => s.stalled y why
        | none => match s.locateLanes a w.ctx w.block .pref 0 n eas with
          | .miss l => s.waitWalks y none .pref l
          | .bad l => s.faultLanes y l
          | .places l => (l.foldl (fun (s : State) e => s.prefetch (coreOf a) w.ctx x.pol.toNat e) s).finishWave a (w.release f.lastReads) sp f
      par := fun s p r => uniAccess f .pref n n x.ofs.toInt (fun s l =>
        (l.foldl (fun (s : State) e => s.prefetch (parCore p) r.ctx x.pol.toNat e) s).setPar p (r.issued f)) s p r } s

/-- What CCTL does to one line of a core (R263). -/
def State.cleanLine (s : State) (c : CoreRef) (inv : Bool) (l : LineRef) : State :=
  match s.l1Get c l with
  | none => s
  | some x =>
    if inv then s.l1Drop c l
    else if x.holds then
      let s := s.writeBack c.die x
      let d := s.die c.die
      let f (y : L1Line) : L1Line := { y with dirty := false }
      s.setDie c.die { d with l1 := updFirst (fun y => y.core == c.core && y.line == l) f d.l1 }
    else s

/-- CCTL of some lines, and of every line of the context with .ALL. -/
def State.cctl (s : State) (c : CoreRef) (ctx ml : Nat) (l : List (Nat × Nat × Place × DWord)) : State :=
  let lines := if 2 ≤ ml then ((s.die c.die).l1.filter fun x => x.core == c.core && x.ctx == ctx).map (·.line)
    else l.filterMap fun e => match e.2.2.1 with | .mem h pa => some (lineAt h pa) | _ => none
  (dedup lines).foldl (fun s l => s.cleanLine c (ml % 2 == 1) l) s

/-- CCTL of a parison, counted on its STC: what it writes back is performed at once, and it retires in its turn (R173, R263). -/
def cctlPar (f : Form) (ml : Nat) (on : Bool) (l : List (Nat × Nat × Place × DWord)) (s : State) (p : ParId) (r : Parison) : State :=
  let s := if on then s.cctl (parCore p) r.ctx ml l else s
  let o : Op := { id := s.opCtr, kind := .cctl ml, ctr := some .stc, wofs := r.pos.pc, ord := r.pos.ord, mask := 0xFFFFFFFF }
  { s with opCtr := s.opCtr + 1 }.setPar p { r.issued f with ops := r.ops ++ [o], ctr := r.ctr.up .stc }

/-- CCTL (R263). -/
def execCctl (x : MForm) (s : State) : Out :=
  let f := Instr.form (.cctl x)
  let ml := x.ml.toNat
  runInstr f
    { wave := fun s a w sp =>
        let ex := w.exec sp f
        let eas := if 2 ≤ ml then [] else w.addrs (s.formFile (coreOf a)) f 0 x.ofs.toInt 128 (ex &&& ~~~w.helper)
        s.inOrder (.wave a w sp) .relaxed 0 fun s =>
          waveAccess f .cctl 0 1 eas (fun s l =>
            let s := if ex = 0 then s else s.cctl (coreOf a) w.ctx ml l
            s.issueOp a w sp f (newOp s a sp f (.cctl ml) ex)) s a w sp
      par := fun s p r =>
        if 2 ≤ ml then
          (match r.guard f with
           | none => s.blow p r
           | some g => s.parCount p r f (cctlPar f ml g [] s p r))
        else uniAccess f .cctl 1 128 x.ofs.toInt (fun s l => cctlPar f ml true l s p r) s p r } s

/-- FENCE (R90, R264): it acts on the accesses of the wave, or of the gaffer for the parison. -/
def execFence (x : MForm) (s : State) : Out :=
  let f := Instr.form (.fence x)
  let scope := x.scope.toNat
  runInstr f
    { wave := fun s a w sp =>
        let y := Actor.wave a w sp
        if w.exec sp f = 0 then s.finishWave a w sp f
        else if s.fenceMet y scope then (s.fenceDone y scope).finishWave a w sp f else s.fenceWait y scope
      par := fun s p r =>
        let y := Actor.par p r
        match r.guard f with
        | some false => s.setPar p (r.issued f)
        | _ => if s.fenceMet y scope then (s.fenceDone y scope).setPar p (r.issued f) else s.fenceWait y scope } s

/-! ## Serving accesses (R86, R87) -/

/-- The first request of an operation that is still to be performed in memory. -/
def Op.next (o : Op) : Option (LaneReq × LineRef) :=
  o.reqs.findSome? fun r => if r.done || r.sent then none else r.line?.map fun l => (r, l)

/-- The requests of an operation on a line answered with its bytes, or with the uncorrectable error that they hold (R402). -/
def Op.answer (o : Op) (l : LineRef) (data : List Byte) (flaw : Option Sub := none) : Op :=
  { o with reqs := o.reqs.map fun r => match r.place with
      | .mem h pa => if !r.done && lineAt h pa == l then { r with data := slice data (pa % 128) r.size, done := true, flaw := flaw } else r
      | _ => r }

/-- The lanes of an operation whose data came with an uncorrectable error. -/
def Op.flawed (o : Op) : List (Nat × Nat × Sub × Nat) := o.reqs.filterMap fun r => r.flaw.map fun e => (r.lane, r.va, e, 0)

/-- The cache policy of a load. -/
def Op.pol (o : Op) : Nat :=
  match o.kind with
  | .load p => p
  | _ => nth (o.args.map (·.toNat)) 1 0

/-- Whether an operation is a load. -/
def OpKind.isLoad : OpKind → Bool
  | .load _ | .uld => true
  | _ => false

/-- The error that a line's home meets as it reads it (R51). -/
def State.homeFlaw (s : State) (l : LineRef) : State × Option Sub := s.lineFlaw l (s.tag l).dirty

/-- The error met where a place is read past the core's L1 (R51). -/
def State.readFlaw (s : State) (c : CoreRef) (n : Nat) (p : Place) : State × Option Sub :=
  if s.flaws.isEmpty then (s, none) else
  match p with
  | .mem h pa => s.homeFlaw (lineAt h pa)
  | p => s.placeFlaw c n p

/-- HOME_READ (R86): the home serves the read of the first line an agent's load still waits for, in the order of the
core's accesses to that line; a line homed on the other member is asked for over the blowpipe. -/
def execHomeRead (a : AgentId) (op : Nat) (s : State) : Out :=
  match s.agentOp a op with
  | none => .next s
  | some o => match o.next with
    | none => .next s
    | some (r, l) =>
      let c := coreOf a
      let ctx := s.ctxOf a
      if !o.kind.isLoad || s.lineBusy c o.id l then .next s
      else if serverOf l.home != c.die then
        let s := if o.pol = 2 then (match s.l1Get c l with
          | some x => if x.dirty then s.l1Drop c l else s
          | none => s) else s
        let ask : State := s.request c.die (.read a op l)
          { s.mkMsg c.die tyRdReq ctx (r.va / 128 * 128) with aux0 := BitVec.ofNat 64 o.pol }
        (match s.l1Get c l with
         | some x => if s.l1Live c.die x && o.pol != 2 then .next (s.setAgentOp a (o.answer l x.data)) else .next ask
         | none => .next ask)
      else
        let hit := o.pol != 2 && ((s.l1Get c l).map (s.l1Live c.die)).getD false
        let (s, flaw) := if hit then (s, none) else s.homeFlaw l
        let (s, data) := if o.pol = 2 then s.passLine c l ctx r.va r.leaf else s.loadLine c l ctx r.va r.leaf o.pol
        .next (s.setAgentOp a (o.answer l data flaw))

/-- The pieces an operation still has to write on a line, in lane order (R81). -/
def Op.pieces (o : Op) (l : LineRef) : List (Nat × List Byte) :=
  o.reqs.filterMap fun r => match r.place with
    | .mem h pa => if !r.done && !r.sent && lineAt h pa == l then some (pa, r.data) else none
    | _ => none

/-- The requests of an operation on a line marked. -/
def Op.mark (o : Op) (l : LineRef) (done : Bool) : Op :=
  { o with reqs := o.reqs.map fun r => if r.line? == some l && !r.done then { r with sent := true, done := done } else r }

/-- HOME_WRITE (R87): the home performs the stores of an operation to the first line still to be written; the core's own
copy is updated. A line homed on the other member is written over the blowpipe. -/
def execHomeWrite (a : AgentId) (op : Nat) (s : State) : Out :=
  match s.agentOp a op with
  | none => .next s
  | some o => match o.kind, o.next with
    | .store, some (r, l) =>
      let c := coreOf a
      let ctx := s.ctxOf a
      if s.lineBusy c o.id l then .next s
      else
        let ws := o.pieces l
        let s := ws.foldl (fun s w => s.l1Refresh c l (w.1 % 128) w.2) s
        if serverOf l.home != c.die then
          let (m, bytes) := maskBytes ws
          .next ((s.request c.die (.write a op l) { s.mkMsg c.die tyWrReq ctx (r.va / 128 * 128) with
            aux0 := BitVec.ofNat 64 m, aux1 := BitVec.ofNat 64 (m / 2 ^ 64), payload := bytes }).setAgentOp a (o.mark l false))
        else
          let (s, gd, gp) := s.homeWrite l c.die ctx r.va r.leaf ws
          let o := o.mark l true
          .next (s.setAgentOp a { o with gd := max o.gd gd, gp := max o.gp gp })
    | _, _ => .next s

/-! ## Retirement (R173) -/

/-- Whether every request of an operation has been performed. -/
def Op.allDone (o : Op) : Bool := o.reqs.all (·.done)

/-- The loaded words of each lane that executes a load: of LD by its type, of LDBLK its share of the block (R258,
R260). -/
def Op.loaded (o : Op) : List (Nat × List Word) :=
  let ml := (nth o.args 0 0).toNat
  (lanesOf o.mask).map fun l =>
    match o.reqs.find? fun r => r.lane == l with
    | some r => (l, if ml = 7 then [nth (unpackBlock r.data) l 0] else loadWords ml r.data)
    | none => (l, List.replicate o.vdst.length 0)

/-- The lanes whose block carries a reserved format (R61). -/
def Op.badFmt (o : Op) : List LaneReq :=
  if nth o.args 0 0 = 7 then o.reqs.filter fun r => decide (8 ≤ (nth r.data 0 0).toNat) else []

/-- LOAD_REPLY (R173): the oldest load whose data has come writes its destination and retires; data with an uncorrectable error
raises ECC instead (R402). -/
def execLoadReply (a : AgentId) (op : Nat) (s : State) : Out :=
  match s.agentOp a op with
  | none => .next s
  | some o =>
    if !o.kind.isLoad || !o.allDone || !s.mayRetire a o then .next s else
    if !o.flawed.isEmpty then .next (s.replyFaults a o o.flawed) else
    match a with
    | .gaffer p => match look p s.pars with
      | some r =>
        let ws := match o.reqs with
          | q :: _ => loadWords (nth o.args 0 0).toNat q.data
          | [] => []
        let names := o.sdst.zip ws
        let r := { r with sreg := names.foldl (fun m e => m.set e.1 e.2) r.sreg, wroteS := r.wroteS ++ names.map (·.1) }
        .next ((s.setPar p r).retire a o)
      | none => .next s
    | a => match o.badFmt, s.waveOf a with
      | [], some w =>
        .next ((s.setWave a (w.writeResults (s.formFile (coreOf a)) { o with results := o.loaded } o.vdst 0)).retire a o)
      | b :: t, some _ => .next (s.replyFault a o .blkFormat (maskOf fun l => (b :: t).any fun r => r.lane == l) b.va)
      | _, none => .next s

/-- STORE_ACK (R87): the oldest store that has been performed returns its write completion times and retires. -/
def execStoreAck (a : AgentId) (op : Nat) (s : State) : Out :=
  match s.agentOp a op with
  | none => .next s
  | some o => match o.kind with
    | .store | .cctl _ => if o.allDone && s.mayRetire a o then .next (s.retire a o) else .next s
    | _ => .next s

end Sys2Proof.Machine
end

