-- ==== Sys2Proof/Machine/Clause.lean ====
section
/-! DEFINITION. Fetching instruction words, clause headers and their waits, safe points, and the decisions of the gaffer
(R158, R171 to R174, R190, R337, R358, R359, R363). -/

namespace Sys2Proof.Machine

/-! ## Fetch -/

/-- What fetching a word of code comes to: the word, a walk, a line of the other member to be read in place (R131), or a fault. -/
inductive Fetched
  | word (w : Word)
  | miss (va : Nat)
  | away (leaf : DWord) (va pa : Nat)
  | bad (sub : Sub) (level va : Nat)
  deriving DecidableEq, Repr

/-- Where a firmware core's code stands in its die's DRAM: the firmware reserve (R49, log entry 5). -/
def fwCode (d : Die) (wofs : Nat) : Nat := dramBytes d - reserveBytes + 4 * wofs

/-- A word of memory. -/
def wordAt (m : Memory) (a : Nat) : Word := BitVec.ofNat 32 (natOf (Memory.readN m a 4))

/-- The word at an offset of an actor's code (R197, R313). -/
def State.fetchWord (s : State) (x : Actor) (wofs : Nat) : Fetched :=
  match x with
  | .wave (.firmware d _) _ _ => .word (wordAt (s.mem (homeOf d)) (fwCode d wofs))
  | x =>
    match s.image x.ctx x.image with
    | none => .bad .notPresent 6 0
    | some im =>
      let va := im.va + 128 + 4 * wofs
      match s.translate x.agent x.ctx va .fetch with
      | .hit leaf pa =>
        let l := lineAt (leafHome leaf) pa
        if serverOf l.home = x.core.die then .word (wordAt (s.mem l.home) pa)
        else match s.l1Get x.core l with
          | some y => if s.away x.core l then .away leaf va pa else .word (BitVec.ofNat 32 (natOf (slice y.data (pa % 128) 4)))
          | none => .away leaf va pa
      | .miss => .miss va
      | .fault sub level => .bad sub level va

/-- An actor's fetch of a clause counts as a request for its page at the home (R131, R132); the model holds no code on a core but lines of the
other member, whose reads are counted there. -/
def State.fetched (s : State) (x : Actor) (wofs : Nat) : State :=
  match x with
  | .wave (.firmware _ _) _ _ => s
  | x => match s.image x.ctx x.image with
    | none => s
    | some im =>
      let va := im.va + 128 + 4 * wofs
      match s.tlbFind x.core x.ctx va with
      | some e => if serverOf (leafHome e.leaf) = x.core.die then s.countAccess x.ctx va e.leaf x.core.die else s
      | none => s

/-- A fetch that waits for a walk, or traps. -/
def State.fetchMissed (s : State) (x : Actor) : Fetched → State
  | .word _ => s
  | .miss va => (s.wantWalk (walkReq x.agent x.ctx va .fetch)).stalled x .fetch
  | .away leaf va pa => (s.askLine x.agent .fetch x.ctx va leaf (lineAt (leafHome leaf) pa)).stalled x .fetch
  | .bad sub level va =>
    let m := match x with
      | .wave _ _ sp => sp.act
      | .par _ _ => 0xFFFFFFFF
    s.trap x [x.record sub.cause sub m (BitVec.ofNat 64 va) level] (match x with
      | .wave _ _ _ => none
      | .par _ r => some r.pos)

/-! ## Header waits (R172) -/

/-- Whether a header's counter waits are met. -/
def hdrMet (c : Counters) (h : Word) : Bool :=
  let one (w t : Nat) : Bool := match ctrOf w with
    | some k => decide ((c.get k).toNat ≤ t)
    | none => true
  one (hdrWa h) (hdrTa h) && one (hdrWb h) (hdrTb h)

/-- The breakpoint of a context that an image and ordinal match (R358). -/
def State.breakAt (s : State) (ctx image ord : Nat) : Option Nat :=
  match s.ctx ctx with
  | some c => if c.dbg.enable then (c.dbg.breaks.find? fun b => b.image == image && b.ord == ord).map (·.slot) else none
  | none => none

/-- Whether a wave must stop at its next region entry for a snapshot of its block (R363). -/
def State.snapWaits (s : State) (a : AgentId) (w : Wave) : Bool :=
  match a with
  | .wave id _ => ((w.block.bind s.blockOf).map fun b => b.snapDue.any fun l => l.contains id).getD false
  | _ => false

/-- What a split meets at a header with SP = 1 whose waits are met: it goes on under an ordinal, or is held there. -/
inductive AtEntry
  | on (s : State) (sp : Split)
  | held (s : State)

/-- A split that reaches a safe point: signals still to be performed (R278), a snapshot (R363), a breakpoint (R358), the
end of a lane-focus step (R359), and the trace record (R361). -/
def State.atEntry (s : State) (a : AgentId) (w : Wave) (sp : Split) (h : Word) : AtEntry :=
  match (if hdrSp h then (s.image w.ctx w.image).bind fun im => ordinalAt im sp.pos.hofs else none) with
  | none => .on s sp
  | some o =>
    let sp := { sp with pos := { sp.pos with ord := o } }
    let x := Actor.wave a w sp
    if committed w.ops (slotOf a) then .held (s.stalled x .token)
    else if s.snapWaits a w then .held (s.waits x .snapshot .stopped)
    else match (if sp.passBk then none else s.breakAt w.ctx w.image o) with
      | some k =>
        let x := Actor.wave a w { sp with passBk := true }
        .held (s.trap x [x.record .bkpt .bkptOrdinal sp.act 0 k] none)
      | none =>
        if !sp.stepOff && w.stepLane.any (fun l => sp.act.getLsbD l) then
          .held (s.trap x [x.record .step .none sp.act 0 0] none)
        else
          let s := match a with
            | .wave id _ => s.traceEntry id o sp.act
            | _ => s
          .on s { sp with passBk := false, stepOff := false, freed := [] }

/-- A split's clause entered: its first instruction is next. -/
def Split.enter (sp : Split) (h : Word) : Split :=
  { sp with pos := { sp.pos with inside := true, pc := sp.pos.hofs + 1, hdr := h }, stall := .issued }

/-- The wave of an agent as it now stands; a trace record may have marked it. -/
def State.waveNow (s : State) (a : AgentId) (w : Wave) : Wave := (s.waveOf a).getD w

/-! ## Decisions (R158) -/

/-- The next decision of a wave, if it has been pushed. -/
def Parison.nextFor (r : Parison) (w : Wave) : Option Decision :=
  if w.dcons + r.queue.length < r.pushed then none else r.queue[w.dcons + r.queue.length - r.pushed]?

/-- Queue entries a decision takes. -/
def Decision.entries (d : Decision) : Nat := max 1 ((d.sregs.length + d.forms.length + 6) / 7)

/-- Queue entries a parison's decisions take. -/
def Parison.entries (r : Parison) : Nat := (r.queue.map Decision.entries).sum

/-- Queue entries of a core's pool in use (R33). -/
def State.poolUsed (s : State) (c : CoreRef) : Nat :=
  ((s.pars.filter fun e => decide (parCore e.1 = c)).map fun e => e.2.entries).sum

/-- The decisions every live wave of a parison has consumed are freed. -/
def State.trimQueue (s : State) (p : ParId) : State :=
  match look p s.pars with
  | none => s
  | some r =>
    let low := (s.wavesOf p).foldl (fun m e => min m e.2.dcons) r.pushed
    s.setPar p { r with queue := r.queue.drop (low + r.queue.length - r.pushed) }

/-- The gaffer takes up its work again at the UNI clause a wave has reached, when it has stopped and the queue is
empty. -/
def State.resumeGaffer (s : State) (p : ParId) (wofs : Nat) : State :=
  match look p s.pars with
  | some r =>
    if r.stopped && r.queue.isEmpty && r.due.isNone && !r.pos.inside
    then s.setPar p { r with stopped := false, pos := r.pos.goHeader wofs, stall := .issued } else s
  | none => s

/-- A decision applied to a wave: its uniform registers and rename map, and the clause it goes on at. -/
def Wave.consume (w : Wave) (k : Nat) (sp : Split) (d : Decision) (ops : Nat) : Wave :=
  { w.setSlot k (some { sp with pos := sp.pos.goHeader d.next, stall := .issued }) with
    sreg := d.sregs.foldl (fun m e => m.set e.1 e.2) w.sreg
    vmap := d.forms.foldl (fun m e => m.set e.1 (VBind.form e.2)) w.vmap
    dcons := w.dcons + 1, consumedAt := ops }

/-- Whether a split can reach its next clause header now: its wave runs and it waits for nothing. -/
def canReach (w : Wave) (sp : Split) : Bool :=
  w.status == .running && sp.parked.isNone && !sp.deferred && sp.wait == .none && !sp.pos.inside

/-- DECISION_CONSUME (R158): a split at the header of a UNI clause consumes its wave's next decision, or waits for it. -/
def execDecisionConsume (a : AgentId) (s : State) : Out :=
  match s.actorOf a with
  | some (.wave (.wave id k) w sp) =>
    let x := Actor.wave (.wave id k) w sp
    if !canReach w sp then .next s else
    match s.fetchWord x sp.pos.hofs, w.par with
    | .word h, some p =>
      if !hdrOk h || hdrCls h != 6 then .next s else
      match (look p s.pars).bind fun r => r.nextFor w with
      | none => .next ((s.stalled x .decision).resumeGaffer p sp.pos.hofs)
      | some d =>
        if d.wofs != sp.pos.hofs then .next (s.trap x [x.record .pipeline .decision sp.act 0 0] none) else
        match s.atEntry (.wave id k) w sp h with
        | .held s => .next s
        | .on s sp => .next ((s.setWave (.wave id k) ((s.waveNow (.wave id k) w).consume k sp d s.opCtr)).trimQueue p)
    | f, _ => .next (s.fetchMissed x f)
  | _ => .next s

/-! ## Clause headers -/

/-- A split at a clause header (R172). -/
def State.waveHeader (s : State) (a : AgentId) (w : Wave) (sp : Split) : State :=
  let x := Actor.wave a w sp
  if !canReach w sp then s else
  let past := match a with
    | .combiner _ => match s.image w.ctx w.image with
      | some im => decide (im.codew ≤ sp.pos.hofs)
      | none => true
    | _ => false
  match a, past with
  | .combiner r, true => s.failBatch r .entryAbsent 0xFFFFFFFF
  | a, _ =>
    match s.fetchWord x sp.pos.hofs with
    | .word h =>
      if !hdrOk h then s.raise x .illegal .header
      else if hdrCls h = 6 then
        (match a with
         | .wave _ _ => s.stalled x .decision
         | _ => s.raise x .illegal .wrongClass)
      else if !hdrMet w.ctr h then s.stalled x .count
      else match s.atEntry a w sp h with
        | .held s => s
        | .on s sp => (s.fetched x sp.pos.hofs).setWave a ((s.waveNow a w).setSlot (slotOf a) (some (sp.enter h)))
    | f => s.fetchMissed x f

/-- The opcode of the last instruction of a clause whose words are given (R171). -/
def lastOpc : Nat → List Word → Option Nat
  | 0, _ => none
  | _, [] => none
  | n + 1, w :: t =>
    let rest := if wOf w then t.drop 1 else t
    match rest with
    | [] => some (opcOf w)
    | _ => lastOpc n rest

/-- The words of a clause, or the first fetch that does not answer. -/
def State.clauseWords (s : State) (x : Actor) : Nat → Nat → Except Fetched (List Word)
  | 0, _ => .ok []
  | n + 1, wofs => match s.fetchWord x wofs with
    | .word w => match State.clauseWords s x n (wofs + 1) with
      | .ok l => .ok (w :: l)
      | .error f => .error f
    | f => .error f

/-- The decision of a UNI clause the gaffer of a BLOWN parison has completed is pushed, once the registers the clause
writes have been written and the queue has room (R158). One that is to stop while no wave of it runs any more, which could make room, pushes
it all the same: the record keeps every decision, and the gaffer stands at the next header (R160; DEDUCED, log entry 106). -/
def State.pushDecision (s : State) (p : ParId) (r : Parison) (wofs : Nat) : State :=
  let x := Actor.par p r
  if r.ops.any (fun o => o.kind == .uld && !o.sdst.isEmpty) then s.stalled x .count else
  let d : Decision := { wofs := wofs, outcome := r.outcome, next := r.pos.hofs
                        sregs := (dedup r.wroteS).map fun n => (n, nth r.sreg n 0), forms := [] }
  let stopping := !r.stopWhy.isEmpty && !(s.wavesOf p).any fun e => e.2.status == .running
  if !stopping && (64 < r.entries + d.entries || 4096 < s.poolUsed (parCore p) + d.entries) then s.stalled x .decision else
  s.setPar p { r with queue := r.queue ++ [d], pushed := r.pushed + 1, due := none, wroteS := [], outcome := none
                      stall := .issued }

/-- The stop of a parison at the clause header it stands at (R160, R337, R340); one stopped for the debugger has HALT as its
pending cause (R357). -/
def State.stopPar (s : State) (p : ParId) (r : Parison) : State :=
  let r := { r.dropWalk with status := .stopped, stall := .stopped, wait := .none, ahead := [] }
  if r.stopWhy.contains .halt then
    let c := (Actor.par p r).record .halt .none 0xFFFFFFFF 0 0
    (s.setPar p { r with causes := addCause r.causes c, stopWhy := r.stopWhy.filter fun x => x != .halt }).pushEvent p.die
      (.trapPar p r.ctx (s.queueOfBlock (some r.block)))
  else s.setPar p r

/-- Whether another parison of a core is within a UNI clause it has begun, which the gaffer issues to its end first (R331). -/
def State.uniBegun (s : State) (p : ParId) : Bool :=
  s.pars.any fun e => e.1.die == p.die && e.1.core == p.core && e.1.entry != p.entry && e.2.status == .running && e.2.pos.inside
    && hdrCls e.2.pos.hdr == 6

/-- A parison at a clause header: it stops for what it was asked to stop for, waits on its counters, passes a clause that
its waves execute, or enters the clause. A BLOWN one stops at the header of a UNI clause alone (R160) and matches no breakpoint
(R358). -/
def State.parHeader (s : State) (p : ParId) (r : Parison) : State :=
  let x := Actor.par p r
  if r.status != .running || r.wait != .none || r.pos.inside || r.mode == .waitJoin || r.mode == .ended then s else
  match r.due with
  | some wofs => s.pushDecision p r wofs
  | none =>
    if r.mode == .blown && r.stopped then (if r.stopWhy.isEmpty then s else s.stopPar p r) else
    match s.fetchWord x r.pos.hofs with
    | .word h =>
      if !hdrOk h then s.trap x [x.record .illegal .header 0xFFFFFFFF 0 0] (some r.pos)
      else
        let o := if hdrSp h then (s.image r.ctx r.image).bind fun im => ordinalAt im r.pos.hofs else none
        let r := { r with pos := { r.pos with ord := o.getD r.pos.ord } }
        let x := Actor.par p r
        let uni := hdrCls h == 6
        if !r.stopWhy.isEmpty && (uni || (o.isSome && r.mode == .form)) then s.stopPar p r
        else if r.mode == .blown && !uni then
          (match s.clauseWords x (hdrN h) (r.pos.hofs + 1) with
           | .ok ws =>
             if (lastOpc 16 ws).any controlTransfer then s.setPar p { r with stopped := true, stall := .idle }
             else s.setPar p { r with pos := r.pos.goHeader (r.pos.hofs + 1 + hdrN h), stall := .issued }
           | .error f => s.fetchMissed x f)
        else if !hdrMet r.ctr h then s.stalled x .count
        else if uni && s.uniBegun p then s.stalled x .slot
        else match (if r.passBk || r.mode == .blown then none else o.bind fun o => s.breakAt r.ctx r.image o) with
          | some k =>
            let x := Actor.par p { r with passBk := true }
            s.trap x [x.record .bkpt .bkptOrdinal 0xFFFFFFFF 0 k] (some r.pos)
          | none =>
            let r := if o.isSome then { r with passBk := false } else r
            let r := { r with pos := { r.pos with inside := true, pc := r.pos.hofs + 1, hdr := h }, stall := .issued }
            let r := if uni then { r with wroteS := [], outcome := none } else r
            let c := s.core (parCore p)
            let s := if uni then s.putCore (parCore p) { c with lastPar := p.entry } else s
            (s.fetched x r.pos.hofs).setPar p (if r.mode == .blown then { r with due := some r.pos.hofs } else r)
    | f => s.fetchMissed x f

/-- CLAUSE_HEADER_WAIT_MET (R172): a split or parison at a clause header enters the clause once its waits are met. -/
def execClauseHeaderWaitMet (a : AgentId) (s : State) : Out :=
  match s.actorOf a with
  | some (.wave a w sp) => .next (s.waveHeader a w sp)
  | some (.par p r) => .next (s.parHeader p r)
  | none => .next s

end Sys2Proof.Machine
end

