-- ==== Sys2Proof/Machine/Uniform.lean ====
section
/-! DEFINITION. The uniform instructions of the gaffer: arithmetic, compare, select, branch and load (R292 to R295), and
the catch-up wait (R94, R159). -/

namespace Sys2Proof.Machine

/-- A UNI instruction: the gaffer executes it once for the parison; a range predicate as guard raises GUARD, and a false
guard leaves no effect (R292). Waves never issue one (R174). -/
def runUni (f : Form) (go : State → ParId → Parison → State) (s : State) : Out :=
  runInstr f
    { wave := fun s _ _ _ => s
      par := fun s p r => match r.guard f with
        | none => s.raise (.par p r) .illegal .guard
        | some false => s.setPar p (r.issued f)
        | some true => go s p r } s

/-- The uniform registers a field names. -/
def Parison.sregs (r : Parison) (k : FK) (n : Nat) : List Word := (k.snames n).map fun i => nth r.sreg i 0

/-- A parison with uniform registers written. -/
def Parison.writeS (r : Parison) (ns : List Nat) (ws : List Word) : Parison :=
  let l := ns.zip ws
  { r with sreg := l.foldl (fun m e => m.set e.1 e.2) r.sreg, wroteS := r.wroteS ++ l.map (·.1) }

/-- The words of A, B and C of a UNI instruction; an immediate stands for B. -/
def Parison.usrc (r : Parison) (f : Form) : Word × Word × Word :=
  let u := f.use
  let (_, a, b, c) := f.fields
  let one (k : FK) (n : Nat) : Word := nth (r.sregs k n) 0 0
  (one u.a a, (match f.imm with | some v => v | none => one u.b b), one u.c c)

/-- A UNI instruction that writes one uniform register from its sources (R293). -/
def runUalu (f : Form) (g : Word → Word → Word → Word) (s : State) : Out :=
  runUni f (fun s p r =>
    let (a, b, c) := r.usrc f
    s.setPar p ((r.issued f).writeS [f.fields.1] [g a b c])) s

/-- UMOV (R293). -/
def execUmov (x : GForm) (s : State) : Out := runUalu (Instr.form (.umov x)) (fun a _ _ => a) s

/-- UMOVI (R293). -/
def execUmovi (x : IForm) (s : State) : Out := runUalu (Instr.form (.umovi x)) (fun _ b _ => b) s

/-- The shift of USHR: logical, or arithmetic with .S. -/
def ushrOf (f : Form) (a b : Word) : Word := if f.ml % 2 == 1 then sarOf a b else shrOf a b

/-- UADD (R293). -/
def execUadd (x : GForm) (s : State) : Out := runUalu (Instr.form (.uadd x)) (fun a b _ => a + b) s

/-- UADD_IMM (R180, R293). -/
def execUaddImm (x : IForm) (s : State) : Out := runUalu (Instr.form (.uaddImm x)) (fun a b _ => a + b) s

/-- USUB (R293). -/
def execUsub (x : GForm) (s : State) : Out := runUalu (Instr.form (.usub x)) (fun a b _ => a - b) s

/-- USUB_IMM (R180, R293). -/
def execUsubImm (x : IForm) (s : State) : Out := runUalu (Instr.form (.usubImm x)) (fun a b _ => a - b) s

/-- UMUL (R293). -/
def execUmul (x : GForm) (s : State) : Out := runUalu (Instr.form (.umul x)) (fun a b _ => a * b) s

/-- UMUL_IMM (R180, R293). -/
def execUmulImm (x : IForm) (s : State) : Out := runUalu (Instr.form (.umulImm x)) (fun a b _ => a * b) s

/-- USHL (R293). -/
def execUshl (x : GForm) (s : State) : Out := runUalu (Instr.form (.ushl x)) (fun a b _ => shlOf a b) s

/-- USHL_IMM (R180, R293). -/
def execUshlImm (x : IForm) (s : State) : Out := runUalu (Instr.form (.ushlImm x)) (fun a b _ => shlOf a b) s

/-- USHR (R293). -/
def execUshr (x : GForm) (s : State) : Out := runUalu (Instr.form (.ushr x)) (fun a b _ => ushrOf (Instr.form (.ushr x)) a b) s

/-- USHR_IMM (R180, R293). -/
def execUshrImm (x : IForm) (s : State) : Out := runUalu (Instr.form (.ushrImm x)) (fun a b _ => ushrOf (Instr.form (.ushrImm x)) a b) s

/-- UAND (R293). -/
def execUand (x : GForm) (s : State) : Out := runUalu (Instr.form (.uand x)) (fun a b _ => a &&& b) s

/-- UAND_IMM (R180, R293). -/
def execUandImm (x : IForm) (s : State) : Out := runUalu (Instr.form (.uandImm x)) (fun a b _ => a &&& b) s

/-- UOR (R293). -/
def execUor (x : GForm) (s : State) : Out := runUalu (Instr.form (.uor x)) (fun a b _ => a ||| b) s

/-- UOR_IMM (R180, R293). -/
def execUorImm (x : IForm) (s : State) : Out := runUalu (Instr.form (.uorImm x)) (fun a b _ => a ||| b) s

/-- UXOR (R293). -/
def execUxor (x : GForm) (s : State) : Out := runUalu (Instr.form (.uxor x)) (fun a b _ => a ^^^ b) s

/-- UXOR_IMM (R180, R293). -/
def execUxorImm (x : IForm) (s : State) : Out := runUalu (Instr.form (.uxorImm x)) (fun a b _ => a ^^^ b) s

/-- UMAD (R293). -/
def execUmad (x : GForm) (s : State) : Out := runUalu (Instr.form (.umad x)) (fun a b c => a * b + c) s

/-- A compare of uniform registers into a predicate of the gaffer map (R293). -/
def runUcmp (f : Form) (mh : Nat) (s : State) : Out :=
  runUni f (fun s p r =>
    let (a, b, _) := r.usrc f
    let r1 := r.issued f
    s.setPar p { r1 with pmap := r1.pmap.set f.fields.1 (.uni (icmpOf mh a b)) }) s

/-- UCMP (R293). -/
def execUcmp (x : GForm) (s : State) : Out := runUcmp (Instr.form (.ucmp x)) (gMh x) s

/-- UCMP_IMM (R180, R293). -/
def execUcmpImm (x : IForm) (s : State) : Out := runUcmp (Instr.form (.ucmpImm x)) x.mh.toNat s

/-- USEL (R293). -/
def execUsel (x : GForm) (s : State) : Out :=
  let f := Instr.form (.usel x)
  runUni f (fun s p r =>
    let (a, b, _) := r.usrc f
    match nth r.pmap f.fields.2.2.2 (.uni false) with
    | .uni v => s.setPar p ((r.issued f).writeS [f.fields.1] [if v then a else b])
    | .range _ _ _ => s.raise (.par p r) .illegal .guard) s

/-- UBRA (R294). -/
def execUbra (x : CForm) (s : State) : Out :=
  let f := Instr.form (.ubra x)
  runInstr f
    { wave := fun s _ _ _ => s
      par := fun s p r => match r.guard f with
        | none => s.raise (.par p r) .illegal .divergeU
        | some taken =>
          let r1 := { r.issued f with outcome := some taken }
          s.setPar p (if taken then { r1 with pos := r.pos.jump f (branchTarget r.pos x.ofs) } else r1)
      target := fun _ y => match y with
        | .par _ r => if (r.guard f).isNone then some .divergeU else none
        | .wave _ _ _ => none } s

/-! ## Catch-up (R94, R159) -/

/-- Whether every live wave has consumed every decision pushed, and what each wave of the parison, an ended one too, issued before
consuming the last one has been performed at CORE level; its MDRAINs have retired (R94, R299). -/
def State.caughtUp (s : State) (p : ParId) (r : Parison) : Bool :=
  (s.waves.filter fun e => decide (e.2.par = some p)).all fun e =>
    let consumed := e.2.dcons == r.pushed
    (consumed || e.2.status == .ended) && fenceAcked (e.2.ops.filter fun o => !consumed || decide (o.id < e.2.consumedAt)) 0

/-- An operation of the gaffer issued (R173). -/
def State.issuePar (s : State) (p : ParId) (r : Parison) (f : Form) (o : Op) : State :=
  let r1 := r.issued f
  { s with opCtr := s.opCtr + 1 }.setPar p
    { r1 with ops := r1.ops ++ [o], ctr := match o.ctr with | some k => r1.ctr.up k | none => r1.ctr }

/-- The new operation of a parison. -/
def newParOp (s : State) (r : Parison) (f : Form) (k : OpKind) : Op :=
  { id := s.opCtr, kind := k, ctr := counterOf f.opc, wofs := r.pos.pc, ord := r.pos.ord, mask := 1 }

/-- A UNI instruction that may be counted: one whose guard is false counts and retires in its turn (R173, R292). -/
def runUniOp (f : Form) (k : OpKind) (go : State → ParId → Parison → State) (s : State) : Out :=
  runInstr f
    { wave := fun s _ _ _ => s
      par := fun s p r => match r.guard f with
        | none => s.raise (.par p r) .illegal .guard
        | some true => go s p r
        | some false => s.issuePar p r f { newParOp s r f k with mask := 0, ready := true } } s

/-- ULD (R295): a load of the parison, its address in uniform registers. -/
def execUld (x : MForm) (s : State) : Out :=
  let f := Instr.form (.uld x)
  let n := typeBytes x.ml.toNat
  let space := x.space.toNat
  runUniOp f .uld (fun s p r =>
    let y := Actor.par p r
    if x.b.getLsbD 0 && !s.caughtUp p r then s.stalled y .catchup else
    match y.ordered with
    | some why => s.stalled y why
    | none =>
      let ea := effAddr space (r.sregs f.use.a f.fields.2.1) x.ofs.toInt n
      match s.locateLanes (.gaffer p) r.ctx (some r.block) .load space n [(0, ea)] with
      | .miss l => s.waitWalks y (some .ldc) .load l
      | .bad l => s.faultLanes y l
      | .places l => s.issuePar p r f { newParOp s r f .uld with
          sdst := f.swrites, order := ordOf x.ord.toNat, args := [x.ml.setWidth 32, x.pol.setWidth 32]
          reqs := l.map (s.loadReq (parCore p) x.pol.toNat n) }) s

end Sys2Proof.Machine
end

