-- ==== Sys2Proof/Machine/Barrier.lean ====
section
/-! DEFINITION. Barrier objects: arrivals, completion of a phase, and the instructions BARA, BARW and BARS (R93, R271 to
R276, R363). -/

namespace Sys2Proof.Machine

/-! ## Objects (R271) -/

/-- A barrier object's 16 bytes. -/
structure BarObj where
  result : Word
  payload : Word
  rsv : Nat
  op : Nat
  phase : Nat
  expected : Nat
  arrived : Nat
  deriving DecidableEq, Repr

/-- The object at an offset of a block's scratchpad. -/
def State.barObj (s : State) (r : BlockRef) (ofs : Nat) : BarObj :=
  let b := s.scratchRead r ofs 16
  let lo := fieldOf b 0 8
  { arrived := lo % 2 ^ 16, expected := lo / 2 ^ 16 % 2 ^ 16, phase := lo / 2 ^ 32 % 256, op := lo / 2 ^ 40 % 4
    rsv := lo / 2 ^ 42, payload := BitVec.ofNat 32 (fieldOf b 8 4), result := BitVec.ofNat 32 (fieldOf b 12 4) }

/-- The bytes of an object. -/
def BarObj.bytes (o : BarObj) : List Byte :=
  bytesOf 8 (o.arrived + o.expected * 2 ^ 16 + o.phase * 2 ^ 32 + o.op * 2 ^ 40 + o.rsv * 2 ^ 42)
    ++ bytesOf 4 o.payload.toNat ++ bytesOf 4 o.result.toNat

/-- The identity of a payload operation. -/
def barIdentity (op : Nat) : Word := if op = 0 then 0xFFFFFFFF else 0

/-- Two payloads combined. -/
def barCombine (op : Nat) (a b : Word) : Word :=
  match op with
  | 0 => a &&& b
  | 1 => a ||| b
  | _ => a + b

/-- A lane's contribution. -/
def barGive (op : Nat) (b : Word) : Word := if op = 3 then (if b = 0 then 0 else 1) else b

/-- The items of a block that have not exited or been killed, helper lanes excluded (R272). -/
def State.liveItems (s : State) (r : BlockRef) : Nat :=
  ((s.pars.filter fun e => decide (e.2.block = r) && (e.2.mode == .form || e.2.mode == .waitJoin)).map
      fun e => e.2.box.count).sum
    + ((s.waves.filter fun e => decide (e.2.block = some r)).map fun e => popcount (e.2.alive &&& ~~~e.2.helper)).sum

/-- The effective expected count. -/
def State.barExpected (s : State) (r : BlockRef) (o : BarObj) : Nat := if o.expected = 0 then s.liveItems r else o.expected

/-! ## Release of waiters -/

/-- Whether an operation waits at an object for a phase. -/
def Op.waitsAt (o : Op) (r : BlockRef) (ofs phase : Nat) : Bool :=
  match o.kind with
  | .barrier r' ofs' ph _ => decide (r' = r) && ofs' == ofs && ph == phase
  | _ => false

/-- A split that has waited within an instruction of `len` words, past it; a stopped wave's goes to a safe point. -/
def Split.past (sp : Split) (len : Nat) (w : Wave) (im : Option Image) : Split :=
  let sp := { sp with pos := sp.pos.advance len, ahead := tickLook sp.ahead, wait := .none, stall := .issued }
  if w.status = .running then sp else placeSplit im sp

/-- The operation of a wave that waited within an instruction is done: D and a STALE predicate are written, and its
split goes on. The operation's arguments are the instruction's words and, one above it, the STALE predicate. -/
def State.waited (s : State) (a : AgentId) (o : Op) (vs : Nat → List Word) : State :=
  match a with
  | .gaffer _ => s
  | a => match s.waveOf a with
    | none => s
    | some w =>
      let ff := s.formFile (coreOf a)
      let out := perLane fun l => ({ words := vs l } : LaneOut)
      let w := w.writeDst ff o.mask out o.vdst 0
      let w := match (nth o.args 1 0).toNat with
        | 0 => w
        | n + 1 => w.writePred n o.mask fun _ => false
      let w := { w with ops := delOp w.ops o.id }
      let im := s.image w.ctx w.image
      s.setWave a { w with slots := w.slots.set o.slot ((nth w.slots o.slot none).map fun sp =>
        sp.past (nth o.args 0 0).toNat w im) }

/-- Forms put into given slots for the names of a destination. -/
def State.bindAt (s : State) (c : CoreRef) (p : ParId) : List (Nat × Nat × Aff) → State
  | [] => s
  | (n, k, x) :: t =>
    let s := { s with forms := put c (put k x (s.formFile c)) s.forms }
    let s := match look p s.pars with
      | some r => s.setPar p { r with nmap := r.nmap.set n (some k) }
      | none => s
    State.bindAt s c p t

/-- Forms put into free slots for the names of a destination, when there are enough. -/
def State.bindFree (s : State) (c : CoreRef) (p : ParId) (l : List (Nat × Aff)) : State :=
  match s.freeSlots c l.length with
  | some ks => s.bindAt c p ((l.zip ks).map fun e => (e.1.1, e.2, e.1.2))
  | none => s

/-- The operation of a parison that waited within an instruction is done: D becomes uniform forms, in the slots kept for them, and it
goes on. -/
def State.waitedPar (s : State) (p : ParId) (o : Op) (ws : List Word) : State :=
  let s := s.bindAt (parCore p) p (o.vdst.zip (o.kept.zip (ws.map Aff.ofWord)))
  match look p s.pars with
  | none => s
  | some r =>
    let r := { r with ops := delOp r.ops o.id, pos := r.pos.advance (nth o.args 0 0).toNat, wait := .none
                      ahead := tickLook r.ahead, stall := if r.status = .running then .issued else r.stall }
    s.setPar p (match (nth o.args 1 0).toNat with
      | 0 => r
      | n + 1 => { r with pmap := r.pmap.set n (.uni false) })

/-- Every BARW and BARS that waits for a phase released with its RESULT (R272). -/
def State.releaseBar (s : State) (r : BlockRef) (ofs phase : Nat) (res : Word) : State :=
  let s := s.waves.foldl (fun (s : State) e =>
    (e.2.ops.filter fun o => o.waitsAt r ofs phase).foldl (fun (s : State) o => s.waited (.wave e.1 o.slot) o fun _ => [res]) s) s
  s.pars.foldl (fun (s : State) e =>
    (e.2.ops.filter fun o => o.waitsAt r ofs phase).foldl (fun (s : State) o => s.waitedPar e.1 o [res]) s) s

/-! ## Arrival and completion (R272, R274) -/

/-- The forms a parison's names hold, by slot. -/
def State.parForms (s : State) (p : ParId) (r : Parison) : List (Nat × Aff) :=
  (dedup (r.nmap.filterMap id)).filterMap fun k => (look k (s.formFile (parCore p))).map fun x => (k, x)

/-- What .RB asks for when a phase completes (R363): if every live wave and form-mode parison of the block arrived with
.RB, a snapshot is due at the next region entry of each wave. -/
def State.snapAsked (s : State) (r : BlockRef) (t : BarTrack) : State :=
  match s.blockOf r with
  | none => s
  | some b =>
    let ws := (s.waves.filter fun e => decide (e.2.block = some r) && e.2.status != .ended).map (·.1)
    let ps := s.pars.filter fun e => decide (e.2.block = r) && (e.2.mode == .form || e.2.mode == .waitJoin)
    let arrived (a : AgentId) : Bool := t.arrivals.contains (a, true)
    if t.arrivals.any (·.2) && ws.all (fun w => arrived (.wave w 0)) && ps.all (fun e => arrived (.gaffer e.1)) then
      let caps := ps.map fun e => match t.caps.find? fun c => decide (c.1 = e.1) with
        | some c => c
        | none => (e.1, e.2, s.parForms e.1 e.2)
      s.putBlock r { b with snapDue := some ws, snapPars := caps }
    else s

/-- The completion of a phase, in one action (R272). -/
def State.completeBar (s : State) (r : BlockRef) (ofs : Nat) : State :=
  let o := s.barObj r ofs
  let t := ((s.blockOf r).bind fun b => b.bars.find? fun t => t.ofs == ofs).getD { ofs := ofs, live := false }
  let s := s.scratchWrite r ofs { o with result := o.payload, payload := barIdentity o.op, arrived := 0, phase := (o.phase + 1) % 256 : BarObj }.bytes
  let s := match s.blockOf r with
    | some b => s.putBlock r { b with bars := b.bars.filter fun t => t.ofs != ofs }
    | none => s
  (s.releaseBar r ofs o.phase o.payload).snapAsked r t

/-- An arrival recorded in a block's list of objects under way. -/
def noteArrival (bars : List BarTrack) (ofs : Nat) (live : Bool) (items : Nat) (who : AgentId) (rb : Bool)
    (cap : Option (ParId × Parison × List (Nat × Aff))) : List BarTrack :=
  let add (t : BarTrack) : BarTrack :=
    { t with live := live, items := items, arrivals := (who, rb) :: t.arrivals, caps := cap.toList ++ t.caps }
  if bars.any (fun t => t.ofs == ofs) then updFirst (fun t => t.ofs == ofs) add bars else bars ++ [add { ofs := ofs, live := live }]

/-- arrive() of R274: the state after it and the token, or BAR_LIMIT. -/
def State.arriveBar (s : State) (r : BlockRef) (ofs : Nat) (who : AgentId) (rb : Bool) (n : Nat) (v : Word)
    (cap : Option (ParId × Parison × List (Nat × Aff))) : Except Sub (State × Nat) :=
  let o := s.barObj r ofs
  if n = 0 then .ok (s, o.phase) else
  let e := s.barExpected r o
  let arrived := min (o.arrived + n) 0xFFFF
  let full := e == 0 || decide (e ≤ arrived)
  let bars := ((s.blockOf r).map (·.bars)).getD []
  let tracked := bars.filter fun t => t.ofs != ofs && (t.live || (s.barObj r t.ofs).expected == 0)
  if !full && o.expected == 0 && !(bars.any fun t => t.ofs == ofs && t.live) && decide (16 ≤ tracked.length) then .error .barLimit
  else
    let s := s.scratchWrite r ofs { o with payload := barCombine o.op o.payload v, arrived := arrived : BarObj }.bytes
    let s := match s.blockOf r with
      | some b => s.putBlock r { b with bars := noteArrival b.bars ofs (o.expected == 0) (s.liveItems r) who rb cap }
      | none => s
    .ok (if full then s.completeBar r ofs else s, o.phase)

/-- A tracked object tested again, once for each change of its block's live items: EXPECTED as a plain store may have left it counts
only now (R271). -/
def State.retestBar (s : State) (r : BlockRef) (t : BarTrack) : State :=
  let k := s.liveItems r
  if k = t.items then s else
  let o := s.barObj r t.ofs
  let n := s.barExpected r o
  if 0 < n && n ≤ o.arrived then s.completeBar r t.ofs
  else s.onBlock r fun b => { b with bars := updFirst (fun u => u.ofs == t.ofs) (fun u => { u with items := k }) b.bars }

/-- The objects of every block that count live items, by the arrival that was tracked or by what their EXPECTED now is, tested again
after exits (R272). -/
def State.retestBars (s : State) : State :=
  s.blocks.foldl (fun (s : State) e => (e.2.bars.filter fun t => t.live || (s.barObj e.1 t.ofs).expected == 0).foldl (fun (s : State) t => s.retestBar e.1 t) s) s

/-! ## The instructions (R273 to R276) -/

/-- The scope of a barrier's release and acquire: CORE, or COHORT for another core's object (R93). -/
def barScope (coh : Bool) (addr : Word) : Nat := if coh && (addr.toNat / 2 ^ 24 != 0) then 1 else 0

/-- A block's object of an arrival that is another block's makes it irrevocable (R364). -/
def State.barOutside (s : State) (b : Option BlockRef) (r : BlockRef) : State :=
  if b = some r then s else s.irrevocable b

/-- The lanes of an instruction for which it raises faults: helper lanes raise none (R32, R169). -/
def Actor.raisers (x : Actor) (ex : Word) : Word :=
  match x with
  | .wave _ w _ => ex &&& ~~~w.helper
  | .par _ _ => ex

/-- The object a barrier instruction names, once its release is met and its address checked; a fault is raised by every lane that
executes it, helper lanes apart (R169, R341), and with nothing but helper lanes the instruction passes. -/
def barAt (x : Actor) (coh rel : Bool) (ex : Word) (addr : Word) (pass : State → State) (go : State → BlockRef → Nat → State)
    (s : State) : State :=
  let m := x.raisers ex
  let run (s : State) : State :=
    match s.locateLanes x.agent x.ctx x.block .load (if coh then 2 else 1) 16 [(0, addr.toNat)] with
    | .places [(_, _, .scratch r ofs, _)] =>
      match s.placeFlaw x.core 16 (.scratch r ofs) with
      | (s, some sub) => s.trap x [x.record .ecc sub ex (addr.setWidth 64) 0] none
      | (s, none) =>
      if (s.barObj r ofs).rsv != 0 then s.trap x [x.record .format .barFormat ex (addr.setWidth 64) 0] none
      else go s r ofs
    | .bad e => if m = 0 then pass s else s.trap x ((faultRecs x e).map fun (k : CauseRec) => { k with mask := m }) none
    | _ => s
  s.inOrder x (if rel then .release else .relaxed) (barScope coh addr) run

/-- A wave's BARA. -/
def baraWave (f : Form) (s : State) (a : AgentId) (w : Wave) (sp : Split) : State :=
  let ex := w.exec sp f
  let ff := s.formFile (coreOf a)
  let x := Actor.wave a w sp
  match lowest ex with
  | none => s.finishWave a (w.release f.lastReads) sp f
  | some l0 =>
    barAt x (f.ml % 2 == 1) true ex (w.operands ff f l0).a0 (fun s => s.finishWave a ((s.waveNow a w).release f.lastReads) sp f) (fun s r ofs =>
      let c := ex &&& ~~~w.helper
      let op := (s.barObj r ofs).op
      let v := (lanesOf c).foldl (fun m l => barCombine op m (barGive op (w.operands ff f l).b0)) (barIdentity op)
      match s.arriveBar r ofs (whoOf a) (f.ml / 2 % 2 == 1) (popcount c) v none with
      | .error sub => s.trap x [x.record .format sub ex ((w.operands ff f l0).a0.setWidth 64) 0] none
      | .ok (s, tok) =>
        let w := (s.waveNow a w).release f.lastReads
        (s.barOutside w.block r).finishWave a (w.writeDst ff ex (perLane fun _ => { words := [BitVec.ofNat 32 tok] }) f.vwrites 0) sp f) s

/-- A split made to wait at an object for a phase. -/
def State.waitBar (s : State) (a : AgentId) (w : Wave) (sp : Split) (f : Form) (ex : Word) (r : BlockRef)
    (ofs phase stale : Nat) (own : Bool) : State :=
  let o := { newOp s a sp f (.barrier r ofs phase own) ex with ctr := none, args := [BitVec.ofNat 32 f.len, BitVec.ofNat 32 stale] }
  ({ s with opCtr := s.opCtr + 1 }).setWave a
    ({ w.release f.lastReads with ops := w.ops ++ [o] }.setSlot (slotOf a)
      (some { sp with wait := .barrier, stall := .barrier, freed := sp.freed ++ s.freedBy a f }))

/-- A wave's BARW with a token (R275). -/
def barwWave (f : Form) (stale : Nat) (s : State) (a : AgentId) (w : Wave) (sp : Split) : State :=
  let ex := w.exec sp f
  let ff := s.formFile (coreOf a)
  let x := Actor.wave a w sp
  match lowest ex with
  | none => s.finishWave a (w.release f.lastReads) sp f
  | some l0 =>
    barAt x (f.ml % 2 == 1) false ex (w.operands ff f l0).a0 (fun s => s.finishWave a ((s.waveNow a w).release f.lastReads) sp f) (fun s r ofs =>
      let o := s.barObj r ofs
      let t := Word.bits (w.operands ff f l0).b0 7 0
      if t = o.phase then s.waitBar a w sp f ex r ofs t stale false else
      let now := (o.phase + 256 - t) % 256 == 1
      let w := (w.release f.lastReads).writeDst ff ex (perLane fun _ => { words := [if now then o.result else 0] }) f.vwrites 0
      let w := match stale with
        | 0 => w
        | n + 1 => w.writePred n ex fun _ => !now
      s.finishWave a w sp f) s

/-- A wave's BARS: arrive, then wait for the phase unless the arrival completed it. -/
def barsWave (f : Form) (s : State) (a : AgentId) (w : Wave) (sp : Split) : State :=
  let ex := w.exec sp f
  let ff := s.formFile (coreOf a)
  let x := Actor.wave a w sp
  match lowest ex with
  | none => s.finishWave a (w.release f.lastReads) sp f
  | some l0 =>
    barAt x (f.ml % 2 == 1) true ex (w.operands ff f l0).a0 (fun s => s.finishWave a ((s.waveNow a w).release f.lastReads) sp f) (fun s r ofs =>
      let c := ex &&& ~~~w.helper
      let op := (s.barObj r ofs).op
      let v := (lanesOf c).foldl (fun m l => barCombine op m (barGive op (w.operands ff f l).b0)) (barIdentity op)
      match s.arriveBar r ofs (whoOf a) (f.ml / 2 % 2 == 1) (popcount c) v none with
      | .error sub => s.trap x [x.record .format sub ex ((w.operands ff f l0).a0.setWidth 64) 0] none
      | .ok (s, tok) =>
        let s := s.barOutside w.block r
        let w := s.waveNow a w
        let o := s.barObj r ofs
        if o.phase = tok then s.waitBar a w sp f ex r ofs tok 0 true
        else s.finishWave a ((w.release f.lastReads).writeDst ff ex (perLane fun _ => { words := [o.result] }) f.vwrites 0) sp f) s

/-- The sum of a form over a box, wrapped (R274). -/
def Box.sumOf (b : Box) (x : Aff) : Word :=
  b.items.foldl (fun m i => m + x.at (BitVec.ofNat 32 i.1) (BitVec.ofNat 32 i.2.1) (BitVec.ofNat 32 i.2.2)) 0

/-- A form-mode arrival's contribution in closed form; none when the parison blows (R274). -/
def formGive (op : Nat) (b : Box) (x : Aff) : Option Word :=
  if op = 2 then some (b.sumOf x)
  else if !x.uni then none
  else if op = 3 then some (if x.base = 0 then 0 else BitVec.ofNat 32 b.count) else some x.base

/-- A barrier instruction in form mode: its address must be uniform and its guard no range predicate, and a form slot
must be free for D. -/
def barPar (f : Form) (rel : Bool) (go : State → ParId → Parison → FormIn → BlockRef → Nat → State) (s : State) (p : ParId)
    (r : Parison) : State :=
  match r.guard f with
  | none => s.blow p r
  | some false => s.passPar p r f
  | some true => match r.operands (s.formFile (parCore p)) f with
    | none => s.blow p r
    | some i =>
      if !(i.a.all Aff.uni) || (s.freeSlots (parCore p) f.vwrites.length).isNone then s.blow p r else
      barAt (.par p r) (f.ml % 2 == 1) rel 0xFFFFFFFF i.lane.a0 id (fun s b ofs => go s p r i b ofs) s

/-- A parison goes on after a barrier instruction with D a uniform form. -/
def State.barDone (s : State) (p : ParId) (f : Form) (v : Word) (stale : Option (Nat × Bool)) : State :=
  match look p s.pars with
  | none => s
  | some r =>
    let r := r.issued f
    let r := match stale with
      | some (n, b) => { r with pmap := r.pmap.set n (.uni b) }
      | none => r
    (s.setPar p r).bindFree (parCore p) p (f.vwrites.map fun n => (n, Aff.ofWord v))

/-- A parison made to wait at an object for a phase. -/
def State.waitBarPar (s : State) (p : ParId) (f : Form) (b : BlockRef) (ofs phase stale : Nat) (own : Bool) : State :=
  match look p s.pars with
  | none => s
  | some r =>
    let o := { newParOp s r f (.barrier b ofs phase own) with ctr := none, vdst := f.vwrites
                                                              kept := (s.freeSlots (parCore p) f.vwrites.length).getD []
                                                              args := [BitVec.ofNat 32 f.len, BitVec.ofNat 32 stale] }
    (({ s with opCtr := s.opCtr + 1 }).setPar p { r with ops := r.ops ++ [o], wait := .barrier, stall := .barrier }).freeSiblings p

/-- The arrival of a parison in form mode. -/
def State.arrivePar (s : State) (p : ParId) (r : Parison) (f : Form) (i : FormIn) (b : BlockRef) (ofs : Nat)
    (go : State → Nat → State) (cap : Option (ParId × Parison × List (Nat × Aff))) : State :=
  match formGive (s.barObj b ofs).op r.box (aff0 i.b) with
  | none => s.blow p r
  | some v =>
    match s.arriveBar b ofs (.gaffer p) (f.ml / 2 % 2 == 1) r.box.count v cap with
    | .error sub => s.trap (.par p r) [(Actor.par p r).record .format sub 0xFFFFFFFF (i.lane.a0.setWidth 64) 0] (some r.pos)
    | .ok (s, tok) => go (s.barOutside (some r.block) b) tok

/-- A parison of a block as it now stands put into the capture that its own arrival has begun: a BARS that completes its phase has arrived
and holds its result (R363). -/
def State.recapture (s : State) (p : ParId) (b : BlockRef) : State :=
  match look p s.pars, s.blockOf b with
  | some r, some x =>
    if x.snapDue.isNone || r.block != b then s else
    s.putBlock b { x with snapPars := x.snapPars.map fun e => if e.1 = p then (p, r, s.parForms p r) else e }
  | _, _ => s

/-- A parison as a BARA leaves it: past the instruction, the token in D (R363). -/
def State.capturedAt (s : State) (p : ParId) (f : Form) (tok : Nat) : Option (ParId × Parison × List (Nat × Aff)) :=
  let s := s.barDone p f (BitVec.ofNat 32 tok) none
  (look p s.pars).map fun r => (p, r, s.parForms p r)

/-- BARA (R274). -/
def execBara (x : GForm) (s : State) : Out :=
  let f := Instr.form (.bara x)
  runInstr f
    { wave := baraWave f
      par := barPar f true fun s p r i b ofs =>
        s.arrivePar p r f i b ofs (fun s tok => s.barDone p f (BitVec.ofNat 32 tok) none) (s.capturedAt p f (s.barObj b ofs).phase) } s

/-- The STALE predicate of BARW, one above it; 0 when it is off (R273). -/
def staleOf (x : GForm) : Nat := if gMh x / 32 % 2 == 1 then gMh x % 32 + 1 else 0

/-- BARW (R275). -/
def execBarw (x : GForm) (s : State) : Out :=
  let f := Instr.form (.barw x)
  let st := staleOf x
  runInstr f
    { wave := barwWave f st
      par := barPar f false fun s p r i b ofs =>
        if !(i.b.all Aff.uni) then s.blow p r else
        let o := s.barObj b ofs
        let t := Word.bits i.lane.b0 7 0
        if t = o.phase then s.waitBarPar p f b ofs t st false else
        let now := (o.phase + 256 - t) % 256 == 1
        s.barDone p f (if now then o.result else 0) (if st = 0 then none else some (st - 1, !now)) } s

/-- BARS (R275). -/
def execBars (x : GForm) (s : State) : Out :=
  let f := Instr.form (.bars x)
  runInstr f
    { wave := barsWave f
      par := barPar f true fun s p r i b ofs =>
        s.arrivePar p r f i b ofs (fun s tok =>
          let o := s.barObj b ofs
          if o.phase = tok then s.waitBarPar p f b ofs tok 0 true else (s.barDone p f o.result none).recapture p b) none } s

end Sys2Proof.Machine
end

