-- ==== Sys2Proof/Machine/Crucible.lean ====
section
/-! DEFINITION. Atomics, reductions and object calls, the crucible that performs them, and the combiner wave's own
instructions (R102 to R126, R265 to R270). -/

namespace Sys2Proof.Machine

/-! ## Built-in methods (R113) -/

/-- The new value a built-in method writes. -/
def methodNew (m : Nat) (w64 : Bool) (old a b : Nat) : Nat :=
  let n := if w64 then 64 else 32
  let sg (x : Nat) : Int := intOfBits n false x
  match m with
  | 0x0 => (old + a) % 2 ^ n
  | 0x1 => (addRn (BitVec.ofNat 32 old) (BitVec.ofNat 32 a)).toNat
  | 0x2 => if sg a < sg old then a else old
  | 0x3 => min old a
  | 0x4 => if sg old < sg a then a else old
  | 0x5 => max old a
  | 0x6 => old &&& a
  | 0x7 => old ||| a
  | 0x8 => old ^^^ a
  | 0x9 => a
  | 0xA => if old = b then a else old
  | 0xB => if a ≤ old then 0 else old + 1
  | _ => if old = 0 || a < old then a else old - 1

/-- The operands a and b that a request's argument words give: one or two words each (R265). For a CAS of a built-in entry b is argument
word 1 as it was sent, in a slot with AWIDTH 1 too, where R115 and R268 do not agree (DESIGN CHOICE, log entry 112). -/
def methodArgs (w64 : Bool) (args : List Word) : Nat × Nat :=
  if w64 then (natOf (bytesOfWords (args.take 2)), natOf (bytesOfWords ((args.drop 2).take 2)))
  else ((nth args 0 0).toNat, (nth args 1 0).toNat)

/-- A built-in method applied to bytes: the new bytes and the old value as reply words. -/
def methodBytes (m : Nat) (w64 : Bool) (args : List Word) (bs : List Byte) : List Byte × List Word :=
  let (a, b) := methodArgs w64 args
  (bytesOf (if w64 then 8 else 4) (methodNew m w64 (natOf bs) a b), wordsOf bs)

/-! ## Issue (R265 to R268) -/

/-- An atomic of one lane performed at once: in core store, on a PRIVATE line, or in an owning L1 (R106, R107, R266). -/
def State.atomicReq (s : State) (c : CoreRef) (ctx m : Nat) (w64 : Bool) (r : LaneReq) : State × LaneReq × Nat :=
  let n := if w64 then 8 else 4
  match r.place with
  | .scratch ref ofs =>
    let (new, old) := methodBytes m w64 r.arg (s.scratchRead ref ofs n)
    (s.scratchWrite ref ofs new, { r with reply := old, done := true }, 0)
  | .weight _ _ => (s, r, 0)
  | .mem h pa =>
    let l := lineAt h pa
    let inL1 (s : State) (data : List Byte) (g : Nat) : State × LaneReq × Nat :=
      let (new, old) := methodBytes m w64 r.arg (slice data (pa % 128) n)
      (s.l1Write c l (pa % 128) new, { r with reply := old, done := true }, g)
    if leafCls r.leaf = .priv then
      let (s, data) := s.loadLine c l ctx r.va r.leaf
      inL1 s data 0
    else match s.l1Get c l with
      | some y => if y.owned then inL1 s y.data (s.now c.die) else (s, r, 0)
      | none => (s, r, 0)

/-- The lanes of an atomic, in ascending order, each reading what the one before left (R106). -/
def State.atomicReqs (s : State) (c : CoreRef) (ctx m : Nat) (w64 : Bool) : List LaneReq → State × List LaneReq × Nat
  | [] => (s, [], 0)
  | r :: t =>
    let (s, r, g) := s.atomicReq c ctx m w64 r
    let (s, rs, g') := State.atomicReqs s c ctx m w64 t
    (s, r :: rs, max g g')

/-- ATOM and RED in a wave (R266). -/
def atomWave (f : Form) (x : VForm) (red : Bool) (s : State) (a : AgentId) (w : Wave) (sp : Split) : State :=
  let ex := w.exec sp f
  let w64 := x.ml.getLsbD 0
  let n := if w64 then 8 else 4
  let ff := s.formFile (coreOf a)
  let c := coreOf a
  let eas := w.addrs ff f x.space.toNat x.ofs.toInt n (ex &&& ~~~w.helper)
  let y := Actor.wave a w sp
  s.inOrder y (ordOf x.ord.toNat) x.scope.toNat fun s =>
    waveAccess f .atomic x.space.toNat n eas (fun s l =>
      let away := l.filter (s.privAway c)
      if away != [] then (away.foldl (fun (s : State) e => s.askPlace (whoOf a) .atomic w.ctx e) s).stalled y .memory else
      if l.any fun e => s.storeHeld c e.2.2.1 e.2.2.2 then s.stalled y .memory else
      let s := if l.isEmpty then s else s.irrevocable w.block
      let reqs := l.map fun e => ({ lane := e.1, va := e.2.1, place := e.2.2.1, leaf := e.2.2.2, size := n,
                                    arg := (w.operands ff f e.1).b } : LaneReq)
      let (s, reqs, g) := s.atomicReqs c w.ctx x.method.toNat w64 reqs
      s.issueOp a w sp f { newOp s a sp f (.atomic x.method.toNat w64 red) ex with
        order := ordOf x.ord.toNat, reqs := reqs, gd := g, gp := g }) s a w sp

/-- ATOM (R266). -/
def execAtom (x : VForm) (s : State) : Out :=
  let f := Instr.form (.atom x)
  runInstr f { wave := atomWave f x false, par := fun s p r => s.blow p r } s

/-- RED (R266). -/
def execRed (x : VForm) (s : State) : Out :=
  let f := Instr.form (.red x)
  runInstr f { wave := atomWave f x true, par := fun s p r => s.blow p r } s

/-- OCALL in a wave (R268). -/
def ocallWave (f : Form) (x : VForm) (s : State) (a : AgentId) (w : Wave) (sp : Split) : State :=
  let ex := w.exec sp f
  let ff := s.formFile (coreOf a)
  let y := Actor.wave a w sp
  let eas := w.addrs ff f 0 0 1 (ex &&& ~~~w.helper)
  let bad := eas.filter fun e => e.2 % 512 != 0
  match bad with
  | e :: _ => s.trap y [y.record .object .objAlign (maskOf fun l => bad.any fun b => b.1 == l) (BitVec.ofNat 64 e.2) 0] none
  | [] =>
    s.inOrder y .relaxed 0 fun s =>
      waveAccess f .ocall 0 512 eas (fun s l =>
        let s := if l.isEmpty then s else s.irrevocable w.block
        let reqs := l.map fun e => ({ lane := e.1, va := e.2.1, place := e.2.2.1, leaf := e.2.2.2, size := 512,
                                      arg := (w.operands ff f e.1).b } : LaneReq)
        s.issueOp a w sp f { newOp s a sp f (.ocall x.method.toNat) ex with reqs := reqs }) s a w sp

/-- OCALL (R268). -/
def execOcall (x : VForm) (s : State) : Out :=
  let f := Instr.form (.ocall x)
  runInstr f { wave := ocallWave f x, par := fun s p r => s.blow p r } s

/-! ## The contention predictor (R102 to R104) -/

/-- The code of a requester: bit 8 the die, bits 7 to 0 the core. -/
def requester (c : CoreRef) : Nat := (match c.die with | .kapael => 0 | .amdukor => 256) + c.core

/-- The contention record after a request at pair time `t` (R103), and whether ownership is to be granted to the core that asks
(R104). -/
def predict (g : LineTag) (d : Die) (ask : Grant) (t : Nat) : LineTag :=
  let q := requester ⟨d, ask.core⟩
  let tq := t / 1024 % 65536
  let gap := if g.old then 16 else (tq + 65536 - g.lastt) % 65536
  let cnt := g.cnt - gap / 16
  let cnt := if q != g.lastreq && gap ≤ 1 then min 3 (cnt + 1) else cnt
  let grant := if cnt = 0 && g.owner.isNone && d = serverOf g.home && g.home != .host then some ask else none
  { g with cnt := cnt, lastreq := q, lastt := tq, old := false, grantTo := grant }

/-! ## Bundles (R108, R109) -/

/-- The method of an operation that the crucible serves: code, width and whether it calls an object. -/
def OpKind.method : OpKind → Option (Nat × Bool × Bool)
  | .atomic m w _ => some (m, w, false)
  | .ocall m => some (m, false, true)
  | .mdrain true => some (0x5, false, false)
  | _ => none

/-- The key of a request (R108). -/
def keyOf (m : Nat × Bool × Bool) (h : Home) (pa : Nat) : BatchKey :=
  if m.2.2 then .object (lineAt h pa) (pa / 512 * 512) m.1 else .line (lineAt h pa) m.1 m.2.1

/-- The key of a lane's request. -/
def LaneReq.key? (r : LaneReq) (m : Nat × Bool × Bool) : Option BatchKey :=
  match r.place with
  | .mem h pa => some (keyOf m h pa)
  | _ => none

/-- The requests of an operation with a key, marked as sent. -/
def Op.markKey (o : Op) (m : Nat × Bool × Bool) (k : BatchKey) : Op :=
  { o with reqs := o.reqs.map fun r => if r.key? m == some k && !r.done then { r with sent := true } else r }

/-- The requests in a pile. -/
def pileSize (pile : List Bundle) : Nat := (pile.map fun b => b.reqs.length).sum

/-- Requests of a bundle as the payload of a COMB_REQ (R137): method, width and kind, count, and per request its lane,
its offset from the VA and four argument words (log entry 11). -/
def combPayload (m : Nat × Bool × Bool) (va : Nat) (reqs : List BReq) : List Byte :=
  [BitVec.ofNat 8 m.1, if m.2.1 then 1 else 0, if m.2.2 then 1 else 0, BitVec.ofNat 8 reqs.length] ++
    reqs.flatMap fun r => bytesOf 4 r.lane ++ bytesOf 4 (r.va - va) ++ bytesOfWords ((List.range 4).map fun i => nth r.args i 0)

/-- A bundle put into a pile that has room for it, after the sweeps that are due, the contention update and the access count (R103,
R109, R132). What leads to a grant of ownership is to be a batch of its own (R104). -/
def State.arrive (s : State) (b : Bundle) (l : LineRef) : Option State :=
  let r := sliceOf l
  if 256 < pileSize (s.crucible r).pile + b.reqs.length then none else
  let s := s.sweepAll r.die
  let (va, leaf) := (b.reqs.head?.map fun q => (q.va, q.leaf)).getD (0, 0)
  let s := s.countAccess b.ctx va leaf b.die
  let (s, alone) := match b.key with
    | .line _ _ _ =>
      let s := s.putTag l fun t => predict t b.die { core := b.core, ctx := b.ctx, va := va, leaf := leaf } (s.now r.die)
      (s, (s.tag l).grantTo.isSome)
    | .object _ _ _ => (s, false)
  let c := s.crucible r
  some (s.putCrucible r { c with pile := c.pile ++ [{ b with alone := alone }] })

/-- Whether an earlier bundle of the same wave to the same slice has still to leave: a wave's bundles arrive in issue order (R109). -/
def bundleBefore (ops : List Op) (id : Nat) (l : LineRef) : Bool :=
  ops.any fun o => decide (o.id < id) && o.kind.method.isSome &&
    o.reqs.any fun r => !r.done && !r.sent && r.line?.any fun k => sliceOf k == sliceOf l

/-- BUNDLE_ARRIVE (R109): the next bundle of an operation enters the pile at its home, is sent over the blowpipe, or is
applied in the core's own L1 where that owns the line (R104). The spec gives a core's request queue no size: bundles that wait for the pile
stand in their operations, without bound, so that no issue stalls for want of room in that queue (DESIGN CHOICE, log entry 111). -/
def execBundleArrive (a : AgentId) (op : Nat) (s : State) : Out :=
  match s.agentOp a op with
  | none => .next s
  | some o => match o.kind.method, o.next with
    | some m, some (r, l) =>
      let c := coreOf a
      let ctx := s.ctxOf a
      match r.key? m with
      | none => .next s
      | some k =>
        let mine := o.reqs.filter fun q => q.key? m == some k && !q.done && !q.sent
        let reqs := mine.map fun q => ({ lane := q.lane, pa := (match q.place with | .mem _ pa => pa | _ => 0), va := q.va,
                                         args := q.arg, leaf := q.leaf } : BReq)
        if s.lineBusy c o.id l || bundleBefore (s.agentOps a) o.id l then .next s
        else if !m.2.2 && ((s.l1Get c l).map (·.owned)).getD false then
          let (s, rs, g) := s.atomicReqs c ctx m.1 m.2.1 mine
          let reqs := o.reqs.map fun q => (rs.find? fun z => z.lane == q.lane).getD q
          .next (s.setAgentOp a { o with reqs := reqs, gd := max o.gd g, gp := max o.gp g })
        else if serverOf l.home != c.die then
          let va := r.va / (if m.2.2 then 512 else 128) * (if m.2.2 then 512 else 128)
          .next ((s.request c.die (.bundle a op) { s.mkMsg c.die tyCombReq ctx va with
            aux0 := BitVec.ofNat 64 c.core, payload := combPayload m va reqs }).setAgentOp a
              (if (s.pipe c.die).open_.any (fun e => e.2 == .bundle a op) then o else o.markKey m k))
        else match s.arrive { agent := a, op := op, die := c.die, core := c.core, ctx := ctx, key := k, reqs := reqs } l with
          | some s => .next (s.setAgentOp a (o.markKey m k))
          | none => .next s
    | _, _ => .next s

/-! ## Forming a batch (R109, R115, R117, R124) -/

/-- The bundles of a pile that the batch of its oldest takes (R109); one that is to be a batch of its own stops it (R104). -/
def gather (k : BatchKey) : List Bundle → Nat → List Bundle × List Bundle
  | [], _ => ([], [])
  | b :: t, n =>
    if b.key != k then (let r := gather k t n; (r.1, b :: r.2))
    else if !b.alone && n + b.reqs.length ≤ 32 then (let r := gather k t (n + b.reqs.length); (b :: r.1, r.2))
    else ([], b :: t)

/-- The batch and the pile it leaves. -/
def formBatch (pile : List Bundle) : List Bundle × List Bundle :=
  match pile with
  | [] => ([], [])
  | b :: t => if b.alone then ([b], t) else let r := gather b.key t b.reqs.length; (b :: r.1, r.2)

/-- An object descriptor's fields: entry of the method, SSIZE, AWIDTH, RWIDTH, BUILTIN, BROKEN (R115). -/
structure ObjDesc where
  entry : Nat
  ssize : Nat
  awidth : Nat
  rwidth : Nat
  builtin : Bool
  broken : Bool
  reserved : Bool
  deriving DecidableEq, Repr

/-- The descriptor of a slot for a method. -/
def objDesc (b : List Byte) (m : Nat) : ObjDesc :=
  let f := (nth b 20 0).toNat
  { entry := fieldOf b (4 * m) 4, ssize := (nth b 16 0).toNat, awidth := (nth b 18 0).toNat, rwidth := (nth b 19 0).toNat
    builtin := f / 2 % 2 == 1, broken := f % 2 == 1
    reserved := nth b 17 0 != 0 || f / 4 != 0 || fieldOf b 21 3 != 0 || fieldOf b 28 4 != 0 }

/-- Whether a descriptor fails the check DESC_INVALID for a method (R124). -/
def ObjDesc.invalid (d : ObjDesc) : Bool :=
  d.ssize = 0 || decide (16 < d.ssize) || d.awidth = 0 || decide (4 < d.awidth) || decide (4 < d.rwidth) || d.reserved
    || (d.builtin && (decide (0xC < d.entry % 256) || d.entry / 2 ^ 12 != 0 || decide (d.ssize * 16 < 4 * (d.entry / 256 % 16) + 4)))

/-- The object-method image of a context (R27, R198). -/
def State.methodImage (s : State) (ctx : Nat) : Option Image :=
  (s.ctx ctx).bind fun c => c.images.find? fun i => i.objMethod && i.va == c.desc.objimg

/-- The combiner wave of a batch (R117). -/
def combinerWave (ctx img entry : Nat) (slotVa : Nat) (m awidth : Nat) (reqs : List BReq) : Wave :=
  let n := reqs.length
  let act := maskOf fun l => l < n
  let args (k : Nat) : List Word := perLane fun l => if l < n && k < awidth then nth ((nth reqs l { lane := 0, pa := 0, va := 0, args := [], leaf := 0 }).args) k 0 else 0
  { ctx := ctx, image := img, allot := 32, live := act
    vmap := (List.range 64).map fun k => if k < 4 then .phys (args k) else if k < 32 then .phys (List.replicate 32 0) else .undef
    sreg := [BitVec.ofNat 32 n, BitVec.ofNat 32 m, BitVec.ofNat 32 slotVa, BitVec.ofNat 32 (slotVa / 2 ^ 32)] ++ List.replicate 60 0
    preds := act :: List.replicate 23 0
    slots := [some { pos := { hofs := entry, pc := entry }, act := act }, none, none, none] }

/-- The requests of a batch, in combiner-lane order (R109). -/
def batchReqs (bs : List Bundle) : List BReq := bs.flatMap (·.reqs)

/-- The uncorrectable error met where the lines of a slot are read (R51). -/
def State.slotFlaw (s : State) (h : Home) (pa : Nat) : State × Option Sub :=
  if s.flaws.isEmpty then (s, none) else
  (List.range 4).foldl (fun (r : State × Option Sub) k =>
    let q := r.1.homeFlaw (lineAt h (pa + 128 * k))
    (q.1, r.2 <|> q.2)) (s, none)

/-- What becomes of the batch just formed for a slot (R123, R124): broken, failed, or started. -/
def State.startObject (s : State) (r : SliceRef) (c : Crucible) (h : Home) (pa m : Nat) : State :=
  let (s, bad) := s.slotFlaw h pa
  let desc := Memory.readN (s.mem h) pa 32
  let d := objDesc desc m
  let reqs := batchReqs c.batch
  let ctx := (c.batch.head?.map (·.ctx)).getD 0
  let va := (reqs.head?.map fun q => q.va / 512 * 512).getD 0
  let c := { c with rwidth := min 4 d.rwidth, replies := List.replicate reqs.length none, steps := 0, done := false, fail := none
                    broken := d.broken, running := false, desc := desc }
  if d.broken then s.putCrucible r c
  else if bad.isSome then s.putCrucible r { c with fail := some (.eccCrucible, 0xFFFFFFFF) }
  else if d.invalid then s.putCrucible r { c with fail := some (.descInvalid, 0xFFFFFFFF) }
  else if d.builtin then s.putCrucible r c
  else match s.methodImage ctx with
    | none => s.putCrucible r { c with fail := some (.entryAbsent, 0xFFFFFFFF) }
    | some im =>
      if im.codew ≤ d.entry then s.putCrucible r { c with fail := some (.entryAbsent, 0xFFFFFFFF) }
      else s.putCrucible r { c with running := true, stage := Memory.readN (s.mem h) (pa + 32) (d.ssize * 16)
                                    wave := combinerWave ctx im.id d.entry va m d.awidth reqs }

/-- FORM_BATCH (R109): a free combiner engine forms a batch from its pile. -/
def execFormBatch (r : SliceRef) (s : State) : Out :=
  let c := s.crucible r
  if !c.batch.isEmpty then .next s else
  match formBatch c.pile with
  | ([], _) => .next s
  | (batch, pile) =>
    let c := { c with batch := batch, pile := pile, broken := false, running := false, fail := none, done := false, half := none }
    match (batch.head?.map fun (b : Bundle) => b.key : Option BatchKey) with
    | some (.object l pa m) => .next (s.startObject r c l.home pa m)
    | _ => .next (s.putCrucible r c)

/-! ## Performing a batch (R110, R111, R121 to R125) -/

/-- Replies as the payload of a COMB_RSP (R137): how many words a reply has, then per request its status and those words (log
entry 11). -/
def rspPayload (rs : List (Nat × List Word)) : List Byte :=
  let k := (rs.map fun r => r.2.length).foldl max 0
  bytesOf 4 k ++ rs.flatMap fun r => bytesOf 4 r.1 ++ bytesOfWords ((List.range k).map fun i => nth r.2 i 0)

/-- The first `n` replies of a COMB_RSP (log entry 11). -/
def rspReplies (p : List Byte) (n : Nat) : List (Nat × List Word) :=
  let k := min 4 (fieldOf p 0 4)
  (List.range n).map fun i => (fieldOf p (4 + (4 + 4 * k) * i) 4, wordsOf (slice p (8 + (4 + 4 * k) * i) (4 * k)))

/-- The status codes that stand for an error of a built-in batch on a COHERENT line, which R123 leaves no code for (R126, log
entry 11). -/
def flawStatus (sub : Sub) : Nat :=
  match sub with
  | .eccL2 => 256
  | .eccDram => 257
  | .parity => 259
  | _ => 258

/-- The cause that a status raises at its requester: a refusal of R140, or an error of R126. -/
def statusFlaw (st : Nat) : Option Sub :=
  match st with
  | 4 => some .remoteRefused
  | 256 => some .eccL2
  | 257 => some .eccDram
  | 258 => some .residue
  | 259 => some .parity
  | _ => none

/-- A bundle's replies given to the operation that sent it: status and words per request, write completion times. -/
def Op.replied (o : Op) (lanes : List Nat) (rs : List (Nat × List Word)) (gd gp : Nat) : Op :=
  let one (r : LaneReq) : LaneReq := match look r.lane (lanes.zip rs) with
    | some (st, ws) => if r.sent && !r.done then { r with status := st, reply := ws, done := true, flaw := statusFlaw st } else r
    | none => r
  { o with reqs := o.reqs.map one, gd := max o.gd gd, gp := max o.gp gp }

/-- A bundle's replies sent to its requester. -/
def State.replyBundle (s : State) (b : Bundle) (rs : List (Nat × List Word)) (gd gp : Nat) : State :=
  match b.tag with
  | some tag =>
    let d := otherDie b.die
    s.sendMsg d { s.mkMsg d tyCombRsp b.ctx 0 with
      tag := tag, time := BitVec.ofNat 64 gd, aux0 := BitVec.ofNat 64 gp, payload := rspPayload rs }
  | none => match s.agentOp b.agent b.op with
    | some o =>
      let lanes := b.reqs.map (·.lane)
      (s.forgetLines (coreOf b.agent) (o.reqs.filter fun r => lanes.contains r.lane)).setAgentOp b.agent (o.replied lanes rs gd gp)
    | none => s

/-- The replies of a batch handed out to its bundles; `g` gives the write completion times for a requester's die. -/
def State.replyAll (s : State) (g : Die → Nat × Nat) : List Bundle → List (Nat × List Word) → State
  | [], _ => s
  | b :: t, rs =>
    let n := b.reqs.length
    State.replyAll (s.replyBundle b (rs.take n) (g b.die).1 (g b.die).2) g t (rs.drop n)

/-- The requests of a built-in batch applied one after another to memory (R113); the replies in order. -/
def applyAll (m : Nat) (w64 : Bool) (addr : BReq → Nat) : Memory → List BReq → Memory × List (Nat × List Word)
  | mem, [] => (mem, [])
  | mem, r :: t =>
    let (new, old) := methodBytes m w64 r.args (Memory.readN mem (addr r) (if w64 then 8 else 4))
    let (mem, rs) := applyAll m w64 addr (Memory.writeN mem (addr r) new) t
    (mem, (1, old) :: rs)

/-- The record of an object fault (R125). -/
def objRecord (va : Nat) (t : Nat) (sub : Sub) (m n ctx wofs fcount : Nat) : List Byte :=
  bytesOf 8 va ++ bytesOf 8 t ++ [sub.code, BitVec.ofNat 8 m, BitVec.ofNat 8 n, BitVec.ofNat 8 ctx] ++ bytesOf 4 wofs
    ++ bytesOf 4 fcount ++ bytesOf 4 0

/-- A batch on an object slot ended (R121 to R124). -/
def State.endObject (s : State) (r : SliceRef) (c : Crucible) (h : Home) (pa m : Nat) : State :=
  let reqs := batchReqs c.batch
  let n := reqs.length
  let t := s.now r.die
  let g (d : Die) : Nat × Nat := (t + (if d != r.die then skew else 0), t + (if d != r.die then skew else 0))
  let none_ (st : Nat) : List (Nat × List Word) := List.replicate n (st, List.replicate c.rwidth 0)
  let ctx := (c.batch.head?.map (·.ctx)).getD 0
  let touch (s : State) : State := match reqs with
    | q :: _ => s.touch ctx q.va q.leaf q.pa
    | [] => s
  if c.broken then s.replyAll (fun _ => (0, 0)) c.batch (none_ 3) else
  let (s, soft) := if c.fail.isSome then (s, none) else s.engineFlaw r
  let at_ := if c.running then ((nth c.wave.slots 0 none).map fun sp => sp.pos.pc).getD 0xFFFFFFFF else 0xFFFFFFFF
  match c.fail <|> soft.map fun e => (e, at_) with
  | some (sub, wofs) =>
    let s := touch s
    let mem := s.mem h
    let fc := min (2 ^ 32 - 1) (natOf (Memory.readN mem (pa + 24) 4) + 1)
    let mem := Memory.writeN mem (pa + 24) (bytesOf 4 fc)
    let mem := Memory.write mem (pa + 20) (Memory.read mem (pa + 20) ||| 1)
    let va := (reqs.head?.map fun q => q.va / 512 * 512).getD 0
    ((s.setMem h mem).faultEntry ctx r.die 1 (objRecord va t sub m n ctx wofs fc)).replyAll (fun _ => (0, 0)) c.batch
      (List.replicate n (2, List.replicate c.rwidth 0))
  | none =>
    let d := objDesc c.desc m
    let s := touch s
    if d.builtin then
      let (mem, rs) := applyAll (d.entry % 256) false (fun _ => pa + 32 + 4 * (d.entry / 256 % 16)) (s.mem h) reqs
      let rs := rs.map fun x => (1, (List.range d.rwidth).map fun i => if i = 0 then nth x.2 0 0 else 0)
      (s.setMem h mem).replyAll g c.batch rs
    else
      let rs := (List.range n).map fun i => match nth c.replies i none with
        | some ws => (1, ws)
        | none => (0, List.replicate c.rwidth 0)
      (s.setMem h (Memory.writeN (s.mem h) (pa + 32) c.stage)).replyAll g c.batch rs

/-- The soft error that a batch on a COHERENT line meets: where the line is read, or in the crucible's datapath (R51, R126, R362). -/
def State.lineError (s : State) (r : SliceRef) (l : LineRef) : State × Option Sub :=
  if s.flaws.isEmpty then (s, none) else
  match s.homeFlaw l with
  | (s, some e) => (s, some e)
  | (s, none) =>
    let (s, res) := s.meets r.die fun k => k == .datapath (.combiner r) false
    let (s, par) := s.meets r.die fun k => k == .datapath (.combiner r) true
    (s, if res then some .residue else if par then some .parity else none)

/-- Whether a batch of a built-in method on a line is a read followed by a write: it is homed on the host, and the method is not one
that is sent as an AtomicOp (R107). -/
def twoStep (l : LineRef) (m : Nat) : Bool := l.home == .host && m != 0x0 && m != 0x9 && m != 0xA

/-- The first half of such a batch: the line is read, and what is to be written and replied is worked out. -/
def State.readHalf (s : State) (r : SliceRef) (c : Crucible) (l : LineRef) (m : Nat) (w64 : Bool) : State :=
  let reqs := batchReqs c.batch
  let (mem, rs) := applyAll m w64 (fun q => q.pa) (s.mem l.home) reqs
  let ws := reqs.map fun q => (q.pa, Memory.readN mem q.pa (if w64 then 8 else 4))
  s.putCrucible r { c with half := some ws, late := rs }

/-- A batch on a COHERENT line performed (R110, R111), or, with an error, only answered (R126). -/
def State.endLine (s : State) (r : SliceRef) (c : Crucible) (l : LineRef) (m : Nat) (w64 : Bool) : State :=
  let reqs := batchReqs c.batch
  let s := s.recall l
  match s.lineError r l with
  | (s, some e) => s.replyAll (fun _ => (0, 0)) c.batch (List.replicate reqs.length (flawStatus e, []))
  | (s, none) =>
    let s := c.batch.foldl (fun (s : State) b => match b.reqs with
      | q :: _ => s.touch b.ctx q.va q.leaf q.pa
      | [] => s) s
    let s := if l.home = .host then s.finishHalf l else s.putTag l fun t => { t with dirty := true }
    let (mem, rs) := if c.half.isSome then (s.mem l.home, c.late) else applyAll m w64 (fun q => q.pa) (s.mem l.home) reqs
    (s.setMem l.home mem).replyAll (fun d => s.gwct l d) c.batch rs

/-- The batch of a crucible performed or failed, as one action, and the engine freed (R110). -/
def State.performBatch (s : State) (r : SliceRef) : State :=
  let c := s.crucible r
  let s1 := match (c.batch.head?.map fun (b : Bundle) => b.key : Option BatchKey) with
    | some (.object l pa m) => s.endObject r c l.home pa m
    | some (.line l m w64) => s.endLine r c l m w64
    | none => s
  let c1 := s1.crucible r
  s1.putCrucible r { slice := c1.slice, pile := c1.pile }

/-- BATCH_PERFORM (R110): a batch that no method still runs for is performed; one on a host-homed line whose method is no AtomicOp
reads the line first and writes it at the next such step (R107). -/
def execBatchPerform (r : SliceRef) (s : State) : Out :=
  let c := s.crucible r
  if c.batch.isEmpty || (c.running && !c.done) then .next s else
  match (c.batch.head?.map fun (b : Bundle) => b.key : Option BatchKey) with
  | some (.line l m w64) => if twoStep l m && c.half.isNone then .next (s.readHalf r c l m w64) else .next (s.performBatch r)
  | _ => .next (s.performBatch r)

/-! ## Replies (R173, R266, R268) -/

/-- An operation's results written into its wave. -/
def State.writeOp (s : State) (a : AgentId) (o : Op) : State :=
  match s.waveOf a with
  | some w => s.setWave a (w.writeResults (s.formFile (coreOf a)) o o.vdst 0)
  | none => s

/-- ATOM_REPLY (R266): the oldest atomic or reduction whose replies have all come writes the old values and retires; a
refused lane receives zero and raises REMOTE_REFUSED, and one whose batch met an error receives nothing and raises that. -/
def execAtomReply (a : AgentId) (op : Nat) (s : State) : Out :=
  match s.agentOp a op with
  | none => .next s
  | some o => match o.kind with
    | .atomic _ w64 _ =>
      if !o.allDone || !s.mayRetire a o then .next s else
      let zero : List Word := List.replicate (if w64 then 2 else 1) 0
      let res := (lanesOf o.mask).filterMap fun l => match o.reqs.find? fun r => r.lane == l with
        | some r => if r.status == 4 then some (l, zero) else if r.flaw.isSome then none else some (l, r.reply)
        | none => some (l, zero)
      let s := s.writeOp a { o with results := res }
      match o.flawed with
      | [] => .next (s.retire a o)
      | b :: t => .next (s.replyFaults a o (b :: t))
    | _ => .next s

/-- OCALL_REPLY (R268): the oldest object call whose replies have all come writes statuses and reply words and retires. -/
def execOcallReply (a : AgentId) (op : Nat) (s : State) : Out :=
  match s.agentOp a op with
  | none => .next s
  | some o => match o.kind with
    | .ocall _ =>
      if !o.allDone || !s.mayRetire a o then .next s else
      let res := o.reqs.map fun r => (r.lane, BitVec.ofNat 32 r.status :: r.reply)
      .next ((s.writeOp a { o with results := res }).retire a o)
    | _ => .next s

/-! ## The combiner wave's instructions (R119 to R121, R269, R270) -/

/-- The offset of a lane in the staging copy; none when it is misaligned or reaches the end of STATE (R119). -/
def stageOfs (stage : List Byte) (base : Word) (ofs : Int) (size : Nat) : Option Nat :=
  let o := (((base.toNat : Int) + ofs * size) % 2 ^ 32).toNat
  if o % size = 0 && o < stage.length then some o else none

/-- The crucible a combiner wave runs for. -/
def State.stageOf (s : State) (a : AgentId) : Option (SliceRef × Crucible) :=
  match a with
  | .combiner r => some (r, s.crucible r)
  | _ => none

/-- OLD and OST: the offsets of the executing lanes, or STATE_RANGE, which fails the batch. -/
def stageWave (f : Form) (x : MForm) (go : State → SliceRef → Crucible → List (Nat × Nat) → State) (s : State) (a : AgentId)
    (w : Wave) (sp : Split) : State :=
  match s.stageOf a with
  | none => s
  | some (r, c) =>
    let ff := s.formFile (coreOf a)
    let n := typeBytes x.ml.toNat
    let os := (lanesOf (w.exec sp f)).map fun l => (l, stageOfs c.stage (w.operands ff f l).a0 x.ofs.toInt n)
    if os.any fun e => e.2.isNone then s.failBatch r .stateRange sp.pos.pc else
    match s.engineFlaw r with
    | (s, some e) => s.failBatch r e sp.pos.pc
    | (s, none) => go s r c (os.filterMap fun e => e.2.map fun o => (e.1, o))

/-- OLD (R269). -/
def execOld (x : MForm) (s : State) : Out :=
  let f := Instr.form (.old x)
  let n := typeBytes x.ml.toNat
  runInstr f
    { wave := fun s a w sp => stageWave f x (fun s _ c os =>
        let out := perLane fun l => match look l os with
          | some o => ({ words := loadWords x.ml.toNat (slice c.stage o n) } : LaneOut)
          | none => {}
        s.finishWave a ((w.release f.lastReads).writeDst (s.formFile (coreOf a)) (w.exec sp f) out f.vwrites 0) sp f) s a w sp
      par := fun s _ _ => s } s

/-- OST (R269): the highest lane that writes a byte wins. -/
def execOst (x : MForm) (s : State) : Out :=
  let f := Instr.form (.ost x)
  runInstr f
    { wave := fun s a w sp => stageWave f x (fun s r c os =>
        let ff := s.formFile (coreOf a)
        let stage := os.foldl (fun st e => patch st e.2 (storeBytes x.ml.toNat (w.operands ff f e.1).b)) c.stage
        (s.finishWave a (w.release f.lastReads) sp f).putCrucible r
          { (s.finishWave a (w.release f.lastReads) sp f).crucible r with stage := stage }) s a w sp
      par := fun s _ _ => s } s

/-- REPLY (R270). -/
def execReply (x : GForm) (s : State) : Out :=
  let f := Instr.form (.reply x)
  runInstr f
    { wave := fun s a w sp => match s.stageOf a with
        | none => s
        | some (r, c) =>
          let ff := s.formFile (coreOf a)
          let ex := w.exec sp f
          let words (l : Nat) : List Word := (List.range c.rwidth).map fun k => w.lane ff (x.a.toNat + k) l
          let replies := (List.range c.replies.length).map fun l => if ex.getLsbD l then some (words l) else nth c.replies l none
          let s := s.finishWave a (w.release f.lastReads) sp f
          s.putCrucible r { s.crucible r with replies := replies }
      par := fun s _ _ => s } s

/-- OEND (R121): the method commits; the batch is performed at this moment. -/
def execOend (x : GForm) (s : State) : Out :=
  let f := Instr.form (.oend x)
  runInstr f
    { wave := fun s a _ _ => match s.stageOf a with
        | some (r, c) => (s.putCrucible r { c with done := true }).performBatch r
        | none => s
      par := fun s _ _ => s } s

end Sys2Proof.Machine
end

