-- ==== Sys2Proof/Machine/Token.lean ====
section
/-! DEFINITION. Queue tokens and waiting on a value: token_signal, narrowed scopes, QSIG, QWAIT, WAITV and the re-reading
of what they wait for (R97 to R99, R277 to R279). -/

namespace Sys2Proof.Machine

/-! ## Tokens (R97, R98) -/

/-- A queue token. -/
structure Token where
  count : Nat
  gd : Nat
  gp : Nat
  place : Nat
  deriving DecidableEq, Repr

/-- A token from its 32 bytes. -/
def tokenOf (b : List Byte) : Token :=
  { count := fieldOf b 0 8, gd := fieldOf b 8 8, gp := fieldOf b 16 8, place := fieldOf b 24 8 }

/-- A token's bytes. -/
def Token.bytes (t : Token) : List Byte := bytesOf 8 t.count ++ bytesOf 8 t.gd ++ bytesOf 8 t.gp ++ bytesOf 8 t.place

/-- What a signal carries: count, write completion times, the dies and core of the producer, and MULTI forced. -/
structure Signal where
  n : Nat
  gd : Nat
  gp : Nat
  dies : Nat
  core : Nat
  multi : Bool := false
  deriving DecidableEq, Repr

/-- The bit of a die in PLACE.DIES. -/
def dieBit : Die → Nat
  | .kapael => 1
  | .amdukor => 2

/-- token_signal (R98). -/
def Token.signal (t : Token) (g : Signal) : Token :=
  let dies := t.place % 4
  let core := t.place / 16 % 256
  let fresh := dies == 0
  let multi := t.place / 4 % 2 == 1 || g.multi || (!fresh && (core != g.core || dies != g.dies))
  { count := (t.count + g.n) % 2 ^ 64, gd := max t.gd g.gd, gp := max t.gp g.gp
    place := (dies ||| g.dies) + (if multi then 4 else 0) + (if fresh then g.core % 256 else core) * 16 }

/-- A token as it stands at its home. -/
def State.tokenAt (s : State) (home : Home) (pa : Nat) : State × Token :=
  let s := (s.finishHalf (lineAt home pa)).recall (lineAt home pa)
  (s, tokenOf (Memory.readN (s.mem home) pa 32))

/-- A signal performed at the token's home. -/
def State.signalAt (s : State) (req : Die) (ctx va : Nat) (leaf : DWord) (home : Home) (pa : Nat) (g : Signal) : State :=
  let (s, t) := s.tokenAt home pa
  (s.homeWrite (lineAt home pa) req ctx va leaf [(pa, (t.signal g).bytes)]).1

/-- A TOK_SIG message: COUNT's increment in AUX0, core, dies and MULTI in AUX1, write completion times as payload (R137,
log entry 11). -/
def State.tokMsg (s : State) (d : Die) (ctx va : Nat) (g : Signal) : Msg :=
  { s.mkMsg d tyTokSig ctx va with
    aux0 := BitVec.ofNat 64 g.n
    aux1 := BitVec.ofNat 64 (g.core + 256 * g.dies + if g.multi then 1024 else 0)
    payload := bytesOf 8 g.gd ++ bytesOf 8 g.gp }

/-- A signal that firmware of a die makes for a context, at the token's home or sent there (R98, R400). -/
def State.fwSignal (s : State) (d : FwBy) (ctx va : Nat) (g : Signal) : FwRes State :=
  if va % 32 != 0 then .bad s .misaligned va else
  match s.fwMap d ctx va .tokenWrite with
  | .ok (s, home, pa, leaf) =>
    if serverOf home = d.die then .ok (s.signalAt d.die ctx va leaf home pa g)
    else .ok (s.request d.die (.farToken d.who ctx va (s.pipe d.die).nextTag.toNat) (s.tokMsg d.die ctx va g))
  | .wait s => .wait s
  | .bad s sub a => .bad s sub a

/-- A token that firmware of a die reads for a context (R400). -/
def State.fwToken (s : State) (d : FwBy) (ctx va : Nat) : FwRes (State × Token) :=
  if va % 32 != 0 then .bad s .misaligned va else
  match s.fwRead d ctx .tokenRead va 32 with
  | .ok (s, b) => .ok (s, tokenOf b)
  | .wait s => .wait s
  | .bad s sub a => .bad s sub a

/-- The pair time a consumer on a core must have passed, by the narrowest scope that encloses the producers (R99). -/
def Token.until (t : Token) (c : CoreRef) : Option Nat :=
  let dies := t.place % 4
  if dies = 0 then none
  else if dies = dieBit c.die then
    (if t.place / 4 % 2 == 0 && t.place / 16 % 256 == c.core then none else some t.gd)
  else some t.gp

/-! ## QSIG (R278) -/

/-- The signals of a QSIG, one for each distinct address, performed or sent; with what is still out. The core keeps no older copy of a
token that it has signalled (R82). -/
def State.signals (s : State) (x : Actor) (a : AgentId) (op : Nat) (gd gp : Nat) :
    List (Nat × Nat × Place × DWord) → (Nat → Nat) → State × List LaneReq
  | [], _ => (s, [])
  | (lane, va, p, leaf) :: t, n =>
    let c := x.core
    let g : Signal := { n := n va, gd := gd, gp := gp, dies := dieBit c.die, core := c.core }
    match p with
    | .mem home pa =>
      if serverOf home = c.die then
        State.signals ((s.signalAt c.die x.ctx va leaf home pa g).l1Forget c (lineAt home pa)) x a op gd gp t n
      else
        let s := s.request c.die (.token a op va) (s.tokMsg c.die x.ctx va g)
        let r := State.signals s x a op gd gp t n
        (r.1, { lane := lane, va := va, place := p, leaf := leaf, size := 32, sent := true } :: r.2)
    | _ => State.signals s x a op gd gp t n

/-- The operations whose retirement a QSIG waits for. -/
def OpKind.beforeSignal : OpKind → Bool
  | .store | .atomic _ _ _ | .ocall _ => true
  | _ => false

/-- QSIG in a wave. -/
def qsigWave (f : Form) (s : State) (a : AgentId) (w : Wave) (sp : Split) : State :=
  let ex := w.exec sp f
  let lanes := ex &&& ~~~w.helper
  let ff := s.formFile (coreOf a)
  let x := Actor.wave a w sp
  match x.ordered with
  | some why => s.stalled x why
  | none =>
  if w.ops.any fun o => o.kind.beforeSignal then s.stalled x .count else
  let eas := w.addrs ff f 0 0 1 lanes
  match s.locateLanes a w.ctx w.block .tokenWrite 0 32 eas with
  | .miss l => s.waitWalks x none .tokenWrite l
  | .bad l => s.faultLanes x l
  | .places l =>
    let first := l.filter fun e => (l.find? fun d => d.2.1 == e.2.1).any fun d => d.1 == e.1
    let total (va : Nat) : Nat := ((eas.filter fun e => e.2 == va).map fun e => (w.operands ff f e.1).b0.toNat).sum
    let (s, reqs) := s.signals x (whoOf a) s.opCtr w.gwd w.gwp first total
    let s := if lanes = 0 then s else s.irrevocable w.block
    if reqs.isEmpty then s.finishWave a (w.release f.lastReads) sp f
    else s.issueOp a w sp f { newOp s a sp f .qsig ex with reqs := reqs, vdst := [], results := laneVas eas }

/-- The sources of an instruction of the gaffer whose operands must be uniform; the parison blows otherwise. -/
def uniPar (f : Form) (go : State → ParId → Parison → FormIn → State) (s : State) (p : ParId) (r : Parison) : State :=
  match r.guard f with
  | none => s.blow p r
  | some false => s.passPar p r f
  | some true => match r.operands (s.formFile (parCore p)) f with
    | none => s.blow p r
    | some i => if i.uni then go s p r i else s.blow p r

/-- QSIG (R278). -/
def execQsig (x : GForm) (s : State) : Out :=
  let f := Instr.form (.qsig x)
  runInstr f
    { wave := qsigWave f
      par := uniPar f fun s p r i =>
        let y := Actor.par p r
        match y.ordered with
        | some why => s.stalled y why
        | none =>
        match s.locateLanes (.gaffer p) r.ctx (some r.block) .tokenWrite 0 32 [(0, effAddr 0 i.lane.a 0 1)] with
        | .miss l => s.waitWalks y none .tokenWrite l
        | .bad l => s.faultLanes y l
        | .places l =>
          let (s, reqs) := s.signals y (.gaffer p) s.opCtr r.gwd r.gwp l fun _ => i.lane.b0.toNat * r.box.count
          let s := s.irrevocable (some r.block)
          if reqs.isEmpty then s.setPar p (r.issued f)
          else s.issuePar p r f { newParOp s r f .qsig with reqs := reqs } } s

/-- A signal sent over the blowpipe has been acknowledged, or refused (R140, R402). -/
def State.signalAcked (s : State) (a : AgentId) (op va : Nat) (refused : Bool) : State :=
  let agent : AgentId := match a with
    | .wave w _ => .wave w 0
    | a => a
  match opOf (match agent with
      | .gaffer p => ((look p s.pars).map (·.ops)).getD []
      | .wave w _ => ((look w s.waves).map (·.ops)).getD []
      | _ => []) op with
  | none => s
  | some o =>
    let s := s.forgetLines (coreOf agent) (o.reqs.filter fun r => r.va == va)
    let left := { o with reqs := o.reqs.filter fun r => r.va != va }
    if refused then s.replyRefused agent left (maskOf fun l => o.lanes.any fun e => e.1 == l && e.2 == va) va
    else if left.reqs.isEmpty then s.retire agent left else s.setAgentOp agent left

/-! ## WAITV and QWAIT (R277, R279) -/

/-- A wait on memory begun by a wave: its split is descheduled. -/
def State.waitMem (s : State) (a : AgentId) (w : Wave) (sp : Split) (f : Form) (o : Op) (wt : Wait) (why : Stall) : State :=
  let o := { o with args := [BitVec.ofNat 32 f.len, 0] ++ o.args }
  ({ s with opCtr := s.opCtr + 1 }).setWave a
    ({ w.release f.lastReads with ops := w.ops ++ [o] }.setSlot (slotOf a)
      (some { sp with wait := wt, stall := why, freed := sp.freed ++ s.freedBy a f }))

/-- A wait on memory begun by the gaffer. -/
def State.waitMemPar (s : State) (p : ParId) (r : Parison) (f : Form) (o : Op) (wt : Wait) (why : Stall) : State :=
  let o := { o with args := [BitVec.ofNat 32 f.len, 0] ++ o.args, vdst := f.vwrites, ctr := none
                    kept := (s.freeSlots (parCore p) f.vwrites.length).getD [] }
  (({ s with opCtr := s.opCtr + 1 }).setPar p { r with ops := r.ops ++ [o], wait := wt, stall := why }).freeSiblings p

/-- A wait of a wave on located lanes; `arg` is what each lane compares with. -/
def memWait (f : Form) (k : OpKind) (acc : Access) (space align size : Nat) (wt : Wait) (why : Stall) (args : List Word)
    (s : State) (a : AgentId) (w : Wave) (sp : Split) : State :=
  let ex := w.exec sp f
  let ff := s.formFile (coreOf a)
  if ex = 0 then s.finishWave a (w.release f.lastReads) sp f else
  s.inOrder (.wave a w sp) .relaxed 0 fun s =>
    waveAccess f acc space align (w.addrs ff f space 0 1 (ex &&& ~~~w.helper)) (fun s l =>
      s.waitMem a w sp f { newOp s a sp f k ex with ctr := none, args := args
                                                    reqs := l.map fun (lane, va, p, leaf) =>
          { lane := lane, va := va, place := p, leaf := leaf, size := size, arg := (w.operands ff f lane).b } } wt why) s a w sp

/-- A wait of the gaffer for its parison. -/
def memWaitPar (f : Form) (k : OpKind) (acc : Access) (space align size : Nat) (wt : Wait) (why : Stall)
    (args : List Word) : State → ParId → Parison → State :=
  uniPar f fun s p r i =>
    let y := Actor.par p r
    if (s.freeSlots (parCore p) f.vwrites.length).isNone then s.blow p r else
    match y.ordered with
    | some why => s.stalled y why
    | none =>
    match s.locateLanes (.gaffer p) r.ctx (some r.block) acc space align [(0, effAddr space i.lane.a 0 1)] with
    | .miss l => s.waitWalks y none acc l
    | .bad l => s.faultLanes y l
    | .places l => s.waitMemPar p r f { newParOp s r f k with args := args
                                                              reqs := l.map fun (lane, va, pl, leaf) =>
        { lane := lane, va := va, place := pl, leaf := leaf, size := size, arg := i.lane.b } } wt why

/-- WAITV (R277). -/
def execWaitv (x : GForm) (s : State) : Out :=
  let f := Instr.form (.waitv x)
  let space := x.ml.toNat % 4
  let args := [BitVec.ofNat 32 (gMh x)]
  runInstr f
    { wave := memWait f .waitv .load space 4 4 .location .waitv args
      par := memWaitPar f .waitv .load space 4 4 .location .waitv args } s

/-- QWAIT (R279). -/
def execQwait (x : GForm) (s : State) : Out :=
  let f := Instr.form (.qwait x)
  runInstr f
    { wave := memWait f .qwait .tokenRead 0 32 32 .token .token []
      par := memWaitPar f .qwait .tokenRead 0 32 32 .token .token [] } s

/-- What one re-read of a waiting lane's place comes to: its bytes, a line that is on its way from the other member, or a fault. -/
inductive WaitGot
  | bytes (s : State) (b : List Byte)
  | later (s : State)
  | bad (s : State) (sub : Sub)

/-- The bytes a waiting lane reads: at the place's home, in place over the link where that is the other member, at the core store, or in the
core's L1 for a PRIVATE line (R131, R277). -/
def State.waitRead (s : State) (a : AgentId) (ctx : Nat) (r : LaneReq) : WaitGot :=
  let c := coreOf a
  let here (s : State) (b : State → List Byte) : WaitGot := match s.readFlaw c r.size r.place with
    | (s, some e) => .bad s e
    | (s, none) => .bytes s (b s)
  match r.place with
  | .scratch b ofs => here s fun s => s.scratchRead b ofs r.size
  | .weight d ofs => here s fun s => Memory.readN (s.ws d) ofs r.size
  | .mem home pa =>
    let l := lineAt home pa
    match (if leafCls r.leaf = .priv then s.l1Get c l else none) with
    | some x => .bytes s (slice x.data (pa % 128) r.size)
    | none =>
      if serverOf home = c.die then here ((s.atHome l c.die ctx r.va r.leaf false).l1Forget c l) fun s => Memory.readN (s.mem home) pa r.size
      else match s.seeFar c.die (.agent a) l with
        | none => .later (s.askFar c.die (.agent a) ctx r.va l)
        | some x => match x.sub with
          | some e => .bad s e
          | none => .bytes (s.l1Forget c l) (slice x.data (pa % 128) r.size)

/-- The access that a wait makes. -/
def Op.waitAccess (o : Op) : Access := match o.kind with | .qwait => .tokenRead | _ => .load

/-- A lane's request under its present translation: a page may have moved, or been taken away, since the last read. -/
def State.retranslate (s : State) (a : AgentId) (ctx : Nat) (o : Op) (r : LaneReq) : Tr :=
  match r.place with
  | .mem _ _ => s.translate a ctx r.va o.waitAccess
  | _ => .hit r.leaf 0

/-- A lane's request where a translation puts it. -/
def LaneReq.moved (r : LaneReq) (leaf : DWord) (pa : Nat) : LaneReq :=
  match r.place with
  | .mem _ _ => { r with place := .mem (leafHome leaf) pa, leaf := leaf }
  | _ => r

/-- One re-read for a lane: a satisfied WAITV lane holds the value; a QWAIT lane holds its COUNT and the pair time it
has still to pass, one above it. A lane that meets an uncorrectable error, or is refused, is done with (R51, R140). -/
def State.rereadLane (s : State) (a : AgentId) (ctx : Nat) (o : Op) (r : LaneReq) : State × LaneReq :=
  let passed (t : Nat) : Bool := t == 0 || decide (t ≤ s.now (coreOf a).die)
  if r.done then (s, r)
  else if o.kind != .waitv && !r.reply.isEmpty then (s, { r with done := passed (natOf r.data) })
  else match s.waitRead a ctx r with
  | .later s => (s, r)
  | .bad s e => (s, { r with done := true, flaw := some e })
  | .bytes s b => match o.kind with
    | .waitv =>
      let v := BitVec.ofNat 32 (natOf b)
      if icmpOf (nth o.args 2 0).toNat v (nth r.arg 0 0) then (s, { r with reply := [v], done := true }) else (s, r)
    | _ =>
      let t := tokenOf b
      if (pairOf r.arg).toNat ≤ t.count then
        let target := match t.until (coreOf a) with | some g => g + 1 | none => 0
        (s, { r with reply := wordsOfPair (BitVec.ofNat 64 t.count), data := bytesOf 8 target, done := passed target })
      else (s, r)

/-- Every lane of a wait re-read; one whose translation misses waits for its walk. A line that has come over the link serves all of them. -/
def State.rereadLanes (s : State) (a : AgentId) (ctx : Nat) (o : Op) : List LaneReq → State × List LaneReq
  | [] => (s, [])
  | r :: t =>
    let (s, r) := match (if r.done then Tr.hit r.leaf 0 else s.retranslate a ctx o r) with
      | .hit leaf pa => s.rereadLane a ctx o (if r.done then r else r.moved leaf pa)
      | .miss => (s.wantWalk (walkReq a ctx r.va o.waitAccess), r)
      | .fault _ _ => (s, r)
    let (s, l) := State.rereadLanes s a ctx o t
    (s, r :: l)

/-- The lanes of a wait whose pages fault now. -/
def State.rereadFaults (s : State) (a : AgentId) (ctx : Nat) (o : Op) : List (Nat × Nat × Sub × Nat) :=
  o.reqs.filterMap fun r => if r.done then none else match s.retranslate a ctx o r with
    | .fault sub level => some (r.lane, r.va, sub, level)
    | _ => none

/-- WAITV_REREAD (R277, R279): what an agent waits for in memory is read again, through its present translation, and the agent goes on
once every lane is satisfied. -/
def execWaitvReread (a : AgentId) (s : State) : Out :=
  match (s.agentOps a).find? fun o => (match o.kind with | .waitv | .qwait => true | _ => false) && o.slot == slotOf a with
  | none => .next s
  | some o =>
    let ctx := s.ctxOf a
    match s.rereadFaults a ctx o with
    | e :: t => .next ((s.clearWalks a).replyFaults a o (e :: t))
    | [] =>
    let (s, reqs) := s.rereadLanes a ctx o o.reqs
    let s := s.dropFar (coreOf a).die (.agent a)
    let o := { o with reqs := reqs }
    if !o.flawed.isEmpty then .next (s.replyFaults a o o.flawed) else
    if !o.allDone then .next (s.setAgentOp a o) else
    let words (l : Nat) : List Word := ((reqs.find? fun r => r.lane == l).map (·.reply)).getD (List.replicate o.vdst.length 0)
    match a with
    | .gaffer p => .next (s.waitedPar p o (words 0))
    | a => .next (s.waited a o words)

end Sys2Proof.Machine
end

