-- ==== Sys2Proof/Machine/Marver.lean ====
section
/-! DEFINITION. The marver: tile operands, tile ops, MMA, MZERO, MTILE and MDRAIN (R37 to R40, R65 to R71, R297 to
R302). -/

namespace Sys2Proof.Machine

/-! ## Tile operands (R297) -/

/-- Tile name of a tile operand. -/
def tileName (v : Word) : Nat := Word.bits v 9 0

/-- Scale byte of a tile operand. -/
def tileScale (v : Word) : Nat := Word.bits v 23 16

/-- Whether a tile operand raises TILE_NAME in a block of `n` tiles. -/
def tileBad (chained : Bool) (n : Nat) (v : Word) : Bool :=
  Word.bits v 31 24 != 0 || Word.bits v 15 10 != 0 || (!chained && tileScale v != 0)
    || (decide (n ≤ tileName v) && !(chained && tileName v == 0x3FF))

/-- A tile of a block. -/
def State.tile (s : State) (r : BlockRef) (n : Nat) : Option Tile := (s.blockOf r).bind fun b => b.tiles[n]?

/-- A tile replaced. -/
def State.setTile (s : State) (r : BlockRef) (n : Nat) (t : Tile) : State :=
  match s.blockOf r with
  | some b => s.putBlock r { b with tiles := b.tiles.set n t }
  | none => s

/-- The tiles a block has. -/
def State.tileCount (s : State) (r : BlockRef) : Nat := ((s.blockOf r).map (·.tiles.length)).getD 0

/-- Element (i, j) of a tile's body. -/
def Tile.at (t : Tile) (i j : Nat) : Word := if t.zero then 0 else nth t.body (62 * i + j) 0

/-- A tile action's read of an element: +0.0, the canonical NaN, or the body's value (R38, R68). -/
def Tile.drain (t : Tile) (i j : Nat) : Word := if t.poison then 0x7FC00000 else t.at i j

/-! ## Blocks of A and B (R65 to R68, R74) -/

/-- A block as a tile op reads it: scale byte, elements, and whether it poisons. -/
structure MBlock where
  scale : Nat
  elems : List Int
  poison : Bool
  deriving DecidableEq, Repr

/-- The fault of a block in an operand position: A takes INT8, B ternary, both the zero block (R65). -/
def blockBad (own : Nat) (b : List Byte) : Option Sub :=
  let fmt := (nth b 0 0).toNat
  if 8 ≤ fmt then some .blkFormat else if fmt = 0 || fmt = own then none else some .blkOperand

/-- An A block from memory: 62 INT8 elements. -/
def aBlock (b : List Byte) : MBlock :=
  let sc := (nth b 1 0).toNat
  let zero := nth b 0 0 == 0
  { scale := sc, poison := sc == 0xFF
    elems := (List.range 62).map fun k => if zero then 0 else intOfBits 8 false (nth b (2 + k) 0).toNat }

/-- A B block from memory: 248 trits. -/
def bBlock (b : List Byte) : MBlock :=
  let sc := (nth b 1 0).toNat
  let (ts, mal) := tritsOf (b.drop 2)
  if nth b 0 0 = 0 then { scale := sc, elems := List.replicate 248 0, poison := sc == 0xFF }
  else { scale := sc, elems := ts, poison := sc == 0xFF || mal }

/-- A chained A block: row `i` of a tile through the down-converter (R74). -/
def chainBlock (t : Option Tile) (sc i : Nat) : MBlock :=
  match t with
  | none => { scale := 0x7F, elems := List.replicate 62 0, poison := false }
  | some t =>
    let row := (List.range 62).map fun j => f32 (t.at i j)
    let bad := t.poison || sc == 0xFF || row.any FV.isNan
    { scale := if bad then 0xFF else sc, poison := bad, elems := row.map fun x => downConvert x sc }

/-- The integer sum of one group of a cell (R67). -/
def groupSum (a : MBlock) (b : MBlock) (g : Nat) : Int :=
  ((a.elems.zip (slice b.elems (62 * g) 62)).map fun e => e.1 * e.2).sum

/-- The accumulator after one group (R67). -/
def groupStep (a b : MBlock) (acc : Word) (g : Nat) : Word :=
  let m := groupSum a b g
  let e := (a.scale : Int) + b.scale - 254
  let p : FV := if m = 0 then .fin false 0 0 else .fin (decide (m < 0)) m.natAbs e
  ofF (sumF fF32 .rn [f32 acc, p])

/-- cell_update (R67); `a` are the row's four blocks. -/
def cellUpdate (a : List MBlock) (b : MBlock) (acc : Word) : Word :=
  (List.range 4).foldl (fun acc g => groupStep (nth a g { scale := 0x7F, elems := [], poison := false }) b acc g) acc

/-- C after a tile op on the given rows of A blocks and columns of B (R39, R67, R68). -/
def Tile.mma (c : Tile) (as : List (List MBlock)) (bs : List MBlock) : Tile :=
  let body := (List.range 64).flatMap fun i => (List.range 62).map fun j =>
    cellUpdate (nth as i []) (nth bs j { scale := 0x7F, elems := [], poison := false }) (c.at i j)
  { c with zero := false, dirty := true, body := body, poison := c.poison || as.any (fun r => r.any (·.poison)) || bs.any (·.poison) }

/-- The tile after MZERO (R39). -/
def Tile.mzero (c : Tile) : Tile := { c with zero := true, poison := false, dirty := true, body := [] }

/-- Every element of a tile counted into a histogram unit (R71, R299). -/
def Hist.countTile (h : Hist) (t : Tile) : Hist :=
  if t.poison then h.count 0x7FC00000 3968
  else (List.range 64).foldl (fun h i => (List.range 62).foldl (fun h j => h.count (t.at i j) 1) h) h

/-! ## The queue (R299) -/

/-- The tile ops queued on a core's marver. -/
def State.marver (s : State) (c : CoreRef) : List TileOp := (look c.core (s.die c.die).marvers).getD []

/-- The state with a core's marver queue replaced. -/
def State.setMarver (s : State) (c : CoreRef) (l : List TileOp) : State :=
  s.setDie c.die { s.die c.die with marvers := put c.core l (s.die c.die).marvers }

/-- The granule of a tile that holds its state word; granule `62 * i + j` holds element (i, j) (R38, R51). -/
def tileState : Nat := 3968

/-- The soft error that a tile action meets: in a granule of a tile that it reads, the state words among them, or a mismatch of a marver row
(R51, R362). `row` is the one row that an MDRAIN reads. -/
def State.tileFlaw (s : State) (c : CoreRef) (ref : BlockRef) (ts : List Nat) (row : Option Nat := none) : State × Option Sub :=
  if s.flaws.isEmpty then (s, none) else
  let (s, acc) := s.meets c.die fun k => match k with
    | .tile b t g => b == ref && ts.contains t && (g == tileState || row.all fun i => g / 62 == i)
    | _ => false
  if acc then (s, some .eccAccum) else
  let (s, row) := s.meets c.die fun k => k == .row c
  if row then (s.onLife c.die fun l => { l with pipeline := bump c.core 1 l.pipeline }, some .residue) else (s, none)

/-- TILE_OP (R299): the core's marver performs the oldest tile op of its queue as one tile action; it may then retire. An uncorrectable
error or a mismatch leaves the tile unchanged and goes to the issuer (R51, R362). -/
def execTileOp (c : CoreRef) (s : State) : Out :=
  match s.marver c with
  | [] => .next s
  | t :: rest =>
    let s := s.setMarver c rest
    match look t.par s.pars with
    | none => .next s
    | some r =>
      let ref := r.block
      match s.tile ref t.tile with
      | none => .next s
      | some ct =>
        let chained := t.mods % 4 == 2
        let reads := if t.zero then [] else t.tile :: (if chained then (wordsOf t.a).map tileName else [])
        let (s, soft) := s.tileFlaw c ref reads
        match soft, opOf r.ops t.op with
        | some e, some o => .next (s.replyFaults (.gaffer t.par) o [(0, 0, e, 0)])
        | some _, none => .next s
        | none, _ =>
        let s := if t.zero then (s.setTile ref t.tile ct.mzero).heals (fun k => match k with
            | .tile b n _ => b == ref && n == t.tile
            | _ => false) else
          let row (i g : Nat) : MBlock :=
            if chained then
              let v := nth (wordsOf t.a) g 0
              chainBlock (if tileName v = 0x3FF then none else s.tile ref (tileName v)) (tileScale v) i
            else aBlock (slice t.a (256 * i + 64 * g) 64)
          let c1 := ct.mma ((List.range 64).map fun i => (List.range 4).map (row i)) ((List.range 62).map fun j => bBlock (slice t.b (64 * j) 64))
          let s := s.setTile ref t.tile c1
          if t.mods / 4 % 2 == 1 then
            let u := t.mods / 8
            s.setHist (some ref) u ((s.hist (some ref) u).countTile c1)
          else s
        match opOf r.ops t.op with
        | some o => .next (s.setAgentOp (.gaffer t.par) { o with ready := true })
        | none => .next s

/-! ## Operand fetch (R64, R298) -/

/-- What fetching blocks comes to: the bytes, walks to be made, a fault at a block, earlier accesses to wait for, or lines that are on their
way from the other member. -/
inductive Blocks
  | ok (s : State) (bytes : List Byte)
  | miss (l : List (Nat × Nat))
  | bad (l : List (Nat × Nat × Sub × Nat))
  | busy
  | away (s : State)
  deriving DecidableEq, Repr

/-- The blocks at located places read in one step each. -/
def State.readBlocks (s : State) (c : CoreRef) (ctx : Nat) : List (Nat × Nat × Place × DWord) → State × List Byte
  | [] => (s, [])
  | (_, va, p, leaf) :: t =>
    let (s, b) := match p with
      | .scratch r ofs => (s, s.scratchRead r ofs 64)
      | .weight d ofs => (s, Memory.readN (s.ws d) ofs 64)
      | .mem h pa =>
        let (s, line) := s.loadLine c (lineAt h pa) ctx va leaf
        (s, slice line (pa % 128) 64)
    let (s, bs) := State.readBlocks s c ctx t
    (s, b ++ bs)

/-- The uncorrectable errors met where blocks are read (R51). -/
def State.blockFlaws (s : State) (c : CoreRef) : List (Nat × Nat × Place × DWord) → State × List (Nat × Nat × Sub × Nat)
  | [] => (s, [])
  | e :: t =>
    let hit := match e.2.2.1 with
      | .mem h pa => ((s.l1Get c (lineAt h pa)).map (s.l1Live c.die)).getD false
      | _ => true
    let (s, b) := if hit then s.placeFlaw c 64 e.2.2.1 else s.readFlaw c 64 e.2.2.1
    let r := State.blockFlaws s c t
    (r.1, match b with
      | some sub => (e.1, e.2.1, sub, 0) :: r.2
      | none => r.2)

/-- `n` blocks from a base on, checked as LDBLK is. -/
def State.fetchBlocks (s : State) (p : ParId) (r : Parison) (space base n : Nat) : Blocks :=
  let c := parCore p
  let width := if space = 0 then 2 ^ 64 else 2 ^ 32
  let eas := (List.range n).map fun k => (0, (base + 64 * k) % width)
  match s.locateLanes (.gaffer p) r.ctx (some r.block) .blkLoad space 64 eas with
  | .miss l => .miss l
  | .bad l => .bad (l.take 1)
  | .places l =>
    let busy := l.any fun e => match e.2.2.1 with
      | .mem h pa => s.lineBusy c s.opCtr (lineAt h pa)
      | _ => false
    if busy then .busy else
    let away := l.filter fun e => match e.2.2.1 with
      | .mem h pa => s.away c (lineAt h pa)
      | _ => false
    if away != [] then .away (away.foldl (fun (s : State) e => s.askPlace (.gaffer p) .blkLoad r.ctx e) s) else
    match (if s.flaws.isEmpty then (s, []) else s.blockFlaws c l) with
    | (_, e :: _) => .bad [e]
    | (s, []) =>
      let (s, b) := s.readBlocks c r.ctx l
      .ok s b

/-- The first malformed block of an operand. -/
def badBlock (own : Nat) (bytes : List Byte) : Option (Nat × Sub) :=
  (List.range (bytes.length / 64)).findSome? fun k => (blockBad own (slice bytes (64 * k) 64)).map fun e => (k, e)

/-- The base an operand's uniform registers give. -/
def opBase (space : Nat) (ws : List Word) : Nat := if space = 0 then (pairOf ws).toNat else (nth ws 0 0).toNat

/-- The first block that an operand has in each weight bank it comes from, as requests done: what tells a wait for a bank in refresh
(R299). -/
def weightReqs (d : Die) (space base n : Nat) : List LaneReq :=
  if space != 3 then [] else
  (dedup ((List.range n).map fun k => (base + 64 * k) / 2 ^ 23)).map fun b =>
    { lane := 0, va := 2 ^ 23 * b, place := .weight d (2 ^ 23 * b), size := 64, done := true }

/-- The tiles that an MMA or MZERO names: the C tile, and the chained A sources that are no zero block (R297, R298). -/
def tilesNamed (r : Parison) (f : Form) : List Word :=
  let chained := if f.opc = 0xB0 ∧ f.ml % 4 = 2 then (r.sregs f.use.a f.fields.2.1).map tileName else []
  (tileName (nth r.sreg f.fields.1 0) :: chained.filter (· != 0x3FF)).map (BitVec.ofNat 32)

/-- A tile op put into the marver's queue, counted on MXC (R173). -/
def State.queueTile (s : State) (p : ParId) (r : Parison) (f : Form) (k : OpKind) (t : TileOp) (reqs : List LaneReq := []) : State :=
  let o := { newParOp s r f k with args := tilesNamed r f, reqs := reqs }
  let s := s.setMarver (parCore p) (s.marver (parCore p) ++ [{ t with op := o.id }])
  s.issuePar p r f o

/-- Why a tile op cannot issue yet: catch-up (R159, R299), or a full queue. -/
def State.tileStall (s : State) (p : ParId) (r : Parison) (cu : Bool) : Option Stall :=
  if cu && !s.caughtUp p r then some .catchup else if 16 ≤ (s.marver (parCore p)).length then some .matrix else none

/-- The space code of an A source of MMA: .AGLB, .ASCR or .AWGT. -/
def aSpace (n : Nat) : Nat := match n with | 0 => 0 | 1 => 1 | _ => 3

/-- The fetch of both operands of an MMA, B's blocks first, then its tile op queued. -/
def mmaGo (f : Form) (ml mh : Nat) (s : State) (p : ParId) (r : Parison) : State :=
  let y := Actor.par p r
  let (d, an, bn, _) := f.fields
  let aws := r.sregs f.use.a an
  let bws := r.sregs f.use.b bn
  match s.tileStall p r (mh / 16 % 2 == 1) <|> y.ordered with
  | some why => s.stalled y why
  | none =>
    let bad (l : List (Nat × Nat × Sub × Nat)) : State := s.faultLanes y l
    match s.fetchBlocks p r (mh % 4) (opBase (mh % 4) bws) 62 with
    | .miss l => s.waitWalks y (some .mxc) .blkLoad l
    | .bad l => bad l
    | .busy => s.stalled y .memory
    | .away s => s.stalled y .memory
    | .ok s1 bb =>
      match (if ml % 4 = 2 then Blocks.ok s1 (bytesOfWords aws) else s1.fetchBlocks p r (aSpace (ml % 4)) (opBase (ml % 4) aws) 256) with
      | .miss l => s.waitWalks y (some .mxc) .blkLoad l
      | .bad l => bad l
      | .busy => s.stalled y .memory
      | .away s => s.stalled y .memory
      | .ok s2 ab =>
        let fault (base : Nat) (e : Nat × Sub) : State :=
          s2.trap y [y.record .format e.2 0xFFFFFFFF (BitVec.ofNat 64 (base + 64 * e.1)) 0] (some r.pos)
        match (if ml % 4 = 2 then none else badBlock 2 ab), badBlock 1 bb with
        | some e, _ => fault (opBase (ml % 4) aws) e
        | none, some e => fault (opBase (mh % 4) bws) e
        | none, none =>
          s2.queueTile p r f .mma { par := p, op := 0, zero := false, tile := tileName (nth r.sreg d 0), a := ab, b := bb
                                    mods := ml % 4 + (if ml / 4 % 2 == 1 then 4 else 0) + 8 * (mh / 4 % 4) }
            ((if ml % 4 = 3 then weightReqs p.die 3 (opBase 3 aws) 256 else []) ++ weightReqs p.die (mh % 4) (opBase (mh % 4) bws) 62)

/-- MMA (R298, R299). -/
def execMma (x : GForm) (s : State) : Out :=
  let f := Instr.form (.mma x)
  let ml := x.ml.toNat
  runInstr f
    { wave := fun s _ _ _ => s
      par := fun s p r =>
        let y := Actor.par p r
        let n := s.tileCount r.block
        let hists := ((s.blockOf r.block).map (·.hists.length)).getD 0
        let badName := tileBad false n (nth r.sreg x.d.toNat 0)
          || (ml % 4 == 2 && (r.sregs f.use.a x.a.toNat).any (tileBad true n))
        if ml / 4 % 2 == 1 && decide (hists ≤ gMh x / 4 % 4) then s.raise y .illegal .name
        else match r.guard f with
          | none => s.raise y .illegal .guard
          | some g =>
            if badName then s.raise y .format .tileName
            else if g then mmaGo f ml (gMh x) s p r
            else s.issuePar p r f { newParOp s r f .mma with mask := 0, args := tilesNamed r f, ready := true } } s

/-- MZERO (R300). -/
def execMzero (x : GForm) (s : State) : Out :=
  let f := Instr.form (.mzero x)
  runInstr f
    { wave := fun s _ _ _ => s
      par := fun s p r =>
        let y := Actor.par p r
        let v := nth r.sreg x.d.toNat 0
        match r.guard f with
        | none => s.raise y .illegal .guard
        | some g =>
          if tileBad false (s.tileCount r.block) v then s.raise y .format .tileName
          else if !g then s.issuePar p r f { newParOp s r f .mzero with mask := 0, args := tilesNamed r f, ready := true }
          else match s.tileStall p r (x.ml.getLsbD 0) with
            | some why => s.stalled y why
            | none => s.queueTile p r f .mzero { par := p, op := 0, zero := true, tile := tileName v } } s

/-- The state bits of a tile as MTILE reads them (R38). -/
def Tile.bits (t : Tile) : Word := BitVec.ofNat 32 ((if t.zero then 8 else 0) + (if t.poison then 4 else 0) + (if t.dirty then 2 else 0) + 1)

/-- MTILE (R300): it waits until the parison's earlier tile ops that name the tile have retired. -/
def execMtile (x : GForm) (s : State) : Out :=
  let f := Instr.form (.mtile x)
  runInstr f
    { wave := fun s _ _ _ => s
      par := fun s p r =>
        let y := Actor.par p r
        let v := nth r.sreg x.a.toNat 0
        match r.guard f with
        | none => s.raise y .illegal .guard
        | some g =>
          if tileBad false (s.tileCount r.block) v then s.raise y .format .tileName
          else if r.ops.any (fun o => (o.kind == .mma || o.kind == .mzero) && o.args.contains (BitVec.ofNat 32 (tileName v))) then
            s.stalled y .count
          else if !g then s.setPar p (r.issued f)
          else s.setPar p ((r.issued f).writeS [x.d.toNat] [((s.tile r.block (tileName v)).map Tile.bits).getD 0]) } s

/-! ## MDRAIN (R301) -/

/-- The destination words of a lane: F32 pairs or packed BF16. -/
def drainLane (bf : Bool) (row : Nat → Word) (l : Nat) : List Word :=
  let b16 (j : Nat) : Nat := encodeF fBF16 .rn (f32 (row j))
  if bf then [if l ≤ 30 then BitVec.ofNat 32 (b16 (2 * l) + 2 ^ 16 * b16 (2 * l + 1)) else 0]
  else [row l, if l ≤ 29 then row (32 + l) else 0]

/-- MDRAIN in a wave: the row is read by a later tile action. The merge of .AMX is one request, of the lowest lane of ex that is no
helper lane: helper lanes merge nothing and raise nothing (R32, R169). -/
def mdrainWave (f : Form) (ml : Nat) (s : State) (a : AgentId) (w : Wave) (sp : Split) : State :=
  let ex := w.exec sp f
  let x := Actor.wave a w sp
  let ff := s.formFile (coreOf a)
  let l0 := ((lowest ex) <|> (lowest sp.act)).getD 0
  let i := w.operands ff f l0
  let v := i.a0
  let amx := ml / 4 % 2 == 1
  let n := (w.block.map s.tileCount).getD 0
  if Word.bits v 15 10 != 0 || Word.bits v 31 22 != 0 || decide (n ≤ tileName v) then
    s.trap x [x.record .format .tileName (if ex = 0 then sp.act else ex) 0 0] none
  else
    let eas := match lowest (ex &&& ~~~w.helper) with
      | some l => if amx then [(l, (pairOf i.b).toNat)] else []
      | none => []
    s.inOrder x .relaxed 0 fun s =>
      waveAccess f .atomic 0 4 eas (fun s l =>
        s.issueOp a w sp f { newOp s a sp f (.mdrain amx) ex with
          args := [v, BitVec.ofNat 32 (ml % 4)], ready := ex == 0
          reqs := l.map fun e => { lane := e.1, va := e.2.1, place := e.2.2.1, leaf := e.2.2.2, size := 4, sent := true } }) s a w sp

/-- MDRAIN (R301). -/
def execMdrain (x : GForm) (s : State) : Out :=
  let f := Instr.form (.mdrain x)
  runInstr f { wave := mdrainWave f x.ml.toNat, par := fun s p r => s.blow p r } s

/-- TILE_DRAIN (R301): the row read of a split's oldest MDRAIN, as one tile action; its destinations are written and its
merge is made. -/
def execTileDrain (a : AgentId) (op : Nat) (s : State) : Out :=
  match s.agentOp a op, s.waveOf a with
  | some o, some w =>
    let isDrain (k : OpKind) : Bool := match k with | .mdrain _ => true | _ => false
    let earlier := w.ops.any fun q => decide (q.id < o.id) && isDrain q.kind && q.slot == o.slot && !q.ready
    if !isDrain o.kind || o.ready || earlier then .next s else
    let v := nth o.args 0 0
    match w.block.bind fun r => s.tile r (tileName v) with
    | none => .next s
    | some t =>
      let (s, soft) := match w.block with
        | some r => s.tileFlaw (coreOf a) r [tileName v] (some (Word.bits v 21 16))
        | none => (s, none)
      match soft with
      | some e => .next (s.replyFaults a o ((lanesOf o.mask).map fun l => (l, 0, e, 0)))
      | none =>
      let i := Word.bits v 21 16
      let row (j : Nat) : Word := t.drain i j
      let res := (lanesOf o.mask).map fun l => (l, drainLane (nth o.args 1 0 == 1) row l)
      let s := s.writeOp a { o with results := res }
      let top := (List.range 62).foldl (fun m j => max m ((row j).toNat % 2 ^ 31)) 0
      let c := coreOf a
      let reqs := o.reqs.map fun r => { r with sent := false, arg := [BitVec.ofNat 32 top] }
      let (s, reqs, g) := s.atomicReqs c w.ctx 0x5 false reqs
      .next (s.setAgentOp a { o with ready := true, reqs := reqs, gd := max o.gd g, gp := max o.gp g })
  | _, _ => .next s

end Sys2Proof.Machine
end

