-- ==== Sys2Proof/Machine/Jobs.lean ====
section
/-! DEFINITION. Engine jobs: cards, submission, edges and the bank interlock, what a job moves, and how it ends (R44, R45,
R95, R96, R303 to R307). -/

namespace Sys2Proof.Machine

/-! ## Cards (R303) -/

/-- An operand descriptor of a card. -/
structure CardOp where
  addr : Nat
  space : Nat
  zero : Bool
  deriving DecidableEq, Repr

/-- The operand descriptor at a byte of a card. -/
def cardOp (c : List Byte) (o : Nat) : CardOp :=
  { addr := fieldOf c o 8, space := fieldOf c (o + 8) 1, zero := fieldOf c (o + 9) 7 == 0 }

/-- A footprint entry: base, length, access (R96). -/
structure Foot where
  base : Nat
  len : Nat
  acc : Nat
  deriving DecidableEq, Repr

/-- The footprint entries of a card. -/
def cardFeet (c : List Byte) : List Foot :=
  (List.range 4).map fun k => { base := fieldOf c (64 + 16 * k) 8, len := fieldOf c (72 + 16 * k) 4, acc := fieldOf c (76 + 16 * k) 1 }

/-- Operation, element size, count and flags of a card. -/
def cardOpc (c : List Byte) : Nat := fieldOf c 0 1
@[inherit_doc cardOpc] def cardEsize (c : List Byte) : Nat := fieldOf c 1 1
@[inherit_doc cardOpc] def cardFlags (c : List Byte) : Nat := fieldOf c 2 1
@[inherit_doc cardOpc] def cardCount (c : List Byte) : Nat := fieldOf c 4 4
@[inherit_doc cardOpc] def cardToken (c : List Byte) : Nat := fieldOf c 8 8

/-- Bytes of an element of a GATHER or SCATTER, one for COPY and FILL. -/
def cardUnit (c : List Byte) : Nat := if 3 ≤ cardOpc c then 2 ^ cardEsize c else 1

/-- Whether two byte ranges overlap. -/
def overlaps (a la b lb : Nat) : Bool := decide (a < b + lb) && decide (b < a + la)

/-- The refusals CARD_FORMAT (R96, R304). -/
def cardBad (c : List Byte) : Bool :=
  let op := cardOpc c
  let dst := cardOp c 16
  let src := cardOp c 32
  let aux := cardOp c 48
  let n := cardCount c
  op == 0 || decide (4 < op) || fieldOf c 3 1 != 0 || decide (1 < cardFlags c)
    || !dst.zero || !src.zero || !aux.zero
    || (List.range 4).any (fun k => fieldOf c (77 + 16 * k) 3 != 0 || decide (3 < fieldOf c (76 + 16 * k) 1))
    || decide (4 < cardEsize c) || (decide (op < 3) && cardEsize c != 0)
    || [dst.space, src.space, aux.space].any (fun s => s != 0 && s != 3)
    || aux.space == 3 || (dst.space == 3 && decide (3 ≤ op))
    || (op == 1 && (aux.addr != 0 || aux.space != 0))
    || (dst.space == 3 && (dst.addr % 64 != 0 || n % 64 != 0 || decide (2 ^ 32 ≤ dst.addr)))
    || (src.space == 3 && decide (2 ^ 32 ≤ src.addr))
    || (op == 1 && dst.space == 0 && src.space == 0 && overlaps dst.addr n src.addr n)
    || (cardFlags c == 1 && cardToken c % 32 != 0)

/-- The mask of the banks a card's WEIGHT destination covers (R44). -/
def cardBanks (c : List Byte) : Nat :=
  let dst := cardOp c 16
  if dst.space != 3 || cardCount c = 0 then 0 else
  let lo := dst.addr / 2 ^ 23
  let hi := (dst.addr + cardCount c - 1) / 2 ^ 23
  ((List.range (hi + 1 - lo)).map fun k => 2 ^ (lo + k)).sum

/-! ## Edges and the interlock (R44, R96) -/

/-- Whether two jobs must run one after the other: entries without access or length are unused. -/
def footEdge (a b : List Byte) : Bool :=
  (cardFeet a).any fun x => (cardFeet b).any fun y => x.acc != 0 && y.acc != 0 && x.len != 0 && y.len != 0 && (x.acc / 2 % 2 == 1 || y.acc / 2 % 2 == 1)
    && overlaps x.base x.len y.base y.len

/-- Whether a job has an edge to an earlier job that has not completed. -/
def jobHeld (jobs : List Job) (j : Job) : Bool :=
  jobs.any fun e => decide (e.id < j.id) && e.ctx == j.ctx && footEdge e.card j.card

/-- Whether the bank interlock holds a job back. -/
def State.bankHeld (s : State) (d : Die) (j : Job) : Bool :=
  let m := cardBanks j.card
  m != 0 && ((s.launches.any fun l => decide (l.die = d) && decide (l.ticket < j.ticket) && (l.banks &&& m) != 0)
    || (s.die d).jobs.any fun e => decide (e.ticket < j.ticket) && (cardBanks e.card &&& m) != 0)

/-! ## Submission (R305) -/

/-- The launch a block belongs to. -/
def State.launchOf (s : State) (b : Option BlockRef) : Nat := ((b.bind s.blockOf).map (·.launch)).getD 0

/-- Whether a card's weight banks include one that its launch declares (WS_SELF), or one that is absent or not the
context's (BANK_OWNER) (R45); of both, the second is reported (DESIGN CHOICE, log entry 89). -/
def State.cardRefused (s : State) (d : Die) (ctx launch : Nat) (card : List Byte) : Option Sub :=
  if cardBad card then some .cardFormat else
  let m := cardBanks card
  let owned := ((s.ctx ctx).map (·.desc.banks)).getD 0
  let declared := ((s.launch launch).map (·.banks)).getD 0
  if m = 0 then none
  else if 2 ^ bankCount d ≤ m || (owned &&& m) != m then some .bankOwner
  else if (declared &&& m) != 0 then some .wsSelf else none

/-- The number of the next job of a context on a die, counted up. -/
def State.nextJobSeq (s : State) (ctx : Nat) (d : Die) : State × Nat :=
  match s.ctx ctx, d with
  | some c, .kapael => (s.putCtx { c with jobSeqK := c.jobSeqK + 1 }, c.jobSeqK)
  | some c, .amdukor => (s.putCtx { c with jobSeqA := c.jobSeqA + 1 }, c.jobSeqA)
  | none, _ => (s, 0)

/-- A card passed to the die's scheduler, which copies it; `op` is the id of the operation that counts it. -/
def State.submitJob (s : State) (a : AgentId) (ctx : Nat) (blk : Option BlockRef) (op cardVa : Nat) (card : List Byte) : State :=
  let d := (coreOf a).die
  let launch := s.launchOf blk
  let (s, seq) := s.nextJobSeq ctx d
  let bad := s.cardRefused d ctx launch card
  let j : Job := { id := s.jobCtr, ctx := ctx, seq := seq, cardVa := cardVa, card := card, issuer := a, launch := launch
                   opId := op, ticket := s.ticketCtr, fault := bad.map fun e => (e, 0) }
  let s := { s with jobCtr := s.jobCtr + 1, ticketCtr := s.ticketCtr + 1 }.irrevocable blk
  s.setDie d { s.die d with jobs := (s.die d).jobs ++ [j] }

/-- The submission of a card at an address, once its release is met and its read is done; `done` issues the operation. -/
def jobGo (x : Actor) (a : AgentId) (lane va : Nat) (done : State → Nat → State) (s : State) : State :=
  if 256 ≤ (s.die x.core.die).jobs.length then s.stalled x .engine else
  s.inOrder x .release 2 fun s =>
    match s.locateLanes x.agent x.ctx x.block .load 0 1 [(lane, va), (lane, va + 64)] with
    | .miss l => s.waitWalks x (some .enc) .load l
    | .bad l => s.faultLanes x (l.take 1)
    | .places l =>
      match l with
      | (_, _, .mem h pa, leaf) :: _ =>
        if s.lineBusy x.core s.opCtr (lineAt h pa) then s.stalled x .memory else
        if s.away x.core (lineAt h pa) then (s.askLine x.agent .load x.ctx va leaf (lineAt h pa)).stalled x .memory else
        match (if s.flaws.isEmpty then (s, []) else s.blockFlaws x.core (l.take 1)) with
        | (s, e :: _) => s.faultLanes x [e]
        | (s, []) =>
        let (s, card) := s.loadLine x.core (lineAt h pa) x.ctx va leaf
        let op := s.opCtr
        (done s s.jobCtr).submitJob a x.ctx x.block op va card
      | _ => s

/-- JOB issued by the gaffer (R305). -/
def execJobGaffer (x : GForm) (s : State) : Out :=
  let f := Instr.form (.jobGaffer x)
  runInstr f
    { wave := fun s _ _ _ => s
      par := fun s p r =>
        let y := Actor.par p r
        let va := (pairOf (r.sregs .s2 x.a.toNat)).toNat
        match r.guard f with
        | none => s.raise y .illegal .guard
        | some g =>
          if va % 128 != 0 then s.trap y [y.record .engine .jobHandle 0xFFFFFFFF (BitVec.ofNat 64 va) 0] (some r.pos)
          else if !g then s.issuePar p r f { newParOp s r f (.job 0) with mask := 0, ready := true }
          else jobGo y (.gaffer p) 0 va (fun s n => match look p s.pars with
            | some r => s.issuePar p r f (newParOp s r f (.job n))
            | none => s) s } s

/-- JOB issued by a wave (R305). Where ex holds helper lanes only, the VA that is checked is read from the lowest non-helper lane of act, and is 0
where act has none either: the rule names ex's lowest non-helper lane, or act's where ex is empty (DESIGN CHOICE, log entry 117). -/
def execJobWave (x : GForm) (s : State) : Out :=
  let f := Instr.form (.jobWave x)
  runInstr f
    { wave := fun s a w sp =>
        let ex := w.exec sp f
        let y := Actor.wave a w sp
        let lane := (lowest (ex &&& ~~~w.helper)) <|> (lowest (sp.act &&& ~~~w.helper))
        let va := match lane with
          | some l => (pairOf (w.operands (s.formFile (coreOf a)) f l).a).toNat
          | none => 0
        if va % 128 != 0 then s.trap y [y.record .engine .jobHandle (if ex = 0 then sp.act else ex) (BitVec.ofNat 64 va) 0] none
        else if ex &&& ~~~w.helper = 0 then s.issueOp a w sp f { newOp s a sp f (.job 0) ex with vdst := [], ready := true }
        else jobGo y (whoOf a) (lane.getD 0) va (fun s n =>
          let w := s.waveNow a w
          s.issueOp a w sp f { newOp s a sp f (.job n) ex with vdst := [] }) s
      par := fun s p r => s.blow p r } s

/-! ## JSTAT (R307) -/

/-- The scheduler's state as JSTAT reads it. -/
def State.jstat (s : State) (d : Die) (ctx : Nat) : Word :=
  let jobs := (s.die d).jobs
  let mine := (jobs.filter fun j => j.ctx == ctx).length
  let faults := match s.ctx ctx, d with
    | some c, .kapael => c.engFaultsK
    | some c, .amdukor => c.engFaultsA
    | none, _ => 0
  BitVec.ofNat 32 (faults % 256 * 2 ^ 24 + min mine 0x7FFF * 2 ^ 9 + (256 - jobs.length))

/-- JSTAT read by the gaffer (R307). -/
def execJstatGaffer (x : GForm) (s : State) : Out :=
  let f := Instr.form (.jstatGaffer x)
  runUni f (fun s p r => s.setPar p ((r.issued f).writeS [x.d.toNat] [s.jstat p.die r.ctx])) s

/-- JSTAT read by a wave (R307). -/
def execJstatWave (x : GForm) (s : State) : Out :=
  let f := Instr.form (.jstatWave x)
  runInstr f
    { wave := fun s a w sp => vecWave f (each1 fun _ => s.jstat (coreOf a).die w.ctx) s a w sp
      par := fun s p r => s.blow p r } s

/-! ## What a job moves (R304) -/

/-- What performing part of a job comes to: the state with the largest write completion times, a page to wait for, or a
fault. -/
inductive JobRes (α : Type)
  | ok (a : α)
  | wait (s : State)
  | bad (s : State) (sub : Sub) (va : Nat)

/-- Whether an access lies within one footprint entry that grants reads or writes (R96). -/
def footOk (feet : List Foot) (w : Bool) (a n : Nat) : Bool :=
  feet.any fun x => (if w then x.acc / 2 % 2 == 1 else x.acc % 2 == 1) && decide (x.base ≤ a) && decide (a + n ≤ x.base + x.len)

/-- How many of `n` bytes from `a` on the footprint grants, for one access of them all or, bytewise, for an access of each; WEIGHT needs
none (R304). -/
def footRun (feet : List Foot) (w bytewise : Bool) (space a n : Nat) : Nat :=
  if space = 3 then n
  else if bytewise then ((List.range n).takeWhile fun k => footOk feet w ((a + k) % 2 ^ 64) 1).length
  else if footOk feet w a n then n else 0

/-- The uncorrectable error that an engine meets where it reads translated pieces on its own die (R51); one of the other member comes with the
line. -/
def State.piecesFlaw (s : State) (d : Die) (ps : List Piece) : State × Option Sub :=
  if s.flaws.isEmpty then (s, none) else
  ((ps.filter fun p => decide (serverOf p.1 = d)).flatMap fun p => (lineParts p.2.1 p.2.2.2.2).map fun q => lineAt p.1 q.1).foldl (fun (r : State × Option Sub) l =>
    let q := r.1.homeFlaw l
    (q.1, r.2 <|> q.2)) (s, none)

/-- The first bank of a range of the weight store that a job may not read, with the fault. -/
def bankFault (d : Die) (owned a n : Nat) : Option (Sub × Nat) :=
  ((List.range ((a + n - 1) / 2 ^ 23 + 1 - a / 2 ^ 23)).map (a / 2 ^ 23 + ·)).findSome? fun bk =>
    let at_ := max a (2 ^ 23 * bk)
    if bankCount d ≤ bk then some (.weightRange, at_) else if !owned.testBit bk then some (.bankOwner, at_) else none

/-- Bytes read for a job. Within a batch of an object slot it waits (R116). -/
def State.jobRead (s : State) (d : Die) (j : Job) (space a n : Nat) : JobRes (State × List Byte) :=
  if n = 0 then .ok (s, []) else
  if space = 3 then
    match bankFault d (((s.ctx j.ctx).map (·.desc.banks)).getD 0) a n with
    | some (sub, va) => .bad s sub va
    | none => match s.placeFlaw ⟨d, 0⟩ n (.weight d a) with
      | (s, some e) => .bad s e a
      | (s, none) => .ok (s, Memory.readN (s.ws d) a n)
  else match s.fwRange ⟨d, .job j.id⟩ j.ctx .engineRead a n with
    | .ok (s, ps) => if s.slotsBusy d ps then .wait s else
      match s.piecesFlaw d ps with
      | (s, some e) => .bad s e a
      | (s, none) => match s.homeBytes ⟨d, .job j.id⟩ j.ctx ps with
        | .ok r => .ok r
        | .wait s => .wait s
        | .bad s sub va => .bad s sub va
    | .wait s => .wait s
    | .bad s sub va => .bad s sub va

/-- Bytes written for a job. The owner of a WEIGHT destination was tested at submission, and is not tested again (R45; DESIGN CHOICE, log entry 89);
within a batch of an object slot the job waits (R116). -/
def State.jobWrite (s : State) (d : Die) (j : Job) (space a : Nat) (data : List Byte) : JobRes (State × Nat × Nat) :=
  if space = 3 then
    let gone (k : FlawAt) : Bool := match k with
      | .weight e g => e == d && decide (a / 32 ≤ g) && decide (g < (a + data.length) / 32)
      | _ => false
    .ok ((s.setWs d (Memory.writeN (s.ws d) a data)).heals gone, 0, 0)
  else match s.fwRange ⟨d, .job j.id⟩ j.ctx .engineWrite a data.length with
    | .ok (s, ps) => if s.slotsBusy d ps then .wait s else .ok (s.homeStoreG ⟨d, .job j.id⟩ j.ctx ps data 0 0)
    | .wait s => .wait s
    | .bad s sub va => .bad s sub va

/-- Whether a job writes whole aligned blocks, each in one access of 64 bytes (R64, R304). -/
def cardBlocks (c : List Byte) : Bool := (cardOp c 16).addr % 64 == 0 && cardCount c % 64 == 0

/-- Bytes moved from one place to another, as far as the footprint allows: an element, or an aligned block, is one access, which is
performed wholly or not at all; any other byte of a COPY is an access of its own (R64, R96, R304). -/
def State.jobMove (s : State) (d : Die) (j : Job) (src : Nat × Nat) (dst : Nat × Nat) (n : Nat) : JobRes (State × Nat × Nat) :=
  let feet := cardFeet j.card
  let copy := cardOpc j.card == 1
  let whole := !copy || cardBlocks j.card
  let rk := footRun feet false (copy && !(whole && src.2 % 64 == 0)) src.1 src.2 n
  let wk := footRun feet true (!whole) dst.1 dst.2 n
  let k := if whole && min rk wk < n then 0 else min rk wk
  let stop (s : State) : JobRes (State × Nat × Nat) :=
    .bad s .footprint ((if rk ≤ wk then src.2 + rk else dst.2 + wk) % 2 ^ 64)
  if k = 0 && n != 0 then stop s else
  match s.jobRead d j src.1 src.2 k with
  | .wait s => .wait s
  | .bad s sub va => .bad s sub va
  | .ok (s, b) => match s.jobWrite d j dst.1 dst.2 b with
    | .wait s => .wait s
    | .bad s sub va => .bad s sub va
    | .ok r => if k < n then stop r.1 else .ok r

/-- Step `k` of a job: 64 bytes of a COPY or FILL, or one element (R304). -/
def State.jobStep (s : State) (d : Die) (j : Job) (k : Nat) : JobRes (State × Nat × Nat) :=
  let c := j.card
  let dst := cardOp c 16
  let src := cardOp c 32
  let aux := cardOp c 48
  let feet := cardFeet c
  match cardOpc c with
  | 1 => s.jobMove d j (src.space, src.addr + 64 * k) (dst.space, dst.addr + 64 * k) (min 64 (cardCount c - 64 * k))
  | 2 =>
    let n := min 64 (cardCount c - 64 * k)
    let a := dst.addr + 64 * k
    let m := footRun feet true (!cardBlocks c) dst.space a n
    let pat := (List.range m).map fun i => BitVec.ofNat 8 (aux.addr / 2 ^ (8 * (i % 8)))
    if m = 0 && n != 0 then .bad s .footprint a else
    (match s.jobWrite d j dst.space a pat with
     | .ok r => if m < n then .bad r.1 .footprint (a + m) else .ok r
     | r => r)
  | op =>
    let e := cardUnit c
    if !footOk feet false (aux.addr + 4 * k) 4 then .bad s .footprint (aux.addr + 4 * k) else
    match s.jobRead d j 0 (aux.addr + 4 * k) 4 with
    | .wait s => .wait s
    | .bad s sub va => .bad s sub va
    | .ok (s, ib) =>
      let x := natOf ib
      if op = 3 then s.jobMove d j (src.space, src.addr + x * e) (dst.space, dst.addr + k * e) e
      else s.jobMove d j (src.space, src.addr + k * e) (dst.space, dst.addr + x * e) e

/-- A job of a die's scheduler replaced. -/
def State.putJob (s : State) (d : Die) (j : Job) : State :=
  s.setDie d { s.die d with jobs := updFirst (fun x => x.id == j.id) (fun _ => j) (s.die d).jobs }

/-- The steps of a job from the `k`-th on; one that must wait goes on from there. -/
def State.jobRun (s : State) (d : Die) (j : Job) : Nat → Nat → Nat → Nat → JobRes (State × Nat × Nat)
  | 0, _, gd, gp => .ok (s, gd, gp)
  | n + 1, k, gd, gp => match s.jobStep d j k with
    | .ok (s, g, h) => State.jobRun s d j n (k + 1) (max gd g) (max gp h)
    | .wait s => .wait (s.putJob d { j with waiting := true, step := k, gd := gd, gp := gp })
    | .bad s sub va => .bad s sub va

/-- The steps a job has. -/
def jobSteps (c : List Byte) : Nat := if cardOpc c ≤ 2 then (cardCount c + 63) / 64 else cardCount c

/-! ## Start and end (R96, R306) -/

/-- Whether a context is held until its next budget period, which pre-empts its jobs too (R334). -/
def State.budgetHeld (s : State) (ctx : Nat) : Bool := ((s.ctx ctx).map (·.heldBudget)).getD false

/-- JOB_START (R96): a job starts once every job it has an edge to has completed and the bank interlock allows. -/
def execJobStart (d : Die) (job : Nat) (s : State) : Out :=
  let jobs := (s.die d).jobs
  match jobs.find? fun j => j.id == job with
  | none => .next s
  | some j => if j.started || j.fault.isSome || jobHeld jobs j || s.bankHeld d j || s.budgetHeld j.ctx then .next s
      else .next (s.putJob d { j with started := true })

/-- The operation that counts a job retires, wherever its issuer is, a saved one's included (R346). -/
def State.retireJob (s : State) (j : Job) : State :=
  let done (o : Op) : Op := if o.id = j.opId then { o with ready := true } else o
  let par (r : Parison) : Parison := { r with ops := r.ops.map done }
  let wave (w : Wave) : Wave := { w with ops := w.ops.map done }
  let keep (l : List Saved) : List Saved := l.map fun (v : Saved) =>
    { v with pars := v.pars.map fun (e : ParId × Parison) => (e.1, par e.2), waves := v.waves.map fun (e : WaveId × Wave) => (e.1, wave e.2) }
  { s with waves := s.waves.map fun (e : WaveId × Wave) => (e.1, wave e.2)
           pars := s.pars.map fun (e : ParId × Parison) => (e.1, par e.2), saved := keep s.saved, snaps := keep s.snaps
           retained := keep s.retained }

/-- The record of a job that ended at a fault (R306). -/
def jobRecord (j : Job) (sub : Sub) (va now : Nat) : List Byte :=
  bytesOf 4 j.seq ++ [sub.code, BitVec.ofNat 8 j.ctx, 0, 0] ++ bytesOf 8 now ++ bytesOf 8 j.cardVa ++ bytesOf 8 va

/-- A job leaves the scheduler: its issuer's ENC falls. -/
def State.endJob (s : State) (d : Die) (j : Job) : State :=
  (s.setDie d { s.die d with jobs := (s.die d).jobs.filter fun x => x.id != j.id }).retireJob j

/-- A job ends with an engine fault: a record, and one more in JSTAT's count. -/
def State.faultJob (s : State) (d : Die) (j : Job) (sub : Sub) (va : Nat) : State :=
  let s := s.faultEntry j.ctx d 2 (jobRecord j sub va (s.now d))
  let s := match s.ctx j.ctx, d with
    | some c, .kapael => s.putCtx { c with engFaultsK := c.engFaultsK + 1 }
    | some c, .amdukor => s.putCtx { c with engFaultsA := c.engFaultsA + 1 }
    | none, _ => s
  s.endJob d j

/-- JOB_COMPLETE (R95, R306): a refused job ends with its fault; one that has started performs its accesses, and completes
once its writes on the other member are acknowledged and pair time has passed the write completion times of all, signalling its token. -/
def execJobComplete (d : Die) (job : Nat) (s : State) : Out :=
  match (s.die d).jobs.find? fun j => j.id == job with
  | none => .next s
  | some j =>
    if !s.fwIdle d then .next s else
    match j.fault with
    | some (sub, va) => .next (s.faultJob d j sub va)
    | none =>
      if !j.started || (!j.performed && s.budgetHeld j.ctx) then .next s
      else if !j.performed then
        (match s.jobRun d j (jobSteps j.card - j.step) j.step j.gd j.gp with
         | .ok (s, gd, gp) => .next (s.putJob d { j with performed := true, waiting := false, gd := gd, gp := gp })
         | .wait s => .next s
         | .bad s sub va => .next (s.faultJob d j sub va))
      else if s.farOut d (.job j.id) || (s.now d ≤ j.gp && j.gp != 0) then .next s
      else if cardFlags j.card % 2 == 1 && !j.signalled then
        (match s.fwSignal ⟨d, .job j.id⟩ j.ctx (cardToken j.card) { n := 1, gd := j.gd, gp := j.gp, dies := dieBit d, core := 0, multi := true } with
         | .ok s => .next (if s.farOut d (.job j.id) then s.putJob d { j with signalled := true } else s.endJob d j)
         | .wait s => .next (s.putJob d { j with waiting := true })
         | .bad s sub va => .next (s.faultJob d j sub va))
      else .next (s.endJob d j)

end Sys2Proof.Machine
end

