-- ==== Sys2Proof/Machine/System.lean ====
section
/-! DEFINITION. Special registers (R42, R43, R189, R312) and the trap window of a firmware core (R313). -/

namespace Sys2Proof.Machine

/-! ## Special registers (R189) -/

/-- The refresh phase length of a die, in ns (R42). -/
def phaseLen (fast : Bool) : Nat := if fast then 4096 else 8192

/-- WSPHASE (R43). -/
def State.wsphase (s : State) (d : Die) : Word :=
  let len := phaseLen (s.die d).fast
  let t := s.now d
  BitVec.ofNat 32 ((len - 1 - t % len) * 2 ^ 16 + t / (8 * len) % 256 * 2 ^ 8 + (if (s.die d).fast then 8 else 0) + t / len % 8)

/-- CORE: row, column and number (R189). -/
def coreCode (c : CoreRef) : Word :=
  let (cols, _) := gridOf c.die
  BitVec.ofNat 32 (c.core / cols * 2 ^ 12 + c.core % cols * 2 ^ 8 + c.core)

/-- DIE (R189). -/
def dieCode : Die → Word
  | .kapael => 0
  | .amdukor => 1

/-- The words of a special register that is the same for every lane; the per-lane ones read 0 here. -/
def State.csr (s : State) (c : CoreRef) (b : Option Block) (role n : Nat) : List Word :=
  match n with
  | 0x03 => [BitVec.ofNat 32 ((b.map (·.bindex)).getD 0)]
  | 0x07 => [BitVec.ofNat 32 role]
  | 0x09 => [coreCode c]
  | 0x0A => [dieCode c.die]
  | 0x0B => wordsOfPair (s.die c.die).ptime
  | 0x0C => wordsOfPair (s.die c.die).cycle
  | 0x0D => [s.wsphase c.die]
  | _ => [0]

/-- The form of INDEX in dimension 0, 1 or 2: the item's own index in role 0, the block's first item's in the others
(R151, R166). -/
def indexForm (b : Option Block) (role d : Nat) : Aff :=
  if role = 0 then { base := 0, sx := if d = 0 then 1 else 0, sy := if d = 1 then 1 else 0, sz := if d = 2 then 1 else 0 }
  else
    let o := (b.map (·.origin)).getD (0, 0, 0)
    Aff.ofWord (if d = 0 then o.1 else if d = 1 then o.2.1 else o.2.2)

/-- The form of RINDEX (R151, R166). -/
def rindexForm (b : Option Block) (role : Nat) : Aff :=
  if role = 0 then
    let (x0, y0, z0) := (b.map (·.origin)).getD (0, 0, 0)
    let (bx, by_, _) := (b.map (·.extent)).getD (1, 1, 1)
    let bx := BitVec.ofNat 32 bx
    let bxy := bx * BitVec.ofNat 32 by_
    { base := -(x0 + bx * y0 + bxy * z0), sx := 1, sy := bx, sz := bxy }
  else { base := 0, sx := 1, sy := 0, sz := 0 }

/-- The form of a special register in form mode; none when it blows the parison (R151, R152). -/
def State.csrForms (s : State) (c : CoreRef) (b : Option Block) (role n : Nat) : Option (List Aff) :=
  match n with
  | 0x00 | 0x01 | 0x02 => some [indexForm b role n]
  | 0x08 => some [rindexForm b role]
  | 0x04 | 0x05 | 0x06 => none
  | _ => some ((s.csr c b role n).map Aff.ofWord)

/-- The words of a special register in a lane of a wave. -/
def State.csrLane (s : State) (a : AgentId) (w : Wave) (n l : Nat) : List Word :=
  let b := w.block.bind s.blockOf
  let i := w.item l
  match n with
  | 0x04 => [BitVec.ofNat 32 l]
  | 0x05 => [BitVec.ofNat 32 (l / 4)]
  | 0x06 => [BitVec.ofNat 32 w.number]
  | 0x00 | 0x01 | 0x02 => [(indexForm b w.role n).at i.1 i.2.1 i.2.2]
  | 0x08 => [(rindexForm b w.role).at i.1 i.2.1 i.2.2]
  | _ => s.csr (coreOf a) b w.role n

/-- CSRR (R189, R312): a combiner wave has no special register to read (R117). -/
def execCsrr (x : GForm) (s : State) : Out :=
  let f := Instr.form (.csrr x)
  let n := x.b.toNat
  runInstr f
    { wave := fun s a w sp => match a with
        | .combiner _ => s.raise (.wave a w sp) .illegal .context
        | _ => vecWave f (each fun i => { words := s.csrLane a w n i.lane }) s a w sp
      par := fun s p r => match s.csrForms (parCore p) (s.blockOf r.block) r.role n with
        | some l => vecPar f (.stays fun _ => some l) (each fun _ => {}) s p r
        | none => vecPar f .blows (each fun _ => {}) s p r } s

/-- The MARKER record of a parison in form mode, which its table entry names with bit 27 (log entry 28). -/
def State.parMark (s : State) (p : ParId) (ctx : Nat) (v : Word) : State :=
  if s.traceOn ctx then
    ((s.traceLostOut p.die ctx).tracePut p.die ctx [traceRec 3 (2 ^ 27 + waveCode ⟨p.die, p.core, 0, p.entry⟩) v.toNat 0 0]).1
  else s

/-- CSRW (R312): of TRMARK alone, which emits a marker record. -/
def execCsrw (x : GForm) (s : State) : Out :=
  let f := Instr.form (.csrw x)
  runInstr f
    { wave := fun s a w sp =>
        let s := match lowest (w.exec sp f), a with
          | some l, .wave id _ => s.traceMark id 3 (w.operands (s.formFile (coreOf a)) f l).a0.toNat
          | _, _ => s
        s.finishWave a ((s.waveNow a w).release f.lastReads) sp f
      par := uniPar f fun s p r i => (s.parMark p r.ctx i.lane.a0).setPar p (r.issued f) } s

/-! ## Absent names (R346) -/

/-- A name's saved lanes become a register of its own. -/
def VBind.filled : VBind → VBind
  | .absent l => .phys l
  | b => b

/-- The aligned group of four names filled from the record. -/
def Wave.fillGroup (w : Wave) (g : Nat) : Wave :=
  { w with vmap := (List.range w.vmap.length).map fun n => if n / 4 = g then (nth w.vmap n .undef).filled else nth w.vmap n .undef }

/-! ## Causes in the order of delivery (R339) -/

/-- Whether one cause is delivered before another: by priority, then the gaffer's, then by slot, then by code. -/
def CauseRec.before (a b : CauseRec) : Bool :=
  let key (c : CauseRec) : Nat := c.cause.prio * 4096 + (if c.gaffer then 0 else c.slot + 1) * 256 + c.cause.code
  decide (key a ≤ key b)

/-- A cause put into a list in the order of delivery. -/
def insertCause (c : CauseRec) : List CauseRec → List CauseRec
  | [] => [c]
  | x :: t => if x.before c then x :: insertCause c t else c :: x :: t

/-- The pending causes in the order of delivery; among equals, in that of recording. -/
def delivery (l : List CauseRec) : List CauseRec := l.foldl (fun acc c => insertCause c acc) []

/-! ## The trap window (R313) -/

/-- A value for each lane from words given for the first lanes. -/
def firstLanes (ws : List Word) : List Word := perLane fun l => nth ws l 0

/-- The word for an index or its absence. -/
def idxWord (o : Option Nat) : Word := BitVec.ofNat 32 (o.getD 0xFF)

/-- The five words of a split as the window gives them. -/
def splitWords (o : Option Split) : List Word :=
  match o with
  | none => []
  | some sp => [1, BitVec.ofNat 32 sp.pos.ord, BitVec.ofNat 32 (if sp.pos.inside then sp.pos.pc else sp.pos.hofs), sp.act,
      idxWord sp.inner]

/-- The five words of a join record. -/
def joinWords (o : Option JoinRec) : List Word :=
  match o with
  | none => []
  | some j => [1, BitVec.ofNat 32 j.id, j.rejoin, j.arrived, idxWord j.encl]

/-- The ten words of class CTR. -/
def ctrWords (c : Counters) (gd gp : Nat) : List Word :=
  [c.ldc, c.stc, c.enc, c.mxc, c.txc, c.obc].map (fun v => v.setWidth 32)
    ++ wordsOfPair (BitVec.ofNat 64 gd) ++ wordsOfPair (BitVec.ofNat 64 gp)

/-- A pending cause by its place in the order of delivery. -/
def causeWords (cs : List CauseRec) (i : Nat) : List Word := ((delivery cs)[i]?.map fun c => wordsOf c.bytes).getD []

/-- The pending causes without one, unless the word written is not zero. -/
def clearCause (cs : List CauseRec) (i : Nat) (v : Word) : List CauseRec :=
  if v != 0 then cs else
  match (delivery cs)[i]? with
  | some c => cs.erase c
  | none => cs

/-- Whether a class and index are in range. -/
def windowOk (cls idx : Nat) : Bool :=
  match cls with
  | 0x00 | 0x02 => idx < 64
  | 0x01 => idx < 24
  | 0x03 => idx < 4
  | 0x04 => idx < 31
  | 0x05 | 0x07 => idx == 0
  | 0x06 => idx < 16
  | _ => false

/-- What a window reads of a wave. -/
def windowWave (w : Wave) (ff : List (Nat × Aff)) (cls idx : Nat) : List Word :=
  match cls with
  | 0x00 => perLane fun l => w.lane ff idx l
  | 0x01 => perLane fun l => if (nth w.preds idx 0).getLsbD l then 1 else 0
  | 0x02 => List.replicate 32 (nth w.sreg idx 0)
  | 0x03 => firstLanes (splitWords (nth w.slots idx none))
  | 0x04 => firstLanes (joinWords (nth w.joins idx none))
  | 0x05 => perLane fun l => if 1 ≤ l && l ≤ 7 then (nth w.xpat (l - 1) 0).setWidth 32 else 0
  | 0x06 => firstLanes (causeWords w.causes idx)
  | _ => firstLanes (ctrWords w.ctr w.gwd w.gwp)

/-- What a window reads of a parison; a range predicate has no one value, which is free. -/
def State.windowPar (s : State) (r : Parison) (ff : List (Nat × Aff)) (cls idx : Nat) : State × List Word :=
  match cls with
  | 0x00 =>
    (s, match (nth r.nmap idx none).bind fun k => look k ff with
      | none => firstLanes [0, 0, 0, 0, Config.formKind 0]
      | some x => firstLanes [x.base, x.sx, x.sy, x.sz, Config.formKind (if x.uni then 1 else 2)])
  | 0x01 => match nth r.pmap idx (.uni false) with
    | .uni v => (s, List.replicate 32 (if v then 1 else 0))
    | .range _ _ _ => ({ s with freeCtr := s.freeCtr + 32 }, (List.range 32).map fun k => Config.freeWord (s.freeCtr + k))
  | 0x02 => (s, List.replicate 32 (nth r.sreg idx 0))
  | 0x05 => (s, perLane fun l => if 1 ≤ l && l ≤ 7 then (nth r.xpat (l - 1) 0).setWidth 32 else 0)
  | 0x06 => (s, firstLanes (causeWords r.causes idx))
  | 0x07 => (s, firstLanes (ctrWords r.ctr r.gwd r.gwp))
  | _ => (s, List.replicate 32 0)

/-- A split's words changed in the lanes of a mask. -/
def splitFrom (o : Option Split) (m : Word) (b : Nat → Word) : Option Split :=
  let old := splitWords o
  let v (k : Nat) : Word := if m.getLsbD k then b k else nth old k 0
  if v 0 = 0 then none else
  let sp := o.getD {}
  let moved : Split := if m.getLsbD 2 then { sp with pos := { sp.pos.goHeader (v 2).toNat with run := 0 }, precise := false } else sp
  some { moved with pos := { moved.pos with ord := (v 1).toNat }, act := v 3
                    inner := if (v 4).toNat < 31 then some (v 4).toNat else none }

/-- A join record's words changed in the lanes of a mask. -/
def joinFrom (o : Option JoinRec) (m : Word) (b : Nat → Word) : Option JoinRec :=
  let old := joinWords o
  let v (k : Nat) : Word := if m.getLsbD k then b k else nth old k 0
  if v 0 = 0 then none else
  some { id := (v 1).toNat % 65536, rejoin := v 2, arrived := v 3, encl := if (v 4).toNat < 31 then some (v 4).toNat else none }

/-- Pattern registers changed in the lanes of a mask. -/
def xpatFrom (x : List Byte) (m : Word) (b : Nat → Word) : List Byte :=
  (List.range 7).map fun k => if m.getLsbD (k + 1) then (b (k + 1)).setWidth 8 else nth x k 0

/-- What a window writes of a wave: the lanes of a mask, `b` giving each lane's value and `b0` the lowest lane's. -/
def writeWindow (w : Wave) (ff : List (Nat × Aff)) (cls idx : Nat) (m : Word) (b : Nat → Word) (b0 : Word) : Wave :=
  match cls with
  | 0x00 => if w.allot ≤ idx then w else w.write ff idx m b
  | 0x01 => w.writePred idx m fun l => (b l).getLsbD 0
  | 0x02 => { w with sreg := w.sreg.set idx b0 }
  | 0x03 => w.setSlot idx (splitFrom (nth w.slots idx none) m b)
  | 0x04 => { w with joins := w.joins.set idx (joinFrom (nth w.joins idx none) m b) }
  | 0x05 => { w with xpat := xpatFrom w.xpat m b }
  | 0x06 => { w with causes := clearCause w.causes idx (if m.getLsbD 0 then b 0 else 1) }
  | _ => w

/-- What a window writes of a parison: a name takes a form whose words come in lanes 0 to 3; a name that held none, with no slot of the
form file free, is left without one (DESIGN CHOICE, log entry 45). -/
def State.writeWindowPar (s : State) (p : ParId) (r : Parison) (cls idx : Nat) (m : Word) (b : Nat → Word) (b0 : Word) : State :=
  match cls with
  | 0x00 =>
    let old := ((nth r.nmap idx none).bind fun k => look k (s.formFile (parCore p))).getD (Aff.ofWord 0)
    let v (k : Nat) (o : Word) : Word := if m.getLsbD k then b k else o
    if r.allot ≤ idx then s else
    (s.setPar p { r with nmap := r.nmap.set idx none }).bindFree (parCore p) p [(idx, { base := v 0 old.base, sx := v 1 old.sx, sy := v 2 old.sy, sz := v 3 old.sz })]
  | 0x01 => s.setPar p { r with pmap := r.pmap.set idx (.uni (b0.getLsbD 0)) }
  | 0x02 => s.setPar p { r with sreg := r.sreg.set idx b0 }
  | 0x05 => s.setPar p { r with xpat := xpatFrom r.xpat m b }
  | 0x06 => s.setPar p { r with causes := clearCause r.causes idx (if m.getLsbD 0 then b 0 else 1) }
  | _ => s

/-- A window instruction: its selector from the lowest executing lane; WINDOW when the core has no binding, or the class
or index is out of range. -/
def windowInstr (f : Form) (go : State → AgentId → Wave → Split → Bound → Nat → Nat → State) (s : State) : Out :=
  runInstr f
    { wave := fun s a w sp =>
        match lowest (w.exec sp f), a with
        | none, _ => s.finishWave a (w.release f.lastReads) sp f
        | some l, .firmware d n =>
          let sel := (w.operands (s.formFile (coreOf a)) f l).a0
          let bound := (s.fwCore d n).window
          if bound = .none || !windowOk (Word.bits sel 7 0) (Word.bits sel 15 8) then s.raise (.wave a w sp) .illegal .window
          else go s a w sp bound (Word.bits sel 7 0) (Word.bits sel 15 8)
        | some _, _ => s
      par := fun s _ _ => s } s

/-- WINRD (R313). -/
def execWinrd (x : GForm) (s : State) : Out :=
  let f := Instr.form (.winrd x)
  windowInstr f (fun s a w sp bound cls idx =>
    let (s, ws) := match bound with
      | .wave id => match look id s.waves with
        | some b =>
          let b := if cls = 0 then b.fillGroup (idx / 4) else b
          ({ s with waves := put id b s.waves }, windowWave b (s.formFile ⟨id.die, id.core⟩) cls idx)
        | none => (s, [])
      | .par p => match look p s.pars with
        | some r => s.windowPar r (s.formFile (parCore p)) cls idx
        | none => (s, [])
      | .none => (s, [])
    vecWave f (each fun i => { words := [nth ws i.lane 0] }) s a w sp) s

/-- WINWR (R313). -/
def execWinwr (x : GForm) (s : State) : Out :=
  let f := Instr.form (.winwr x)
  windowInstr f (fun s a w sp bound cls idx =>
    let ex := w.exec sp f
    let ff := s.formFile (coreOf a)
    let b (l : Nat) : Word := if ex.getLsbD l then (w.operands ff f l).b0 else 0
    let b0 := b ((lowest ex).getD 0)
    let s := s.finishWave a (w.release f.lastReads) sp f
    match bound with
    | .wave id => match look id s.waves with
      | some y =>
        let y := if cls = 0 then y.fillGroup (idx / 4) else y
        { s with waves := put id (writeWindow y (s.formFile ⟨id.die, id.core⟩) cls idx ex b b0) s.waves }
      | none => s
    | .par p => match look p s.pars with
      | some r => s.writeWindowPar p r cls idx ex b b0
      | none => s
    | .none => s) s

/-- The split of a wave whose instruction stalls for a fill. -/
def Wave.filling (w : Wave) : Option (Nat × Split) :=
  (List.range 4).findSome? fun k => match nth w.slots k none with
    | some sp => if sp.stall = .fill then some (k, sp) else none
    | none => none

/-- REGISTER_FILL (R346): the first use of an absent name fills its group from the record; an uncorrectable error of the record is
delivered at the instruction that reads it. -/
def execRegisterFill (w : WaveId) (group : Nat) (s : State) : Out :=
  match look w s.waves with
  | none => .next s
  | some x =>
    let (s, bad) := s.meets w.die fun k => match k with
      | .reg v n _ => v == w && n / 4 == group
      | _ => false
    match bad, x.filling with
    | true, some (k, sp) => .next (s.raise (.wave (.wave w k) x sp) .ecc .eccDram)
    | _, _ => .next { s with waves := put w (x.fillGroup group) s.waves }

end Sys2Proof.Machine
end

