-- ==== Sys2Proof/Machine/Launch.lean ====
section
/-! DEFINITION. Launch descriptors and their checks, queues and completion records, and the start of a launch (R148,
R315 to R322, R325, R400, R401). -/

namespace Sys2Proof.Machine

/-! ## The launch descriptor (R325) -/

/-- The field of `n` bytes at `o` of a descriptor. -/
def dField (d : List Word) (o n : Nat) : Nat := fieldOf (bytesOfWords d) o n

/-- A role entry. -/
structure RoleDesc where
  entry : Nat
  allot : Nat
  waves : Nat
  deriving DecidableEq, Repr

/-- The entry of role `r`. -/
def roleDesc (d : List Word) (r : Nat) : RoleDesc :=
  { entry := dField d (32 + 8 * r) 4, allot := dField d (36 + 8 * r) 1, waves := dField d (37 + 8 * r) 1 }

/-- The roles that run (R166). -/
def rolesRun (d : List Word) : List Nat := (List.range 4).filter fun r => r == 0 || (roleDesc d r).waves != 0

/-- The block's extents. -/
def blockDim (d : List Word) : Nat × Nat × Nat := (dField d 20 2, dField d 22 1, dField d 23 1)

/-- The grid's extents. -/
def gridDim (d : List Word) : Nat × Nat × Nat := (dField d 8 4, dField d 12 4, dField d 16 4)

/-- The cohort shape; 0 means 1 (R167). -/
def cohortDim (d : List Word) : Nat × Nat := (max 1 (dField d 28 1 % 16), max 1 (dField d 28 1 / 16))

/-- The items of a block. -/
def blockItems (d : List Word) : Nat := (blockDim d).1 * (blockDim d).2.1 * (blockDim d).2.2

/-- The blocks of a launch. -/
def gridBlocks (d : List Word) : Nat := (gridDim d).1 * (gridDim d).2.1 * (gridDim d).2.2

/-- Wave slots that a role reserves: W0 for role 0 (R156). -/
def roleWaves (d : List Word) (r : Nat) : Nat :=
  if r = 0 then max (roleDesc d 0).waves ((blockItems d + 31) / 32) else (roleDesc d r).waves

/-- Scratch granules, tiles, flags, kernel argument, completion token, banks of a descriptor. -/
def dScratch (d : List Word) : Nat := dField d 24 2
@[inherit_doc dScratch] def dTiles (d : List Word) : Nat := dField d 26 2
@[inherit_doc dScratch] def dFlags (d : List Word) : Nat := dField d 29 1
@[inherit_doc dScratch] def dKarg (d : List Word) : Nat := dField d 64 8
@[inherit_doc dScratch] def dToken (d : List Word) : Nat := dField d 72 8
@[inherit_doc dScratch] def dBanks (d : List Word) : Nat := dField d 80 16
@[inherit_doc dScratch] def dQuad (d : List Word) : Bool := dFlags d / 4 % 2 == 1

/-- Whether a reserved field of a descriptor is not zero. -/
def dReserved (d : List Word) : Bool :=
  dField d 96 32 != 0 || dField d 30 2 != 0 || dFlags d / 8 != 0 || (List.range 4).any fun r => dField d (38 + 8 * r) 2 != 0

/-- The image whose header stands at an address. -/
def State.imageAt (s : State) (ctx va : Nat) : Option Image := (s.ctx ctx).bind fun c => c.images.find? fun i => i.va == va

/-- The entry of an image at a word offset. -/
def Image.entryAt (im : Image) (wofs : Nat) : Option Entry := im.entries.find? fun e => e.wofs == wofs

/-- The histograms of a launch: those of the entry that uses most (R70). -/
def dHist (im : Image) (d : List Word) : Nat :=
  (rolesRun d).foldl (fun m r => max m (((im.entryAt (roleDesc d r).entry).map (·.hist)).getD 0)) 0

/-- Cores of a die. -/
def coreCount (d : Die) : Nat := (gridOf d).1 * (gridOf d).2

/-- The cores of the rectangle whose lowest column and row are a core's, place (i, j) with them; none when it leaves the
grid or takes in a disabled core (R167). -/
def State.rect (s : State) (d : Die) (w h core : Nat) : Option (List ((Nat × Nat) × Nat)) :=
  let (cols, rows) := gridOf d
  let col := core % cols
  let row := core / cols
  if cols < col + w || rows < row + h then none else
  let l := (List.range h).flatMap fun j => (List.range w).map fun i => ((i, j), (row + j) * cols + col + i)
  if l.any fun e => (s.die d).disabled.contains e.2 then none else some l

/-- Whether a cohort shape fits some rectangle of a die. -/
def State.rectAny (s : State) (d : Die) (w h : Nat) : Bool := (List.range (coreCount d)).any fun c => (s.rect d w h c).isSome

/-- The checks of a descriptor's shape against R148, R166 to R168 and R198, the die and TILEQ. -/
def State.shapeBad (s : State) (c : Context) (die : Die) (im : Image) (d : List Word) : Bool :=
  let (bx, by_, bz) := blockDim d
  let (gx, gy, gz) := gridDim d
  let (w, h) := cohortDim d
  let es := (rolesRun d).map fun r => (roleDesc d r, (im.entryAt (roleDesc d r).entry).getD { wofs := 0 })
  bx = 0 || decide (1024 < bx) || by_ = 0 || bz = 0 || decide (1024 < blockItems d) || gx = 0 || gy = 0 || gz = 0
    || decide (2 ^ 32 < gridBlocks d) || decide (2 ^ 32 < gx * bx) || decide (2 ^ 32 < gy * by_) || decide (2 ^ 32 < gz * bz)
    || decide (4 < w) || decide (4 < h) || gx % w != 0 || gy % h != 0 || !s.rectAny die w h
    || (dQuad d && (bx % 2 == 1 || by_ % 2 == 1))
    || (List.range 4).any (fun r => decide (64 < (roleDesc d r).allot) || (roleDesc d r).allot % 8 != 0
        || decide (32 < (roleDesc d r).waves))
    || es.any (fun e => decide (e.1.allot < 8) || decide (e.1.allot < e.2.maxv) || decide (dScratch d < e.2.scratch) || decide (dTiles d < e.2.tiles)
        || (dBanks d &&& e.2.banks) != e.2.banks
        || (e.2.cohort != 0 && cohortDim d != (max 1 (e.2.cohort % 16), max 1 (e.2.cohort / 16))))
    || decide (56 < dScratch d) || decide (528 < dTiles d) || decide (c.desc.tileq < dTiles d) || decide (4 < dHist im d)
    || decide (128 < ((rolesRun d).map (roleWaves d)).sum)

/-- The status with which a descriptor is refused, 0 when it is accepted (R325). -/
def State.launchCheck (s : State) (c : Context) (die : Die) (d : List Word) : Nat :=
  if dReserved d then 1 else
  match s.imageAt c.num (dField d 0 8) with
  | none => 3
  | some im =>
    if (rolesRun d).any fun r => (im.entryAt (roleDesc d r).entry).isNone then 3
    else if s.shapeBad c die im d then 2
    else if (dBanks d &&& c.desc.banks) != dBanks d || decide (2 ^ bankCount die ≤ dBanks d) then 14 else 0

/-! ## Queues -/

/-- What an access of the host to Kapael's host-function BAR0 does: nothing before Kapael has booted and the host link has trained (R385
step 4). -/
def State.onBar0 (s : State) (act : Out) : Out := if s.hostUp && s.kap.boot == 3 then act else .next s

/-- A queue's key; none is the management queue. -/
abbrev QKey := Option QueueRef

/-- A queue. -/
def State.queue (s : State) (k : QKey) : Option Queue :=
  match k with
  | some r => look r s.queues
  | none => s.mq

/-- The state with a queue replaced. -/
def State.putQueue (s : State) (k : QKey) (q : Queue) : State :=
  match k with
  | some r => { s with queues := put r q s.queues }
  | none => { s with mq := some q }

/-- The state with a queue changed. -/
def State.onQueue (s : State) (k : QKey) (f : Queue → Queue) : State :=
  match s.queue k with
  | some q => s.putQueue k (f q)
  | none => s

/-- The member that consumes a queue (R315, R354). -/
def State.queueDie (s : State) (k : QKey) : Die :=
  match k with
  | none => .kapael
  | some r => match s.queue k, s.ctx r.ctx with
    | some q, some c => if q.desc.place = 0 then .kapael else c.resident
    | _, _ => .kapael

/-- Bytes of a queue's structures read: of the context's memory, or of host memory for the management queue (R324,
R401). -/
def State.qRead (s : State) (k : QKey) (va n : Nat) : FwRes (State × List Byte) :=
  match k with
  | some r => s.fwRead ⟨s.queueDie k, .queue k⟩ r.ctx .load va n
  | none => if s.hostUp then .ok (s, Memory.readN s.memH va n) else .bad s .homeAbsent va

/-- Bytes of a queue's state block or completion ring written. -/
def State.qWrite (s : State) (k : QKey) (va : Nat) (data : List Byte) : FwRes State :=
  match k with
  | some r => s.fwWrite ⟨s.queueDie k, .queue k⟩ r.ctx .tokenWrite va data
  | none => if s.hostUp then .ok { s with memH := Memory.writeN s.memH va data } else .bad s .homeAbsent va

/-- The bytes of a completion record (R320). -/
def Completion.bytes (c : Completion) : List Byte :=
  bytesOf 4 c.seq.toNat ++ bytesOf 2 c.status ++ [if c.replayed then 1 else 0, if c.die = .kapael then 0 else 1] ++ bytesOf 8 c.time

/-- A completion of now on the member that consumes a queue. -/
def State.completion (s : State) (k : QKey) (seq : Word) (status : Nat) : Completion :=
  { seq := seq, status := status, die := s.queueDie k, time := s.now (s.queueDie k) }

/-- MQSTATUS of the management queue (R324). -/
def State.setMqStatus (s : State) (status : Nat) : State :=
  let present := s.mq.isSome
  let halted := ((s.mq.map (·.status)).getD 0) != 0
  { s with mqstatus := BitVec.ofNat 32 (status + (if present then 2 ^ 16 else 0) + if halted then 2 ^ 17 else 0) }

/-- A queue's status changed and told: QSTATUS joins what is owed to the state block, MQSTATUS takes it at once (R320,
R324). -/
def State.setStatus (s : State) (k : QKey) (status : Nat) : State :=
  match s.queue k with
  | none => s
  | some q =>
    let tell : List (Nat × List Byte) := match k with
      | none => []
      | some _ => [(16, bytesOf 2 status)]
    let s := s.putQueue k { q with status := status, bell := false, owed := q.owed ++ tell }
    match k with
    | none => s.setMqStatus status
    | some _ => s

/-- Room in a completion ring. -/
def Queue.room (q : Queue) : Bool := decide ((q.cwptr + 2 ^ 32 - q.crptr) % 2 ^ 32 < q.desc.centries)

/-- An access of a queue's structures has faulted: the queue halts with QUEUE_FAULT, told in QSTATUS and in a record, and a
kind 8 record goes to the context's fault queue (R401). The record's SEQ names no packet and is free. -/
def State.queueFault (s : State) (k : QKey) (sub : Sub) (va : Nat) : State :=
  let s := (s.setStatus k 18).onQueue k fun q => { q with held := q.held ++ [s.completion k (Config.freeWord s.freeCtr) 18] }
  let s := { s with freeCtr := s.freeCtr + 1 }
  match k with
  | some r => s.faultNote r.ctx (s.queueDie k) 8 sub.code 0 va
  | none => s

/-- A write of a queue that has faulted: dropped when the queue has halted with QUEUE_FAULT already (R401). -/
def State.queueBad (s : State) (k : QKey) (sub : Sub) (va : Nat) : State :=
  if ((s.queue k).map (·.status)).getD 18 = 18 then s else s.queueFault k sub va

/-- What a queue owes its state block and its completion ring is written, oldest first: stores of the state block, each
at its offset, then held records while the ring has room, CWPTR after each (R317, R320). A page that is being moved holds the rest;
`n` bounds how much. -/
def State.payQueue (s : State) (k : QKey) : Nat → State
  | 0 => s
  | n + 1 => match s.queue k with
    | none => s
    | some q => match q.owed, q.held with
      | (o, data) :: t, _ => (match s.qWrite k (q.desc.stateVa + o) data with
        | .wait s => s
        | .bad s sub va => State.payQueue ((s.onQueue k fun q => { q with owed := t }).queueBad k sub va) k n
        | .ok s => State.payQueue (s.onQueue k fun q => { q with owed := t }) k n)
      | [], [] => s
      | [], c :: t =>
        if !q.room then s else
        match s.qWrite k (q.desc.cring + 16 * (q.cwptr % q.desc.centries)) c.bytes with
        | .wait s => s
        | .bad s sub va => State.payQueue ((s.onQueue k fun q => { q with held := t }).queueBad k sub va) k n
        | .ok s =>
          let w := (q.cwptr + 1) % 2 ^ 32
          State.payQueue (s.onQueue k fun q => { q with held := t, cwptr := w, owed := [(12, bytesOf 4 w)] }) k n

/-- Everything that a queue owes written, as far as it can be now. -/
def State.flushHeld (s : State) (k : QKey) : State :=
  s.payQueue k (((s.queue k).map fun q => q.owed.length + 2 * q.held.length).getD 0 + 4)

/-- A queue halted: QSTATUS or MQSTATUS takes the status (R320, R324). -/
def State.haltStatus (s : State) (k : QKey) (status : Nat) : State := (s.setStatus k status).flushHeld k

/-- A queue whose access has faulted halts, and what can still be written is (R401). -/
def State.queueHalts (s : State) (k : QKey) (sub : Sub) (va : Nat) : State := (s.queueBad k sub va).flushHeld k

/-- A packet completes with a status: a record when it asks for one (R318, R320), marked when the packet completes a
second time after a loss (R146). -/
def State.complete (s : State) (k : QKey) (seq : Word) (status : Nat) (compl : Bool) : State :=
  (s.onQueue k fun q =>
    { q with running := q.running.erase seq, done := q.done ++ [seq]
             held := if compl then q.held ++ [{ s.completion k seq status with replayed := q.replays.contains seq }] else q.held
             replays := q.replays.erase seq }).flushHeld k

/-- A queue halted by a packet that fails the checks of R320: the record is written whatever COMPL says. -/
def State.haltPacket (s : State) (k : QKey) (seq : Word) (status : Nat) : State :=
  ((s.setStatus k status).onQueue k fun q => { q with held := q.held ++ [s.completion k seq status] }).flushHeld k

/-! ## Starting a launch (R29, R322) -/

/-- Banks that enter a context are zeroed on both dies before the change takes effect (R45). -/
def State.zeroBanks (s : State) (old new : Nat) : State :=
  let fresh (n : Nat) : List Nat := (List.range n).filter fun b => new.testBit b && !old.testBit b
  { s with wsK := (fresh 32).foldl (fun m b => Memory.clear m (b * 2 ^ 23) (2 ^ 23)) s.wsK
           wsA := (fresh 128).foldl (fun m b => Memory.clear m (b * 2 ^ 23) (2 ^ 23)) s.wsA }

/-- The fields of a descriptor update that wait for a launch start take effect. -/
def State.applyPending (s : State) (ctx : Nat) : State :=
  match s.ctx ctx with
  | none => s
  | some c => match c.pendingDesc with
    | none => s
    | some p =>
      let d := { c.desc with banks := p.banks, tileq := p.tileq, objimg := p.objimg, rsgen := p.rsgen, snapva := p.snapva }
      (s.putCtx { c with desc := d, pendingDesc := none }).zeroBanks c.desc.banks p.banks

/-- A launch put into the dispatcher's list, with its ticket (R44). -/
def State.startLaunch (s : State) (r : QueueRef) (c : Context) (q : Queue) (seq : Word) (compl : Bool) (node : Option (Nat × Nat))
    (d : List Word) (gates : List (Nat × Nat)) : State :=
  let die := s.queueDie (some r)
  let im := ((s.imageAt c.num (dField d 0 8)).map (·.id)).getD 0
  let l : Launch :=
    { id := s.launchCtr, ctx := r.ctx, queue := r.queue, seq := seq, compl := compl, barrier := false, node := node, desc := d
      image := im, die := die, prio := min (dFlags d % 4) q.desc.priocap, ticket := s.ticketCtr
      gates := gates, gatesMet := gates.isEmpty, snapva := c.desc.snapva }
  { s with launches := s.launches ++ [l], launchCtr := s.launchCtr + 1, ticketCtr := s.ticketCtr + 1 }

/-- A descriptor taken as a launch of a queue: refused with a status, or started (R321, R325). R29 does not say whether one that is refused
is a launch start: fields that wait for one take effect before the check, so that a refused one applies them too (DESIGN CHOICE, log entry
109). -/
def State.takeLaunch (s : State) (r : QueueRef) (seq : Word) (compl : Bool) (d : List Word) (gates : List (Nat × Nat)) : State :=
  let s := s.applyPending r.ctx
  match s.ctx r.ctx, s.queue (some r) with
  | some c, some q =>
    let st := s.launchCheck c (s.queueDie (some r)) d
    if st != 0 then s.complete (some r) seq st compl else s.startLaunch r c q seq compl none d gates
  | _, _ => s

/-! ## Gates (R322, R400) -/

/-- What reading the tokens of gates comes to: all met, with their times and places; not yet; or a fault. -/
inductive GateRes
  | met (s : State) (toks : List (Nat × Nat × Nat))
  | no (s : State)
  | bad (s : State) (sub : Sub) (va : Nat)

/-- The tokens of a list of gates read. -/
def State.readGates (s : State) (d : FwBy) (ctx : Nat) : List (Nat × Nat) → GateRes
  | [] => .met s []
  | (va, n) :: t => match s.fwToken d ctx va with
    | .wait s => .no s
    | .bad s sub va => .bad s sub va
    | .ok (s, tok) =>
      if tok.count < n then .no s else
      match State.readGates s d ctx t with
      | .met s l => .met s ((tok.gd, tok.gp, tok.place) :: l)
      | r => r

/-- Whether the narrowed scope of every gate has passed for a core (R99). -/
def Launch.gatesPassed (l : Launch) (s : State) (c : CoreRef) : Bool :=
  l.gateToks.all fun g => match Token.until { count := 0, gd := g.1, gp := g.2.1, place := g.2.2 } c with
    | some t => decide (t < s.now c.die)
    | none => true

end Sys2Proof.Machine
end

