-- ==== Sys2Proof/Machine/Graph.lean ====
section
/-! DEFINITION. Launch graphs: resident tables, the runs of a table, the decrements of its nodes, and ULAUNCH (R296, R326,
R327). -/

namespace Sys2Proof.Machine

/-! ## Tables (R326) -/

/-- A graph table of a queue. -/
def Queue.table (q : Queue) (n : Nat) : Option GTable := q.tables.find? fun t => t.num == n

/-- A queue with a graph table replaced. -/
def Queue.putTable (q : Queue) (t : GTable) : Queue := { q with tables := updFirst (fun x => x.num == t.num) (fun _ => t) q.tables }

/-- A graph table of a user queue. -/
def State.table (s : State) (r : QueueRef) (n : Nat) : Option GTable := (s.queue (some r)).bind fun q => q.table n

/-- The state with a graph table replaced. -/
def State.putTable (s : State) (r : QueueRef) (t : GTable) : State := s.onQueue (some r) fun q => q.putTable t

/-- A table with no run active: what was loaded in its place since the run began stands there now. -/
def GTable.idle (t : GTable) : GTable := { t with run := none, gates := [], fault := false, nodes := t.later.getD t.nodes, later := none }

/-- A queue whose table has no run active any more; a table without nodes is none. -/
def Queue.endRun (q : Queue) (tn : Nat) : Queue :=
  { q with tables := (updFirst (fun x => x.num == tn) GTable.idle q.tables).filter fun t => !t.nodes.isEmpty }

/-- A queue's tables with no run active. -/
def Queue.idleTables (q : Queue) : List GTable := (q.tables.map GTable.idle).filter fun t => !t.nodes.isEmpty

/-- A table with one of its nodes changed. -/
def GTable.onNode (t : GTable) (k : Nat) (f : GNode → GNode) : GTable :=
  { t with nodes := t.nodes.set k (f (t.nodes.getD k { desc := [], initPred := 0, succ := [] })) }

/-! ## Nodes (R326, R327) -/

/-- One more engine fault of a context on a die, as JSTAT counts them (R307). -/
def State.engFault (s : State) (ctx : Nat) (d : Die) : State :=
  match s.ctx ctx, d with
  | some c, .kapael => s.putCtx { c with engFaultsK := c.engFaultsK + 1 }
  | some c, .amdukor => s.putCtx { c with engFaultsA := c.engFaultsA + 1 }
  | none, _ => s

/-- A node launched: it starts, or its descriptor is refused and it counts as completed; the nodes to decrement next are
answered. -/
def State.launchNode (s : State) (r : QueueRef) (tn k : Nat) : State × List Nat :=
  let s := s.applyPending r.ctx
  match s.ctx r.ctx, s.queue (some r), s.table r tn with
  | some c, some q, some t =>
    match t.nodes[k]?, t.run with
    | some n, some (seq, _) =>
      if s.launchCheck c (s.queueDie (some r)) n.desc != 0 then
        (s.putTable r (t.onNode k fun n => { n with state := .completed }), n.succ)
      else
        ((s.putTable r (t.onNode k fun n => { n with state := .launched })).startLaunch r c q seq false (some (tn, k)) n.desc t.gates, [])
    | _, _ => (s, [])
  | _, _, _ => (s, [])

/-- One decrement of a node's counter (R327): a node that it takes to 0 is launched, once; a counter that stands at 0
already is an underflow. A run that a gate's fault has ended launches nothing more (R400). -/
def State.decrement (s : State) (r : QueueRef) (tn k : Nat) : State × List Nat :=
  let under (s : State) : State × List Nat :=
    let d := s.queueDie (some r)
    ((s.faultNote r.ctx d 6 Sub.graphUnderflow.code k 0).engFault r.ctx d, [])
  match s.table r tn with
  | none => under s
  | some t =>
    match t.nodes[k]?, t.run with
    | some n, some _ =>
      if t.fault then (s, [])
      else if n.count = 0 then under s
      else
        let s := s.putTable r (t.onNode k fun n => { n with count := n.count - 1 })
        if n.count = 1 && n.state == .waiting then s.launchNode r tn k else (s, [])
    | _, _ => under s

/-- Decrements made one after another; `n` bounds them. -/
def State.decrements (s : State) (r : QueueRef) (tn : Nat) : Nat → List Nat → State
  | 0, _ => s
  | _, [] => s
  | n + 1, k :: t =>
    let (s, more) := s.decrement r tn k
    State.decrements s r tn n (t ++ more)

/-- More decrements than one run can call for: a table's 4,096 nodes have 28 successors each. -/
def maxDecrements : Nat := 4096 * 28 + 4096

/-- Nodes whose counter starts at 0, launched in order of their numbers. -/
def State.launchReady (s : State) (r : QueueRef) (tn : Nat) : List Nat → State
  | [] => s
  | k :: t =>
    let go := ((s.table r tn).bind fun g => g.nodes[k]?).any fun n => n.initPred == 0
    let s := if go then
        let (s, more) := s.launchNode r tn k
        s.decrements r tn maxDecrements more
      else s
    State.launchReady s r tn t

/-- A run begins (R326 steps 1 and 2). -/
def State.startRun (s : State) (r : QueueRef) (t : GTable) (seq : Word) (compl : Bool) (gates : List (Nat × Nat)) : State :=
  let fresh := { t with nodes := t.nodes.map fun (n : GNode) => { n with count := n.initPred, state := .waiting }
                        run := some (seq, compl), gates := gates, fault := false }
  (s.putTable r fresh).launchReady r t.num (List.range t.nodes.length)

/-- Whether a run is over: every node has completed, or a gate has faulted and no node's launch is left. -/
def State.runOver (s : State) (r : QueueRef) (t : GTable) : Bool :=
  t.run.isSome && (t.nodes.all (fun n => n.state == .completed)
    || (t.fault && !s.launches.any fun l => l.ctx == r.ctx && l.queue == r.queue && l.node.any fun n => n.1 == t.num))

/-- The next GRAPH packet that waits for a table begins. -/
def State.nextRun (s : State) (r : QueueRef) (tn : Nat) : State :=
  match s.queue (some r) with
  | none => s
  | some q => match q.waitGraph.find? fun w => w.1 == tn, q.table tn with
    | some w, some t =>
      (s.putQueue (some r) { q with waitGraph := q.waitGraph.erase w }).startRun r t w.2.1 w.2.2.1 w.2.2.2
    | _, _ => s

/-- A run that is over completes: OK, or TOKEN_FAULT for a gate that faulted; a second GRAPH packet for its table begins.
`n` bounds how many runs of nodes that are all refused follow one another. -/
def State.endRuns (s : State) (r : QueueRef) (tn : Nat) : Nat → State
  | 0 => s
  | n + 1 => match s.table r tn with
    | none => s
    | some t =>
      if !s.runOver r t then s else
      match t.run with
      | none => s
      | some (seq, compl) =>
        let s := (s.onQueue (some r) fun q => q.endRun tn).complete (some r) seq (if t.fault then 17 else 0) compl
        State.endRuns (s.nextRun r tn) r tn n

/-- Runs of a table that end, with one more than those waiting as the bound. -/
def State.settleRuns (s : State) (r : QueueRef) (tn : Nat) : State :=
  s.endRuns r tn (((s.queue (some r)).map (·.waitGraph.length)).getD 0 + 1)

/-- A node's launch has completed: its successors are decremented (R326 step 3). -/
def State.nodeDone (s : State) (r : QueueRef) (tn k : Nat) : State :=
  match s.table r tn with
  | none => s
  | some t =>
    let succ := ((t.nodes[k]?).map (·.succ)).getD []
    ((s.putTable r (t.onNode k fun n => { n with state := .completed })).decrements r tn maxDecrements succ).settleRuns r tn

/-! ## Loading a table (R326) -/

/-- A node of a table's memory image. -/
def nodeOf (b : List Byte) : GNode :=
  let n := fieldOf b 130 2
  { desc := wordsOf (b.take 128), initPred := fieldOf b 128 2, succ := (List.range (min n 28)).map fun k => fieldOf b (136 + 2 * k) 2 }

/-- Whether a node's image breaks the layout or names no node of its table. -/
def nodeBad (b : List Byte) (nodes : Nat) : Bool :=
  decide (28 < fieldOf b 130 2) || fieldOf b 132 4 != 0 || (nodeOf b).succ.any fun k => decide (nodes ≤ k)

/-- The status of the first node that a table is refused for, 0 when it is accepted. -/
def State.nodesCheck (s : State) (c : Context) (d : Die) (nodes : Nat) : List (List Byte) → Nat
  | [] => 0
  | b :: t =>
    if nodeBad b nodes then 1 else
    let st := s.launchCheck c d (nodeOf b).desc
    if st != 0 then st else State.nodesCheck s c d nodes t

/-! ## ULAUNCH (R296) -/

/-- The largest gwp of a parison and its live waves. -/
def State.parGwp (s : State) (p : ParId) (r : Parison) : Nat := (s.wavesOf p).foldl (fun m e => max m e.2.gwp) r.gwp

/-- ULAUNCH (R296): it releases a node of a resident graph of the parison's queue. -/
def execUlaunch (x : GForm) (s : State) : Out :=
  let f := Instr.form (.ulaunch x)
  runInstr f
    { wave := fun s _ _ _ => s
      par := fun s p r =>
        let y := Actor.par p r
        let h := nth (r.sregs f.use.a f.fields.2.1) 0 0
        let q : QueueRef := ⟨r.ctx, s.queueOfBlock (some r.block)⟩
        let tn := Word.bits h 31 16
        let k := Word.bits h 15 0
        if !((s.table q tn).any fun t => decide (k < t.nodes.length)) then
          s.trap y [y.record .engine .graphHandle 0xFFFFFFFF 0 0] (some r.pos)
        else match r.guard f with
          | none => s.raise y .illegal .guard
          | some false => s.setPar p (r.issued f)
          | some true =>
            if !s.caughtUp p r then s.stalled y .catchup
            else if s.now p.die ≤ s.parGwp p r && s.parGwp p r != 0 then s.stalled y .fence
            else
              let s := (s.setPar p (r.issued f)).irrevocable (some r.block)
              (s.decrements q tn maxDecrements [k]).settleRuns q tn } s

end Sys2Proof.Machine
end

