-- ==== Sys2Proof/Machine/Admit.lean ====
section
/-! DEFINITION. The dispatcher: what a block needs of a core, admission, reservations, gates, the end of blocks and launches,
and time budgets (R36, R44, R156, R167, R188, R208, R322, R329, R330, R334, R400). -/

namespace Sys2Proof.Machine

/-! ## What a core has free (R34 to R39, R329) -/

/-- The resident blocks of a core. -/
def State.blocksOn (s : State) (c : CoreRef) : List (BlockRef × Block) :=
  s.blocks.filter fun e => decide (e.1.die = c.die) && e.1.core == c.core

/-- The allotment of a role of a block's launch. -/
def State.allotOf (s : State) (b : Block) (role : Nat) : Nat := ((s.launch b.launch).map fun l => (roleDesc l.desc role).allot).getD 64

/-- Wave slots of a core that are reserved or in use, with their allotments: partition, slot, registers (R34, R156). -/
def State.slotsTaken (s : State) (c : CoreRef) : List (Nat × Nat × Nat) :=
  let held := (s.blocksOn c).flatMap fun e => e.2.rsv.map fun x => (x.2.1, x.2.2, s.allotOf e.2 x.1)
  let extra := (s.waves.filter fun e => decide (e.1.die = c.die) && e.1.core == c.core
    && !held.any fun h => h.1 == e.1.part && h.2.1 == e.1.slot).map fun e => (e.1.part, e.1.slot, e.2.allot)
  held ++ extra

/-- A partition's free slots and registers, and what has been taken of it: role, partition, slot. -/
structure FreePart where
  part : Nat
  slots : List Nat
  regs : Nat
  got : List (Nat × Nat × Nat) := []
  deriving DecidableEq, Repr

/-- The partitions of a core. -/
def State.freeParts (s : State) (c : CoreRef) : List FreePart :=
  let used := s.slotsTaken c
  (List.range 8).map fun p =>
    let mine := used.filter fun x => x.1 == p
    { part := p, slots := (List.range 16).filter fun k => !mine.any fun x => x.2.1 == k, regs := 512 - (mine.map fun x => x.2.2).sum }

/-- How many waves of an allotment a partition has room for. -/
def FreePart.fits (p : FreePart) (allot : Nat) : Nat := min p.slots.length (p.regs / allot)

/-- A partition after `n` waves of a role have been given slots of it. -/
def FreePart.give (p : FreePart) (role allot n : Nat) : FreePart :=
  { p with slots := p.slots.drop n, regs := p.regs - n * allot, got := p.got ++ (p.slots.take n).map fun k => (role, p.part, k) }

/-- The waves a block reserves, as role, allotment and number, the largest allotments first. -/
def wavesNeeded (d : List Word) : List (Nat × Nat × Nat) :=
  [64, 56, 48, 40, 32, 24, 16, 8].flatMap fun a => (rolesRun d).filterMap fun r =>
    if (roleDesc d r).allot = a then some (r, a, roleWaves d r) else none

/-- `n` waves of a role spread over partitions, as many as fit on the earlier ones first (log entry 9); `next` says what comes of the
partitions then left, and the spreading tried is the first for which it answers. -/
def spread (role allot : Nat) (next : List FreePart → Option (List (Nat × Nat × Nat))) :
    List FreePart → List FreePart → Nat → Option (List (Nat × Nat × Nat))
  | done, [], n => if n = 0 then next done else none
  | done, p :: ps, n =>
    let rest := (ps.map fun q => q.fits allot).sum
    (List.range (min n (p.fits allot) + 1)).reverse.findSome? fun k =>
      if n - k ≤ rest then spread role allot next (done ++ [p.give role allot k]) ps (n - k) else none

/-- Wave slots for every wave that is needed, if some way of spreading them over the partitions gives each one a slot and
its registers (R329). -/
def takeSlots : List FreePart → List (Nat × Nat × Nat) → Option (List (Nat × Nat × Nat))
  | ps, [] => some (ps.flatMap (·.got))
  | ps, (role, allot, n) :: t => spread role allot (fun ps => takeSlots ps t) [] ps n

/-- Where a block's needs would be met on one core: block slot, wave slots, granules, tiles, parison-table entries and
form slots. -/
structure Plan where
  bslot : Nat
  rsv : List (Nat × Nat × Nat)
  gmap : List Nat
  tiles : List Nat
  ents : List Nat
  forms : List Nat
  deriving DecidableEq, Repr

/-- Tiles a context holds on a core. -/
def State.ctxTiles (s : State) (c : CoreRef) (ctx : Nat) : Nat :=
  (((s.blocksOn c).filter fun e => e.2.ctx == ctx).map fun e => e.2.tiles.length).sum

/-- A block's needs on a core, counted (R329), for so many parisons and forms; none when they cannot all be met. -/
def State.plan (s : State) (l : Launch) (hists : Nat) (c : CoreRef) (ents forms : Nat) : Option Plan :=
  let here := s.blocksOn c
  let tileq := ((s.ctx l.ctx).map (·.desc.tileq)).getD 0
  if 4 < (here.map fun e => e.2.hists.length).sum + hists || tileq < s.ctxTiles c l.ctx + dTiles l.desc then none else
  match lowestFree (fun k => here.any fun e => e.1.bslot == k) 128,
      takeSlots (s.freeParts c) (wavesNeeded l.desc),
      takeFree (fun g => here.any fun e => e.2.gmap.contains g) 56 (dScratch l.desc),
      takeFree (fun t => here.any fun e => e.2.tiles.any fun x => x.phys == t) 528 (dTiles l.desc),
      takeFree (fun e => (look (⟨c.die, c.core, e⟩ : ParId) s.pars).isSome) 64 ents,
      takeFree (s.slotUsed c) 256 forms with
  | some b, some r, some g, some t, some e, some f => some { bslot := b, rsv := r, gmap := g, tiles := t, ents := e, forms := f }
  | _, _, _, _, _, _ => none

/-! ## What a launch would place next (R329, R330, R345) -/

/-- The blocks of a cohort, by place and block coordinates (R167). -/
def cohortBlocks (d : List Word) (k : Nat) : List ((Nat × Nat) × (Nat × Nat × Nat)) :=
  let (w, h) := cohortDim d
  let (gx, gy, _) := gridDim d
  let x := k % (gx / w)
  let y := k / (gx / w) % (gy / h)
  let z := k / (gx / w * (gy / h))
  (List.range h).flatMap fun j => (List.range w).map fun i => ((i, j), (x * w + i, y * h + j, z))

/-- BINDEX of a block (R189). -/
def bindexOf (d : List Word) (b : Nat × Nat × Nat) : Nat := b.1 + (gridDim d).1 * (b.2.1 + (gridDim d).2.1 * b.2.2)

/-- The number of the cohort that holds a block. -/
def cohortNo (d : List Word) (bindex : Nat) : Nat :=
  let (w, h) := cohortDim d
  let (gx, gy, _) := gridDim d
  (bindex % gx) / w + gx / w * ((bindex / gx % gy) / h + gy / h * (bindex / (gx * gy)))

/-- What a launch would place next: a cohort of its grid, or the saved blocks of one. -/
inductive Work
  | fresh (k : Nat)
  | back (vs : List Saved)
  deriving DecidableEq, Repr

/-- The saved blocks that stand with the first whose whole cohort is saved. -/
def savedCohort (l : Launch) (vs : List Saved) : Option Work :=
  let mates (v : Saved) : List Saved := vs.filter fun u => cohortNo l.desc u.blk.bindex == cohortNo l.desc v.blk.bindex
  (vs.find? fun v => (mates v).length == (cohortDim l.desc).1 * (cohortDim l.desc).2).map fun v => .back (mates v)

/-- The next work of a launch: pre-empted blocks stand at the head, those saved in favour of waiting blocks of the launch
behind them (R170, R330). -/
def State.workOf (s : State) (l : Launch) : Option Work :=
  let mine := s.saved.filter fun v => v.blk.launch == l.id && v.die == l.die
  if l.cancelled then none else
  match savedCohort l (mine.filter fun v => !v.waiter) with
  | some w => some w
  | none =>
    if decide (l.nextB < gridBlocks l.desc) then
      some (.fresh (l.nextB / ((cohortDim l.desc).1 * (cohortDim l.desc).2)))
    else savedCohort l mine

/-- The saved block of a place. -/
def Work.savedAt (w : Work) (place : Nat × Nat) : Option Saved :=
  match w with
  | .fresh _ => none
  | .back vs => vs.find? fun v => v.blk.place == place

/-- Parison-table entries and form slots that a place of the work needs. -/
def Work.needs (w : Work) (d : List Word) (place : Nat × Nat) : Nat × Nat :=
  match w.savedAt place with
  | some v => (v.pars.length, v.forms.length)
  | none => ((rolesRun d).length, 0)

/-- Whether a core is reserved for another launch (R330). -/
def State.reservedFor (s : State) (l : Launch) (c : CoreRef) : Bool :=
  s.launches.any fun m => m.id != l.id && decide (m.die = c.die) && m.reserved.contains c.core

/-- The plans of a launch's work on the rectangle whose lowest core is `c`, place by place. -/
def State.plans (s : State) (l : Launch) (w : Work) (c : Nat) : Option (List ((Nat × Nat) × Nat × Plan)) :=
  let (cw, ch) := cohortDim l.desc
  let hists := ((s.image l.ctx l.image).map fun im => dHist im l.desc).getD 0
  match s.rect l.die cw ch c with
  | none => none
  | some cells => cells.mapM fun e =>
    let core : CoreRef := ⟨l.die, e.2⟩
    let (ne, nf) := w.needs l.desc e.1
    let slots := (s.blocksOn core).any fun x => !x.2.slots.isEmpty
    let not_ := match w with
      | .fresh _ => !l.gatesPassed s core
      | .back _ => slots && (w.savedAt e.1).any fun v => !v.blk.slots.isEmpty
    if s.reservedFor l core || not_ then none else (s.plan l hists core ne nf).map fun p => (e.1, e.2, p)

/-- Whether a weight job with an earlier ticket holds back the first block of a launch (R44). -/
def State.banksWait (s : State) (l : Launch) : Bool :=
  (s.die l.die).jobs.any fun j => decide (j.ticket < l.ticket) && (cardBanks j.card &&& l.banks) != 0

/-- Whether a queue follows its context's residence: PLACE 1 or 2 (R354). -/
def State.follows (s : State) (r : QueueRef) : Bool := (s.queue (some r)).any fun q => q.desc.place != 0

/-- Whether a launch belongs to an earlier packet of another's queue. -/
def Launch.earlier (m l : Launch) : Bool :=
  m.ctx == l.ctx && m.queue == l.queue && m.seq != l.seq && decide ((l.seq - m.seq).toNat < 2 ^ 31)

/-- Whether the packet of a launch has begun dispatch: it, or another launch of the packet's run, has placed a block or
has completed. -/
def State.hasBegun (s : State) (m : Launch) : Bool :=
  s.launches.any (fun x => x.ctx == m.ctx && x.queue == m.queue && x.seq == m.seq && (x.nextB != 0 || x.cancelled))
    || (match m.node with
      | some (tn, _) => ((s.queue (some ⟨m.ctx, m.queue⟩)).bind fun q => q.tables.find? fun t => t.num == tn).any fun t =>
          t.nodes.any fun n => n.state == .completed
      | none => false)

/-- Whether it is a launch's turn among those of its queue, which begin dispatch in packet order (R322); a GRAPH packet that waits for its
table has not begun. -/
def State.turn (s : State) (l : Launch) : Bool :=
  let waits (seq : Word) : Bool := seq != l.seq && decide ((l.seq - seq).toNat < 2 ^ 31)
  l.nextB != 0 || (s.launches.all fun m => !m.earlier l || s.hasBegun m)
    && !((s.queue (some ⟨l.ctx, l.queue⟩)).any fun q => q.waitGraph.any fun w => waits w.2.1)

/-- Whether what a launch would place next is work that was saved. -/
def State.bringsBack (s : State) (l : Launch) : Bool :=
  match s.workOf l with
  | some (.back _) => true
  | _ => false

/-- Whether a context's migration lets a launch place its work: while the records are on their way, nothing of the queues that go with the
context; while it arrives, what was saved (R354, R356). -/
def State.migLets (s : State) (c : Context) (l : Launch) : Bool :=
  match c.mig with
  | .sent _ => !s.follows ⟨l.ctx, l.queue⟩
  | .arriving _ => !s.follows ⟨l.ctx, l.queue⟩ || s.bringsBack l
  | _ => true

/-- Whether a launch may place its work now, if it fits somewhere: its gates are met, its context runs, and at its first
block its turn has come and the bank interlock allows it (R44, R322, R334, R354). -/
def State.launchOpen (s : State) (l : Launch) : Bool :=
  l.gatesMet && (match s.ctx l.ctx with
    | some c => c.ended.isNone && !c.heldBudget && !c.quiesced && s.migLets c l
    | none => false) && s.turn l && (l.nextB != 0 || !s.banksWait l)

/-- Whether a launch waits to place a block. -/
def State.launchWaits (s : State) (l : Launch) : Bool := s.launchOpen l && (s.workOf l).isSome

/-- Whether a launch's work fits on some core or rectangle. -/
def State.fitsSomewhere (s : State) (l : Launch) : Bool :=
  s.launchWaits l && (match s.workOf l with
    | some w => (List.range (coreCount l.die)).any fun c => (s.plans l w c).isSome
    | none => false)

/-- Whether a launch comes before another: higher priority first, then the earlier ticket (R330). -/
def Launch.before (a b : Launch) : Bool := decide (b.prio < a.prio) || (a.prio == b.prio && decide (a.ticket < b.ticket))

/-- The launch of a die that satisfies `p` and comes before every other such launch. -/
def State.firstLaunch (s : State) (d : Die) (p : Launch → Bool) : Option Launch :=
  let c := s.launches.filter fun l => decide (l.die = d) && p l
  c.find? fun l => c.all fun m => m.id == l.id || l.before m

/-! ## Placing a block (R149, R188) -/

/-- A core's L1 after S of its core store has risen: its oldest lines beyond its capacity leave it (R36; DESIGN CHOICE: which
lines stand in the steps S takes over, log entry 90). -/
def State.shrinkL1 (s : State) (c : CoreRef) : Nat → State
  | 0 => s
  | n + 1 =>
    let mine := (s.die c.die).l1.filter fun y => y.core == c.core
    if mine.length ≤ l1Cap (s.core c).s then s else match mine.getLast? with
      | some y => State.shrinkL1 (s.l1Drop c y.line) c n
      | none => s

/-- Steps of 8 granules that hold every granule mapped on a core. -/
def State.stepsNeeded (s : State) (c : CoreRef) : Nat :=
  (s.blocksOn c).foldl (fun m e => e.2.gmap.foldl (fun m g => max m (g / 8 + 1)) m) 0

/-- S of a core raised to hold the granules mapped on it. -/
def State.raiseS (s : State) (c : CoreRef) : State :=
  let n := s.stepsNeeded c
  if n ≤ (s.core c).s then s else
  let s := s.putCore c { s.core c with s := n }
  s.shrinkL1 c ((s.die c.die).l1.length + 1)

/-- S of a core lowered to the lowest step that holds the highest mapped granule. -/
def State.lowerS (s : State) (c : CoreRef) : State :=
  s.putCore c { s.core c with s := min (s.core c).s (s.stepsNeeded c) }

/-- The parison a role of a block begins as (R149, R166, R188). -/
def newPar (ref : BlockRef) (l : Launch) (im : Image) (b : Block) (role : Nat) : Parison :=
  let e := roleDesc l.desc role
  let (x0, y0, z0) := b.origin
  let (bx, by_, bz) := b.extent
  let w (n : Nat) : Word := BitVec.ofNat 32 n
  { block := ref, ctx := l.ctx, image := l.image, role := role, prio := l.prio, allot := e.allot
    box := if role = 0 then { x0 := x0.toNat, x1 := x0.toNat + bx - 1, y0 := y0.toNat, y1 := y0.toNat + by_ - 1
                              z0 := z0.toNat, z1 := z0.toNat + bz - 1 }
      else { x0 := 0, x1 := 32 * e.waves - 1, y0 := 0, y1 := 0, z0 := 0, z1 := 0 }
    pos := { ord := (ordinalAt im e.entry).getD 0, hofs := e.entry, pc := e.entry }
    sreg := [w (dKarg l.desc), w (dKarg l.desc / 2 ^ 32), w b.bindex, w role, w im.dataVa, w (im.dataVa / 2 ^ 32)] ++ List.replicate 58 0 }

/-- A fresh block at a place of its cohort (R37, R39, R70, R189). -/
def newBlock (l : Launch) (hists : Nat) (place : Nat × Nat) (at_ : Nat × Nat × Nat) (p : Plan) : Block :=
  let (bx, by_, bz) := blockDim l.desc
  { launch := l.id, ctx := l.ctx, queue := l.queue, lseq := l.seq, bindex := bindexOf l.desc at_
    origin := (BitVec.ofNat 32 (at_.1 * bx), BitVec.ofNat 32 (at_.2.1 * by_), BitVec.ofNat 32 (at_.2.2 * bz))
    extent := (bx, by_, bz), place := place, cohort := cohortDim l.desc, ngran := dScratch l.desc, gmap := p.gmap
    tiles := p.tiles.map fun k => { phys := k }, hists := List.replicate hists {}, w0 := roleWaves l.desc 0, rsv := p.rsv
    quad := dQuad l.desc }

/-- What firmware keeps of a block for its rollback: a block image with its parisons and waves (R363). -/
def State.imageOf (s : State) (ref : BlockRef) (b : Block) : Saved :=
  let pars := s.pars.filter fun e => decide (e.2.block = ref)
  let waves := s.waves.filter fun e => decide (e.2.block = some ref)
  let names := pars.flatMap fun e => e.2.nmap.filterMap id ++ e.2.queue.flatMap fun d => d.forms.map (·.2)
  { id := 0, die := ref.die, blk := b, pars := pars, waves := waves, bslot := ref.bslot
    forms := (dedup names).filterMap fun k => (look k (s.formFile ⟨ref.die, ref.core⟩)).map fun x => (k, x) }

/-- The latest snapshot of a block, found by its launch and number. -/
def isSnapOf (b : Block) (v : Saved) : Bool := v.blk.launch == b.launch && v.blk.bindex == b.bindex

/-- A snapshot kept in place of the block's earlier one. -/
def State.keepSnap (s : State) (v : Saved) : State := { s with snaps := v :: s.snaps.filter fun u => !isSnapOf v.blk u }

/-- One block of a cohort admitted: the block, its parisons, and the implicit snapshot (R149, R188, R363). -/
def State.admitBlock (s : State) (l : Launch) (im : Image) (place : Nat × Nat) (at_ : Nat × Nat × Nat) (core : Nat) (p : Plan) : State :=
  let c : CoreRef := ⟨l.die, core⟩
  let ref : BlockRef := ⟨l.die, core, p.bslot⟩
  let b := newBlock l (dHist im l.desc) place at_ p
  let first := !((((s.launch l.id).map (·.cores)).getD []).any fun e => decide (e.1 = c))
  let s := if first then s.launchL1 c l.ctx else s
  let one (e : Nat × Nat) : ParId × Parison := (⟨l.die, core, e.1⟩, newPar ref l im b e.2)
  let s := { s with blocks := s.blocks ++ [(ref, b)], pars := s.pars ++ (p.ents.zip (rolesRun l.desc)).map one
                    launches := updFirst (fun x => x.id == l.id)
                      (fun x => if first then { x with cores := x.cores ++ [(c, 0, 0)] } else x) s.launches }
  let s := s.raiseS c
  s.keepSnap (s.imageOf ref b)

/-- A launch that has placed work; its reservation ends (R330). -/
def State.placed (s : State) (id k : Nat) : State :=
  match s.launch id with
  | some l => s.putLaunch { l with nextB := l.nextB + k, passedAt := none, reserved := [], reservedAt := none }
  | none => s

/-- BLOCK_ADMIT (R329): the next block, or cohort, of the first launch that fits anywhere, admitted on a core. -/
def execBlockAdmit (c : CoreRef) (launch : Nat) (s : State) : Out :=
  match s.launch launch with
  | none => .next s
  | some l =>
    if l.die ≠ c.die || ((s.firstLaunch c.die s.fitsSomewhere).map (·.id)) != some launch then .next s else
    match s.workOf l, s.image l.ctx l.image with
    | some (.fresh k), some im =>
      match s.plans l (.fresh k) c.core with
      | none => .next s
      | some ps =>
        let s := ps.foldl (fun (s : State) (e : (Nat × Nat) × Nat × Plan) =>
          match (cohortBlocks l.desc k).find? fun b => b.1 == e.1 with
          | some b => s.admitBlock l im e.1 b.2 e.2.1 e.2.2
          | none => s) s
        .next (s.placed launch ps.length)
    | _, _ => .next s

/-! ## Reservations (R330) -/

/-- Since when the dispatcher has passed a launch over: it waits to place a block and fits nowhere (R330). -/
def State.passedOver (s : State) (l : Launch) : Launch :=
  if s.launchWaits l && !s.fitsSomewhere l then { l with passedAt := some (l.passedAt.getD (s.now l.die)) }
  else { l with passedAt := none }

/-- DISPATCH_RESERVE (R330): the launch that comes first, passed over for 50 µs, gets a core or a rectangle reserved. -/
def execDispatchReserve (c : CoreRef) (launch : Nat) (s : State) : Out :=
  match s.launch launch with
  | none => .next s
  | some l =>
    let (w, h) := cohortDim l.desc
    match s.rect l.die w h c.core, l.passedAt with
    | some cells, some t =>
      if l.die ≠ c.die || !l.reserved.isEmpty || decide (s.now c.die < t + 50000)
          || ((s.firstLaunch c.die s.launchWaits).map (·.id)) != some launch
          || cells.any (fun e => s.reservedFor l ⟨l.die, e.2⟩) then .next s
      else .next (s.putLaunch { l with reserved := cells.map (·.2), reservedAt := some (s.now c.die) })
    | _, _ => .next s

/-! ## Gates (R322, R400) -/

/-- A launch that admits nothing more and completes with a status once its admitted blocks have ended. -/
def Launch.cancel (l : Launch) (status : Nat) : Launch :=
  { l with cancelled := true, status := if l.status = 0 then status else l.status, gatesMet := true }

/-- A gate's token could not be read: the launch, or the run of its graph, completes TOKEN_FAULT (R400). -/
def State.gateFault (s : State) (l : Launch) (sub : Sub) (va : Nat) : State :=
  let s := s.faultNote l.ctx l.die 8 sub.code 0 va
  match l.node with
  | none => s.putLaunch (l.cancel 17)
  | some (tn, _) =>
    let mine (x : Launch) : Bool := x.ctx == l.ctx && x.queue == l.queue && x.node.any fun n => n.1 == tn
    let s := { s with launches := updAll mine (fun x => x.cancel 17) s.launches }
    match s.table ⟨l.ctx, l.queue⟩ tn with
    | some t => s.putTable ⟨l.ctx, l.queue⟩ { t with fault := true }
    | none => s

/-- TWAIT_GATE_MET (R322): the tokens of a launch's gates are read; once every count has been reached, its blocks may be
admitted, each after the narrowed scope of R99. -/
def execTwaitGateMet (launch : Nat) (s : State) : Out :=
  match s.launch launch with
  | none => .next s
  | some l =>
    if l.gatesMet || !s.fwIdle l.die then .next s else
    match s.readGates ⟨l.die, .launch l.id⟩ l.ctx l.gates with
    | .no s => .next s
    | .bad s sub va => .next (s.gateFault l sub va)
    | .met s toks => .next (s.putLaunch { l with gatesMet := true, gateToks := toks })

/-! ## The end of blocks and launches (R208, R329) -/

/-- Whether every wave and parison of a block has ended and left its core. -/
def State.blockDone (s : State) (ref : BlockRef) : Bool :=
  !(s.waves.any fun e => decide (e.2.block = some ref)) && !(s.pars.any fun e => decide (e.2.block = ref))

/-- The members of a block's cohort, itself among them (R167). -/
def State.cohortOf (s : State) (ref : BlockRef) (b : Block) : List (BlockRef × Block) :=
  match s.launch b.launch with
  | none => [(ref, b)]
  | some l => s.blocks.filter fun e => decide (e.1.die = ref.die) && e.2.launch == b.launch
      && cohortNo l.desc e.2.bindex == cohortNo l.desc b.bindex

/-- A block taken off its core: its PRIVATE lines go home, its granules are zeroed and free, S falls (R36, R84). -/
def State.removeBlock (s : State) (ref : BlockRef) : State :=
  match s.blockOf ref with
  | none => s
  | some b =>
    let c : CoreRef := ⟨ref.die, ref.core⟩
    let s := (s.dropPrivate c b.ctx)
    ({ s with blocks := drop ref s.blocks }).lowerS c

/-- A launch with one more ended block, and the largest write completion times of its core (R98). -/
def Launch.blockEnd (l : Launch) (c : CoreRef) (gd gp : Nat) : Launch :=
  let up (e : CoreRef × Nat × Nat) : CoreRef × Nat × Nat := if e.1 = c then (c, max e.2.1 gd, max e.2.2 gp) else e
  { l with ended := l.ended + 1
           cores := if l.cores.any (fun e => decide (e.1 = c)) then l.cores.map up else l.cores ++ [(c, gd, gp)] }

/-- A block ends (R208, R329): its resources are released, its launch gathers its write completion times. -/
def State.endBlock (s : State) (e : BlockRef × Block) : State :=
  let s := { s.removeBlock e.1 with snaps := s.snaps.filter fun v => !isSnapOf e.2 v }
  { s with launches := updFirst (fun x => x.id == e.2.launch) (fun l => l.blockEnd ⟨e.1.die, e.1.core⟩ e.2.gd e.2.gp) s.launches }

/-- Blocks all of whose waves and parisons have ended, with their whole cohort, end. R167 keeps a member resident until the last one ends; the
rules of a block's end (R36, R84, R98) then apply to every member at once (DEDUCED, log entry 118). -/
def State.endBlocks (s : State) : State :=
  s.blocks.foldl (fun (s : State) e =>
    match s.blockOf e.1 with
    | none => s
    | some b =>
      let co := s.cohortOf e.1 b
      if co.all fun x => s.blockDone x.1 then co.foldl State.endBlock s else s) s

/-- Whether a launch has nothing left to run: every block has ended, or it is cancelled and none of its blocks is resident
or saved. -/
def State.launchOver (s : State) (l : Launch) : Bool :=
  decide (gridBlocks l.desc ≤ l.ended)
    || (l.cancelled && !(s.blocks.any fun e => e.2.launch == l.id) && !(s.saved.any fun v => v.blk.launch == l.id))

/-- The completion token of a launch signalled once for each core that ran blocks (R98, R400). -/
def State.signalCores (s : State) (l : Launch) : List (CoreRef × Nat × Nat) → FwRes State
  | [] => .ok s
  | (c, gd, gp) :: t =>
    match s.fwSignal ⟨l.die, .launch l.id⟩ l.ctx (dToken l.desc) { n := 1, gd := gd, gp := gp, dies := dieBit c.die, core := c.core } with
    | .ok s => State.signalCores s l t
    | r => r

/-- A launch leaves the dispatcher: its packet completes, or its node does. A node that QUEUE_RESET or CTX_DESTROY has cancelled starts
nothing more: its run completes CANCELLED with the service (R323). -/
def State.finishLaunch (s : State) (l : Launch) : State :=
  let s := { s with launches := s.launches.filter fun x => x.id != l.id }
  match l.node with
  | some (tn, k) => if l.status = 16 then s else s.nodeDone ⟨l.ctx, l.queue⟩ tn k
  | none => s.complete (some ⟨l.ctx, l.queue⟩) l.seq l.status l.compl

/-- LAUNCH_COMPLETE (R329): once what its cores have written back is performed, the completion token is signalled per core, and, once pair
time has passed the launch's writes, the completion record is written. -/
def execLaunchComplete (launch : Nat) (s : State) : Out :=
  match s.launch launch with
  | none => .next s
  | some l =>
    if !s.launchOver l || !s.fwIdle l.die || s.backedOut l.die l.ctx then .next s
    else if !l.signalled then
      let cores := if dToken l.desc = 0 then [] else l.cores
      match s.signalCores l cores with
      | .ok s => .next (s.putLaunch { l with signalled := true })
      | .wait s => .next s
      | .bad s sub va => .next ((s.faultNote l.ctx l.die 8 sub.code 0 va).putLaunch { l with signalled := true, status := if l.status = 0 then 17 else l.status })
    else
      let gp := l.cores.foldl (fun m e => max m e.2.2) 0
      if gp != 0 && decide (s.now l.die ≤ gp) then .next s else .next (s.finishLaunch l)

end Sys2Proof.Machine
end

