-- ==== Sys2Proof/Machine/Save.lean ====
section
/-! DEFINITION. Stopping, saving and restoring blocks, time budgets, snapshots and rollback (R84, R160, R170, R330, R334,
R337, R345, R346, R363 to R365). -/

namespace Sys2Proof.Machine

/-! ## Asking for a stop (R160, R170, R337) -/

/-- A stop reason noted once. -/
def addWhy (l : List Cause) (c : Cause) : List Cause := if l.contains c then l else l ++ [c]

/-- A wave asked to stop: it stops at once, unless it has stopped already. -/
def State.askWave (s : State) (id : WaveId) (why : Cause) : State :=
  match look id s.waves with
  | none => s
  | some w =>
    if w.status = .ended then s else
    let w' := { w with stopWhy := addWhy w.stopWhy why }
    { s with waves := put id (if w.status = .running then w'.stop (s.image w.ctx w.image) else w') s.waves }

/-- Whether a parison waits in a wait that may be broken off and begun again: BARW, WAITV, QWAIT (R170). -/
def Parison.breakable (r : Parison) : Bool :=
  match r.wait with
  | .location | .token => true
  | .barrier => !committed r.ops 0
  | _ => false

/-- A parison asked to stop (R160, R337): one that waits at a JOIN or in a wait of R170 stops where it is, at its JOIN or at
its region's entry; one whose UNI clause has issued nothing stops at that clause's header; any other goes on to its next
region entry or UNI clause. -/
def State.askPar (s : State) (p : ParId) (why : Cause) : State :=
  match look p s.pars with
  | none => s
  | some r =>
    let r := { r with stopWhy := addWhy r.stopWhy why }
    let s := s.setPar p r
    if r.mode = .ended || r.status != .running then s
    else if r.mode = .waitJoin then s.stopPar p r
    else if r.breakable then
      let im := s.image r.ctx r.image
      let h := ((im.bind fun im => headerOf im r.pos.ord)).getD r.pos.hofs
      s.stopPar p { r with pos := r.pos.goHeader h, ops := r.ops.filter fun (o : Op) => !o.kind.cancellable }
    else if r.wait == .none && r.pos.inside && hdrCls r.pos.hdr == 6 && r.pos.pc == r.pos.hofs + 1 then
      s.stopPar p { r with pos := r.pos.goHeader r.pos.hofs, due := none }
    else s

/-- The waves of a block. -/
def State.wavesIn (s : State) (ref : BlockRef) : List (WaveId × Wave) := s.waves.filter fun e => decide (e.2.block = some ref)

/-- The parisons of a block. -/
def State.parsIn (s : State) (ref : BlockRef) : List (ParId × Parison) := s.pars.filter fun e => decide (e.2.block = ref)

/-- The waves and parisons of one block asked to stop. -/
def State.askBlock (s : State) (ref : BlockRef) (why : Cause) : State :=
  let s := (s.wavesIn ref).foldl (fun s e => s.askWave e.1 why) s
  (s.parsIn ref).foldl (fun s e => s.askPar e.1 why) s

/-- A block, with every member of its cohort, asked to stop for a pre-emption (R167). -/
def State.stopBlock (s : State) (ref : BlockRef) (waiter : Bool) : State :=
  match s.blockOf ref with
  | none => s
  | some b => (s.cohortOf ref b).foldl (fun (s : State) e =>
      (s.askBlock e.1 .preempt).onBlock e.1 fun b => { b with stopped := true, waiter := waiter }) s

/-- Whether a handler's window is bound to something. -/
def State.windowOn (s : State) (b : Bound) : Bool :=
  [Die.kapael, Die.amdukor].any fun d => (s.die d).fw.any fun e => e.2.window == b

/-- Whether a wave stands stopped with everything it issued retired, no cause pending and no handler bound. -/
def State.waveSettled (s : State) (e : WaveId × Wave) : Bool :=
  (e.2.status == .held || (e.2.status == .stopped && e.2.causes.isEmpty)) && settled e.2.ops && !s.windowOn (.wave e.1)

/-- Likewise a parison. -/
def State.parSettled (s : State) (e : ParId × Parison) : Bool :=
  e.2.mode == .ended || ((e.2.status == .held || (e.2.status == .stopped && e.2.causes.isEmpty)) && settled e.2.ops
    && e.2.due.isNone && !s.windowOn (.par e.1))

/-- Whether every wave and parison of a block stands so. -/
def State.blockSettled (s : State) (ref : BlockRef) : Bool := (s.wavesIn ref).all s.waveSettled && (s.parsIn ref).all s.parSettled

/-! ## Resuming in place -/

/-- A wave that stood stopped goes on; a record that a lane-focus step has met is resolved now (R359). -/
def Wave.resume (w : Wave) : Wave :=
  let go (sp : Split) : Split := { sp with precise := false, stall := .issued }
  if w.status = .stopped || w.status = .held then
    let w : Wave := { w with status := .running, stopWhy := [], slots := w.slots.map fun o => o.map go, pend := w.pend.map go }
    w.rejoinAll.fill
  else w

/-- A parison that stood stopped goes on. -/
def Parison.resume (r : Parison) : Parison :=
  if r.status = .stopped || r.status = .held then { r with status := .running, stopWhy := [], precise := false, stall := .issued } else r

/-- A block whose pre-emption is given up goes on in place; what is held for the debugger or has a cause pending does not. -/
def State.resumeBlock (s : State) (ref : BlockRef) : State :=
  let wave (e : WaveId × Wave) : WaveId × Wave :=
    if e.2.block = some ref ∧ e.2.status = WStatus.stopped ∧ e.2.causes = [] then (e.1, e.2.resume) else e
  let par (e : ParId × Parison) : ParId × Parison :=
    if e.2.block = ref ∧ e.2.status ≠ WStatus.held ∧ e.2.causes = [] then (e.1, { e.2.resume with stopWhy := [] }) else e
  let s := { s with waves := s.waves.map wave, pars := s.pars.map par }
  s.onBlock ref fun b => { b with stopped := false, waiter := false }

/-! ## Saving (R345 to R351) -/

/-- A wave as its record keeps it: every bound name expanded per lane, counters zero but for ENC (R346, R348). -/
def Wave.saved (w : Wave) (ff : List (Nat × Aff)) : Wave :=
  { w with vmap := (List.range w.vmap.length).map fun n => match nth w.vmap n .undef with
             | .undef => .undef
             | _ => .absent (perLane fun l => w.lane ff n l)
           ops := w.ops.filter fun (o : Op) => match o.kind with | .job _ => true | _ => false
           ctr := { enc := w.ctr.enc }, stopWhy := [], synced := false
           slots := w.slots.map fun o => o.map fun (sp : Split) => { sp with wait := .none, ahead := [] }
           pend := w.pend.map fun (sp : Split) => { sp with wait := .none, ahead := [] } }

/-- A parison as its record keeps it (R350). -/
def Parison.saved (r : Parison) : Parison :=
  { r with ops := r.ops.filter fun (o : Op) => match o.kind with | .job _ => true | _ => false
           ctr := { enc := r.ctr.enc }, stopWhy := [], wait := .none, ahead := [], due := none }

/-- A tile as a block record keeps it: one whose ZERO is set restores unpoisoned (R39, R351). -/
def Tile.saved (t : Tile) : Tile := { t with dirty := false, poison := t.poison && !t.zero, body := if t.zero then [] else t.body }

/-- A block image with its parisons and waves in the form of records (R347). -/
def Saved.record (v : Saved) : Saved :=
  { v with blk := { v.blk with tiles := v.blk.tiles.map Tile.saved, stopped := false, waiter := false, rsv := [], gmap := [] }
           waves := v.waves.map fun (e : WaveId × Wave) => (e.1, e.2.saved v.forms)
           pars := v.pars.map fun (e : ParId × Parison) => (e.1, e.2.saved) }

/-- A block leaves its core with its waves and parisons. -/
def State.clearBlock (s : State) (ref : BlockRef) : State :=
  ({ s with waves := s.waves.filter fun e => !decide (e.2.block = some ref)
            pars := s.pars.filter fun e => !decide (e.2.block = ref) }).removeBlock ref

/-- A block saved on its die: its record, with its parisons' and waves', goes into the save pool. -/
def State.saveBlock (s : State) (ref : BlockRef) : State :=
  match s.blockOf ref with
  | none => s
  | some b =>
    let v := { (s.imageOf ref b).record with id := s.savedCtr, waiter := b.waiter }
    { s.clearBlock ref with saved := s.saved ++ [v], savedCtr := s.savedCtr + 1 }

/-- Whether resident blocks of a launch may be pre-empted because others of it wait for residency: every split and parison
of the block stands in a wait of R170. -/
def State.allWait (s : State) (ref : BlockRef) : Bool :=
  let sched (wt : Wait) : Bool := match wt with | .none | .fence _ _ | .snapshot => false | _ => true
  (s.wavesIn ref).all (fun e => e.2.status == .running && e.2.splits.all fun sp => sp.parked.isSome || sched sp.wait)
    && (s.parsIn ref).all fun e => e.2.mode == .waitJoin || e.2.mode == .ended || sched e.2.wait || (e.2.mode == .blown && !e.2.pos.inside)

/-- Whether R170 allows a block to be pre-empted. -/
def State.mayYield (s : State) (ref : BlockRef) : Bool :=
  match s.blockOf ref with
  | none => false
  | some b => match s.launch b.launch with
    | none => false
    | some l => s.launchWaits l && (s.cohortOf ref b).all fun e => s.allWait e.1

/-- PREEMPT (R337, R345): a block that has been asked to stop, or that R170 allows to be pre-empted, is stopped, and saved
with its cohort once every wave and parison of it stands at a safe point; with no room for its records the work goes on in
place, and the pre-emption is tried again 100 µs later. -/
def execPreempt (ref : BlockRef) (s : State) : Out :=
  match s.blockOf ref with
  | none => .next s
  | some b =>
    if !b.stopped then .next (if s.mayYield ref then s.stopBlock ref true else s) else
    let co := s.cohortOf ref b
    if (s.ctx b.ctx).any (·.quiesced) || (s.launch b.launch).any (·.cancelled) || !co.all (fun e => s.blockSettled e.1) then .next s else
    if Config.hasRoom s.freeCtr then
      .next (co.foldl (fun (s : State) e => s.saveBlock e.1) { s with freeCtr := s.freeCtr + 1 })
    else
      let s := co.foldl (fun (s : State) e => s.resumeBlock e.1) { s with freeCtr := s.freeCtr + 1 }
      .next (s.pushEvent ref.die (.retrySave ref (s.now ref.die + 100000)))

/-- SAVE_RETRY (R345): an abandoned pre-emption is tried again once its 100 µs have passed. -/
def execSaveRetry (ref : BlockRef) (s : State) : Out :=
  let x := s.die ref.die
  let due (e : FwEvent) : Bool := match e with
    | .retrySave r t => decide (r = ref) && decide (t ≤ s.now ref.die)
    | _ => false
  if x.events.any due then
    .next ((s.setDie ref.die { x with events := x.events.filter fun e => !due e }.refill).stopBlock ref false)
  else .next s

/-! ## Restoring (R346) -/

/-- The new value of a key in a list of renamings. -/
def renamed {α : Type} [DecidableEq α] (m : List (α × α)) (a : α) : α := (look a m).getD a

/-- An agent under its new name. -/
def renameAgent (ws : List (WaveId × WaveId)) (ps : List (ParId × ParId)) (a : AgentId) : AgentId :=
  match a with
  | .wave w k => .wave (renamed ws w) k
  | .gaffer p => .gaffer (renamed ps p)
  | a => a

/-- A parison brought back at a table entry of a core: names of forms, siblings and block renamed; `stay` leaves it stopped. -/
def Parison.restore (r : Parison) (ref : BlockRef) (ps : List (ParId × ParId)) (old : ParId) (fs : List (Nat × Nat)) (dt : Nat) (stay : Bool) :
    Parison :=
  let sib (e : Nat) : Nat := (renamed ps { old with entry := e }).entry
  let r := if stay || r.status == .held || r.causes != [] then r else r.resume
  { r with block := ref, nmap := r.nmap.map fun n => n.map (renamed fs)
           cuts := r.cuts.map fun (e : Nat × Nat) => (sib e.1, e.2)
           queue := r.queue.map fun (d : Decision) => { d with forms := d.forms.map fun (e : Nat × Nat) => (e.1, renamed fs e.2) }
           gwd := r.gwd + dt, gwp := r.gwp + dt }

/-- A wave brought back in a slot of a core. -/
def Wave.restore (w : Wave) (ref : BlockRef) (ps : List (ParId × ParId)) (age dt : Nat) (stay : Bool) : Wave :=
  let w := if stay || w.status == .held || w.causes != [] then w else w.resume
  { w with block := some ref, par := w.par.map (renamed ps), age := age, gwd := w.gwd + dt, gwp := w.gwp + dt, synced := false }

/-- A block brought back under a plan of a core: granules, tiles and barrier arrivals under their new names. -/
def Block.restore (b : Block) (ref : BlockRef) (p : Plan) (ws : List (WaveId × WaveId)) (ps : List (ParId × ParId)) (dt : Nat) : Block :=
  let agent (e : AgentId × Bool) : AgentId × Bool := (renameAgent ws ps e.1, e.2)
  let cap (e : ParId × Parison × List (Nat × Aff)) : ParId × Parison × List (Nat × Aff) := (renamed ps e.1, { e.2.1 with block := ref }, e.2.2)
  { b with gmap := p.gmap, rsv := p.rsv
           tiles := (b.tiles.zip p.tiles).map fun (e : Tile × Nat) => { e.1 with phys := e.2 }
           bars := b.bars.map fun (t : BarTrack) => { t with arrivals := t.arrivals.map agent, caps := t.caps.map cap }
           snapDue := b.snapDue.map fun l => l.map (renamed ws), snapPars := b.snapPars.map cap
           gd := b.gd + dt, gp := b.gp + dt }

/-- Waves given slots, role by role, in the order of the plan. -/
def slotFor (ref : BlockRef) : List (Nat × Nat × Nat) → List (WaveId × Wave) → List (WaveId × WaveId)
  | _, [] => []
  | rsv, e :: t =>
    match rsv.find? fun x => x.1 == e.2.role with
    | some x => (e.1, ⟨ref.die, ref.core, x.2.1, x.2.2⟩) :: slotFor ref (rsv.erase x) t
    | none => slotFor ref rsv t

/-- Causes that are pending in what has come back stopped are events again (R342). -/
def State.causesBack (s : State) (ref : BlockRef) : State :=
  let s := (s.wavesIn ref).foldl (fun (s : State) e => if e.2.status = .stopped ∧ e.2.causes ≠ []
    then s.pushEvent ref.die (.trap e.1 e.2.ctx (s.queueOfBlock (some ref))) else s) s
  (s.parsIn ref).foldl (fun (s : State) e => if e.2.status = .stopped ∧ e.2.causes ≠ []
    then s.pushEvent ref.die (.trapPar e.1 e.2.ctx (s.queueOfBlock (some ref))) else s) s

/-- A saved block brought back on a core under a plan (R346); that of a context still arriving stays stopped (R356). -/
def State.restoreBlock (s : State) (v : Saved) (core : CoreRef) (p : Plan) : State :=
  let ref : BlockRef := ⟨core.die, core.core, p.bslot⟩
  let dt := if v.die = core.die then 0 else skew
  let stay := (s.ctx v.blk.ctx).any fun c => match c.mig with
    | .arriving _ => true
    | _ => false
  let ws := slotFor ref p.rsv v.waves
  let ps := (v.pars.zip p.ents).map fun (e : (ParId × Parison) × Nat) => (e.1.1, (⟨core.die, core.core, e.2⟩ : ParId))
  let fs := (v.forms.zip p.forms).map fun (e : (Nat × Aff) × Nat) => (e.1.1, e.2)
  let file := (v.forms.zip p.forms).foldl (fun m (e : (Nat × Aff) × Nat) => put e.2 e.1.2 m) (s.formFile core)
  let ages := (List.range v.waves.length).zip v.waves
  let wave (e : Nat × WaveId × Wave) : WaveId × Wave := (renamed ws e.2.1, e.2.2.restore ref ps (s.ageCtr + e.1) dt stay)
  let par (e : ParId × Parison) : ParId × Parison := (renamed ps e.1, e.2.restore ref ps e.1 fs dt stay)
  let s := { s with
    forms := put core file s.forms, ageCtr := s.ageCtr + v.waves.length
    blocks := s.blocks ++ [(ref, v.blk.restore ref p ws ps dt)], waves := s.waves ++ ages.map wave, pars := s.pars ++ v.pars.map par
    saved := s.saved.filter fun u => u.id != v.id }
  let first := !((((s.launch v.blk.launch).map (·.cores)).getD []).any fun e => decide (e.1 = core))
  let s := if first then s.launchL1 core v.blk.ctx else s
  let ran (x : Launch) : Launch := if first then { x with cores := x.cores ++ [(core, 0, 0)] } else x
  let s := { s with launches := updFirst (fun x => x.id == v.blk.launch) ran s.launches }
  let s := s.raiseS core
  if stay then s else s.causesBack ref

/-- BLOCK_RESTORE (R346): a saved block, with its cohort, brought back on a core, when its launch is the first that fits. -/
def execBlockRestore (saved : Nat) (c : CoreRef) (s : State) : Out :=
  match s.saved.find? fun v => v.id == saved with
  | none => .next s
  | some v => match s.launch v.blk.launch with
    | none => .next s
    | some l =>
      if l.die ≠ c.die || ((s.firstLaunch c.die s.fitsSomewhere).map (·.id)) != some l.id then .next s else
      match s.workOf l with
      | some (.back vs) =>
        if !vs.any (fun u => u.id == saved) then .next s else
        (match s.plans l (.back vs) c.core with
         | none => .next s
         | some ps =>
           let s := ps.foldl (fun (s : State) (e : (Nat × Nat) × Nat × Plan) =>
             match vs.find? fun u => u.blk.place == e.1 with
             | some u => s.restoreBlock u ⟨c.die, e.2.1⟩ e.2.2
             | none => s) s
           .next (s.placed l.id 0))
      | _ => .next s

/-! ## Pre-emption for a reservation (R330) -/

/-- RESERVE_PREEMPT (R330): a launch that has held its reservation for 200 µs has the youngest block of lower priority on
its reserved cores pre-empted, one after another until its block fits. -/
def execReservePreempt (c : CoreRef) (s : State) : Out :=
  match s.launches.find? fun l => decide (l.die = c.die) && l.reserved.contains c.core with
  | none => .next s
  | some l =>
    let late := match l.reservedAt with
      | some t => decide (t + 200000 ≤ s.now c.die)
      | none => false
    let fits := (s.workOf l).any fun w => l.reserved.any fun k => (s.plans l w k).isSome
    let here := s.blocks.filter fun e => decide (e.1.die = c.die) && l.reserved.contains e.1.core
    let low := here.filter fun e => ((s.launch e.2.launch).any fun m => decide (m.prio < l.prio))
    if !late || fits || here.any (fun e => e.2.stopped) then .next s else
    match low.getLast? with
    | some e => .next (s.stopBlock e.1 false)
    | none => .next s

/-! ## Time budgets (R334) -/

/-- The period of a context's budget in µs; 0 stands for the default of R27. -/
def CtxDesc.periodUs (d : CtxDesc) : Nat := if d.period = 0 then 16667 else d.period

/-- BUDGET_EXHAUSTED (R334): a context whose charge has reached its budget is held, and its resident work pre-empted. -/
def execBudgetExhausted (ctx : Nat) (s : State) : Out :=
  match s.ctx ctx with
  | none => .next s
  | some c =>
    if c.desc.budget = 0 || c.heldBudget || decide (c.charge < 1000 * c.desc.budget) then .next s else
    let s := s.putCtx { c with heldBudget := true }
    .next ((s.blocks.filter fun e => e.2.ctx == ctx).foldl (fun s e => s.stopBlock e.1 false) s)

/-- BUDGET_PERIOD_START (R334): the next period of a context begins, charged with the overrun of the last. -/
def execBudgetPeriodStart (ctx : Nat) (s : State) : Out :=
  match s.ctx ctx with
  | none => .next s
  | some c =>
    let p := 1000 * c.desc.periodUs
    if s.now c.resident < c.created + (c.periodNo + 1) * p then .next s else
    let carry := if c.heldBudget then min (c.charge - 1000 * c.desc.budget) p else 0
    .next (s.putCtx { c with periodNo := c.periodNo + 1, charge := carry, heldBudget := false })

/-- BUDGET_REPORT (R334): at every 100 µs a die reports its share of each context's time to the resident member. -/
def execBudgetReport (d : Die) (s : State) : Out :=
  let x := s.die d
  let n := s.now d / 100000
  if n ≤ x.report then .next s else
  let add (c : Context) : Context := match d with
    | .kapael => { c with charge := c.charge + c.shareK, shareK := 0 }
    | .amdukor => { c with charge := c.charge + c.shareA, shareA := 0 }
  .next { s.setDie d { x with report := n } with ctxs := s.ctxs.map add }

/-- Core-nanoseconds of a die's clock charged to a context (R334): one for each core that holds a wave or parison of it. -/
def State.charged (s : State) (d : Die) (ns : Nat) (c : Context) : Context :=
  let live (e : CoreRef) (ctx : Nat) : Bool := decide (e.die = d) && ctx == c.num
  let cores := dedup (((s.waves.filter fun e => live ⟨e.1.die, e.1.core⟩ e.2.ctx).map fun e => e.1.core)
    ++ (s.pars.filter fun e => live (parCore e.1) e.2.ctx).map fun e => e.1.core)
  let t := ns * cores.length
  if c.desc.budget = 0 || t = 0 then c
  else if c.resident = d then { c with charge := c.charge + t }
  else match d with
    | .kapael => { c with shareK := c.shareK + t }
    | .amdukor => { c with shareA := c.shareA + t }

/-! ## Snapshots (R363) -/

/-- Whether a wave that a snapshot waits for stands at its capture point. -/
def atCapture (w : Wave) : Bool :=
  w.status == .running && settled w.ops && w.splits.all fun sp => sp.wait == .snapshot || sp.parked.isSome || sp.deferred

/-- A wave's splits go on after its capture. -/
def Wave.uncaptured (w : Wave) : Wave :=
  let go (sp : Split) : Split := if sp.wait = .snapshot then { sp with wait := .none, stall := .issued } else sp
  { w with slots := w.slots.map fun o => o.map go, pend := w.pend.map go }

/-- Waves that waited for a snapshot go on, and none is due any more. -/
def State.endCapture (s : State) (ref : BlockRef) : State :=
  ({ s with waves := s.waves.map fun (e : WaveId × Wave) => if e.2.block = some ref then (e.1, e.2.uncaptured) else e }).onBlock ref
    fun b => { b with snapDue := none, snapPars := [] }

/-- The parisons of a block as a snapshot holds them: those captured at their arrival as they stood then. -/
def snapImage (b : Block) (v : Saved) : Saved :=
  { v with pars := v.pars.map fun (e : ParId × Parison) => match b.snapPars.find? fun c => decide (c.1 = e.1) with
             | some c => (e.1, c.2.1)
             | none => e
           forms := v.forms ++ (b.snapPars.flatMap fun c => c.2.2).filter fun f => !v.forms.any fun g => g.1 == f.1 }

/-! ## The end of a context (R314, R343, R365) -/

/-- A context ends with a status: its work leaves the cores, its launches and its graphs' runs complete with the status. -/
def State.endContext (s : State) (ctx status : Nat) : State :=
  match s.ctx ctx with
  | none => s
  | some c =>
    if c.ended.isSome then s else
    let s := if status = 11 then s.onLife c.resident fun l => { l with uncorrectable := more32 l.uncorrectable } else s
    let s := s.putCtx { c with ended := some status }
    let s := (s.blocks.filter fun e => e.2.ctx == ctx).foldl (fun s e => s.clearBlock e.1) s
    let noJobs (x : DieState) : DieState := { x with
      jobs := x.jobs.filter fun j => j.ctx != ctx
      walks := x.walks.filter fun (e : WalkReq × WalkSt) => e.1.ctx != ctx }
    let mine := s.launches.filter fun l => l.ctx == ctx
    let s := { s with
      saved := s.saved.filter fun v => v.blk.ctx != ctx, snaps := s.snaps.filter fun v => v.blk.ctx != ctx
      retained := s.retained.filter fun v => v.blk.ctx != ctx
      launches := s.launches.filter fun l => l.ctx != ctx, kap := noJobs s.kap, amd := noJobs s.amd }
    let s := mine.foldl (fun (s : State) l =>
      if l.node.isSome then s else s.complete (some ⟨l.ctx, l.queue⟩) l.seq status l.compl) s
    (s.queues.filter fun e => e.1.ctx == ctx).foldl (fun (s : State) e =>
      let runs := e.2.tables.filterMap fun t => t.run
      let waits := e.2.waitGraph.map fun w => (w.2.1, w.2.2.1)
      let s := s.onQueue (some e.1) fun q => { q with tables := q.idleTables, waitGraph := [], twaits := [], locked := false }
      (runs ++ waits).foldl (fun (s : State) x => s.complete (some e.1) x.1 status x.2) s) s

/-! ## Rollback (R365) -/

/-- Whether a cause is one that rolls its block back. -/
def softCause (c : CauseRec) : Bool := c.cause == .pipeline || c.cause == .ecc

/-- Whether a block holds a PIPELINE or ECC cause. -/
def State.softError (s : State) (ref : BlockRef) : Bool :=
  (s.wavesIn ref).any (fun e => e.2.causes.any softCause) || (s.parsIn ref).any fun e => e.2.causes.any softCause

/-- Whether what a block issued before its stop has retired. -/
def State.retired (s : State) (ref : BlockRef) : Bool :=
  (s.wavesIn ref).all (fun e => e.2.status != .running && settled e.2.ops) && (s.parsIn ref).all fun e => settled e.2.ops

/-- ROLLBACK (R365): a block with a PIPELINE or ECC cause is stopped, and goes back to its latest snapshot, on its own core
where that has room; an irrevocable block, or one that fails a fourth time since its snapshot, ends its context. -/
def execRollback (ref : BlockRef) (s : State) : Out :=
  match s.blockOf ref with
  | none => .next s
  | some b =>
    if !s.softError ref then .next s
    else if b.irrev || decide (3 ≤ b.failsSince) then .next (s.endContext b.ctx 11)
    else match s.snaps.find? (isSnapOf b), s.launch b.launch with
      | some v, some l =>
        let s := s.askBlock ref .preempt
        if !s.retired ref then .next s else
        let fails := b.failsSince + 1
        let back (x : Saved) : Saved := { x with id := s.savedCtr, die := ref.die, blk := { x.blk with failsSince := fails } }
        let s := { s with savedCtr := s.savedCtr + 1
                          snaps := updFirst (isSnapOf b) (fun x => { x with blk := { x.blk with failsSince := fails } }) s.snaps }
        let s := (s.clearBlock ref).onLife ref.die fun l => { l with rollbacks := bump ref.core 1 l.rollbacks }
        let core : CoreRef := ⟨ref.die, ref.core⟩
        let v := back v.record
        (match s.plan l v.blk.hists.length core v.pars.length v.forms.length with
         | some p => .next (s.restoreBlock v core p)
         | none =>
           let mates := s.blocks.filter fun e => decide (e.1.die = ref.die) && e.2.launch == b.launch
             && cohortNo l.desc e.2.bindex == cohortNo l.desc b.bindex
           .next (mates.foldl (fun s e => s.stopBlock e.1 false) { s with saved := s.saved ++ [v] }))
      | _, _ => .next (s.endContext b.ctx 11)

end Sys2Proof.Machine
end

