-- ==== Sys2Proof/Machine/Queues.lean ====
section
/-! DEFINITION. Doorbells, the taking of packets, the packets of user queues but for CKPT, resets, and the management queue's
registers (R315 to R324, R326, R328, R401). -/

namespace Sys2Proof

/-- Header fields of a packet. -/
def Packet.type (p : Packet) : Nat := Word.bits p.hdr 31 24
@[inherit_doc Packet.type] def Packet.len (p : Packet) : Nat := Word.bits p.hdr 23 16
@[inherit_doc Packet.type] def Packet.barrier (p : Packet) : Bool := Word.bit p.hdr 1
@[inherit_doc Packet.type] def Packet.compl (p : Packet) : Bool := Word.bit p.hdr 0

/-- A word of a packet's body. -/
def Packet.word (p : Packet) (k : Nat) : Word := p.body.getD k 0

/-- Two words of a packet's body, the low one first. -/
def Packet.dword (p : Packet) (k : Nat) : Nat := (p.word k).toNat + 2 ^ 32 * (p.word (k + 1)).toNat

end Sys2Proof

namespace Sys2Proof.Machine

/-! ## Queue descriptors (R315) -/

/-- A queue descriptor from its 64 bytes. -/
def qdescOf (b : List Byte) : QDesc :=
  { ring := fieldOf b 0 8, rwords := fieldOf b 8 4, seq0 := BitVec.ofNat 32 (fieldOf b 12 4), cring := fieldOf b 16 8
    centries := fieldOf b 24 4, place := fieldOf b 28 1, priocap := fieldOf b 29 1, stateVa := fieldOf b 32 8 }

/-- Whether a number is a power of two from `lo` to `hi`. -/
def powerIn (n lo hi : Nat) : Bool := decide (lo ≤ n) && decide (n ≤ hi) && 2 ^ Nat.log2 n == n

/-- Whether a descriptor breaks R315, or R324 for the management queue. -/
def qdescBad (b : List Byte) (mgmt : Bool) : Bool :=
  let d := qdescOf b
  fieldOf b 40 24 != 0 || fieldOf b 30 2 != 0 || decide (3 < d.priocap) || decide (2 < d.place)
    || !powerIn d.rwords 256 1048576 || !powerIn d.centries 16 65536
    || d.ring % 4096 != 0 || d.cring % 16 != 0 || d.stateVa % 32 != 0 || (mgmt && (d.place != 0 || d.priocap != 0))

/-- A queue just created (R317, R321). -/
def newQueue (d : QDesc) (mgmt : Bool) : Queue := { desc := d, mgmt := mgmt, cseq := d.seq0 - 1 }

/-- The bytes of a queue's state block. -/
def Queue.stateBytes (q : Queue) : List Byte :=
  bytesOf 4 q.rptr ++ bytesOf 4 q.cseq.toNat ++ List.replicate 4 0 ++ bytesOf 4 q.cwptr ++ bytesOf 2 q.status ++ List.replicate 14 0

/-- The whole state block of a queue written. -/
def State.writeState (s : State) (k : QKey) : State :=
  (s.onQueue k fun q => { q with owed := [(0, q.stateBytes)] }).flushHeld k

/-! ## Packets in the rings (R316, R318, R401) -/

/-- Words of a queue's ring from an index on. -/
def State.ringWords (s : State) (k : QKey) (q : Queue) (from_ : Nat) : Nat → FwRes (State × List Word)
  | 0 => .ok (s, [])
  | n + 1 => match s.qRead k (q.desc.ring + 4 * (from_ % q.desc.rwords)) 4 with
    | .ok (s, b) => (match State.ringWords s k q (from_ + 1) n with
      | .ok (s, l) => .ok (s, BitVec.ofNat 32 (natOf b) :: l)
      | .wait s => .wait s
      | .bad s sub va => .bad s sub va)
    | .wait s => .wait s
    | .bad s sub va => .bad s sub va

/-- The packet at a queue's read position, when the ring holds one whole between RPTR and WPTR. -/
def State.readPacket (s : State) (k : QKey) (q : Queue) : FwRes (State × Option Packet) :=
  let have_ := (q.wptr + q.desc.rwords - q.rptr) % q.desc.rwords
  if have_ = 0 then .ok (s, none) else
  match s.ringWords k q q.rptr 1 with
  | .ok (s, h :: _) =>
    let n := Word.bits h 23 16
    if have_ < 2 + n then .ok (s, none) else
    (match s.ringWords k q (q.rptr + 1) (1 + n) with
     | .ok (s, seq :: body) => .ok (s, some { hdr := h, seq := seq, body := body })
     | .ok (s, []) => .ok (s, none)
     | .wait s => .wait s
     | .bad s sub va => .bad s sub va)
  | .ok (s, []) => .ok (s, none)
  | .wait s => .wait s
  | .bad s sub va => .bad s sub va

/-! ## Taking a packet (R318, R320) -/

/-- What taking a packet comes to: it is consumed and acts, or it does not act. -/
inductive Taken
  | act (s : State)
  | off (s : State)

/-- Whether a queue may take a packet now: firmware has taken its doorbell and has an idle core, it is not halted, no handler holds its
lock, its context is not being moved, an earlier packet does not hold up a BARRIER, and a record to be written has room (R316, R318,
R320, R328). -/
def State.mayTake (s : State) (k : QKey) (q : Queue) (p : Packet) : Bool :=
  q.bell && s.fwIdle (s.queueDie k) && q.status == 0 && !q.locked && (match k with
    | some r => (match s.ctx r.ctx with
      | some c => c.mig == .none || q.desc.place == 0
      | none => false)
    | none => true) && !(p.barrier && !q.running.isEmpty) && !(p.compl && (!q.held.isEmpty || !q.room))

/-- The packet at the head of a queue's ring taken, if it is this one: the checks of R320 for a type whose body must have `fits`, and its
consumption, with RPTR and CSEQ written together (R317). A packet of an ended context completes with the context's status. -/
def State.takePacket (s : State) (k : QKey) (p : Packet) (ty : Nat) (fits : Bool) : Taken :=
  match s.queue k with
  | none => .off s
  | some q =>
    if !s.mayTake k q p then .off s else
    match s.readPacket k q with
    | .wait s => .off s
    | .bad s sub va => .off (s.queueHalts k sub va)
    | .ok (s, head) =>
      if head ≠ some p then .off s
      else if p.seq != q.cseq + 1 then .off (s.haltPacket k p.seq 5)
      else if p.type != ty || Word.bits p.hdr 15 2 != 0 || !fits then .off (s.haltPacket k p.seq 4)
      else
        let rptr := (q.rptr + 2 + p.len) % q.desc.rwords
        let s := (s.onQueue k fun q => { q with
          rptr := rptr, cseq := p.seq, running := q.running ++ [p.seq]
          owed := q.owed ++ [(0, bytesOf 4 rptr ++ bytesOf 4 p.seq.toNat)] }).flushHeld k
        match k with
        | none => .act s
        | some r => match (s.ctx r.ctx).bind (·.ended) with
          | some st => .off (s.complete k p.seq st p.compl)
          | none => .act s

/-! ## The packets of user queues (R319) -/

/-- Values put into the registers that a mask names, in ascending order (R321). -/
def shadowed (mask : Word) (sh : List Word) (vals : List Word) : List Word :=
  ((lanesOf mask).zip vals).foldl (fun m e => m.set e.1 e.2) sh

/-- DISPATCH (R321): the shadow registers change, and are taken as a launch with the queue's pending TWAITs. -/
def execDispatch (q : QueueRef) (p : Packet) (s : State) : Out :=
  match s.takePacket (some q) p 0x01 (decide (p.len = 1 + popcount (p.word 0)) && decide (1 ≤ p.len)) with
  | .off s => .next s
  | .act s => match s.queue (some q) with
    | none => .next s
    | some x =>
      let sh := shadowed (p.word 0) x.sh (p.body.drop 1)
      .next ((s.putQueue (some q) { x with sh := sh, twaits := [] }).takeLaunch q p.seq p.compl sh x.twaits)

/-- GRAPH (R326): a run of a resident table, after the run under way. -/
def execGraph (q : QueueRef) (p : Packet) (s : State) : Out :=
  match s.takePacket (some q) p 0x02 (decide (p.len = 1)) with
  | .off s => .next s
  | .act s => match s.queue (some q) with
    | none => .next s
    | some x =>
      let s := s.putQueue (some q) { x with twaits := [] }
      let n := (p.word 0).toNat
      match x.table n with
      | none => .next (s.complete (some q) p.seq 1 p.compl)
      | some t =>
        if t.run.isSome then
          .next (s.putQueue (some q) { x with twaits := [], waitGraph := x.waitGraph ++ [(n, p.seq, p.compl, x.twaits)] })
        else .next ((s.startRun q t p.seq p.compl x.twaits).settleRuns q n)

/-- TSIG (R98, R319, R400): a token is signalled with the largest write completion times of the host's writes. -/
def execTsig (q : QueueRef) (p : Packet) (s : State) : Out :=
  let g : Signal := { n := (p.word 2).toNat, gd := s.hostGd, gp := s.hostGp, dies := 3, core := 0, multi := true }
  let d := s.queueDie (some q)
  match s.takePacket (some q) p 0x03 (decide (p.len = 3)) with
  | .off s => .next s
  | .act t => match t.fwSignal ⟨d, .queue (some q)⟩ q.ctx (p.dword 0) g with
    | .ok t => .next (t.complete (some q) p.seq 0 p.compl)
    | .bad s sub va => .next ((s.faultNote q.ctx d 8 sub.code 0 va).complete (some q) p.seq 17 p.compl)
    | .wait _ => match s.fwSignal ⟨d, .queue (some q)⟩ q.ctx (p.dword 0) g with
      | .wait s => .next s
      | _ => .next s

/-- TWAIT (R322): a gate on the queue's next DISPATCH or GRAPH; a fifth is refused (R320). -/
def execTwait (q : QueueRef) (p : Packet) (s : State) : Out :=
  let four := ((s.queue (some q)).map fun x => decide (4 ≤ x.twaits.length)).getD false
  match s.takePacket (some q) p 0x04 (decide (p.len = 4) && !four) with
  | .off s => .next s
  | .act s => .next ((s.onQueue (some q) fun x => { x with twaits := x.twaits ++ [(p.dword 0, p.dword 2)] }).complete (some q) p.seq 0 p.compl)

/-- NOPK (R319): no effect, whatever its body. A packet of a type that no packet has fails the checks of R320. -/
def execNopk (q : QueueRef) (p : Packet) (s : State) : Out :=
  match s.takePacket (some q) p 0x07 true with
  | .off s => .next s
  | .act s => .next (s.complete (some q) p.seq 0 p.compl)

/-! ## Doorbells (R316) -/

/-- DOORBELL_WPTR (R316): the host has written packets up to a word index. -/
def execDoorbellWptr (q : QueueRef) (v : Word) (s : State) : Out := s.onBar0 <|
  match s.queue (some q) with
  | none => .next s
  | some x => .next ((s.putQueue (some q) { x with wptr := v.toNat % x.desc.rwords }).pushEvent (s.queueDie (some q)) (.doorbell q))

/-- DOORBELL_CRPTR (R316, R320): the host has read records, and those held for want of room are written. -/
def execDoorbellCrptr (q : QueueRef) (v : Word) (s : State) : Out := s.onBar0 <|
  match s.queue (some q) with
  | none => .next s
  | some x => .next ((s.putQueue (some q) { x with crptr := v.toNat }).flushHeld (some q))

/-- MQWPTR_WRITE (R324). -/
def execMqwptrWrite (v : Word) (s : State) : Out := s.onBar0 <|
  let s := { s with mqwptr := v }
  match s.mq with
  | none => .next s
  | some x => .next ((s.putQueue none { x with wptr := v.toNat % x.desc.rwords }).pushEvent .kapael .mgmtDoorbell)

/-- MQCRPTR_WRITE (R324). -/
def execMqcrptrWrite (v : Word) (s : State) : Out := s.onBar0 <|
  let s := { s with mqcrptr := v }
  match s.mq with
  | none => .next s
  | some x => .next ((s.putQueue none { x with crptr := v.toNat }).flushHeld none)

/-! ## Resets (R323) -/

/-- The resident blocks of a queue. -/
def State.queueBlocks (s : State) (r : QueueRef) : List (BlockRef × Block) :=
  s.blocks.filter fun e => e.2.ctx == r.ctx && e.2.queue == r.queue

/-- Whether a block stands at safe points with everything it issued retired. -/
def State.blockStill (s : State) (ref : BlockRef) : Bool :=
  s.retired ref && (s.parsIn ref).all fun e => e.2.mode == .ended || e.2.status != .running

/-- The launches and runs of a queue ended with a status, their blocks discarded. -/
def State.dropWork (s : State) (r : QueueRef) (status : Nat) : State :=
  let mine (l : Launch) : Bool := l.ctx == r.ctx && l.queue == r.queue
  let s := (s.queueBlocks r).foldl (fun s e => s.clearBlock e.1) s
  let gone := s.launches.filter mine
  let kept (v : Saved) : Bool := !(v.blk.ctx == r.ctx && v.blk.queue == r.queue)
  let s := { s with launches := s.launches.filter fun l => !mine l, saved := s.saved.filter kept, snaps := s.snaps.filter kept }
  let s := gone.foldl (fun (s : State) l => if l.node.isSome then s else s.complete (some r) l.seq status l.compl) s
  match s.queue (some r) with
  | none => s
  | some q =>
    let runs := q.tables.filterMap (·.run) ++ q.waitGraph.map fun w => (w.2.1, w.2.2.1)
    let s := s.putQueue (some r) { q with tables := q.idleTables, waitGraph := [] }
    runs.foldl (fun (s : State) x => s.complete (some r) x.1 status x.2) s

/-- A queue put back to its start with a new SEQ0: packets not yet consumed are dropped, CWPTR keeps counting. -/
def State.restart (s : State) (k : QKey) (seq0 : Word) : State :=
  (s.onQueue k fun q =>
    { q with sh := List.replicate 32 0, twaits := [], rptr := q.wptr, cseq := seq0 - 1, status := 0, bell := false, locked := false, done := [], replays := [] }).writeState k

/-! ## The management queue's registers (R324) -/

/-- MQCTL_CREATE (R324): the management queue is created from MQDESC, or the status says why not. MQWPTR and MQCRPTR start again at 0, whatever the
host wrote there before (DESIGN CHOICE, log entry 110). -/
def execMqctlCreate (s : State) : Out := s.onBar0 <|
  if s.mq.isSome then .next (s.setMqStatus 8)
  else if qdescBad s.mqdesc true then .next (s.setMqStatus 1)
  else .next (({ s with mq := some (newQueue (qdescOf s.mqdesc) true), mqwptr := 0, mqcrptr := 0 }.writeState none).setMqStatus 0)

/-- MQCTL_RESET (R324): as QUEUE_RESET, with SEQ0 from MQDESC; there is nothing to reset before the queue exists. -/
def execMqctlReset (s : State) : Out := s.onBar0 <|
  match s.mq with
  | none => .next (s.setMqStatus 1)
  | some _ => .next (({ s with svc := none }.restart none (qdescOf s.mqdesc).seq0).setMqStatus 0)

end Sys2Proof.Machine
end

