-- ==== Sys2Proof/Machine/Frames.lean ====
section
/-! DEFINITION. Frames and quotas, the pages of a context's tables, and writing leaves with their replicas (R16, R17, R26,
R30, R49, R323). -/

namespace Sys2Proof.Machine

/-! ## Frames (R30, R49) -/

/-- The frames of a die that firmware has allocated, those held in undo logs among them. -/
def State.framesOn (s : State) (d : Die) : List Frame :=
  s.ctxs.flatMap fun c => (c.frames ++ c.epochs.flatMap fun e => e.frames.map fun f => f.2).filter fun f => decide (f.die = d)

/-- Bytes of the mirror reserve of a context. -/
def Context.reserve (c : Context) : Nat := if c.desc.restart then c.room else 0

/-- Bytes of a die outside the firmware reserve, the frames and every mirror reserve. -/
def State.freeOn (s : State) (d : Die) : Nat :=
  dramBytes d - reserveBytes - ((s.framesOn d).map (·.size)).sum - (match d with
    | .kapael => (s.ctxs.map Context.reserve).sum
    | .amdukor => 0)

/-- Whether a range of a die is in no frame and outside the firmware reserve. -/
def frameFits (fs : List Frame) (d : Die) (pa size : Nat) : Bool :=
  decide (pa + size ≤ dramBytes d - reserveBytes) && !fs.any fun f => decide (f.pa < pa + size) && decide (pa < f.pa + f.size)

/-- The lowest aligned place of a die for a frame (log entry 9). -/
def State.findFrame (s : State) (d : Die) (size : Nat) : Option Nat :=
  let fs := s.framesOn d
  let cands := 0 :: fs.map fun f => (f.pa + f.size + size - 1) / size * size
  (cands.filter fun pa => frameFits fs d pa size).foldl (fun m pa => match m with
    | some x => some (min x pa)
    | none => some pa) none

/-- Frame bytes that a context counts on a member. -/
def Context.used (c : Context) : Die → Nat
  | .kapael => c.usedK
  | .amdukor => c.usedA

/-- The quota of a context on a member, in bytes. -/
def Context.quota (c : Context) : Die → Nat
  | .kapael => 65536 * c.desc.quotaK
  | .amdukor => 65536 * c.desc.quotaA

/-- A context's count on a member changed. -/
def Context.charge' (c : Context) (d : Die) (f : Nat → Nat) : Context :=
  match d with
  | .kapael => { c with usedK := f c.usedK }
  | .amdukor => { c with usedA := f c.usedA }

/-- A die's memory read as zero over a range. -/
def State.zero (s : State) (d : Die) (pa n : Nat) : State := s.setMem (homeOf d) (Memory.clear (s.mem (homeOf d)) pa n)

/-- A frame allocated to a context on a member, aligned and zeroed (R30, R323), or the status that refuses it. `must`
leaves the quota and the context's own mirror reserve out of account (R146). -/
def State.allocFrame (s : State) (ctx : Nat) (d : Die) (size : Nat) (must : Bool) : Except Nat (State × Nat) :=
  match s.ctx ctx with
  | none => .error 1
  | some c =>
    let own := if must ∧ d = .kapael then c.reserve else 0
    if !must && decide (c.quota d < c.used d + size) then .error 6
    else if decide (s.freeOn d + own < size) || (decide (d = .amdukor) && !s.docked) then .error 9
    else match s.findFrame d size with
      | none => .error 9
      | some pa =>
        let f : Frame := { die := d, pa := pa, size := size }
        let c : Context := { c with frames := c.frames ++ [f] }
        .ok (((s.putCtx (c.charge' d (· + size))).zero d pa size).resetTags d pa size, pa)

/-- A frame that a context holds given back. -/
def State.freeFrame (s : State) (ctx : Nat) (f : Frame) : State :=
  match s.ctx ctx with
  | none => s
  | some c =>
    let c' : Context := { c with frames := c.frames.erase f }
    if c.frames.contains f then s.putCtx (c'.charge' f.die (· - f.size)) else s

/-- The frame of a context that stands at an address. -/
def Context.frameAt (c : Context) (d : Die) (pa : Nat) : Option Frame := c.frames.find? fun f => decide (f.die = d) && f.pa == pa

/-! ## Pages of a context (R17) -/

/-- Entries of a table at a level. -/
def tableLen (level : Nat) : Nat := if level = 6 then 16 else 256

/-- The address a table pointer names (R21). -/
def childOf (e : DWord) : Nat := 4096 * entryBits e 55 20 + 0x800 * entryBits e 11 11

/-- The valid leaves below a table: virtual address, physical address of the entry, entry. -/
def State.leavesFrom (s : State) (d : Die) : List Nat → Nat → Nat → List (Nat × Nat × DWord)
  | [], _, _ => []
  | level :: rest, base, va =>
    (List.range (tableLen level)).flatMap fun i =>
      let pa := base + 8 * i
      let e := s.entryAt d pa
      let va := va + i * 2 ^ (12 + 8 * level)
      if !e.getLsbD 0 then []
      else if e.getLsbD 1 then (if level = 0 then [] else State.leavesFrom s d rest (childOf e) va)
      else if level ≤ 2 && leafSz e / 4 == level && decide (leafSz e ≤ 11) then [(va, pa, e)] else []

/-- The pages of a context, each by its first replica; none when its tables are lost. -/
def State.pagesOf (s : State) (c : Context) : List (Nat × Nat × DWord) :=
  if c.lost.isSome then [] else (s.leavesFrom c.resident levels c.desc.root 0).filter fun e => e.1 % pageBytes e.2.2 == 0

/-- The tables of a context: level, physical address, and the address of the entry that names it, parents first. -/
def State.tablesFrom (s : State) (d : Die) : List Nat → Nat → Nat → List (Nat × Nat × Nat)
  | [], _, _ => []
  | level :: rest, base, slot =>
    (level, base, slot) :: (if level = 0 then [] else (List.range (tableLen level)).flatMap fun i =>
      let e := s.entryAt d (base + 8 * i)
      if e.getLsbD 0 && e.getLsbD 1 then State.tablesFrom s d rest (childOf e) (base + 8 * i) else [])

/-- The tables of a context, the root first. -/
def State.tablesOf (s : State) (c : Context) : List (Nat × Nat × Nat) :=
  if c.lost.isSome then [] else s.tablesFrom c.resident levels c.desc.root 0

/-- The leaf entry that an address walks to. -/
def State.leafSlot (s : State) (d : Die) (va : Nat) : List Nat → Nat → Option (Nat × DWord)
  | [], _ => none
  | level :: rest, base =>
    let pa := base + 8 * vaIndex va level
    let e := s.entryAt d pa
    if !e.getLsbD 0 then none
    else if e.getLsbD 1 then (if level = 0 then none else State.leafSlot s d va rest (childOf e))
    else if level ≤ 2 && leafSz e / 4 == level && decide (leafSz e ≤ 11) then some (pa, e) else none

/-- The leaf of a context's page. -/
def State.leafOf (s : State) (c : Context) (va : Nat) : Option (Nat × DWord) :=
  if c.lost.isSome then none else s.leafSlot c.resident va levels c.desc.root

/-- Every replica of a page's leaf rewritten, each with one store (R17, R133). -/
def State.rewriteLeaf (s : State) (c : Context) (va : Nat) (f : DWord → DWord) : State :=
  match s.leafOf c va with
  | none => s
  | some (pa, e) =>
    let n := 4 ^ (leafSz e % 4)
    let base := pa / (8 * n) * (8 * n)
    (List.range n).foldl (fun (s : State) i => s.putEntry c.resident (base + 8 * i) (f (s.entryAt c.resident (base + 8 * i)))) s

/-- What becomes of the leaves of a range is noted in the newest undo epoch (R146). -/
def State.noteLeaves (s : State) (ctx va len : Nat) (l : List (Nat × DWord)) : State :=
  match s.ctx ctx with
  | none => s
  | some c => match c.epochs with
    | [] => s
    | e :: t => s.putCtx { c with epochs := { e with leaves := e.leaves ++ [(va, len, l)] } :: t }

/-- A leaf with MV set or clear. -/
def withMv (v : Bool) (e : DWord) : DWord := if v then e ||| BitVec.twoPow 64 15 else e &&& ~~~(BitVec.twoPow 64 15)

/-- A leaf with its home and frame replaced and MV clear. -/
def withHome (h : Home) (pa : Nat) (e : DWord) : DWord :=
  BitVec.ofNat 64 ((withMv false e).toNat % 2 ^ 12 + homeCode h * 2 ^ 12 + (withMv false e).toNat / 2 ^ 14 % 2 ^ 6 * 2 ^ 14
    + pa / 4096 % 2 ^ 36 * 2 ^ 20 + e.toNat / 2 ^ 56 * 2 ^ 56)

/-! ## Invalidation (R26) -/

/-- Whether a range takes in an address. -/
def within (va len a : Nat) : Bool := decide (va ≤ a) && decide (a < va + len)

/-- Whether an operation still has an access to a range under way. A wait's reads are translated afresh each time. -/
def Op.over (o : Op) (va len : Nat) : Bool :=
  match o.kind with
  | .waitv | .qwait => false
  | _ => o.reqs.any fun r => !r.done && (match r.place with
    | .mem _ _ => within va len r.va
    | _ => false)

/-- Whether a bundle calls for an access to a range. -/
def Bundle.over (b : Bundle) (ctx va len : Nat) : Bool := b.ctx == ctx && b.reqs.any fun r => within va len r.va

/-- Whether an access of a die to a range, already translated, is still in flight. -/
def State.inFlight (s : State) (d : Die) (ctx va len : Nat) : Bool :=
  s.waves.any (fun e => decide (e.1.die = d) && e.2.ctx == ctx && e.2.ops.any fun o => o.over va len)
    || s.pars.any (fun e => decide (e.1.die = d) && e.2.ctx == ctx && e.2.ops.any fun o => o.over va len)
    || (s.die d).crucibles.any (fun c => (c.pile ++ c.batch).any fun b => b.over ctx va len)
    || (s.pipe d).open_.any fun e => e.2.place.any fun p => p.1 == ctx && within va len p.2

/-- Whether an access to a frame, already translated by whichever context's leaf, is still in flight on either die (R26, R133). -/
def State.frameInFlight (s : State) (h : Home) (pa len : Nat) : Bool :=
  let op (o : Op) : Bool := match o.kind with
    | .waitv | .qwait => false
    | _ => o.reqs.any fun r => !r.done && (match r.place with
      | .mem x a => x == h && within pa len a
      | _ => false)
  let piled (x : DieState) : Bool := x.crucibles.any fun c =>
    (c.pile ++ c.batch).any fun b => b.reqs.any fun r => leafHome r.leaf == h && within pa len r.pa
  s.waves.any (fun e => e.2.ops.any op) || s.pars.any (fun e => e.2.ops.any op) || piled s.kap || piled s.amd

/-- TLB entries of a range dropped on the die of firmware, and a SHOOT sent to the other when the pair is docked. -/
def State.shootDown (s : State) (d : Die) (ctx va len : Nat) : State :=
  let s := s.tlbDrop d ctx va len
  if s.docked then
    s.request d (.shoot ctx va len) { s.mkMsg d tyShoot ctx va with aux0 := BitVec.ofNat 64 len }
  else s

/-- Whether an invalidation begun on a die is over: the other die has answered, and no access is in flight here. -/
def State.shotDown (s : State) (d : Die) (ctx va len : Nat) : Bool :=
  !(s.pipe d).open_.any (fun e => e.2 == .shoot ctx va len) && !s.inFlight d ctx va len

end Sys2Proof.Machine
end

