-- ==== Sys2Proof/Machine/Pipe.lean ====
section
/-! DEFINITION. The blowpipe: header writes and their check on arrival, acknowledgements, delivery, the link's states, and the
checks of R140 (R136 to R140). -/

namespace Sys2Proof.Machine

/-! ## Acknowledgements (R138) -/

/-- A sender's end after an acknowledgement value: what is acknowledged goes, and messages that waited are numbered. -/
def PipeEnd.acked (p : PipeEnd) (k : BitVec 16) : PipeEnd :=
  if (k - p.a).toNat ≤ (p.n - p.a).toNat then
    let n := (k - p.a).toNat
    PipeEnd.push { p with a := k, unacked := p.unacked.drop n, written := p.written - n } p.backlog
  else p

/-- The sender of the messages that a die receives. -/
def fromDie (dest : Die) : Die := otherDie dest

/-- Whether the link carries writes now. -/
def State.linkUp (s : State) : Bool := s.link == .l0

/-- A die's E written into the sender's ACK register (R138). -/
def State.writeAck (s : State) (d : Die) : State :=
  let p := s.pipe d
  let s := s.setPipe d { p with sinceAck := 0 }
  s.setPipe (otherDie d) { (s.pipe (otherDie d)).acked p.e with ackReg := p.e }

/-- ACK_WRITE (R137, R138): an expected number that the partner has reached is written into the ACK register of the die that sends. -/
def execAckWrite (dest : Die) (k : BitVec 16) (s : State) : Out :=
  let other := s.pipe (otherDie dest)
  let mine := s.pipe dest
  if (other.e - mine.a).toNat < (k - mine.a).toNat then .next s else
  let s := if other.e = k then s.setPipe (otherDie dest) { other with sinceAck := 0 } else s
  .next (s.setPipe dest { (s.pipe dest).acked k with ackReg := k })

/-- ACK_TIMER (R138): a receiver acknowledges what it has delivered, at most 2 µs after a delivery. -/
def execAckTimer (d : Die) (s : State) : Out :=
  if (s.pipe d).sinceAck = 0 || !s.linkUp then .next s else .next (s.writeAck d)

/-- The acknowledgement whose 2 µs have passed (R138). -/
def State.ackDue (s : State) (d : Die) : State :=
  let p := s.pipe d
  if p.sinceAck ≠ 0 ∧ s.linkUp = true ∧ p.ackAt + 2000 ≤ s.now d then s.writeAck d else s

/-! ## Headers (R136) -/

/-- The 64 bytes of a message's header. -/
def headerOfMsg (m : Msg) : List Byte :=
  bytesOf 2 m.seq.toNat ++ bytesOf 2 m.ack.toNat ++ bytesOf 2 m.payload.length ++ bytesOf 1 m.ty.toNat ++ bytesOf 1 m.ctx
    ++ bytesOf 6 m.rkey.toNat ++ bytesOf 2 m.tag.toNat ++ bytesOf 8 m.va ++ bytesOf 8 m.aux0.toNat ++ bytesOf 8 m.aux1.toNat
    ++ bytesOf 8 m.time.toNat ++ List.replicate 12 0 ++ bytesOf 4 1

/-- Whether the VALID bit of a slot is set. -/
def slotValid (b : List Byte) : Bool := (nth b 60 0).getLsbD 0

/-- The message that a slot's bytes hold. -/
def msgOf (b : List Byte) : Msg :=
  { seq := BitVec.ofNat 16 (fieldOf b 0 2), ack := BitVec.ofNat 16 (fieldOf b 2 2), ty := BitVec.ofNat 8 (fieldOf b 6 1)
    ctx := fieldOf b 7 1, rkey := BitVec.ofNat 48 (fieldOf b 8 6), tag := BitVec.ofNat 16 (fieldOf b 14 2), va := fieldOf b 16 8
    aux0 := BitVec.ofNat 64 (fieldOf b 24 8), aux1 := BitVec.ofNat 64 (fieldOf b 32 8), time := BitVec.ofNat 64 (fieldOf b 40 8)
    payload := slice b 64 (fieldOf b 4 2) }

/-- A slot's bytes with the first ones of a part replaced. -/
def slotPut (b : List Byte) (ofs : Nat) (new : List Byte) : List Byte :=
  b.take ofs ++ List.replicate (ofs - b.length) 0 ++ new ++ b.drop (ofs + new.length)

/-! ## Header writes and delivery (R136, R138) -/

/-- The bytes of a slot of a window; one that nothing has been written to holds zeros. -/
def PipeEnd.slot (p : PipeEnd) (k : Nat) : List Byte := (look k p.slots).getD []

/-- A window after a sender has written a message into a slot, and whether it may be one: the payload lands in the slot, and the receive
logic lets the header through, counts it as a duplicate, or discards it (R136, R138). -/
def PipeEnd.receive (p : PipeEnd) (slot : Nat) (m : Msg) : PipeEnd × Bool :=
  let ahead := (m.seq - p.e).toNat
  let behind := (p.e - m.seq).toNat
  let body := slotPut (p.slot slot) 64 m.payload
  if ahead < 4096 && slot == m.seq.toNat % 4096 then ({ p with slots := put slot (slotPut body 0 (headerOfMsg m)) p.slots }, true)
  else if 1 ≤ behind && behind ≤ 32768 && slot == m.seq.toNat % 4096 then
    ({ p with dups := p.dups + 1, slots := put slot body p.slots }, true)
  else ({ p with slots := put slot body p.slots }, false)

/-- BLOWPIPE_HEADER_WRITE (R138): a header is written into a window; one that the partner sends next counts as written. A
window in recovery drops what is written to it, and a header out of place is discarded and logged. -/
def execBlowpipeHeaderWrite (dest : Die) (slot : Nat) (m : Msg) (s : State) : Out :=
  if !s.linkUp then .next s else
  let src := fromDie dest
  let q := s.pipe src
  let s := if q.unacked[q.written]? = some m then s.setPipe src { q with written := q.written + 1 } else s
  let (p, ok) := (s.pipe dest).receive slot m
  if ok then .next (s.setPipe dest p)
  else .next { s.setPipe dest p with log := .pipeLog dest m.ctx m.ty.toNat m.va 0 :: s.log }

/-- The message in the slot that a window reads next. -/
def PipeEnd.head (p : PipeEnd) : Option Msg :=
  let b := p.slot (p.e.toNat % 4096)
  if slotValid b && (msgOf b).seq == p.e then some (msgOf b) else none

/-- The slot that a window reads next is clear, and its message counted as delivered at a time. -/
def PipeEnd.taken (p : PipeEnd) (now : Nat) : PipeEnd :=
  let k := p.e.toNat % 4096
  { p with slots := put k (slotPut (p.slot k) 60 (List.replicate 4 0)) p.slots, e := p.e + 1, sinceAck := p.sinceAck + 1
           ackAt := if p.sinceAck = 0 then now else p.ackAt }

/-- The firmware messages of R140: an idle firmware core of the receiver runs them (R328). -/
def firmType (ty : Nat) : Bool := decide (tyHomeReq ≤ ty) && decide (ty ≤ tyCkptAck) || ty == tyShoot || ty == tyShootAck

/-- The message that a die delivers next, when it is of a type; VALID of its slot is clear then, its ACK field is taken, and the 64th since
the last acknowledgement is acknowledged (R136, R138). -/
def State.deliver (s : State) (dest : Die) (ty : Nat) : Option (State × Msg) :=
  let p := s.pipe dest
  match p.head with
  | none => none
  | some m =>
    if m.ty.toNat != ty || (firmType ty && !s.fwIdle dest) then none else
    let s := s.setPipe dest ((p.taken (s.now dest)).acked m.ack)
    some (if (s.pipe dest).sinceAck = 64 then s.writeAck dest else s, m)

/-- The type of the message a die delivers next. -/
def State.nextType (s : State) (dest : Die) : Option Nat := (s.pipe dest).head.map fun m => m.ty.toNat

/-- A message of a type that R137 does not list: dropped, and logged as PROTOCOL. -/
def State.dropMessage (s : State) (dest : Die) : State :=
  match (s.nextType dest).bind fun ty => s.deliver dest ty with
  | some (s, m) => { s with log := .pipeLog dest m.ctx m.ty.toNat m.va 0 :: s.log }
  | none => s

/-! ## Link states (R139) -/

/-- LINK_EXIT_L0 (R139): the link leaves L0, or leaves it again within a recovery. -/
def execLinkExitL0 (s : State) : Out :=
  if s.link = .l0 ∨ s.link = .recovering then .next { s with link := .outOfL0, linkAt := s.now .kapael } else .next s

/-- LINK_RECOVERY (R139): the link returns to L0 within 300 µs; each side writes RESYNC with its E, which the other has still
to read, and the heartbeat timeout starts afresh. -/
def execLinkRecovery (s : State) : Out :=
  if s.link ≠ .outOfL0 || decide (s.linkAt + 300000 < s.now .kapael) then .next s else
  let side (d : Die) (s : State) : State :=
    let p := s.pipe d
    s.setPipe d { p with resyncReg := (s.pipe (otherDie d)).e, sawResync := false, heardAt := s.now d }
  let life (x : Lifetime) : Lifetime := { x with cable.recoveries := more32 x.cable.recoveries }
  let s := side .amdukor (side .kapael s)
  .next { s with link := .recovering, linkAt := s.now .kapael
                 kap := { s.kap with life := life s.kap.life }, amd := { s.amd with life := life s.amd.life } }

/-- A sender's end that sends again, in order, from a number on (go-back-N). -/
def PipeEnd.goBack (p : PipeEnd) (k : BitVec 16) : PipeEnd := { p.acked k with written := 0 }

/-- Both senders have begun to send again: the link carries writes. -/
def State.recovered (s : State) : State :=
  if (s.pipe .kapael).sawResync && (s.pipe .amdukor).sawResync then { s with link := .l0 } else s

/-- RESYNC (R139): a sender reads the number that its partner wrote into RESYNC after the recovery, and sends again from there. -/
def execResync (dest : Die) (k : BitVec 16) (s : State) : Out :=
  if s.link ≠ .recovering ∨ k ≠ (s.pipe dest).resyncReg then .next s else
  .next (s.setPipe dest { (s.pipe dest).goBack k with sawResync := true }).recovered

/-- RESYNC_TIMEOUT (R139): a sender that has not read RESYNC within 20 µs sends again from its own A. -/
def execResyncTimeout (d : Die) (s : State) : Out :=
  if s.link ≠ .recovering || (s.pipe d).sawResync || decide (s.now .kapael < s.linkAt + 20000) then .next s else
  .next (s.setPipe d { (s.pipe d).goBack (s.pipe d).a with sawResync := true }).recovered

/-- A die's pair time written into the partner's window, 100 µs after the last time at the latest (R137). -/
def State.beat (s : State) (d : Die) : State :=
  let x := s.die d
  if !s.linkUp || !s.docked || decide (s.now d < x.beatAt + 100000) then s else
  let s := s.setDie d { x with beatAt := s.now d }
  let o := otherDie d
  s.setPipe o { s.pipe o with heartbeat := x.ptime, heardAt := s.now o }

/-- HEARTBEAT (R137); it comes with the time that passes (State.tick). -/
def execHeartbeat (d : Die) (s : State) : Out := .next (s.beat d)

/-! ## The checks of R140 -/

/-- Check 1: the context lives, and the key is its. -/
def State.keyed (s : State) (m : Msg) : Option Context :=
  match s.ctx m.ctx with
  | some c => if c.desc.rkey = m.rkey then some c else none
  | none => none

/-- A message refused: logged with the failed check, and recorded for the context when check 1 passed. -/
def State.refuseMsg (s : State) (dest : Die) (m : Msg) (check : Nat) (sub : Sub) : State :=
  let s := { s with log := .pipeLog dest m.ctx m.ty.toNat m.va check :: s.log }
  if check ≤ 1 ∨ s.keyed m = none then s else s.faultNote m.ctx dest 4 sub.code 0 m.va

/-- The four checks of an access request: the leaf and the physical address, or the check that fails (R140). -/
def State.accessCheck (s : State) (dest : Die) (m : Msg) (acc : Access) : Except (Nat × Sub) (DWord × Nat) :=
  match s.keyed m with
  | none => .error (1, .refuseFirmware)
  | some c => match s.leafOf c m.va with
    | none => .error (2, .refuseHome)
    | some (_, e) =>
      if !(leafHome e == homeOf dest || (leafHome e == .host && dest == .kapael)) then .error (2, .refuseHome)
      else if !(leafRa e || leafHome e == .host) then .error (3, .refuseRa)
      else if (checkAccess e acc).isSome then .error (4, .refuseRights)
      else .ok (e, leafPa e m.va)

/-- A reply to a request, under its tag. -/
def State.replyMsg (s : State) (dest : Die) (q : Msg) (ty : Nat) (f : Msg → Msg) : State :=
  s.sendMsg dest (f { s.mkMsg dest ty q.ctx q.va with tag := q.tag })

/-- The bit of AUX1 that says that a request was refused. -/
def refusedBit : DWord := BitVec.twoPow 64 63

/-- What a die's open request under a tag was sent for; it is open no longer. -/
def State.closeTag (s : State) (d : Die) (tag : BitVec 16) : Option (State × ReqFor) :=
  let p := s.pipe d
  (p.open_.find? fun e => e.1 == tag).map fun e => (s.setPipe d { p with open_ := p.open_.filter fun x => x.1 != tag }, e.2)

end Sys2Proof.Machine
end

