-- ==== Sys2Proof/Machine/Moves.lean ====
section
/-! DEFINITION. Moves of a page's home, with their messages, and the invalidations they use (R26, R127, R131 to R135). -/

namespace Sys2Proof.Machine

/-! ## The move of a page (R133, R134) -/

/-- The move of the page that holds an address. -/
def State.moveAt (s : State) (ctx va : Nat) : Option PageMove := s.moves.find? fun m => m.ctx == ctx && within m.va m.size va

/-- The state with a move replaced. -/
def State.putMove (s : State) (m : PageMove) : State :=
  { s with moves := updFirst (fun x => x.ctx == m.ctx && x.va == m.va) (fun _ => m) s.moves }

/-- Both access counters of a page at zero again (R132). -/
def State.resetCounts (s : State) (ctx va : Nat) : State :=
  let fresh (x : DieState) : DieState := { x with acc := x.acc.filter fun e => !(e.ctx == ctx && e.base == va) }
  { s with kap := fresh s.kap, amd := fresh s.amd }

/-- The state without a move; the page's access counters start again at zero (R132). -/
def State.dropMove (s : State) (m : PageMove) : State :=
  { s with moves := s.moves.filter fun x => !(x.ctx == m.ctx && x.va == m.va) }.resetCounts m.ctx m.va

/-- A move that has found its page a new home ends once the accesses that it held have been served there (R133): until then the page is
noted with the agents that made them, and its counters are reset again when they have been (DEDUCED, log entry 12). -/
def State.awaitServed (s : State) (m : PageMove) : State :=
  let held := (s.kap.walks ++ s.amd.walks).filter fun e => e.2 == .held && e.1.ctx == m.ctx && within m.va m.size e.1.va
  if held.isEmpty && !s.hostHeld.any (fun h => h.ctx == m.ctx && within m.va m.size h.va) then s
  else { s with settling := s.settling ++ [{ ctx := m.ctx, va := m.va, size := m.size, agents := dedup (held.map (·.1.agent)) }] }

/-- The notes of firmware's accesses that a move has held: at a refusal those that cannot be served in place fault when they are tried
again (R30), and the others go. -/
def State.freeNotes (s : State) (m : PageMove) (refused ra : Bool) : State :=
  let mine (w : FwWait) : Bool := w.ctx == m.ctx && within m.va m.size w.va
  let bad (w : FwWait) : Bool := refused && !ra && w.by_.die != m.src
  { s with fwWaits := s.fwWaits.filterMap fun w => if !mine w then some w else if bad w then some { w with fault := some .quotaFrame } else none }

/-- Accesses held at their walk for a page released: those that a refusal leaves no place for fault (R30); all others walk
again. -/
def State.release (s : State) (m : PageMove) (refused : Bool) (ra : Bool) (level : Nat) : State :=
  let go (d : Die) (e : WalkReq × WalkSt) : WalkReq × WalkSt :=
    if e.2 = .held ∧ e.1.ctx = m.ctx ∧ within m.va m.size e.1.va = true then
      (e.1, if refused && !ra && d != m.src then .fault .quotaFrame level else .pending)
    else e
  let one (d : Die) (x : DieState) : DieState := { x with walks := x.walks.map (go d) }
  { s with kap := one .kapael s.kap, amd := one .amdukor s.amd }.freeNotes m refused ra

/-- A move that ends as a refusal (R30, R133): a leaf whose MV it had set is written back, a frame it was granted is freed,
and what it held is released. -/
def State.refuseMove (s : State) (m : PageMove) : State :=
  let begun := match m.stage with | .wanted | .asked => false | _ => true
  let s := if begun then match s.ctx m.ctx with
      | some c => (s.rewriteLeaf c m.va (withMv false)).shootDown c.resident m.ctx m.va m.size
      | none => s
    else s
  let s := if begun then s.freeFrame m.ctx { die := m.dst, pa := m.newPa, size := m.size } else s
  let s := s.dropMove m
  let leaf := ((s.ctx m.ctx).bind fun c => s.leafOf c m.va).map (·.2)
  let ra := (leaf.map leafRa).getD true
  s.release m true ra ((leaf.map fun e => leafSz e / 4).getD 0)

/-- Whether a page is pinned by a scan-out head (R396). -/
def State.pinned (s : State) (ctx va : Nat) : Bool := (s.head0.pins ++ s.head1.pins).any fun p => p.ctx == ctx && within p.va p.size va

/-- Whether step 1 of R133 refuses a move, up to its end with the grant: an undock under way, a pinned page, a leaf that is not the
page's any more, or no partner (R355, R396). -/
def State.moveBarred (s : State) (c : Context) (m : PageMove) : Bool :=
  (match s.leafOf c m.va with
    | some (_, e) => leafHome e != homeOf m.src || leafMv e
    | none => true)
  || !s.docked || (decide (m.dst = .amdukor) && s.pairState == 4) || (decide (m.src = .kapael) && s.pinned m.ctx m.va)

/-- Whether a move is refused as it begins: for one of these, or the quota of the new home (R30). -/
def State.moveRefused (s : State) (c : Context) (m : PageMove) : Bool :=
  s.moveBarred c m || decide (c.quota m.dst < c.used m.dst + m.size)

/-- Step 2 of R133: MV is set in every replica and the page invalidated on both dies, with every translation to the old frame. -/
def State.beginDrain (s : State) (m : PageMove) (pa : Nat) : State :=
  match s.ctx m.ctx with
  | none => s
  | some c =>
    let oldPa := ((s.leafOf c m.va).map fun e => leafBase e.2).getD m.oldPa
    let old (s : State) (d : Die) : State := s.frameDrop d (homeOf m.src) oldPa m.size
    (old (old ((s.rewriteLeaf c m.va (withMv true)).shootDown c.resident m.ctx m.va m.size) .kapael) .amdukor).putMove
      { m with stage := .draining, newPa := pa, oldPa := oldPa }

/-- The lines of a page's old frame that cores hold with data their home lacks go home, and its owners are recalled
(R105). -/
def State.recallPage (s : State) (m : PageMove) : State :=
  let hits (l : LineRef) : Bool := l.home == homeOf m.src && within m.oldPa m.size (l.la * 128)
  let drop (d : Die) (s : State) : State :=
    ((s.die d).l1.filter fun x => hits x.line && x.holds).foldl (fun s x => s.l1Drop ⟨d, x.core⟩ x.line) s
  let owned := ((s.die m.src).tags.filter fun t => hits t.line && t.owner.isSome).map (·.line)
  drop .amdukor (drop .kapael (owned.foldl State.recall s))

/-- Whether lines of a page that cores of the other member have written back are still on their way to it. -/
def State.backsOver (s : State) (m : PageMove) : Bool :=
  ((s.pipe .kapael).open_ ++ (s.pipe .amdukor).open_).any fun e => match e.2 with
    | .backed ctx va _ => ctx == m.ctx && within m.va m.size va
    | _ => false

/-- The lease ends of 32 lines of the old home, 16 bytes a line (R137). -/
def State.leaseBytes (s : State) (m : PageMove) (ofs : Nat) : List Byte :=
  (List.range 32).flatMap fun i =>
    let t := s.tag (lineAt (homeOf m.src) (m.oldPa + ofs + 128 * i))
    bytesOf 8 t.leK ++ bytesOf 8 t.leA

/-- Step 3 of R133: the page sent in pieces of 4 KiB. -/
def State.streamPage (s : State) (m : PageMove) : State :=
  let s := (List.range (m.size / 4096)).foldl (fun (s : State) k =>
    let ofs := 4096 * k
    s.sendMsg m.src { s.mkMsg m.src tyHomeData m.ctx m.va with
      aux0 := BitVec.ofNat 64 ofs
      payload := Memory.readN (s.mem (homeOf m.src)) (m.oldPa + ofs) 4096 ++ s.leaseBytes m ofs }) s
  s.putMove { m with stage := .streaming, sent := m.size / 4096 }

/-- Whether a page's data is still on its way to the new home. -/
def State.dataOut (s : State) (m : PageMove) : Bool :=
  let p := s.pipe m.src
  (p.unacked ++ p.backlog).any fun x => x.ty.toNat == tyHomeData && x.ctx == m.ctx && x.va == m.va

/-- An old frame of an RST page that leaves Kapael during an undo epoch is held in the undo log (R143); any other is
freed. -/
def State.oldFrame (s : State) (m : PageMove) (rst : Bool) : State :=
  let f : Frame := { die := m.src, pa := m.oldPa, size := m.size }
  match s.ctx m.ctx with
  | none => s
  | some c => match c.epochs with
    | e :: t =>
      if m.src = .kapael ∧ rst = true then
        if c.room < c.mirrorUse + m.size then (s.epochsFull c .kapael).freeFrame m.ctx f
        else s.putCtx { c with frames := c.frames.erase f, epochs := { e with frames := e.frames ++ [(m.va, f)] } :: t }
      else s.freeFrame m.ctx f
    | [] => s.freeFrame m.ctx f

/-- Step 5 of R133: the old home lets its frame go, and what waited walks again. -/
def State.finishMove (s : State) (m : PageMove) : State :=
  let rst := ((s.ctx m.ctx).bind fun c => (s.leafOf c m.va).map fun e => c.rst e.2 m.va).getD false
  ((s.oldFrame m rst).dropMove m).release m false true 0

/-- Steps 4 and 5 of R133: every replica names the new home, what waited walks again, and HOME_DONE goes to the old home. -/
def State.switchHome (s : State) (m : PageMove) : State :=
  match s.ctx m.ctx with
  | none => s.dropMove m
  | some c =>
    let leaf := ((s.leafOf c m.va).map (·.2)).getD 0
    let s := if c.rst leaf m.va then s else s.noteLeaves m.ctx m.va m.size [(m.va, withHome (homeOf m.dst) m.newPa leaf)]
    let s := ((s.rewriteLeaf c m.va (withHome (homeOf m.dst) m.newPa)).putMove { m with stage := .done }).awaitServed m
    if m.src = c.resident then s.finishMove m
    else (s.release m false true 0).sendMsg c.resident (s.mkMsg c.resident tyHomeDone m.ctx m.va)

/-- Whether a job or a held access of a context waits for a page's move (R131, R134). -/
def State.moveNeeded (s : State) (m : PageMove) : Bool :=
  (s.kap.jobs ++ s.amd.jobs).any (fun j => j.ctx == m.ctx && j.waiting)
    || (s.kap.walks ++ s.amd.walks).any fun e => e.1.ctx == m.ctx && e.2 == .held && within m.va m.size e.1.va

/-- MOVE_START (R133, R134): a wanted move of a page's home begins, and goes on step by step as what each step waits for comes
about. -/
def execMoveStart (p : PageRef) (dest : Die) (s : State) : Out :=
  match s.moveAt p.ctx p.va with
  | none => .next s
  | some m =>
    if m.dst ≠ dest then .next s else
    match s.ctx m.ctx with
    | none => .next (s.dropMove m)
    | some c =>
      match m.stage with
      | .wanted =>
        let busy := (s.moves.filter fun x => x.stage != .wanted && ((s.ctx x.ctx).map (·.resident)) == some c.resident).length
        if 64 ≤ busy || c.ckpt.isSome || (!s.moveNeeded m && c.held m.dst) || c.inTransit then .next s
        else if s.moveRefused c m then .next (s.refuseMove m)
        else if m.dst = c.resident then
          (match s.allocFrame m.ctx m.dst m.size false with
           | .error _ => .next (s.refuseMove m)
           | .ok (s, pa) => .next (s.beginDrain m pa))
        else
          .next ((s.request c.resident (.move m.ctx m.va) { s.mkMsg c.resident tyHomeReq m.ctx m.va with
            aux0 := BitVec.ofNat 64 m.size, aux1 := match m.dst with | .kapael => 0 | .amdukor => 1 }).putMove { m with stage := .asked })
      | .asked => .next s
      | .draining =>
        if s.shotDown c.resident m.ctx m.va m.size && !s.inFlight (otherDie c.resident) m.ctx m.va m.size
            && !s.frameInFlight (homeOf m.src) m.oldPa m.size then
          let s := s.recallPage m
          .next (if s.backsOver m then s else s.streamPage m)
        else .next s
      | .streaming => if s.dataOut m then .next s else .next (s.switchHome m)
      | .done => .next s

/-! ## The messages of a move (R137, R140) -/

/-- HOME_REQ: the new home grants a frame, or denies it. -/
def execHomeReq (dest : Die) (s : State) : Out :=
  match s.deliver dest tyHomeReq with
  | none => .next s
  | some (s, m) =>
    let deny (s : State) : State := s.replyMsg dest m tyHomeDeny id
    match s.keyed m with
    | none => .next (deny (s.refuseMsg dest m 1 .refuseFirmware))
    | some c =>
      if c.resident = dest then .next (deny (s.refuseMsg dest m 2 .refuseFirmware)) else
      match s.allocFrame m.ctx dest m.aux0.toNat false with
      | .error _ => .next (deny s)
      | .ok (s, pa) => .next (s.replyMsg dest m tyHomeGrant fun x => { x with aux0 := BitVec.ofNat 64 pa })

/-- The move that an answer's tag belongs to. -/
def State.moveFor (s : State) (dest : Die) (m : Msg) : Option (State × PageMove) :=
  match s.closeTag dest m.tag with
  | some (s, .move ctx va) => (s.moves.find? fun x => x.ctx == ctx && x.va == va && x.stage == .asked).map fun x => (s, x)
  | _ => none

/-- HOME_GRANT: the move goes on with the frame, or ends as a refusal when step 1 has come to refuse it meanwhile. -/
def execHomeGrant (dest : Die) (s : State) : Out :=
  match s.deliver dest tyHomeGrant with
  | none => .next s
  | some (s, m) => match s.moveFor dest m with
    | some (s, x) =>
      if ((s.ctx x.ctx).map fun c => s.moveBarred c x).getD true then
        .next ((s.freeFrame x.ctx { die := x.dst, pa := m.aux0.toNat, size := x.size }).refuseMove x)
      else .next (s.beginDrain x m.aux0.toNat)
    | none => .next (s.refuseMsg dest m 2 .refuseFirmware)

/-- HOME_DENY: the move ends as a refusal (R30). -/
def execHomeDeny (dest : Die) (s : State) : Out :=
  match s.deliver dest tyHomeDeny with
  | none => .next s
  | some (s, m) => match s.moveFor dest m with
    | some (s, x) => .next (s.refuseMove x)
    | none => .next (s.refuseMsg dest m 2 .refuseFirmware)

/-- A piece of a page put into its new frame, each line with its lease ends raised by SKEW (R89, R133). -/
def State.placePage (s : State) (m : PageMove) (leaf : DWord) (ofs : Nat) (payload : List Byte) : State :=
  let h := homeOf m.dst
  let pa := m.newPa + ofs
  let s := s.touch m.ctx (m.va + ofs) (withHome h m.newPa leaf) pa
  let s := (s.setMem h (Memory.writeN (s.mem h) pa (payload.take 4096))).resetTags m.dst pa 4096
  (List.range 32).foldl (fun (s : State) i =>
    let k := fieldOf payload (4096 + 16 * i) 8
    let a := fieldOf payload (4104 + 16 * i) 8
    let l := lineAt h (pa + 128 * i)
    if k = 0 ∧ a = 0 then s else
    s.putTag l fun t => (t.raise .kapael (if k = 0 then 0 else k + skew)).raise .amdukor (if a = 0 then 0 else a + skew)) s

/-- HOME_DATA: a piece of the page arrives at its new home. -/
def execHomeData (dest : Die) (s : State) : Out :=
  match s.deliver dest tyHomeData with
  | none => .next s
  | some (s, m) => match s.moves.find? fun x => x.ctx == m.ctx && x.va == m.va && x.stage == .streaming with
    | some x =>
      if x.dst ≠ dest || decide (x.size ≤ m.aux0.toNat) then .next ((s.refuseMsg dest m 2 .refuseFirmware).refuseMove x) else
      let leaf := (((s.ctx x.ctx).bind fun c => s.leafOf c x.va).map (·.2)).getD 0
      .next (s.placePage x leaf m.aux0.toNat m.payload)
    | none => .next (s.refuseMsg dest m 2 .refuseFirmware)

/-- HOME_DONE: the old home frees the old frame, or holds it in the undo log. -/
def execHomeDone (dest : Die) (s : State) : Out :=
  match s.deliver dest tyHomeDone with
  | none => .next s
  | some (s, m) => match s.moves.find? fun x => x.ctx == m.ctx && x.va == m.va && x.stage == .done with
    | some x => if x.src = dest then .next (s.finishMove x) else .next (s.refuseMsg dest m 2 .refuseFirmware)
    | none => .next (s.refuseMsg dest m 2 .refuseFirmware)

/-! ## SHOOT (R26, R137) -/

/-- Answers to invalidations whose last access in flight has ended. -/
def State.answerShoots (s : State) (dest : Die) : State :=
  let p := s.pipe dest
  let clear := p.shoots.filter fun x => !s.inFlight dest x.1 x.2.1 x.2.2.1
  let s := s.setPipe dest { p with shoots := p.shoots.filter fun x => s.inFlight dest x.1 x.2.1 x.2.2.1 }
  clear.foldl (fun (s : State) x => s.sendMsg dest { s.mkMsg dest tyShootAck x.1 x.2.1 with tag := x.2.2.2 }) s

/-- SHOOT: the receiving die drops what its TLBs hold of the range, and answers once no access translated by it is in
flight. A refused one is answered by an ordinary SHOOT_ACK (DESIGN CHOICE: R140 lists no form of refusal for it, log entry 91). -/
def execShoot (dest : Die) (s : State) : Out :=
  match s.deliver dest tyShoot with
  | none => .next (s.answerShoots dest)
  | some (s, m) => match s.keyed m with
    | none => .next ((s.refuseMsg dest m 1 .refuseFirmware).sendMsg dest { s.mkMsg dest tyShootAck m.ctx m.va with tag := m.tag })
    | some _ =>
      let s := s.tlbDrop dest m.ctx m.va m.aux0.toNat
      let p := s.pipe dest
      .next ((s.setPipe dest { p with shoots := p.shoots ++ [(m.ctx, m.va, m.aux0.toNat, m.tag)] }).answerShoots dest)

/-- SHOOT_ACK: the invalidation that the tag belongs to has been answered. -/
def execShootAck (dest : Die) (s : State) : Out :=
  match s.deliver dest tyShootAck with
  | none => .next s
  | some (s, m) => match s.closeTag dest m.tag with
    | some (s, .shoot _ _ _) => .next s
    | _ => .next (s.refuseMsg dest m 2 .refuseFirmware)

end Sys2Proof.Machine
end

