-- ==== Sys2Proof/Machine/Ray.lean ====
section
/-! DEFINITION. Ray traversal: the structures of R282, the exact tests of R284, the traversal of R285, and TRACE
(R281 to R286, R308, R309). -/

namespace Sys2Proof.Machine

/-! ## Reads of the traversal and sampling units (R283) -/

/-- What a read or a computation over reads comes to: a value, a walk still to be made, a line with an earlier access
of the core still to be performed, or a fault. -/
inductive Got (α : Type)
  | ok (a : α)
  | miss (va : Nat)
  | busy
  | bad (sub : Sub) (va level : Nat)
  deriving DecidableEq, Repr

/-- Bytes of one line read as a load of a lane; it waits for the replies of atomics of its wave on the line (R112). -/
def State.texPart (s : State) (x : Actor) (va n : Nat) : State × Got (List Byte) :=
  match s.locate x.agent x.ctx x.block .load 0 1 va with
  | .miss => (s, .miss va)
  | .bad sub level => (s, .bad sub va level)
  | .place (.mem h pa) leaf =>
    if s.lineBusy x.core s.opCtr (lineAt h pa) || x.ops.any fun o => o.atomicOn (fun _ => true) h pa then (s, .busy) else
    if s.away x.core (lineAt h pa) then (s.askLine x.agent .load x.ctx va leaf (lineAt h pa), .busy) else
    let live := ((s.l1Get x.core (lineAt h pa)).map (s.l1Live x.core.die)).getD false
    let (s, flaw) := if live then s.placeFlaw x.core n (.mem h pa) else s.readFlaw x.core n (.mem h pa)
    match flaw with
    | some sub => (s, .bad sub va 0)
    | none =>
      let (s, d) := s.loadLine x.core (lineAt h pa) x.ctx va leaf
      (s, .ok (slice d (pa % 128) n))
  | .place _ _ => (s, .bad .protRead va 0)

/-- Bytes of a structure, 16 at a time (R283). -/
def State.texRead (s : State) (x : Actor) (va : Nat) : Nat → State × Got (List Byte)
  | 0 => (s, .ok [])
  | n + 1 => match State.texRead s x va n with
    | (s, .ok l) => match s.texPart x ((va + 16 * n) % 2 ^ 64) 16 with
      | (s, .ok b) => (s, .ok (l ++ b))
      | r => r
    | r => r

/-! ## Exact numbers (R284) -/

/-- A fraction with a positive denominator. -/
structure Frac where
  n : Int
  d : Nat
  deriving DecidableEq, Repr

/-- Order of fractions. -/
def Frac.le (a b : Frac) : Bool := decide (a.n * b.d ≤ b.n * a.d)
@[inherit_doc Frac.le] def Frac.lt (a b : Frac) : Bool := decide (a.n * b.d < b.n * a.d)

/-- The quotient of two numbers, the second not zero. -/
def Frac.of (n d : Int) : Frac := if d < 0 then ⟨-n, (-d).toNat⟩ else ⟨n, d.toNat⟩

/-- A fraction rounded once to F32 under RN; an exact zero is +0 (log entry 115). -/
def Frac.round (a : Frac) : Word :=
  if a.n = 0 then 0 else
  let k := Nat.log2 a.d + 64
  let z := a.n.natAbs * 2 ^ k
  ofF (roundF fF32 .rn (decide (a.n < 0)) (z / a.d) (-(k : Int)) (z % a.d != 0))

/-- Whether a value is finite. -/
def FV.isFin : FV → Bool
  | .fin _ _ _ => true
  | _ => false

/-- A finite F32 value in units of 2 to the -149. -/
def FV.fix (x : FV) : Int := x.units (-149)

/-- A finite F32 value as a fraction. -/
def FV.frac (x : FV) : Frac := ⟨x.fix, 2 ^ 149⟩

/-! ## Rays and frames -/

/-- A frame: origin and direction, and the instance it belongs to. -/
structure Frame3 where
  o : List FV
  d : List FV
  inst : Option Word := none
  deriving DecidableEq, Repr

/-- A ray in the world frame with its interval and mask. -/
structure Ray where
  world : Frame3
  tmin : Frac
  tmax : Frac
  mask : Nat
  deriving DecidableEq, Repr

/-- The ray of a lane's source words; none when it misses at once (R284). -/
def rayOf (a : List Word) (mask : Word) : Option Ray :=
  let v := a.map f32
  let at3 (k : Nat) : List FV := slice v k 3
  let tmin := nth v 3 .nan
  let tmax := nth v 7 .nan
  if !(v.all FV.isFin) || (at3 4).all (fun x => x.fix == 0) || decide (tmax.fix < tmin.fix) then none
  else some { world := { o := at3 0, d := at3 4 }, tmin := tmin.frac, tmax := tmax.frac, mask := Word.bits mask 7 0 }

/-- The interval of t in which one axis of a box holds: nothing, or its ends, none for an unbounded one. The ends are not exchanged where
min is greater than max, so that such an axis holds nowhere; R284 does not say (DESIGN CHOICE, log entry 114). -/
def slab (o d lo hi : Int) : Option (Option (Frac × Frac)) :=
  if d = 0 then (if lo ≤ o && o ≤ hi then some none else none)
  else if 0 < d then some (some (Frac.of (lo - o) d, Frac.of (hi - o) d))
  else some (some (Frac.of (hi - o) d, Frac.of (lo - o) d))

/-- The larger of two fractions. -/
def Frac.max (a b : Frac) : Frac := if a.le b then b else a
@[inherit_doc Frac.max] def Frac.min (a b : Frac) : Frac := if a.le b then a else b

/-- The sort key of a child box, when it is hit. -/
def boxKey (fr : Frame3) (tmin thi : Frac) (box : List Word) : Option Frac :=
  let b := box.map f32
  if !(b.all FV.isFin) then none else
  let g (l : List FV) (k : Nat) : Int := (nth l k .nan).fix
  let axes := (List.range 3).map fun k => slab (g fr.o k) (g fr.d k) (g b k) (g b (k + 3))
  if axes.any Option.isNone then none else
  let ends := (axes.filterMap id).filterMap id
  let entry := ends.foldl (fun m e => match m with | none => some e.1 | some x => some (x.max e.1)) (none : Option Frac)
  let exit := ends.foldl (fun m e => match m with | none => some e.2 | some x => some (x.min e.2)) (none : Option Frac)
  match entry, exit with
  | some a, some z => if a.le z && tmin.le z && a.le thi then some (a.max tmin) else none
  | _, _ => none

/-- The determinant of three columns. -/
def det3 (a b c : Int × Int × Int) : Int :=
  a.1 * (b.2.1 * c.2.2 - b.2.2 * c.2.1) - a.2.1 * (b.1 * c.2.2 - b.2.2 * c.1) + a.2.2 * (b.1 * c.2.1 - b.2.1 * c.1)

/-- A point or direction in units. -/
def vec3 (l : List FV) (k : Nat) : Int × Int × Int := ((nth l k .nan).fix, (nth l (k + 1) .nan).fix, (nth l (k + 2) .nan).fix)

/-- The difference of two points. -/
def sub3 (a b : Int × Int × Int) : Int × Int × Int := (a.1 - b.1, a.2.1 - b.2.1, a.2.2 - b.2.2)

/-- A hit: t, primitive, instance and the two weights. -/
structure Hit where
  t : Frac
  prim : Word
  inst : Word
  b1 : Frac
  b2 : Frac
  deriving DecidableEq, Repr

/-- The test of a triangle: t and its two weights, when it is hit. -/
def triHit (fr : Frame3) (tmin thi : Frac) (strict : Bool) (vs : List Word) : Option (Frac × Frac × Frac) :=
  let v := vs.map f32
  if !(v.all FV.isFin) then none else
  let v0 := vec3 v 0
  let e1 := sub3 (vec3 v 3) v0
  let e2 := sub3 (vec3 v 6) v0
  let d := vec3 fr.d 0
  let nd := (-d.1, -d.2.1, -d.2.2)
  let r := sub3 (vec3 fr.o 0) v0
  let z := det3 nd e1 e2
  if z = 0 then none else
  let t := Frac.of (det3 r e1 e2) z
  let b1 := Frac.of (det3 nd r e2) z
  let b2 := Frac.of (det3 nd e1 r) z
  let one : Frac := ⟨b1.n * b2.d + b2.n * b1.d, b1.d * b2.d⟩
  if b1.n < 0 || b2.n < 0 || !(one.le ⟨1, 1⟩) || t.lt tmin || (if strict then !(t.lt thi) else thi.lt t) then none
  else some (t, b1, b2)

/-- The frame of an instance, unless it is not entered. -/
def enterInst (fr : Frame3) (m : List Word) (inst : Word) : Option Frame3 :=
  let v := m.map f32
  if !(v.all FV.isFin) then none else
  let one : FV := .fin false 1 0
  let row (k : Nat) (p : List FV) : FV :=
    f32 (ofF (sumF fF32 .rn ((slice v (4 * k) 4).zipWith FV.mul p)))
  let o := (List.range 3).map fun k => row k (fr.o ++ [one])
  let d := (List.range 3).map fun k => row k fr.d
  if !(o.all FV.isFin) || !(d.all FV.isFin) || d.all (fun x => x.fix == 0) then none
  else some { o := o, d := d, inst := some inst }

/-! ## The traversal (R285) -/

/-- A hierarchy's descriptor (R282). -/
structure Bvh where
  root : Nat
  base : Nat
  limit : Nat
  levels : Nat
  deriving DecidableEq, Repr

/-- The descriptor's bytes read; none when they break the table. -/
def bvhOf (b : List Byte) : Option Bvh :=
  if fieldOf b 25 7 != 0 || decide (1 < fieldOf b 24 1) then none
  else some { root := fieldOf b 0 8, base := fieldOf b 8 8, limit := fieldOf b 16 8, levels := fieldOf b 24 1 }

/-- The bytes of a structure that a reference of a kind names (R282). -/
def kindBytes (kind : Nat) : Nat :=
  match kind with
  | 1 => 128
  | 2 => 48
  | _ => 64

/-- Whether a reference that is followed breaks R281 or the range of its descriptor; `top` marks a ROOT or BLAS. -/
def refBad (b : Bvh) (top : Bool) (ref : Nat) : Bool :=
  let kind := ref % 8
  let va := ref / 16 * 16
  decide (3 < kind) || ref / 8 % 2 == 1 || (top && kind != 1) || (kind == 1 && va % 128 != 0)
    || decide (va < b.base) || decide (b.limit < va + kindBytes kind)

/-- What the traversal is about to visit: a reference, its depth and frame, and whether it is a ROOT or BLAS. -/
structure Visit where
  ref : Nat
  depth : Nat
  fr : Frame3
  top : Bool := false
  deriving DecidableEq, Repr

/-- The state of a traversal: best hit so far, bound on t, restart trail, short stack (top first), and whether the stack
has dropped an entry. -/
structure Trav where
  best : Option Hit := none
  thi : Frac
  trail : List Nat := List.replicate 32 0
  stack : List (Nat × Nat × Nat × Frame3) := []
  dropped : Bool := false
  deriving DecidableEq, Repr

/-- The trail with entry `k` set and every entry above it zero. -/
def trailSet (l : List Nat) (k v : Nat) : List Nat := (List.range 32).map fun i => if i < k then nth l i 0 else if i = k then v else 0

/-- The level that a restart goes on at, from `n` levels down: the deepest whose trail entry is below 3. -/
def restartLevel (l : List Nat) : Nat → Option Nat
  | 0 => none
  | n + 1 => if nth l n 0 = 3 then restartLevel l n else some n

/-- finish(m) of R285, with `n` = m + 1. -/
def Trav.finish (t : Trav) (b : Bvh) (world : Frame3) (n : Nat) : Trav × Option Visit :=
  match t.stack with
  | (ref, k2, j, fr) :: rest =>
    ({ t with stack := rest, trail := trailSet t.trail k2 j }, some { ref := ref, depth := k2 + 1, fr := fr })
  | [] =>
    if !t.dropped then (t, none) else
    match restartLevel t.trail n with
    | none => (t, none)
    | some m => ({ t with trail := trailSet t.trail m (nth t.trail m 0 + 1), dropped := false },
        some { ref := b.root, depth := 0, fr := world, top := true })

/-- An entry put onto the short stack of 8; a ninth drops the oldest. -/
def Trav.push (t : Trav) (e : Nat × Nat × Nat × Frame3) : Trav :=
  { t with stack := (e :: t.stack).take 8, dropped := t.dropped || decide (8 ≤ t.stack.length) }

/-- A child put into a list sorted by key, ties by slot: it goes behind every child with a key not above its own. -/
def insertChild (e : Frac × Nat) : List (Frac × Nat) → List (Frac × Nat)
  | [] => [e]
  | x :: t => if x.1.le e.1 then x :: insertChild e t else e :: x :: t

/-- The hit children of an internal node's bytes, nearest first. -/
def hitChildren (r : Ray) (t : Trav) (fr : Frame3) (node : List Byte) : List Nat :=
  ((List.range 4).foldl (fun l i =>
    let ref := fieldOf node (96 + 8 * i) 8
    if ref % 8 = 0 then l else
    match boxKey fr r.tmin t.thi (wordsOf (slice node (24 * i) 24)) with
    | some k => insertChild (k, ref) l
    | none => l) []).map (·.2)

/-- One visit of the traversal, with the bytes of the node. A leaf's reserved fields are tested first, before an instance's MASK and M: R283
gives its faults no order (DESIGN CHOICE, log entry 113). -/
def visitNode (b : Bvh) (r : Ray) (t : Trav) (v : Visit) (bytes : List Byte) : Except Sub (Trav × Option Visit) :=
  let done (t : Trav) : Except Sub (Trav × Option Visit) := .ok (t.finish b r.world v.depth)
  match v.ref % 8 with
  | 1 =>
    let l := hitChildren r t v.fr bytes
    let c := nth t.trail v.depth 0
    match l[c]? with
    | none => done t
    | some ref =>
      let later := (List.range l.length).filter fun j => c < j
      let t := later.reverse.foldl (fun (t : Trav) j => t.push (nth l j 0, v.depth, j, v.fr)) t
      .ok (t, some { ref := ref, depth := v.depth + 1, fr := v.fr })
  | 2 =>
    if fieldOf bytes 40 8 != 0 then .error .trvRef else
    match triHit v.fr r.tmin t.thi t.best.isSome (wordsOf (slice bytes 0 36)) with
    | some (x, b1, b2) =>
      let prim := BitVec.ofNat 32 (fieldOf bytes 36 4)
      done { t with best := some { t := x, prim := prim, inst := v.fr.inst.getD 0xFFFFFFFF, b1 := b1, b2 := b2 }, thi := x }
    | none => done t
  | _ =>
    if fieldOf bytes 61 3 != 0 then .error .trvRef else
    if (fieldOf bytes 60 1 &&& r.mask) = 0 then done t else
    match enterInst r.world (wordsOf (slice bytes 0 48)) (BitVec.ofNat 32 (fieldOf bytes 56 4)) with
    | none => done t
    | some fr => .ok (t, some { ref := fieldOf bytes 48 8, depth := v.depth, fr := fr, top := true })

/-- trace of R285 from a visit on; `fuel` bounds the visits by more than a hierarchy of depth 32 can have. Where several conditions of R283
hold at once, the reference's own is raised first, then TRV_NEST or TRV_DEPTH, then what the read of the node meets, and the leaf's last: the
rule gives no order (DESIGN CHOICE, log entry 113). -/
def State.traceFrom (x : Actor) (b : Bvh) (r : Ray) : Nat → State → Trav → Visit → State × Got (Option Hit)
  | 0, s, t, _ => (s, .ok t.best)
  | fuel + 1, s, t, v =>
    let va := v.ref / 16 * 16
    if refBad b v.top v.ref then (s, .bad .trvRef va 0)
    else if v.ref % 8 = 3 && (v.fr.inst.isSome || b.levels == 1) then (s, .bad .trvNest va 0)
    else if v.ref % 8 = 1 && decide (32 ≤ v.depth) then (s, .bad .trvDepth va 0)
    else match s.texRead x va (kindBytes (v.ref % 8) / 16) with
      | (s, .ok bytes) => match visitNode b r t v bytes with
        | .error sub => (s, .bad sub va 0)
        | .ok (t, none) => (s, .ok t.best)
        | .ok (t, some v) => State.traceFrom x b r fuel s t v
      | (s, .miss a) => (s, .miss a)
      | (s, .busy) => (s, .busy)
      | (s, .bad sub a level) => (s, .bad sub a level)

/-- The hit record (R286). -/
def hitRecord (h : Option Hit) : List Word :=
  match h with
  | some h => [h.t.round, h.prim, h.inst, h.b1.round, h.b2.round]
  | none => [0x7F800000, 0xFFFFFFFF, 0xFFFFFFFF, 0, 0]

/-! ## Lanes of a TEX instruction (R309) -/

/-- What the lanes of a TEX instruction come to. -/
structure TexAll where
  s : State
  results : List (Nat × List Word) := []
  misses : List (Nat × Nat) := []
  busy : Bool := false
  bads : List (Nat × Nat × Sub × Nat) := []

/-- The lanes computed in ascending order. -/
def texLanes (go : State → Nat → State × Got (List Word)) (s : State) (ls : List Nat) : TexAll :=
  ls.foldl (fun (t : TexAll) l =>
    match go t.s l with
    | (s, .ok ws) => { t with s := s, results := t.results ++ [(l, ws)] }
    | (s, .miss va) => { t with s := s, misses := t.misses ++ [(l, va)] }
    | (s, .busy) => { t with s := s, busy := true }
    | (s, .bad sub va level) => { t with s := s, bads := t.bads ++ [(l, va, sub, level)] }) { s := s }

/-- A TEX instruction of a wave with its descriptor: read once, its format checked whatever the guard, then the lanes computed. An
address fault of the descriptor's read is raised only when some lane that is no helper executes (R32); else every lane takes the value
`dead`. -/
def texWave {δ : Type} (f : Form) (k : OpKind) (bad : Sub) (desc : List Byte → Option δ)
    (lane : Actor → Wave → δ → State → Nat → State × Got (List Word)) (dead : List Word) (s : State) (a : AgentId)
    (w : Wave) (sp : Split) : State :=
  let ex := w.exec sp f
  let ff := s.formFile (coreOf a)
  let x := Actor.wave a w sp
  let by_ := if ex = 0 then sp.act else ex
  let va := match lowest by_ with
    | some l => (pairOf (w.operands ff f l).b).toNat
    | none => 0
  let all (sub : Sub) (level : Nat) : List (Nat × Nat × Sub × Nat) := (lanesOf by_).map fun l => (l, va, sub, level)
  s.inOrder x .relaxed 0 fun s =>
    if va % 32 != 0 then s.faultLanes x (all bad 0) else
    match s.texRead x va 2 with
    | (s, .miss a) => s.waitWalks x (some .txc) .load [((lowest by_).getD 0, a)]
    | (s, .busy) => s.stalled x .memory
    | (s, .bad sub _ level) =>
      if ex &&& ~~~w.helper != 0 then
        s.faultLanes x ((lanesOf (ex &&& ~~~w.helper)).map fun l => (l, va, sub, level))
      else (s.clearWalks a).issueOp a (s.waveNow a w) sp f
        { newOp s a sp f k ex with results := (lanesOf ex).map fun l => (l, dead) }
    | (s, .ok b) => match desc b with
      | none => s.faultLanes x (all bad 0)
      | some d =>
        let t := texLanes (lane x w d) s (lanesOf ex)
        if !t.misses.isEmpty then t.s.waitWalks x (some .txc) .load t.misses
        else if t.busy then t.s.stalled x .memory
        else if !t.bads.isEmpty then t.s.faultLanes x t.bads
        else
          let s := t.s.clearWalks a
          s.issueOp a (s.waveNow a w) sp f { newOp s a sp f k ex with results := t.results }

/-- A lane's traversal. -/
def traceLane (f : Form) (x : Actor) (w : Wave) (b : Bvh) (s : State) (l : Nat) : State × Got (List Word) :=
  let i := w.operands (s.formFile x.core) f l
  if w.helper.getLsbD l then (s, .ok (hitRecord none)) else
  match rayOf i.a i.c0 with
  | none => (s, .ok (hitRecord none))
  | some r =>
    match s.traceFrom x b r (2 ^ 80) { thi := r.tmax } { ref := b.root, depth := 0, fr := r.world, top := true } with
    | (s, .ok h) => (s, .ok (hitRecord h))
    | (s, .miss a) => (s, .miss a)
    | (s, .busy) => (s, .busy)
    | (s, .bad sub a level) => (s, .bad sub a level)

/-- TRACE (R308, R309). -/
def execTrace (x : GForm) (s : State) : Out :=
  let f := Instr.form (.trace x)
  runInstr f { wave := texWave f .trace .trvDesc bvhOf (traceLane f) (hitRecord none), par := fun s p r => s.blow p r } s

/-- TEX_REPLY (R309): the oldest trace, sample or slot read writes its destinations and retires. -/
def execTexReply (a : AgentId) (op : Nat) (s : State) : Out :=
  match s.agentOp a op with
  | none => .next s
  | some o => match o.kind with
    | .trace | .sample | .pidld =>
      if !s.mayRetire a o then .next s else
      match s.waveOf a with
      | some w => .next ((s.setWave a (w.writeResults (s.formFile (coreOf a)) o o.vdst 0)).retire a o)
      | none => .next s
    | _ => .next s

end Sys2Proof.Machine
end

