-- ==== Sys2Proof/Machine/Raster.lean ====
section
/-! DEFINITION. Texture sampling (R287, R288, R309), the visibility slots and their rasteriser (R289 to R291), PIDLD and
VISR (R310, R311). -/

namespace Sys2Proof.Machine

/-! ## Textures (R287, R288) -/

/-- A texture descriptor (R287). -/
structure TexDesc where
  base : Nat
  width : Nat
  height : Nat
  levels : Nat
  fmt : Nat
  bilinear : Bool
  clampU : Bool
  clampV : Bool
  pitch : Nat
  deriving DecidableEq, Repr

/-- Bytes of a texel of a format. -/
def texelBytes (fmt : Nat) : Nat := if fmt = 1 then 8 else 4

/-- The descriptor of some bytes; none when they break the table. -/
def texDescOf (b : List Byte) : Option TexDesc :=
  let w := fieldOf b 8 2
  let h := fieldOf b 10 2
  let lv := fieldOf b 12 1
  let fmt := fieldOf b 13 1
  let fl := fieldOf b 14 1
  let pitch := fieldOf b 16 4
  let base := fieldOf b 0 8
  if fieldOf b 20 12 != 0 || fieldOf b 15 1 != 0 || fl / 8 != 0 || decide (2 < fmt) || w = 0 || h = 0 || decide (16384 < w)
      || decide (16384 < h) || lv = 0 || decide (Nat.log2 (max w h) + 1 < lv) || decide (15 < lv) || base % 256 != 0
      || pitch % 256 != 0 || decide (pitch < w * texelBytes fmt) then none
  else some { base := base, width := w, height := h, levels := lv, fmt := fmt, bilinear := fl % 2 == 1
              clampU := fl / 2 % 2 == 1, clampV := fl / 4 % 2 == 1, pitch := pitch }

/-- Width and height of a level. -/
def TexDesc.dims (t : TexDesc) (i : Nat) : Nat × Nat := (max 1 (t.width / 2 ^ i), max 1 (t.height / 2 ^ i))

/-- A number rounded up to a multiple of 256. -/
def up256 (n : Nat) : Nat := (n + 255) / 256 * 256

/-- The row pitch of a level. -/
def TexDesc.rowPitch (t : TexDesc) (i : Nat) : Nat := if i = 0 then t.pitch else up256 ((t.dims i).1 * texelBytes t.fmt)

/-- The offset of a level from BASE. -/
def TexDesc.levelOfs (t : TexDesc) : Nat → Nat
  | 0 => 0
  | 1 => t.pitch * t.height
  | i + 1 => up256 (t.levelOfs i + t.rowPitch i * (t.dims i).2)

/-- The address of a texel. -/
def TexDesc.addr (t : TexDesc) (lv i j : Nat) : Nat :=
  (t.base + t.levelOfs lv + j * t.rowPitch lv + i * texelBytes t.fmt) % 2 ^ 64

/-- An index reduced by its wrap mode. -/
def wrapIdx (clamp : Bool) (n : Nat) (i : Int) : Nat :=
  if clamp then (if i < 0 then 0 else min i.toNat (n - 1)) else (i % (n : Int)).toNat

/-- The level a level of detail gives. -/
def TexDesc.level (t : TexDesc) (lod : FV) : Nat :=
  match lod with
  | .nan => 0
  | .inf n => if n then 0 else t.levels - 1
  | x => let k := (x.fix + 2 ^ 148) / 2 ^ 149
    if k < 0 then 0 else min k.toNat (t.levels - 1)

/-- A coordinate in units of 2 to the -149; what is not finite as R288 says. -/
def texCoord (clamp : Bool) (u : FV) : Int :=
  match u with
  | .nan => 0
  | .inf n => if clamp then (if n then -(2 ^ 149) else 2 ^ 150) else 0
  | x => x.fix

/-- The four channels of a texel's bytes: a unorm format as whole numbers of 1/255, another as values. -/
def texelChannels (fmt : Nat) (b : List Byte) : List FV :=
  match fmt with
  | 0 => (List.range 4).map fun k => .fin false (fieldOf b k 1) 0
  | 1 => (List.range 4).map fun k => decodeF fF16 (fieldOf b (2 * k) 2)
  | _ => [decodeF fF32 (natOf b), .fin false 0 0, .fin false 0 0, .fin false 1 0]

/-- Weighted texels summed exactly and rounded once, per channel. -/
def texSum (fmt : Nat) (ts : List (FV × List FV)) : List Word :=
  (List.range 4).map fun k =>
    let terms := ts.map fun t => FV.mul t.1 (nth t.2 k .nan)
    if fmt = 0 then
      let v := terms.foldl (fun a t => a + t.units (-300)) (0 : Int)
      Frac.round ⟨v, 255 * 2 ^ 300⟩
    else ofF (sumF fF32 .rn terms)

/-- Texels read as loads of a lane; a helper lane's read that would fault supplies zero channels (R309). -/
def State.texels (s : State) (x : Actor) (helper : Bool) (t : TexDesc) (lv : Nat) : List (Nat × Nat) → State × Got (List (List FV))
  | [] => (s, .ok [])
  | (i, j) :: l => match s.texPart x (t.addr lv i j) (texelBytes t.fmt) with
    | (s, .ok b) => match State.texels s x helper t lv l with
      | (s, .ok r) => (s, .ok (texelChannels t.fmt b :: r))
      | r => r
    | (s, .miss a) => (s, .miss a)
    | (s, .busy) => (s, .busy)
    | (s, .bad sub a level) =>
      if !helper then (s, .bad sub a level) else
      match State.texels s x helper t lv l with
      | (s, .ok r) => (s, .ok (List.replicate 4 (.fin false 0 0) :: r))
      | r => r

/-- The texels a sample takes with their weights (R288). -/
def TexDesc.taps (t : TexDesc) (u v lod : FV) : Nat × List ((Nat × Nat) × FV) :=
  let lv := t.level lod
  let (w, h) := t.dims lv
  let cu := texCoord t.clampU u * w
  let cv := texCoord t.clampV v * h
  let at_ (i j : Int) : Nat × Nat := (wrapIdx t.clampU w i, wrapIdx t.clampV h j)
  let one : Int := 2 ^ 149
  if !t.bilinear then (lv, [(at_ (cu / one) (cv / one), .fin false 1 0)])
  else
    let x := 2 * cu - one
    let y := 2 * cv - one
    let i := x / (2 * one)
    let j := y / (2 * one)
    let a := (x % (2 * one)).toNat
    let b := (y % (2 * one)).toNat
    let full := 2 ^ 150
    let wt (p q : Nat) : FV := .fin false (p * q) (-300)
    (lv, [(at_ i j, wt (full - a) (full - b)), (at_ (i + 1) j, wt a (full - b)), (at_ i (j + 1), wt (full - a) b),
          (at_ (i + 1) (j + 1), wt a b)])

/-- A lane's sample. -/
def sampleLane (f : Form) (x : Actor) (w : Wave) (t : TexDesc) (s : State) (l : Nat) : State × Got (List Word) :=
  let i := w.operands (s.formFile x.core) f l
  let g (k : Nat) : FV := f32 (nth i.a k 0)
  let (lv, taps) := t.taps (g 0) (g 1) (g 2)
  match s.texels x (w.helper.getLsbD l) t lv (taps.map (·.1)) with
  | (s, .ok ch) => (s, .ok (texSum t.fmt ((taps.map (·.2)).zip ch)))
  | (s, .miss a) => (s, .miss a)
  | (s, .busy) => (s, .busy)
  | (s, .bad sub a level) => (s, .bad sub a level)

/-- SAMPLE (R308, R309). -/
def execSample (x : GForm) (s : State) : Out :=
  let f := Instr.form (.sample x)
  runInstr f { wave := texWave f .sample .sampDesc texDescOf (sampleLane f) [0, 0, 0, 0], par := fun s p r => s.blow p r } s

/-! ## Visibility slots (R289) -/

/-- A cleared entry: ID and DEPTH. -/
def clearedCell : Word × Word := (0xFFFFFFFF, 0x7F800000)

/-- An entry of a slot. -/
def VSlot.get (v : VSlot) (k : Nat) : Word × Word := (look k v.cells).getD clearedCell

/-- Entries with one written, in rising order, a cleared one not listed. -/
def cellPut (k : Nat) (e : Word × Word) : List (Nat × Word × Word) → List (Nat × Word × Word)
  | [] => if e = clearedCell then [] else [(k, e)]
  | (k', e') :: t =>
    if k < k' then (if e = clearedCell then (k', e') :: t else (k, e) :: (k', e') :: t)
    else if k = k' then (if e = clearedCell then t else (k, e) :: t)
    else (k', e') :: cellPut k e t

/-- The block a core's slots are bound to. -/
def State.slotOwner (s : State) (c : CoreRef) : Option BlockRef :=
  (s.blocks.find? fun e => e.1.die == c.die && e.1.core == c.core && !e.2.slots.isEmpty).map (·.1)

/-- A core's slots bound to a block and cleared, unless they are bound already. -/
def State.bindSlots (s : State) (r : BlockRef) : State :=
  match s.blockOf r with
  | some b => if b.slots.isEmpty then s.putBlock r { b with slots := List.replicate 4 {} } else s
  | none => s

/-- PIDLD (R310): the entries as they stand at issue, written with the reply. -/
def execPidld (x : GForm) (s : State) : Out :=
  let f := Instr.form (.pidld x)
  runInstr f
    { wave := fun s a w sp =>
        let ff := s.formFile (coreOf a)
        let slots := ((w.block.bind s.blockOf).map (·.slots)).getD []
        let one (l : Nat) : Nat × List Word :=
          let i := (w.operands ff f l).a0
          let e := (nth slots (Word.bits i 11 10) {}).get (32 * Word.bits i 9 5 + Word.bits i 4 0)
          (l, [e.2, e.1])
        s.issueOp a w sp f { newOp s a sp f .pidld (w.exec sp f) with results := (lanesOf (w.exec sp f)).map one }
      par := fun s p r => s.blow p r } s

/-! ## Rasterising (R290) -/

/-- A vertex in units of 2 to the -149. -/
abbrev Vert := Int × Int × Int

/-- E of an edge from `a` to `b` at a point in the plane. -/
def edgeFn (a b : Vert) (p : Int × Int) : Int := (b.1 - a.1) * (p.2 - a.2.1) - (b.2.1 - a.2.1) * (p.1 - a.1)

/-- Whether an edge is top-left. -/
def topLeft (a b : Vert) : Bool :=
  let dx := b.1 - a.1
  let dy := b.2.1 - a.2.1
  decide (dy < 0) || (dy == 0 && decide (0 < dx))

/-- The depth a primitive gives a pixel, when it covers it (R290). A depth that is exactly zero is +0, where every z is -0 too: R56 gives the
sign of a sum of two zeros, and R290's quotient is no such sum (DESIGN CHOICE, log entry 115). -/
def coverDepth (v0 v1 v2 : Vert) (area : Int) (p : Int × Int) : Option Word :=
  let e01 := edgeFn v0 v1 p
  let e12 := edgeFn v1 v2 p
  let e20 := edgeFn v2 v0 p
  let on (e : Int) (a b : Vert) : Bool := decide (0 < e) || (e == 0 && topLeft a b)
  if on e01 v0 v1 && on e12 v1 v2 && on e20 v2 v0 then
    some (Frac.round (Frac.of (e12 * v0.2.2 + e20 * v1.2.2 + e01 * v2.2.2) (area * 2 ^ 149)))
  else none

/-- One pixel of a slot under a primitive. -/
def rasterPixel (v0 v1 v2 : Vert) (area : Int) (x0 y0 : Nat) (prim : Word) (v : VSlot) (k : Nat) : VSlot :=
  let p : Int × Int := ((2 * ((x0 + k % 32 : Nat) : Int) + 1) * 2 ^ 148, (2 * ((y0 + k / 32 : Nat) : Int) + 1) * 2 ^ 148)
  match coverDepth v0 v1 v2 area p with
  | none => v
  | some z => if floatCond 2 false (f32 z) (f32 (v.get k).2) then { v with cells := cellPut k (prim, z) v.cells } else v

/-- One primitive record, ten words, drawn into a slot (R290). -/
def rasterPrim (x0 y0 : Nat) (v : VSlot) (rec : List Word) : VSlot :=
  let c := (rec.take 9).map f32
  if !(c.all FV.isFin) then v else
  let v0 := vec3 c 0
  let v1 := vec3 c 3
  let v2 := vec3 c 6
  let area := edgeFn v0 v1 (v2.1, v2.2.1)
  if area = 0 then v else
  let (v1, v2, area) := if area < 0 then (v2, v1, -area) else (v1, v2, area)
  (List.range 1024).foldl (rasterPixel v0 v1 v2 area x0 y0 (nth rec 9 0)) v

/-- The list cut into records of ten words. -/
def tens : Nat → List Word → List (List Word)
  | 0, _ => []
  | n + 1, l => if l.isEmpty then [] else l.take 10 :: tens n (l.drop 10)

/-! ## VISR (R311) -/

/-- Primitive records read as loads of the parison, ten words each. -/
def State.primList (s : State) (x : Actor) (va : Nat) : Nat → State × Got (List Word)
  | 0 => (s, .ok [])
  | n + 1 => match s.texRead x va 3 with
    | (s, .ok b) => match State.primList s x ((va + 48) % 2 ^ 64) n with
      | (s, .ok l) => (s, .ok (wordsOf (slice b 0 40) ++ l))
      | r => r
    | (s, .miss a) => (s, .miss a)
    | (s, .busy) => (s, .busy)
    | (s, .bad sub a level) => (s, .bad sub a level)

/-- VISR (R311): the gaffer binds the core's slots, waiting while another block holds them, and reads the list; the clear
and the drawing are the slot action. -/
def execVisr (x : GForm) (s : State) : Out :=
  let f := Instr.form (.visr x)
  runUniOp f .visr (fun s p r =>
    let y := Actor.par p r
    let va := (pairOf (r.sregs .s2 x.a.toNat)).toNat
    let n := (nth r.sreg x.b.toNat 0).toNat
    let org := nth r.sreg f.fields.2.2.2 0
    match s.slotOwner (parCore p) with
    | some b => if b = r.block then go s p r y va n org else s.stalled y .slot
    | none => go s p r y va n org) s
where
  /-- The list read, once the slots are this block's. -/
  go (s : State) (p : ParId) (r : Parison) (y : Actor) (va n : Nat) (org : Word) : State :=
    let f := Instr.form (.visr x)
    let s := s.bindSlots r.block
    if va % 16 != 0 then s.faultLanes y [(0, va, .misaligned, 0)] else
    match y.ordered with
    | some why => s.stalled y why
    | none => match s.primList y va n with
      | (s, .miss a) => s.waitWalks y (some .txc) .load [(0, a)]
      | (s, .busy) => s.stalled y .memory
      | (s, .bad sub a level) => s.faultLanes y [(0, a, sub, level)]
      | (s, .ok ws) =>
        let o := { newParOp s r f .visr with args := [BitVec.ofNat 32 f.ml, org] ++ ws }
        s.issuePar p r f o

/-- VISR_SLOT_ACTION (R311): a VISR that has issued clears its slot, when it says so, and draws its list, as one
action. -/
def execVisrSlotAction (p : ParId) (op : Nat) (s : State) : Out :=
  match look p s.pars with
  | none => .next s
  | some r => match opOf r.ops op with
    | none => .next s
    | some o =>
      if o.kind != .visr || o.ready then .next s else
      match s.slotOwner (parCore p) with
      | some b => if b = r.block then .next (draw s r o) else .next s
      | none => .next (draw (s.bindSlots r.block) r o)
where
  /-- The action itself. -/
  draw (s : State) (r : Parison) (o : Op) : State :=
    match s.blockOf r.block with
    | none => s
    | some b =>
      let ml := (nth o.args 0 0).toNat
      let org := nth o.args 1 0
      let v := if ml / 4 % 2 == 1 then {} else nth b.slots (ml % 4) {}
      let v := (tens o.args.length (o.args.drop 2)).foldl (rasterPrim (Word.bits org 15 0) (Word.bits org 31 16)) v
      let s := s.putBlock r.block { b with slots := b.slots.set (ml % 4) v }
      s.mapOps (.gaffer p) fun l => setOp l { o with ready := true }

end Sys2Proof.Machine
end

