-- ==== Sys2Proof/Machine/Heads.lean ====
section
/-! DEFINITION. The scan-out heads: modes, flips and latches, composition of a line, link training, AUX, hot plug (R393 to
R398). -/

namespace Sys2Proof.Machine

/-! ## A head's registers (R394) -/

/-- A head. -/
def State.head (s : State) (h : Nat) : Head := if h = 0 then s.head0 else s.head1

/-- The state with a head replaced. -/
def State.putHead (s : State) (h : Nat) (x : Head) : State := if h = 0 then { s with head0 := x } else { s with head1 := x }

/-- An interrupt of a head: MSI-X vector 0. -/
def State.headIrq (s : State) : State := { s with log := .msix 0 :: s.log }

/-- A bit of HERR set, with the interrupt that HIRQ asks for. -/
def State.headErr (s : State) (h bit : Nat) : State :=
  let x := s.head h
  let s := s.putHead h { x with herr := x.herr ||| BitVec.twoPow 32 bit }
  if Word.bit x.hirq 1 then s.headIrq else s

/-- HSTATUS with its LINK, lanes and rate fields replaced. -/
def Head.linked (x : Head) (up : Bool) (lanes rate : Nat) : Head :=
  { x with hstatus := BitVec.ofNat 32 (Word.bits x.hstatus 0 0 + Word.bits x.hstatus 2 2 * 4
      + if up then 2 + lanes * 2 ^ 4 + rate * 2 ^ 8 else 0) }

/-- The rate codes of R393: kilobits a second of each lane, and its payload share as a fraction. -/
def rateOf (code : Nat) : Nat × Nat × Nat :=
  match code with
  | 0 => (1620000, 8, 10)
  | 1 => (2700000, 8, 10)
  | 2 => (5400000, 8, 10)
  | 3 => (8100000, 8, 10)
  | 4 => (10000000, 128, 132)
  | 5 => (13500000, 128, 132)
  | 6 => (20000000, 128, 132)
  | _ => (0, 0, 1)

/-- Whether a head can be trained to a number of lanes and a rate code. -/
def trainable (h lanes rate : Nat) : Bool :=
  (lanes == 1 || lanes == 2 || lanes == 4) && (if h = 0 then decide (rate ≤ 3) else decide (rate ≤ 6))

/-- Whether one direction of a head's timing is consistent. -/
def timingOk (active total start stop : Nat) : Bool :=
  decide (1 ≤ active) && decide (active < start) && decide (start < stop) && decide (stop ≤ total)

/-- Whether a head may start with an HCTL value: the mode of R394. -/
def Head.modeOk (x : Head) (h : Nat) (v : Word) : Bool :=
  let lo (w : Word) : Nat := Word.bits w 15 0
  let hi (w : Word) : Nat := Word.bits w 31 16
  let depth := Word.bits v 3 2
  let bpp := if depth = 0 then 24 else 30
  let rate := rateOf (Word.bits x.hstatus 10 8)
  let lanes := Word.bits x.hstatus 6 4
  timingOk (lo x.htime0) (hi x.htime0) (lo x.htime1) (hi x.htime1) && timingOk (lo x.vtime0) (hi x.vtime0) (lo x.vtime1) (hi x.vtime1)
    && decide (25000 ≤ x.pclk.toNat) && decide (x.pclk.toNat ≤ if h = 0 then 800000 else 2400000)
    && decide (depth ≤ 1) && Word.bit x.hstatus 1 && decide (x.pclk.toNat * bpp * rate.2.2 ≤ lanes * rate.1 * rate.2.1)

/-- HCTL_ENABLE (R394, R396): HCTL is written; ENABLE starts the head, if its mode is consistent, before line 0, or stops it and
unpins its surfaces. -/
def execHctlEnable (h : Nat) (v : Word) (s : State) : Out := s.onBar0 <|
  let x := s.head h
  let keep := BitVec.ofNat 32 (Word.bits v 3 1 * 2)
  let on := Word.bit x.hctl 0
  if !Word.bit v 0 then
    .next (s.putHead h { x with hctl := keep, hstatus := x.hstatus &&& ~~~1, pins := [], latched0 := none, latched1 := none, due := [] })
  else if on then .next (s.putHead h { x with hctl := keep ||| 1 })
  else if x.modeOk h v then
    let last := BitVec.ofNat 32 (Word.bits x.vtime0 31 16 - 1)
    .next (s.putHead h { x with hctl := keep ||| 1, hstatus := x.hstatus ||| 1, vcount := 0, line := last })
  else .next ((s.putHead h { x with hctl := keep }).headErr h 2)

/-- FLIP (R396): planes whose registers are to be latched at the next vertical blank. -/
def execFlip (h : Nat) (v : Word) (s : State) : Out := s.onBar0 <|
  let x := s.head h
  .next (s.putHead h { x with flip := x.flip ||| (v &&& 3) })

/-! ## Latching (R395, R396) -/

/-- Bytes of a pixel of a format (R395). -/
def Plane.pixel (p : Plane) : Nat := if Word.bits p.fmt 3 0 = 2 then 8 else 4

/-- A plane's width, height, position and alpha mode. -/
def Plane.width (p : Plane) : Nat := Word.bits p.size 15 0
@[inherit_doc Plane.width] def Plane.height (p : Plane) : Nat := Word.bits p.size 31 16
@[inherit_doc Plane.width] def Plane.x0 (p : Plane) : Nat := Word.bits p.pos 15 0
@[inherit_doc Plane.width] def Plane.y0 (p : Plane) : Nat := Word.bits p.pos 31 16
@[inherit_doc Plane.width] def Plane.alpha (p : Plane) : Nat := Word.bits p.fmt 5 4

/-- Whether a plane's registers keep to R395. -/
def Plane.ok (p : Plane) : Bool :=
  p.base.toNat % 256 == 0 && p.pitch.toNat % 256 == 0 && decide (p.width * p.pixel ≤ p.pitch.toNat)
    && decide (1 ≤ p.width) && decide (p.width ≤ 16384) && decide (1 ≤ p.height) && decide (p.height ≤ 16384)
    && decide (Word.bits p.fmt 3 0 ≤ 2) && decide (p.alpha ≤ 2) && Word.bits p.fmt 31 6 == 0

/-- The address after a surface's last pixel. -/
def Plane.end_ (p : Plane) : Nat := p.base.toNat + (p.height - 1) * p.pitch.toNat + p.width * p.pixel

/-- Whether a leaf may show a surface (R396). -/
def scanLeaf (e : DWord) : Bool := leafR e && leafHome e == .kapael && !leafBlk e && leafCls e != .object && !leafMv e

/-- The pages of a range of a context, to be pinned by a plane, or none when a leaf of them may not be shown. -/
def State.surfacePins (s : State) (c : Context) (plane stop : Nat) : Nat → Nat → Option (List Pin)
  | 0, _ => none
  | n + 1, va =>
    if stop ≤ va then some [] else
    match s.leafOf c va with
    | none => none
    | some (_, e) =>
      if !scanLeaf e then none else
      let base := pageVa e va
      (State.surfacePins s c plane stop n (base + pageBytes e)).map fun l =>
        { plane := plane, ctx := c.num, va := base, size := pageBytes e, leaf := e } :: l

/-- The pins of a plane's surface, when every check of R396 passes. -/
def State.planePins (s : State) (ctx plane : Nat) (p : Plane) : Option (List Pin) :=
  match s.ctx ctx with
  | none => none
  | some c => if p.ok then s.surfacePins c plane p.end_ ((p.end_ - p.base.toNat) / 4096 + 2) p.base.toNat else none

/-- A plane latched, or the failure noted; its FLIP bit is cleared either way (R396). -/
def State.latch (s : State) (h k : Nat) : State :=
  let x := s.head h
  if !Word.bit x.flip k then s else
  let p := if k = 0 then x.plane0 else x.plane1
  let x := { x with flip := x.flip &&& ~~~(BitVec.twoPow 32 k) }
  let ctx := x.ctxn.toNat
  match s.planePins ctx k p with
  | none => (s.putHead h x).headErr h 1
  | some l =>
    let due := if x.ftoken = 0 then x.due else x.due ++ [(ctx, x.ftoken.toNat)]
    let y := { x with pins := (x.pins.filter fun (q : Pin) => q.plane != k) ++ l, due := due }
    let s := (l.filterMap fun q => (s.ctx ctx).bind fun c => s.leafOf c q.va).foldl
      (fun (s : State) (e : Nat × DWord) => s.putEntry (((s.ctx ctx).map (·.resident)).getD .kapael) e.1 (e.2 ||| BitVec.twoPow 64 17)) s
    s.putHead h (if k = 0 then { y with latched0 := some p } else { y with latched1 := some p })

/-- Tokens of latches signalled, as a job completion on Kapael signals (R98); one whose page is being moved waits. -/
def State.signalLatches (s : State) (h : Nat) : Nat → State
  | 0 => s
  | n + 1 =>
    let x := s.head h
    match x.due with
    | [] => s
    | (ctx, va) :: t =>
      let done (s : State) : State := s.putHead h { s.head h with due := t }
      match s.fwSignal ⟨.kapael, .head h⟩ ctx va { n := 1, gd := 0, gp := 0, dies := 1, core := 0, multi := true } with
      | .ok s => State.signalLatches (done s) h n
      | .wait s => s
      | .bad s sub va => State.signalLatches (done (s.faultNote ctx .kapael 8 sub.code 0 va)) h n

/-- VERTICAL_BLANK (R394, R396): after the last active line, a head counts the blank, latches the planes that FLIP names, and
raises its interrupt. -/
def execVerticalBlank (h : Nat) (s : State) : Out :=
  let x := s.head h
  let va := Word.bits x.vtime0 15 0
  if !Word.bit x.hstatus 0 || x.line.toNat + 1 != va then .next s else
  let s := s.putHead h { x with vcount := x.vcount + 1, line := BitVec.ofNat 32 va }
  let s := ((s.latch h 0).latch h 1)
  let s := s.signalLatches h ((s.head h).due.length)
  .next (if Word.bit x.hirq 0 then s.headIrq else s)

/-! ## Composition (R397) -/

/-- A channel's value. -/
inductive Chan
  | nan
  | inf (neg : Bool)
  | val (f : Frac)
  deriving DecidableEq, Repr

/-- A floating-point value as a channel. -/
def Chan.ofFV : FV → Chan
  | .nan => .nan
  | .inf n => .inf n
  | x => .val x.frac

/-- The channels R, G, B, A of a pixel's bytes (R395). -/
def pixelChannels (fmt : Nat) (b : List Byte) : List Chan :=
  match fmt with
  | 0 => (List.range 4).map fun k => .val ⟨fieldOf b k 1, 255⟩
  | 1 => (List.range 3).map (fun k => Chan.val ⟨natOf b / 2 ^ (10 * k) % 1024, 1023⟩) ++ [.val ⟨natOf b / 2 ^ 30 % 4, 3⟩]
  | _ => (List.range 4).map fun k => Chan.ofFV (decodeF fF16 (fieldOf b (2 * k) 2))

/-- An alpha as a fraction of [0, 1]. -/
def Chan.alpha : Chan → Frac
  | .nan => ⟨0, 1⟩
  | .inf n => if n then ⟨0, 1⟩ else ⟨1, 1⟩
  | .val f => if f.n < 0 then ⟨0, 1⟩ else if (f.d : Int) < f.n then ⟨1, 1⟩ else f

/-- A fraction times a channel. -/
def Chan.scale (a : Frac) : Chan → Chan
  | .nan => .nan
  | .inf n => if a.n = 0 then .nan else .inf n
  | .val f => .val ⟨a.n * f.n, a.d * f.d⟩

/-- The sum of two channels. -/
def Chan.add : Chan → Chan → Chan
  | .nan, _ => .nan
  | _, .nan => .nan
  | .inf a, .inf b => if a = b then .inf a else .nan
  | .inf a, _ => .inf a
  | _, .inf b => .inf b
  | .val f, .val g => .val ⟨f.n * g.d + g.n * f.d, f.d * g.d⟩

/-- A channel as it is sent: rounded once to F32, clamped to [0, 1], NaN as 0, and rounded to `b` bits (R397). -/
def Chan.send (b : Nat) : Chan → Nat
  | .nan => 0
  | .inf n => if n then 0 else 2 ^ b - 1
  | .val f =>
    let v := (f32 f.round)
    match v with
    | .fin neg _ _ =>
      if neg then 0 else
      let m := v.fix.toNat
      if 2 ^ 149 ≤ m then 2 ^ b - 1 else roundShift .rn false (m * (2 ^ b - 1)) 149 false
    | .inf neg => if neg then 0 else 2 ^ b - 1
    | .nan => 0

/-- Two pixels combined under an alpha mode: the first is plane 1's. -/
def blend (mode : Nat) (c1 c0 : List Chan) : List Chan :=
  let a := (nth c1 3 .nan).alpha
  let rest : Frac := ⟨a.d - a.n, a.d⟩
  (List.range 3).map fun k =>
    let x := nth c1 k .nan
    let y := nth c0 k .nan
    match mode with
    | 0 => x
    | 1 => (Chan.scale a x).add (Chan.scale rest y)
    | _ => x.add (Chan.scale rest y)

/-- A latched plane's pixel at a place of the active area, where the plane has one; read through the pages it pins. -/
def State.planePixel (s : State) (x : Head) (k : Nat) (p : Plane) (col row : Nat) : Option (List Chan) :=
  if col < p.x0 || decide (p.x0 + p.width ≤ col) || decide (row < p.y0) || decide (p.y0 + p.height ≤ row) then none else
  let va := p.base.toNat + (row - p.y0) * p.pitch.toNat + (col - p.x0) * p.pixel
  (x.pins.find? fun q => q.plane == k && within q.va q.size va).map fun q =>
    pixelChannels (Word.bits p.fmt 3 0) (Memory.readN s.memK (leafPa q.leaf va) p.pixel)

/-- Opaque black. -/
def black : List Chan := [.val ⟨0, 1⟩, .val ⟨0, 1⟩, .val ⟨0, 1⟩, .val ⟨1, 1⟩]

/-- A pixel of the active area as a head sends it: red lowest, ten bits for each channel. -/
def State.headPixel (s : State) (x : Head) (row col : Nat) : Word :=
  let c0 := ((x.latched0.bind fun p => s.planePixel x 0 p col row)).getD black
  let c := match (if Word.bit x.hctl 1 then x.latched1 else none) with
    | none => c0
    | some p => match s.planePixel x 1 p col row with
      | none => c0
      | some c1 => blend p.alpha c1 c0
  let b := if Word.bits x.hctl 3 2 = 0 then 8 else 10
  let ch (k : Nat) : Nat := (nth c k .nan).send b
  BitVec.ofNat 32 (ch 0 + ch 1 * 2 ^ 10 + ch 2 * 2 ^ 20)

/-- Lines that cores own of the pages a head shows written back: a head's read at the home sees every write performed. -/
def State.recallPins (s : State) (x : Head) : State :=
  let shown (t : LineTag) : Bool := t.home == .kapael && t.owner.isSome
    && x.pins.any fun q => within (leafBase q.leaf / q.size * q.size) q.size (t.la * 128)
  (s.kap.tags.filter shown).foldl (fun (s : State) t => s.recall t.line) s

/-- LINE_SEND (R397, R398): the next line of a head; an active one is composed, or, when its pixels have not been fetched in
time, the last fetched line is sent in its place. -/
def execLineSend (h : Nat) (fetched : Bool) (s : State) : Out :=
  let x := s.head h
  let active := Word.bits x.vtime0 15 0
  let line := (x.line.toNat + 1) % Word.bits x.vtime0 31 16
  if !Word.bit x.hstatus 0 || line == active then .next s else
  let s := s.signalLatches h x.due.length
  let x := { s.head h with line := BitVec.ofNat 32 line }
  if active < line then .next (s.putHead h x)
  else
    let s := { s with log := .line h line (!fetched) :: s.log }
    if !fetched then .next ((s.putHead h x).headErr h 0)
    else
      let s := s.recallPins x
      .next (s.putHead h { x with sent := (List.range (Word.bits x.htime0 15 0)).map (s.headPixel x line) })

/-! ## Link, AUX and hot plug (R394, R398) -/

/-- LINKCTL_TRAIN: training towards LINKTGT begins. -/
def execLinkctlTrain (h : Nat) (s : State) : Out := s.onBar0 <| .next (s.putHead h { s.head h with linkctl := 1 })

/-- HEAD_TRAIN_DONE: training towards LINKTGT ends at lanes and a rate code up to its own, or fails; a head without a sink cannot be trained,
nor one whose LINKTGT is reserved. -/
def execHeadTrainDone (h : Nat) (ok : Bool) (lanes rate : Nat) (s : State) : Out :=
  let x := s.head h
  if x.linkctl = 0 then .next s else
  let x := { x with linkctl := 0 }
  let tl := Word.bits x.linktgt 2 0
  let tr := Word.bits x.linktgt 10 8
  if ok && trainable h tl tr && trainable h lanes rate && decide (lanes ≤ tl) && decide (rate ≤ tr) && Word.bit x.hstatus 2 then .next (s.putHead h (x.linked true lanes rate))
  else .next ((s.putHead h (x.linked false 0 0)).headErr h 3)

/-- AUXGO: the transaction that AUXCMD describes goes to the sink. -/
def execAuxgo (h : Nat) (s : State) : Out := s.onBar0 <|
  let x := s.head h
  let n := Word.bits x.auxcmd 27 24 + 1
  .next { s.putHead h { x with auxgo := 1 } with log := .aux h x.auxcmd (x.auxdata.take n) :: s.log }

/-- AUX_REPLY: the sink's reply, or a timeout, ends the transaction; what a read returns goes to AUXDATA. -/
def execAuxReply (h : Nat) (reply : Nat) (data : List Byte) (s : State) : Out :=
  let x := s.head h
  if x.auxgo = 0 then .next s else
  let read := Word.bit x.auxcmd 20
  let d := if read then data.take (Word.bits x.auxcmd 27 24 + 1) else []
  .next (s.putHead h { x with auxgo := 0, auxstat := BitVec.ofNat 32 (reply % 4 + d.length * 2 ^ 8), auxdata := patch x.auxdata 0 d })

/-- HPD_CHANGE (R398): a sink comes or goes; without one there is no link. -/
def execHpdChange (h : Nat) (present : Bool) (s : State) : Out :=
  let x := s.head h
  if Word.bit x.hstatus 2 == present then .next s else
  let y := if present then { x with hstatus := x.hstatus ||| 4 } else { x.linked false 0 0 with hstatus := (x.linked false 0 0).hstatus &&& ~~~4 }
  .next ((s.putHead h y).headErr h 4)

end Sys2Proof.Machine
end

