-- ==== Sys2Proof/Machine/Manage.lean ====
section
/-! DEFINITION. The firmware services of the management queue, but for FINALISE and DEBUG (R26 to R30, R126, R142, R315, R323,
R326, R388, R396, R401). -/

namespace Sys2Proof.Machine

/-! ## What a service comes to -/

/-- A service has ended with a status, or goes on and is tried again. -/
inductive SvcRes
  | done (s : State) (status : Nat)
  | wait (s : State)

/-- The service code and context of a management packet (R323). -/
def svcCode (p : Packet) : Nat := Word.bits (p.word 0) 15 0
@[inherit_doc svcCode] def svcCtx (p : Packet) : Nat := Word.bits (p.word 0) 23 16

/-- A packet taken with a service that has ended: it completes with the status. -/
def State.svcEnds (s : State) (p : Packet) (fits : Bool) (status : Nat) : State :=
  match s.takePacket none p 0x10 fits with
  | .off s => s
  | .act s => { s with svc := none }.complete none p.seq status p.compl

/-- A management packet's service performed (R318 to R320, R323): the packet is checked first, and stays at the head of the
ring until its service has ended. -/
def State.service (s : State) (p : Packet) (fits : Bool) (act : State → SvcRes) : Out :=
  let fits := fits && decide (1 ≤ p.len) && Word.bits (p.word 0) 31 24 == 0
  match s.takePacket none p 0x10 fits with
  | .off s => .next s
  | .act _ => match act s with
    | .done s st => .next (s.svcEnds p fits st)
    | .wait s => .next { s with svc := some p.seq }

/-- Whether a packet's service has begun before. -/
def State.begun (s : State) (p : Packet) : Bool := s.svc == some p.seq

/-- A service of a context, with its number of argument words. -/
def State.ctxService (s : State) (p : Packet) (code args : Nat) (act : State → Context → SvcRes) : Out :=
  if svcCode p ≠ code then .next s else
  s.service p (p.len == 1 + args) fun s => match s.ctx (svcCtx p) with
    | none => .done s 1
    | some c => act s c

/-! ## Contexts (R27 to R29, R45, R49) -/

/-- A context descriptor from its 128 bytes (R27). -/
def ctxDescOf (b : List Byte) : CtxDesc :=
  { root := fieldOf b 0 8, rkey := BitVec.ofNat 48 (fieldOf b 8 6), leaseDie := fieldOf b 14 1, leasePair := fieldOf b 15 1
    quotaK := fieldOf b 16 4, quotaA := fieldOf b 20 4, budget := fieldOf b 24 4, period := fieldOf b 28 4
    banks := fieldOf b 32 16, tileq := fieldOf b 48 2, restart := fieldOf b 50 1 % 2 == 1, moveth := fieldOf b 51 1
    mirror := fieldOf b 52 4, objimg := fieldOf b 56 8, snapva := fieldOf b 64 8, faultq := fieldOf b 72 8
    rsgen := fieldOf b 80 4 }

/-- Whether a descriptor is refused at creation with DESC_INVALID (R27). -/
def ctxDescBad (b : List Byte) : Bool :=
  let d := ctxDescOf b
  fieldOf b 84 44 != 0 || fieldOf b 50 1 / 2 != 0 || d.root % 128 != 0 || d.root / 2 ^ 48 != 0
    || decide (10 < d.leaseDie) || decide (10 < d.leasePair) || decide (528 < d.tileq)

/-- Bytes of host memory at a host bus address (R324). -/
def State.hostBytes (s : State) (a n : Nat) : List Byte := Memory.readN s.memH a n

/-- The driver's first CTX_CREATE since a die booted has completed: its image is healthy (R388). -/
def DieState.proves (x : DieState) : DieState := if x.boot = 3 ∧ x.proven = false then { x with healthy := true, proven := true } else x

/-- CTX_CREATE (R27, R29, R45, R388): a context of a number that is not live, resident on Kapael. A MIRROR of 0 reserves nothing (DESIGN
CHOICE, log entry 88). A service that R323 does not
list completes PKT_FORMAT. -/
def execCtxCreate (p : Packet) (s : State) : Out :=
  let code := svcCode p
  if code = 0 ∨ 0x0E < code then s.service p true fun s => .done s 4
  else if code ≠ 0x01 then .next s
  else s.service p (p.len == 3) fun s =>
    let b := s.hostBytes (p.dword 1) 128
    let d := ctxDescOf b
    let reserve := if d.restart then 65536 * d.mirror else 0
    if (s.ctx (svcCtx p)).isSome then .done s 8
    else if ctxDescBad b then .done s 7
    else if 65536 * d.quotaK < reserve then .done s 6
    else if s.freeOn .kapael < reserve then .done s 9
    else
      let t := s.now .kapael
      let c : Context := { num := svcCtx p, desc := d, created := t, lastCommit := t, usedK := reserve }
      .done ({ s with ctxs := s.ctxs ++ [c], kap := s.kap.proves, amd := s.amd.proves }.zeroBanks 0 d.banks) 0

/-- Lines, translations, counters and walks of a context dropped from a die. -/
def State.forgetOn (s : State) (d : Die) (ctx : Nat) : State :=
  let s := ((s.die d).l1.filter fun x => x.ctx == ctx).foldl (fun (s : State) x => s.l1Drop ⟨d, x.core⟩ x.line) s
  let x := s.die d
  s.setDie d { x with
    tlb := x.tlb.filter fun e => e.ctx != ctx, ptGot := x.ptGot.filter fun e => e.1.1 != ctx, wcache := x.wcache.filter fun e => e.ctx != ctx
    walks := x.walks.filter fun (e : WalkReq × WalkSt) => e.1.ctx != ctx, acc := x.acc.filter fun e => e.ctx != ctx
    jobs := x.jobs.filter fun j => j.ctx != ctx, events := x.events.filter fun e => match e with
      | .doorbell q => q.ctx != ctx
      | .trap _ c _ => c != ctx
      | .trapPar _ c _ => c != ctx
      | _ => true
    misc := x.misc.map fun (m : CoreMisc) => { m with rsgen := drop ctx m.rsgen } }

/-- Packets of a context that wait for checkpoints completed with a status. -/
def State.ckptPackets (s : State) (ctx : Nat) (ps : List (Nat × Word × Bool)) (status : Nat) : State :=
  ps.foldl (fun (s : State) x => s.complete (some ⟨ctx, x.1⟩) x.2.1 status x.2.2) s

/-- The packets of a context that wait for the checkpoint under way or the one after it. -/
def Context.ckptWaits (c : Context) : List (Nat × Word × Bool) :=
  (match c.ckpt with
    | some k => k.packets
    | none => []) ++ c.ckptAgain

/-- The blocks of a context. -/
def State.ctxBlocks (s : State) (ctx : Nat) : List (BlockRef × Block) := s.blocks.filter fun e => e.2.ctx == ctx

/-- Some blocks asked to stop, each once. -/
def State.stopAll (s : State) (bs : List (BlockRef × Block)) : State :=
  bs.foldl (fun (s : State) e => if e.2.stopped then s else s.stopBlock e.1 false) s

/-- CTX_DESTROY (R323): every queue's work stops at safe points and completes CANCELLED; then the context goes with its frames,
images and settings. -/
def execCtxDestroy (p : Packet) (s : State) : Out :=
  s.ctxService p 0x02 0 fun s c =>
    let n := c.num
    let off (l : Launch) : Launch := if l.ctx = n then l.cancel 16 else l
    let s := { s with launches := s.launches.map off }.stopAll (s.ctxBlocks n)
    if !(s.ctxBlocks n).all (fun e => s.blockStill e.1) || c.mig != .none
        || s.moves.any (fun m => m.ctx == n && m.stage != .wanted) then .wait s else
    let qs := (s.queues.filter fun e => e.1.ctx == n).map fun e => e.1
    let s := qs.foldl (fun (s : State) q => s.dropWork q 16) s
    let s := s.ckptPackets n c.ckptWaits 16
    let s := (s.forgetOn .kapael n).forgetOn .amdukor n
    let other (v : Saved) : Bool := v.blk.ctx != n
    .done { s with
      ctxs := s.ctxs.filter fun x => x.num != n, queues := s.queues.filter fun e => e.1.ctx != n
      saved := s.saved.filter other, snaps := s.snaps.filter other, retained := s.retained.filter other
      moves := s.moves.filter fun m => m.ctx != n } 0

/-- Whether a wave, parison or job of a context is resident (R29). -/
def State.ctxBusy (s : State) (n : Nat) : Bool :=
  s.waves.any (fun e => e.2.ctx == n) || s.pars.any (fun e => e.2.ctx == n) || (s.kap.jobs ++ s.amd.jobs).any fun j => j.ctx == n

/-- The mirror reserve that an update would have a context hold at once, in bytes: RESTART and MIRROR as they are to be. -/
def Context.wantReserve (c : Context) (d : CtxDesc) : Nat :=
  if !d.restart then 0 else if !c.desc.restart then 65536 * d.mirror
  else if d.mirror = c.desc.mirror then c.reserve else max c.reserve (65536 * d.mirror)

/-- What an update that is not refused does to a context (R29). Clearing RESTART drops what a loss would be undone with, and gives up a
checkpoint under way. -/
def Context.update (c : Context) (d : CtxDesc) (now : Nat) : Context :=
  let o := c.desc
  let on := d.restart && !o.restart
  let gone := !d.restart && o.restart
  let now' := { o with
    root := d.root, rkey := d.rkey, leaseDie := d.leaseDie, leasePair := d.leasePair, quotaK := d.quotaK, quotaA := d.quotaA
    budget := d.budget, period := d.period, moveth := d.moveth, restart := d.restart, faultq := d.faultq
    mirror := if o.restart && d.restart then o.mirror else d.mirror }
  let off (k : Checkpoint) : Checkpoint := { num := k.num, stage := .failed, packets := k.packets }
  let c := if gone then { c.dropEpochs (fun _ => true) with mirror := none, ckpt := c.ckpt.map off, dirty := [], dirtyAll := true, rstWas := [] }
    else c
  let adopted := if o.restart && d.restart then c.adopted else 0
  { c with
    desc := now', pendingDesc := some d, adopted := adopted
    usedK := c.usedK - c.reserve + (if d.restart then 65536 * now'.mirror - adopted else 0)
    mirrorNext := if o.restart && d.restart && d.mirror != o.mirror then some d.mirror else none
    ckptNow := (c.ckptNow && d.restart) || on
    periodNo := if d.periodUs = o.periodUs then c.periodNo else (now - c.created) / (1000 * d.periodUs) }

/-- CTX_UPDATE (R29): the fields of a descriptor take effect at once, at the next launch start or at the next checkpoint; a
new ROOT leaves no translation of the old one. -/
def execCtxUpdate (p : Packet) (s : State) : Out :=
  s.ctxService p 0x03 2 fun s c =>
    let b := s.hostBytes (p.dword 1) 128
    let d := ctxDescOf b
    let moved := d.root != c.desc.root || d.rkey != c.desc.rkey
    let want := c.wantReserve d
    if ctxDescBad b then .done s 7
    else if moved && s.ctxBusy c.num then .done s 8
    else if decide (c.reserve < want) && decide (65536 * d.quotaK < c.usedK - c.reserve + want) then .done s 6
    else if decide (c.reserve < want) && decide (s.freeOn .kapael + c.reserve < want) then .done s 9
    else
      let s := s.putCtx (c.update d (s.now c.resident))
      .done (if d.root != c.desc.root then (s.tlbDrop .kapael c.num 0 (2 ^ 64)).tlbDrop .amdukor c.num 0 (2 ^ 64) else s) 0

/-! ## Queues (R315, R323, R354, R401) -/

/-- The pages of a queue's structures checked at its creation (R401), for the die that will use them. -/
def State.queuePages (s : State) (d : Die) (ctx : Nat) (q : QDesc) : FwRes State :=
  match s.fwRange ⟨d, .queue none⟩ ctx .load q.ring (4 * q.rwords) with
  | .wait s => .wait s
  | .bad s sub va => .bad s sub va
  | .ok (s, _) =>
    let both (s : State) (va n : Nat) : FwRes State := match s.fwRange ⟨d, .queue none⟩ ctx .tokenRead va n with
      | .wait s => .wait s
      | .bad s sub va => .bad s sub va
      | .ok (s, _) => match s.fwRange ⟨d, .queue none⟩ ctx .tokenWrite va n with
        | .wait s => .wait s
        | .bad s sub va => .bad s sub va
        | .ok (s, _) => .ok s
    match both s q.stateVa 32 with
    | .ok s => both s q.cring (16 * q.centries)
    | r => r

/-- QUEUE_CREATE (R315, R323, R354, R401): a queue at its reset values; the first queue that follows the context to Amdukor
migrates the context first. -/
def execQueueCreate (p : Packet) (s : State) : Out :=
  s.ctxService p 0x04 3 fun s c =>
    let n := (p.word 1).toNat
    let r : QueueRef := ⟨c.num, n⟩
    let b := s.hostBytes (p.dword 2) 64
    let d := qdescOf b
    if s.begun p && (s.queue (some r)).isSome then (if c.mig = .none then .done s 0 else .wait s)
    else if 15 < n then .done s 1
    else if (s.queue (some r)).isSome then .done s 8
    else if qdescBad b false then .done s 1
    else
      match s.queuePages (if d.place = 0 || !s.docked then .kapael else .amdukor) c.num d with
      | .wait s => .wait s
      | .bad s _ _ => .done s 1
      | .ok s =>
        let first := d.place != 0 && !s.queues.any fun e => e.1.ctx == c.num && e.2.desc.place != 0
        let s := ({ s with queues := s.queues ++ [(r, newQueue d false)] }).writeState (some r)
        if first && (s.pairState == 2 || s.pairState == 3) && c.resident == .kapael && c.ended.isNone then
          match s.ctx c.num with
          | some c => .wait (s.putCtx { c with mig := .due .amdukor })
          | none => .done s 0
        else .done s 0

/-- A reset is not undone by a rewind (R146): the mirror has the queue as the reset leaves it, with none of its work. -/
def State.mirrorReset (s : State) (r : QueueRef) : State :=
  match s.ctx r.ctx, s.queue (some r) with
  | some c, some q =>
    let clean (k : Checkpoint) : Checkpoint :=
      { k with queues := put r.queue q k.queues, launches := k.launches.filter fun l => l.queue != r.queue
               blocks := k.blocks.filter fun v => v.blk.queue != r.queue, snaps := k.snaps.filter fun v => v.blk.queue != r.queue }
    s.putCtx { c with mirror := c.mirror.map clean, ckpt := c.ckpt.map clean }
  | _, _ => s

/-- QUEUE_RESET (R323): the queue's launches stop at safe points and complete CANCELLED; packets not yet consumed are
dropped. -/
def execQueueReset (p : Packet) (s : State) : Out :=
  s.ctxService p 0x05 2 fun s c =>
    let n := (p.word 1).toNat
    let r : QueueRef := ⟨c.num, n⟩
    if (s.queue (some r)).isNone then .done s 1 else
    let off (l : Launch) : Launch := if l.ctx = c.num ∧ l.queue = n then l.cancel 16 else l
    let s := { s with launches := s.launches.map off }.stopAll (s.queueBlocks r)
    if !(s.queueBlocks r).all (fun e => s.blockStill e.1) || c.mig != .none then .wait s
    else .done (((s.dropWork r 16).restart (some r) (p.word 2)).mirrorReset r) 0

/-- GRAPH_LOAD (R326): a table copied from memory once every node's descriptor has been accepted. -/
def execGraphLoad (p : Packet) (s : State) : Out :=
  s.ctxService p 0x06 4 fun s c =>
    let n := (p.word 1).toNat
    let tn := (p.word 2).toNat
    let va := p.dword 3
    let r : QueueRef := ⟨c.num, n⟩
    let d := s.queueDie (some r)
    match s.queue (some r) with
    | none => .done s 1
    | some q =>
      if 15 < tn then .done s 1
      else if (q.table tn).any (fun t => t.run.isSome) then .done s 8
      else match s.fwRead ⟨d, .queue none⟩ c.num .load va 64 with
        | .wait s => .wait s
        | .bad s _ _ => .done s 1
        | .ok (s, h) =>
          let k := fieldOf h 0 4
          if k = 0 || decide (4096 < k) || fieldOf h 4 60 != 0 then .done s 1 else
          match s.fwRead ⟨d, .queue none⟩ c.num .load (va + 64) (192 * k) with
          | .wait s => .wait s
          | .bad s _ _ => .done s 1
          | .ok (s, b) =>
            let nodes := (List.range k).map fun i => slice b (192 * i) 192
            let st := s.nodesCheck c d k nodes
            if st != 0 then .done s st else
            let t : GTable := { num := tn, nodes := nodes.map nodeOf }
            .done (s.onQueue (some r) fun q => { q with tables := (q.tables.filter fun x => x.num != tn) ++ [t] }) 0

/-- GRAPH_UNLOAD (R323): a table dropped, unless a run of it is active or waits. -/
def execGraphUnload (p : Packet) (s : State) : Out :=
  s.ctxService p 0x07 2 fun s c =>
    let r : QueueRef := ⟨c.num, (p.word 1).toNat⟩
    let tn := (p.word 2).toNat
    match (s.queue (some r)).bind fun q => q.table tn with
    | none => .done s 1
    | some t =>
      if t.run.isSome then .done s 8
      else .done (s.onQueue (some r) fun q => { q with tables := q.tables.filter fun x => x.num != tn }) 0

/-! ## INVALIDATE (R26, R396) -/

/-- A leaf without its A and D bits. -/
def bareLeaf (e : DWord) : DWord := e &&& ~~~(BitVec.twoPow 64 16 ||| BitVec.twoPow 64 17)

/-- Whether a pinned page of a range has been removed or changed since it was latched. -/
def State.pinChanged (s : State) (c : Context) (va len : Nat) : Bool :=
  (s.head0.pins ++ s.head1.pins).any fun x => x.ctx == c.num && decide (x.va < va + len) && decide (va < x.va + x.size)
    && (s.leafOf c x.va).all fun e => bareLeaf e.2 != bareLeaf x.leaf

/-- The pages of a context that a range touches, with their leaves. -/
def State.leavesIn (s : State) (c : Context) (va len : Nat) : List (Nat × DWord) :=
  ((s.pagesOf c).filter fun p => decide (p.1 < va + len) && decide (va < p.1 + pageBytes p.2.2)).map fun p => (p.1, p.2.2)

/-- INVALIDATE (R26, R396): translations of a range dropped on both dies; the service ends once no access that used one is in
flight and no head shows a page that the driver has changed. -/
def execInvalidate (p : Packet) (s : State) : Out :=
  s.ctxService p 0x09 4 fun s c =>
    let va := p.dword 1
    let len := p.dword 3
    if !s.begun p then .wait (s.shootDown .kapael c.num va len)
    else if s.shotDown .kapael c.num va len && !s.pinChanged c va len then .done (s.noteLeaves c.num va len (s.leavesIn c va len)) 0
    else .wait s

/-! ## OBJ_CLEAR (R126) -/

/-- OBJ_CLEAR (R126): between two batches of a slot, BROKEN is cleared, and STATE zeroed when asked for. -/
def execObjClear (p : Packet) (s : State) : Out :=
  s.ctxService p 0x0A 3 fun s c =>
    let va := p.dword 1
    match s.leafOf c va with
    | none => .done s 1
    | some (_, e) =>
      if va % 512 != 0 || leafCls e != .object || !s.reachable (leafHome e) then .done s 1
      else if leafMv e then .wait s
      else
        let h := leafHome e
        let pa := leafPa e va
        let busy := (s.crucible (sliceOf (lineAt h pa))).batch.any fun b => match b.key with
          | .object l slot _ => decide (l.home = h) && slot == pa
          | .line _ _ _ => false
        if busy then .wait s else
        let s := s.touch c.num va e pa
        let m := s.mem h
        let m := if p.word 3 = 0 then m else Memory.clear m (pa + 32) 256
        .done (s.setMem h (Memory.write m (pa + 20) (Memory.read m (pa + 20) &&& 0xFE))) 0

/-! ## CKPT_INTERVAL (R142) -/

/-- CKPT_INTERVAL (R142): the time between a context's checkpoints, in ms. -/
def execCkptInterval (p : Packet) (s : State) : Out :=
  s.ctxService p 0x0B 1 fun s c =>
    let ms := (p.word 1).toNat
    if ms < 10 || decide (1000 < ms) then .done s 1 else .done (s.putCtx { c with ckptMs := ms }) 0

/-! ## Frames (R30, R323) -/

/-- The member that an argument names. -/
def memberOf (n : Nat) : Die := if n = 0 then .kapael else .amdukor

/-- Frames allocated one after another, or the status that refuses one. -/
def State.allocMany (s : State) (ctx : Nat) (d : Die) (size : Nat) : Nat → Except Nat (State × List Nat)
  | 0 => .ok (s, [])
  | n + 1 => match s.allocFrame ctx d size false with
    | .error st => .error st
    | .ok (s, pa) => match State.allocMany s ctx d size n with
      | .error st => .error st
      | .ok (s, l) => .ok (s, pa :: l)

/-- FRAME_ALLOC (R30, R323): zeroed frames, all or none; their addresses go to host memory. -/
def execFrameAlloc (p : Packet) (s : State) : Out :=
  s.ctxService p 0x0D 5 fun s c =>
    let k := (p.word 2).toNat
    let n := (p.word 3).toNat
    if 1 < (p.word 1).toNat || decide (11 < k) || n = 0 || decide (256 < n) then .done s 1 else
    match s.allocMany c.num (memberOf (p.word 1).toNat) (2 ^ (12 + 2 * k)) n with
    | .error st => .done s st
    | .ok (s, l) => .done { s with memH := Memory.writeN s.memH (p.dword 4) (l.flatMap (bytesOf 8)) } 0

/-- FRAME_FREE (R323): a frame returned and no longer counted. -/
def execFrameFree (p : Packet) (s : State) : Out :=
  s.ctxService p 0x0E 4 fun s c =>
    let k := (p.word 2).toNat
    let f : Frame := { die := memberOf (p.word 1).toNat, pa := p.dword 3, size := 2 ^ (12 + 2 * k) }
    if 1 < (p.word 1).toNat || decide (11 < k) || !c.frames.contains f then .done s 1
    else .done (s.freeFrame c.num f) 0

end Sys2Proof.Machine
end

