-- ==== Sys2Proof/Machine/Records.lean ====
section
/-! DEFINITION. The portable records as bytes: of waves, parisons, blocks and contexts, the checks of a receiver, and a wave
record read back (R347 to R353). -/

namespace Sys2Proof.Machine

/-! ## Pieces of records -/

/-- Zero bytes. -/
def zeros (n : Nat) : List Byte := List.replicate n 0

/-- A number with bit `i` set where `p i` holds. -/
def bitsOf (n : Nat) (p : Nat → Bool) : Nat := ((List.range n).map fun i => if p i then 2 ^ i else 0).sum

/-- Bytes cut or filled with zeros to a length. -/
def fitTo (n : Nat) (l : List Byte) : List Byte := l.take n ++ zeros (n - l.length)

/-- A record of a kind with its LENGTH put in: `pre` is bytes 2 and 3, `body` begins at byte 8 (R347). -/
def recordOf (kind : Nat) (pre : List Byte) (body : List Byte) (after : Nat) : List Byte :=
  [BitVec.ofNat 8 kind, 1] ++ fitTo 2 pre ++ bytesOf 4 (8 + body.length + after) ++ body

/-! ## Wave records (R348, R349) -/

/-- A join record's 16 bytes. -/
def joinBytes : Option JoinRec → List Byte
  | none => zeros 16
  | some j => bytesOf 2 j.id ++ [BitVec.ofNat 8 (j.encl.getD 0xFF), 1] ++ bytesOf 4 j.rejoin.toNat ++ bytesOf 4 j.arrived.toNat ++ zeros 4

/-- How many join records are saved: indices up to the last in use. -/
def joinCount (l : List (Option JoinRec)) : Nat :=
  (List.range l.length).foldl (fun n i => if (nth l i none).isSome then i + 1 else n) 0

/-- Whether a name is bound. -/
def VBind.bound : VBind → Bool
  | .undef => false
  | _ => true

/-- The lanes of a name that a record keeps. -/
def VBind.lanes : VBind → List Word
  | .phys v | .absent v => v
  | _ => List.replicate 32 0

/-- A wave's record; `w` holds no forms, and `plink` is its parison's place among the block's (R348). -/
def Wave.bytes (w : Wave) (plink : Nat) : List Byte :=
  let names := (List.range 64).filter fun n => (nth w.vmap n .undef).bound
  let nj := joinCount w.joins
  let precise := w.splits.any fun sp => sp.precise
  let flags := w.role % 4 + (if precise then 4 else 0) + if w.status = .held then 8 else 0
  recordOf 1 (bytesOf 2 names.length)
    (bytesOf 2 w.image ++ bytesOf 1 flags ++ bytesOf 1 w.allot ++ bytesOf 4 w.number
      ++ bytesOf 1 plink ++ bytesOf 1 nj ++ bytesOf 1 w.pend.length ++ bytesOf 1 w.ctr.enc.toNat
      ++ bytesOf 4 w.live.toNat ++ bytesOf 4 w.dcons ++ zeros 4
      ++ (List.range 4).flatMap (fun k => Split.bytes (nth w.slots k none))
      ++ bytesOf 8 w.gwd ++ bytesOf 8 w.gwp
      ++ bytesOf 8 (bitsOf 64 fun n => names.contains n) ++ zeros 8
      ++ fitTo 96 (bytesOfWords w.preds) ++ fitTo 7 w.xpat ++ [0] ++ fitTo 256 (bytesOfWords w.sreg) ++ zeros 24
      ++ (w.joins.take nj).flatMap joinBytes ++ w.pend.reverse.flatMap (fun sp => Split.bytes (some sp))
      ++ names.flatMap fun n => fitTo 128 (bytesOfWords (nth w.vmap n .undef).lanes)) 0

/-! ## Parison records (R350) -/

/-- A form's 16 bytes (R150). -/
def Aff.bytes (f : Aff) : List Byte := bytesOfWords [f.base, f.sx, f.sy, f.sz]

/-- A predicate binding's 12 bytes. -/
def PBind.bytes : PBind → List Byte
  | .uni v => [if v then 1 else 0] ++ zeros 11
  | .range d lo hi => [2, BitVec.ofNat 8 d, 0, 0] ++ bytesOf 4 lo ++ bytesOf 4 hi

/-- A decision's bytes. -/
def Decision.bytes (d : Decision) (ff : List (Nat × Aff)) : List Byte :=
  let out := match d.outcome with
    | none => 0
    | some true => 1
    | some false => 2
  bytesOf 4 d.wofs ++ bytesOf 1 out ++ bytesOf 1 (d.sregs.length + d.forms.length) ++ zeros 2
    ++ (d.sregs.flatMap fun e => [0, BitVec.ofNat 8 e.1, 0, 0] ++ bytesOf 4 e.2.toNat ++ zeros 12)
    ++ d.forms.flatMap fun e => [1, BitVec.ofNat 8 e.1, 0, 0] ++ ((look e.2 ff).getD (Aff.ofWord 0)).bytes

/-- The code of a parison's mode; one that has ended counts as BLOWN. -/
def PMode.code : PMode → Byte
  | .form => 0
  | .blown | .ended => 1
  | .waitJoin => 2

/-- A parison's record; `ent` gives the place of a table entry's parison within the block (R350). -/
def Parison.bytes (r : Parison) (self : Nat) (ent : Nat → Nat) (ff : List (Nat × Aff)) : List Byte :=
  let names := (List.range 64).filter fun n => (nth r.nmap n none).isSome
  recordOf 2 [r.mode.code, BitVec.ofNat 8 r.role]
    (bytesOf 2 r.image ++ bytesOf 1 self ++ bytesOf 1 r.cuts.length ++ bytesOf 4 r.queue.length
      ++ [r.box.x0, r.box.x1, r.box.y0, r.box.y1, r.box.z0, r.box.z1].flatMap (bytesOf 4)
      ++ bytesOf 4 r.pos.ord ++ bytesOf 4 (if r.pos.inside then r.pos.pc else r.pos.hofs) ++ bytesOf 4 r.pushed ++ zeros 4
      ++ bytesOf 8 (bitsOf 64 fun n => names.contains n)
      ++ fitTo 32 (r.cuts.flatMap fun c => bytesOf 1 (ent c.1) ++ [0] ++ bytesOf 2 c.2 ++ zeros 4)
      ++ bytesOf 8 r.gwd ++ bytesOf 8 r.gwp ++ bytesOf 1 r.ctr.enc.toNat ++ zeros 15
      ++ fitTo 256 (bytesOfWords r.sreg) ++ fitTo 288 (r.pmap.flatMap PBind.bytes)
      ++ names.flatMap (fun n => ((look ((nth r.nmap n none).getD 0) ff).getD (Aff.ofWord 0)).bytes)
      ++ r.queue.flatMap fun d => d.bytes ff) 0

/-! ## Block records (R351) -/

/-- A tile's entry: name, state word with its block's slot and context (R38), body. -/
def Tile.entryBytes (t : Tile) (name ctx bslot : Nat) : List Byte :=
  bytesOf 2 name ++ zeros 6
    ++ bytesOf 8 ((if t.zero then 8 else 0) + (if t.poison then 4 else 0) + (if t.dirty then 2 else 0) + 1 + bslot * 2 ^ 18 + ctx * 2 ^ 32)
    ++ fitTo 15872 (bytesOfWords t.body)

/-- A visibility slot's 8,192 bytes (R289). -/
def VSlot.bytes (v : VSlot) : List Byte :=
  (List.range 1024).flatMap fun k => bytesOf 4 (v.get k).2.toNat ++ bytesOf 4 (v.get k).1.toNat

/-- The place of a parison among those of a block. -/
def placeIn (l : List (ParId × Parison)) (p : ParId) : Nat := l.findIdx fun e => decide (e.1 = p)

/-- A block's record that holds some of its granules and tiles, with the records of its parisons and waves after it (R347, R351). -/
def Saved.bytesOver (v : Saved) (grans : List Nat) (tiles : List (Nat × Tile)) : List Byte :=
  let b := v.blk
  let ent (e : Nat) : Nat := v.pars.findIdx fun x => x.1.entry == e
  let pars := ((List.range v.pars.length).zip v.pars).flatMap fun x => x.2.2.bytes x.1 ent v.forms
  let waves := v.waves.flatMap fun e => e.2.bytes ((e.2.par.map (placeIn v.pars)).getD 0)
  recordOf 3 (bytesOf 2 b.ngran)
    (bytesOf 4 b.bindex ++ bytesOf 4 b.lseq.toNat ++ bytesOf 1 b.queue ++ bytesOf 1 (b.place.1 + 16 * b.place.2)
      ++ bytesOf 1 v.pars.length ++ bytesOf 1 v.waves.length ++ bytesOf 2 tiles.length ++ bytesOf 2 b.tiles.length
      ++ bytesOf 1 b.hists.length ++ bytesOf 1 ((if b.slots.isEmpty then 0 else 1) + if b.irrev then 2 else 0) ++ zeros 6
      ++ bytesOf 8 (bitsOf 56 fun g => grans.contains g) ++ zeros 24
      ++ grans.flatMap (fun g => Memory.readN b.scratch (16384 * g) 16384)
      ++ tiles.flatMap (fun t => t.2.entryBytes t.1 b.ctx v.bslot)
      ++ b.hists.flatMap (fun h => fitTo 128 (bytesOfWords h.bins) ++ [h.base] ++ zeros 7)
      ++ b.slots.flatMap VSlot.bytes) (pars.length + waves.length) ++ pars ++ waves

/-- The tiles of a block by name. -/
def Block.named (b : Block) : List (Nat × Tile) := (List.range b.tiles.length).zip b.tiles

/-- A block's record with those of its parisons and waves after it (R347, R351). -/
def Saved.bytes (v : Saved) : List Byte :=
  v.bytesOver ((List.range v.blk.ngran).filter fun g => v.blk.scratch.any fun c => c.1 / 16384 == g) (v.blk.named.filter fun t => !t.2.zero)

/-! ## Snapshots (R363) -/

/-- What a snapshot writes: the granules and tiles that have changed since the block's previous one, with the records, the histograms and the
slots (R351, R363). -/
def snapBytes (old : Option Saved) (b : Block) (v : Saved) : List Byte :=
  let gran (m : Memory) (g : Nat) : Memory := m.filter fun c => c.1 / 16384 == g
  let was := (old.map fun o => o.blk.scratch).getD []
  v.bytesOver ((List.range b.ngran).filter fun g => gran b.scratch g != gran was g) (b.named.filter (·.2.dirty))

/-- A snapshot that is not taken: a record says so, and the waves it waited for go on. -/
def State.noSnap (s : State) (ref : BlockRef) (b : Block) (sub : Sub) (va : Nat) : State :=
  (s.faultNote b.ctx ref.die 7 sub.code 0 va).endCapture ref

/-- A snapshot's record stored in the context's region, and then committed by one 8-byte store, which holds the record's length (R363; the
places are a DESIGN CHOICE, log entry 7). -/
def State.writeSnap (s : State) (ref : BlockRef) (b : Block) (va : Nat) (data : List Byte) : FwRes State :=
  let by_ : FwBy := ⟨ref.die, .block ref⟩
  match s.fwWrite by_ b.ctx .store (va + 8) data with
  | .ok s => s.fwWrite by_ b.ctx .store va (bytesOf 8 data.length)
  | r => r

/-- SNAPSHOT (R363): once every wave it waits for stands at its capture point, the block's snapshot is stored in the region that stood when its
launch started (R29) and committed, and the block is no longer irrevocable; with no room in the region, or where it cannot be written, it
is not taken, and a record says so. -/
def execSnapshot (ref : BlockRef) (s : State) : Out :=
  match s.blockOf ref with
  | none => .next s
  | some b => match b.snapDue, s.ctx b.ctx with
    | some ws, some c =>
      if !(s.waves.filter fun e => ws.contains e.1 && decide (e.2.block = some ref)).all (fun e => atCapture e.2) then .next s else
      let count (s : State) : State := { s with freeCtr := s.freeCtr + 1 }
      if !Config.hasRoom s.freeCtr then .next ((count s).noSnap ref b .snapNoroom 0) else
      let v := snapImage b (s.imageOf ref b)
      let data := snapBytes (s.snaps.find? (isSnapOf b)) b v
      let region := ((s.launch b.launch).map (·.snapva)).getD 0
      let used := (look region c.snapUsed).getD 0
      (match s.writeSnap ref b (region + used) data with
      | .wait s => .next s
      | .bad s sub a => .next ((count s).noSnap ref b sub a)
      | .ok s =>
        let c := (s.ctx b.ctx).getD c
        let s := (count s).putCtx { c with snapUsed := put region (used + 8 + data.length) c.snapUsed }
        let clean (x : Block) : Block :=
          { x with irrev := false, failsSince := 0, snapNo := x.snapNo + 1, tiles := x.tiles.map fun (t : Tile) => { t with dirty := false } }
        let s := (s.onBlock ref clean).endCapture ref
        match s.blockOf ref with
        | none => .next s
        | some x => .next (s.keepSnap (snapImage b (s.imageOf ref x)).record))
    | _, _ => .next s

/-! ## Context records (R352) -/

/-- A context descriptor's 128 bytes, ROOT as given (R27). -/
def CtxDesc.bytes (d : CtxDesc) (root : Nat) : List Byte :=
  bytesOf 8 root ++ bytesOf 6 d.rkey.toNat ++ bytesOf 1 d.leaseDie ++ bytesOf 1 d.leasePair ++ bytesOf 4 d.quotaK
    ++ bytesOf 4 d.quotaA ++ bytesOf 4 d.budget ++ bytesOf 4 d.period ++ bytesOf 16 d.banks ++ bytesOf 2 d.tileq
    ++ [if d.restart then 1 else 0] ++ bytesOf 1 d.moveth ++ bytesOf 4 d.mirror ++ bytesOf 8 d.objimg ++ bytesOf 8 d.snapva
    ++ bytesOf 8 d.faultq ++ bytesOf 4 d.rsgen ++ zeros 44

/-- A queue descriptor's 64 bytes (R315). -/
def QDesc.bytes (d : QDesc) : List Byte :=
  bytesOf 8 d.ring ++ bytesOf 4 d.rwords ++ bytesOf 4 d.seq0.toNat ++ bytesOf 8 d.cring ++ bytesOf 4 d.centries
    ++ bytesOf 1 d.place ++ bytesOf 1 d.priocap ++ zeros 2 ++ bytesOf 8 d.stateVa ++ zeros 24

/-- A launch's entry of 192 bytes. -/
def Launch.entryBytes (l : Launch) : List Byte :=
  fitTo 128 (bytesOfWords l.desc) ++ bytesOf 4 l.seq.toNat
    ++ bytesOf 4 ((if l.compl then 1 else 0) + (if l.barrier then 2 else 0) + (l.node.map fun n => n.1 * 2 ^ 12 + n.2 * 2 ^ 16).getD 0)
    ++ bytesOf 4 l.nextB ++ bytesOf 4 l.ended ++ zeros 48

/-- A graph table as a record carries it: its memory image, run flag, counters and states. -/
def GTable.bytes (t : GTable) : List Byte :=
  let node (n : GNode) : List Byte :=
    fitTo 128 (bytesOfWords n.desc) ++ bytesOf 2 n.initPred ++ bytesOf 2 n.succ.length ++ zeros 4 ++ fitTo 56 (n.succ.flatMap (bytesOf 2))
  let code (n : GNode) : Nat := match n.state with
    | .waiting => 0
    | .launched => 1
    | .completed => 2
  bytesOf 4 t.nodes.length ++ zeros 60 ++ t.nodes.flatMap node ++ bytesOf 4 (if t.run.isSome then 1 else 0)
    ++ t.nodes.flatMap fun n => bytesOf 2 n.count ++ bytesOf 2 (code n)

/-- A queue's entry with its launches and tables. -/
def Queue.entryBytes (q : Queue) (num : Nat) (ls : List Launch) : List Byte :=
  q.desc.bytes ++ bytesOf 1 num ++ bytesOf 1 q.twaits.length ++ bytesOf 2 (bitsOf 16 fun n => (q.table n).isSome)
    ++ bytesOf 4 ls.length ++ fitTo 128 (bytesOfWords q.sh)
    ++ fitTo 96 (q.twaits.flatMap fun t => bytesOf 8 t.1 ++ bytesOf 8 t.2 ++ zeros 8) ++ zeros 24
    ++ ls.flatMap Launch.entryBytes ++ q.tables.flatMap GTable.bytes

/-- A page table's head and body; pointers hold the child's place among the tables (R352). -/
def tableBytes (l : List TableCopy) (t : TableCopy) : List Byte :=
  let place (pa : Nat) : Nat := l.findIdx fun x => x.pa == pa
  let ptr (e : DWord) : Bool := e.getLsbD 0 && e.getLsbD 1
  let up := l.findIdx fun x => x.entries.any fun e => ptr e && childOf e == t.pa
  let slot := ((l[up]?).map fun x => x.entries.findIdx fun e => ptr e && childOf e == t.pa).getD 0
  bytesOf 4 (place t.pa) ++ bytesOf 4 (if up < l.length then up else 0) ++ bytesOf 4 t.level ++ bytesOf 4 slot
    ++ t.entries.flatMap fun e => bytesOf 8 (if ptr e then e.toNat % 2 ^ 11 + place (childOf e) * 2 ^ 20 else e.toNat)

/-- The page tables of a context as they stand. -/
def State.copyTables (s : State) (c : Context) : List TableCopy :=
  (s.tablesOf c).map fun t =>
    { level := t.1, pa := t.2.1, entries := (List.range (tableLen t.1)).map fun i => s.entryAt c.resident (t.2.1 + 8 * i) }

/-- A context's record (R352). -/
def contextBytes (c : Context) (qs : List (Nat × Queue)) (ls : List Launch) (ts : List TableCopy) (nblock : Nat) : List Byte :=
  recordOf 4 (bytesOf 1 c.num ++ bytesOf 1 qs.length)
    (bytesOf 4 ts.length ++ bytesOf 4 nblock ++ zeros 16 ++ c.desc.bytes 0
      ++ qs.flatMap (fun e => e.2.entryBytes e.1 (ls.filter fun l => l.queue == e.1)) ++ ts.flatMap (tableBytes ts)) 0

/-! ## A wave record read back (R348, R349, R353) -/

/-- A split entry read back, its position still to be found. -/
def splitOf (b : List Byte) : Option Split :=
  let flags := fieldOf b 13 1
  let inner := fieldOf b 12 1
  if flags % 2 = 0 then none else
  some { pos := { ord := fieldOf b 0 4, hofs := fieldOf b 8 4, pc := fieldOf b 8 4 }, act := BitVec.ofNat 32 (fieldOf b 4 4)
         inner := if inner = 0xFF then none else some inner, precise := flags / 2 % 2 == 1
         parked := if flags / 4 % 2 = 0 then none else if inner = 0xFF then some .reform else some (.join inner)
         deferred := flags / 8 % 2 == 1 }

/-- Whether a split entry's fields are consistent with an image. -/
def splitBad (im : Image) (b : List Byte) : Bool :=
  let flags := fieldOf b 13 1
  let inner := fieldOf b 12 1
  fieldOf b 14 2 != 0 || decide (16 ≤ flags) || (flags % 2 == 1 && ((inner != 0xFF && decide (30 < inner))
    || (match headerOf im (fieldOf b 0 4) with
      | none => true
      | some h => flags / 2 % 2 == 0 && fieldOf b 8 4 != h)))

/-- A join record read back. -/
def joinOf (b : List Byte) : Option JoinRec :=
  let encl := fieldOf b 2 1
  if fieldOf b 3 1 % 2 = 0 then none else
  some { id := fieldOf b 0 2, rejoin := BitVec.ofNat 32 (fieldOf b 4 4), arrived := BitVec.ofNat 32 (fieldOf b 8 4)
         encl := if encl = 0xFF then none else some encl }

/-- Pieces of 16 bytes. -/
def sixteens (b : List Byte) (ofs n : Nat) : List (List Byte) := (List.range n).map fun k => slice b (ofs + 16 * k) 16

/-- Whether a join record's fields are inconsistent (R349). -/
def joinBad (b : List Byte) : Bool :=
  decide (2 ≤ fieldOf b 3 1) || fieldOf b 12 4 != 0 || (decide (30 < fieldOf b 2 1) && fieldOf b 2 1 != 0xFF)

/-- Whether a wave record is inconsistent, or does not fit an allotment (R353, R357). -/
def waveBad (im : Image) (b : List Byte) (allot : Nat) : Bool :=
  let nreg := fieldOf b 2 2
  let nj := fieldOf b 17 1
  let np := fieldOf b 18 1
  let vs := fieldOf b 112 8
  let names := (List.range 64).filter fun n => vs.testBit n
  fieldOf b 0 2 != 0x0101 || fieldOf b 4 4 != 512 + 16 * (nj + np) + 128 * nreg || names.length != nreg
    || decide (allot < nreg) || decide (31 < nj) || decide (28 < np) || decide (16 ≤ fieldOf b 10 1)
    || fieldOf b 28 4 != 0 || fieldOf b 120 8 != 0 || fieldOf b 231 1 != 0 || fieldOf b 488 24 != 0
    || (sixteens b 32 4).any (splitBad im) || (sixteens b (512 + 16 * nj) np).any (splitBad im) || (sixteens b 512 nj).any joinBad

/-- A held wave with the state of a record; what it is bound to, its allotment and its jobs stay. -/
def Wave.load (w : Wave) (b : List Byte) : Wave :=
  let nj := fieldOf b 17 1
  let np := fieldOf b 18 1
  let vs := fieldOf b 112 8
  let names := (List.range 64).filter fun n => vs.testBit n
  let ofs := 512 + 16 * (nj + np)
  let joins := (sixteens b 512 nj).map joinOf
  { w with
    image := fieldOf b 8 2, role := fieldOf b 10 1 % 4, number := fieldOf b 12 4
    live := BitVec.ofNat 32 (fieldOf b 20 4), dcons := fieldOf b 24 4
    slots := (sixteens b 32 4).map splitOf, pend := ((sixteens b (512 + 16 * nj) np).filterMap splitOf).reverse
    gwd := fieldOf b 96 8, gwp := fieldOf b 104 8
    preds := (wordsOf (slice b 128 96)), xpat := slice b 224 7, sreg := wordsOf (slice b 232 256)
    joins := joins ++ List.replicate (31 - nj) none
    vmap := (List.range 64).map fun n => if vs.testBit n then
        .absent (wordsOf (slice b (ofs + 128 * names.findIdx fun x => x == n) 128)) else .undef }

/-! ## What a receiver checks of a stream (R352, R353) -/

/-- Where so many decisions of a parison record end, when their heads and items are consistent. -/
def decisionsEnd (b : List Byte) : Nat → Nat → Option Nat
  | 0, ofs => some ofs
  | n + 1, ofs =>
    let items := fieldOf b (ofs + 5) 1
    let itemBad (k : Nat) : Bool := decide (1 < fieldOf b (ofs + 8 + 20 * k) 1) || fieldOf b (ofs + 10 + 20 * k) 2 != 0
    if 2 < fieldOf b (ofs + 4) 1 || fieldOf b (ofs + 6) 2 != 0 || (List.range items).any itemBad then none
    else decisionsEnd b n (ofs + 8 + 20 * items)

/-- Whether a parison record is inconsistent (R350, R353). -/
def parBad (images : List Image) (b : List Byte) : Bool :=
  let forms := (List.range 64).filter fun n => (fieldOf b 56 8).testBit n
  let cut (k : Nat) : Bool := fieldOf b (65 + 8 * k) 1 != 0 || fieldOf b (68 + 8 * k) 4 != 0
  let pred (k : Nat) : Bool := decide (2 < fieldOf b (384 + 12 * k) 1) || decide (2 < fieldOf b (385 + 12 * k) 1) || fieldOf b (386 + 12 * k) 2 != 0
  fieldOf b 0 2 != 0x0102 || decide (2 < fieldOf b 2 1) || decide (3 < fieldOf b 3 1) || !images.any (fun i => i.id == fieldOf b 8 2)
    || decide (63 < fieldOf b 10 1) || decide (4 < fieldOf b 11 1) || fieldOf b 52 4 != 0 || fieldOf b 113 15 != 0
    || (List.range 4).any cut || (List.range 24).any pred
    || decisionsEnd b (fieldOf b 12 4) (672 + 16 * forms.length) != some (fieldOf b 4 4)

/-- Whether a stream begins with so many records that are consistent, each with its LENGTH; what comes after them. -/
def recordsOk (bad : List Byte → Bool) : Nat → List Byte → Option (List Byte)
  | 0, b => some b
  | n + 1, b =>
    let len := fieldOf b 4 4
    if len < 8 || decide (b.length < len) || bad (b.take len) then none else recordsOk bad n (b.drop len)

/-- Whether a wave record of a stream is inconsistent; its parison is one of `npar`. -/
def waveRecBad (images : List Image) (npar : Nat) (b : List Byte) : Bool :=
  decide (npar ≤ fieldOf b 16 1) || (match images.find? fun i => i.id == fieldOf b 8 2 with
    | some im => waveBad im b (fieldOf b 11 1)
    | none => true)

/-- The bytes of a block record itself, without its parisons' and waves', as its fields give them (R351). -/
def blockLen (b : List Byte) : Nat :=
  let grans := ((List.range 64).filter fun g => (fieldOf b 32 8).testBit g).length
  64 + 16384 * grans + 15888 * fieldOf b 20 2 + 136 * fieldOf b 24 1 + if fieldOf b 25 1 % 2 = 1 then 4 * 8192 else 0

/-- Whether a block record's own fields are inconsistent (R38, R351, R353). -/
def blockRecBad (b : List Byte) : Bool :=
  let grans := (List.range 64).filter fun g => (fieldOf b 32 8).testBit g
  let tiles := 64 + 16384 * grans.length
  let hists := tiles + 15888 * fieldOf b 20 2
  let tile (k : Nat) : Bool :=
    let o := tiles + 15888 * k
    let w := fieldOf b (o + 8) 8
    decide (fieldOf b 22 2 ≤ fieldOf b o 2) || fieldOf b (o + 2) 6 != 0 || w / 16 % 2 ^ 14 != 0 || w / 2 ^ 25 % 2 ^ 7 != 0 || w / 2 ^ 40 != 0
  fieldOf b 0 2 != 0x0103 || decide (56 < fieldOf b 2 2) || grans.any (fun g => decide (fieldOf b 2 2 ≤ g)) || decide (15 < fieldOf b 16 1)
    || decide (528 < fieldOf b 22 2) || decide (fieldOf b 22 2 < fieldOf b 20 2) || decide (4 < fieldOf b 24 1) || decide (3 < fieldOf b 25 1)
    || fieldOf b 26 6 != 0 || fieldOf b 40 24 != 0 || (List.range (fieldOf b 20 2)).any tile
    || (List.range (fieldOf b 24 1)).any fun k => fieldOf b (hists + 136 * k + 129) 7 != 0

/-- Whether a stream goes on with so many blocks' records, each followed by its parisons' and then its waves', and nothing more. -/
def blocksOk (images : List Image) : Nat → List Byte → Bool
  | 0, b => b.isEmpty
  | n + 1, b =>
    let own := blockLen b
    if b.length < own || blockRecBad b then false else
    match (recordsOk (parBad images) (fieldOf b 18 1) (b.drop own)).bind
        (recordsOk (waveRecBad images (fieldOf b 18 1)) (fieldOf b 19 1)) with
    | some t => fieldOf b 4 4 == b.length - t.length && blocksOk images n t
    | none => false

/-- Where so many graph tables of a queue entry end. -/
def graphsEnd (b : List Byte) : Nat → Nat → Option Nat
  | 0, ofs => some ofs
  | n + 1, ofs =>
    let k := fieldOf b ofs 4
    let node (i : Nat) : Bool := decide (28 < fieldOf b (ofs + 64 + 192 * i + 130) 2) || fieldOf b (ofs + 64 + 192 * i + 132) 4 != 0
    let state (i : Nat) : Bool := decide (2 < fieldOf b (ofs + 68 + 192 * k + 4 * i + 2) 2)
    if k = 0 || decide (4096 < k) || fieldOf b (ofs + 4) 60 != 0 || (List.range k).any (fun i => node i || state i)
        || decide (1 < fieldOf b (ofs + 64 + 192 * k) 4) then none
    else graphsEnd b n (ofs + 68 + 196 * k)

/-- Where so many queue entries of a context record end, each with its launches and graph tables (R352). -/
def queuesEnd (b : List Byte) : Nat → Nat → Option Nat
  | 0, ofs => some ofs
  | n + 1, ofs =>
    let nl := fieldOf b (ofs + 68) 4
    let wait (k : Nat) : Bool := fieldOf b (ofs + 216 + 24 * k) 8 != 0
    let launch (k : Nat) : Bool :=
      let o := ofs + 320 + 192 * k
      fieldOf b (o + 144) 48 != 0 || fieldOf b (o + 132) 4 / 4 % 2 ^ 10 != 0
    if qdescBad (slice b ofs 64) false || decide (15 < fieldOf b (ofs + 64) 1) || decide (4 < fieldOf b (ofs + 65) 1)
        || fieldOf b (ofs + 296) 24 != 0 || (List.range 4).any wait || decide (b.length < ofs + 320 + 192 * nl) then none
    else if (List.range nl).any launch then none
    else
      let tables := ((List.range 16).filter fun t => (fieldOf b (ofs + 66) 2).testBit t).length
      (graphsEnd b tables (ofs + 320 + 192 * nl)).bind (queuesEnd b n)

/-- Where so many page tables end: the first is the root, and each other names a parent that comes before it. -/
def tablesEnd (b : List Byte) (k : Nat) : Nat → Nat → Option Nat
  | 0, ofs => some ofs
  | n + 1, ofs =>
    let level := fieldOf b (ofs + 8) 4
    if fieldOf b ofs 4 != k || decide (6 < level) || (k == 0) != (level == 6) || (k != 0 && decide (k ≤ fieldOf b (ofs + 4) 4)) then none
    else tablesEnd b (k + 1) n (ofs + 16 + 8 * tableLen level)

/-- Whether a context record is consistent: kind, version, length, counts and reserved bytes. -/
def ctxRecOk (ctx : Nat) (b : List Byte) : Bool :=
  fieldOf b 0 2 == 0x0104 && fieldOf b 2 1 == ctx && fieldOf b 16 16 == 0 && fieldOf b 32 8 == 0 && fieldOf b (32 + 84) 44 == 0
    && (queuesEnd b (fieldOf b 3 1) 160).bind (tablesEnd b 0 (fieldOf b 8 4)) == some b.length

/-- Whether a stream of records of a context is consistent (R347, R353). -/
def streamOk (c : Context) (b : List Byte) : Bool :=
  let len := fieldOf b 4 4
  decide (160 ≤ len) && decide (len ≤ b.length) && ctxRecOk c.num (b.take len) && blocksOk c.images (fieldOf b 12 4) (b.drop len)

end Sys2Proof.Machine
end

