-- ==== Sys2Proof/Machine/Ckpt.lean ====
section
/-! DEFINITION. Checkpoints: when they start, the stop and the capture, the pieces sent, commitment and abandonment (R134, R140
to R144). -/

namespace Sys2Proof.Machine

/-! ## Which contexts (R142, R145) -/

/-- Whether a context has any queue, work, resident state or page on Amdukor. -/
def State.onAmdukor (s : State) (c : Context) : Bool :=
  c.resident == .amdukor || s.blocks.any (fun e => e.2.ctx == c.num && e.1.die == .amdukor)
    || s.launches.any (fun l => l.ctx == c.num && l.die == .amdukor)
    || s.saved.any (fun v => v.blk.ctx == c.num && v.die == .amdukor) || s.amd.jobs.any (fun j => j.ctx == c.num)
    || (s.pagesOf c).any fun p => leafHome p.2.2 == .amdukor

/-- Whether checkpoints of a context are taken (R142). -/
def State.ckptApplies (s : State) (c : Context) : Bool := c.ended.isNone && c.desc.restart && s.docked && s.onAmdukor c

/-! ## Starting (R142) -/

/-- A checkpoint of a context begins to stop its work; the packets that waited for it are now its own. -/
def State.startCkpt (s : State) (c : Context) : State :=
  s.putCtx { c with ckpt := some { num := c.nextCkpt, packets := c.ckptAgain, resident := c.resident }, nextCkpt := c.nextCkpt + 1
                    ckptAgain := [], ckptNow := false }

/-- CKPT (R142, R144): a checkpoint of the context, or a further one after that under way; where none is taken the packet completes
at once. -/
def execCkpt (q : QueueRef) (p : Packet) (s : State) : Out :=
  match s.takePacket (some q) p 0x05 (p.len == 0) with
  | .off s => .next s
  | .act s => match s.ctx q.ctx with
    | none => .next s
    | some c =>
      if !s.ckptApplies c then .next (s.complete (some q) p.seq 0 p.compl) else
      let c := { c with ckptAgain := c.ckptAgain ++ [(q.queue, p.seq, p.compl)] }
      if c.ckpt.isSome || c.mig != .none then .next (s.putCtx c) else .next (s.startCkpt c)

/-! ## Stopping and going on (R142 steps 1 and 4) -/

/-- Whether a job of a die stands at a safe point: it has not started and nothing lets it start now, or it waits for the move of a page
(R142, log entry 97). -/
def State.jobStill (s : State) (d : Die) (j : Job) : Bool :=
  if j.started then j.waiting else j.fault.isNone && (jobHeld (s.die d).jobs j || s.bankHeld d j || s.budgetHeld j.ctx)

/-- Whether every job of a context on a die stands so. -/
def State.jobsStill (s : State) (d : Die) (ctx : Nat) : Bool := (s.die d).jobs.all fun j => j.ctx != ctx || s.jobStill d j

/-- Whether every block and job of a context stands stopped, with no move of its pages under way. -/
def State.ctxStill (s : State) (ctx : Nat) : Bool :=
  !s.moves.any (fun m => m.ctx == ctx && m.stage != .wanted)
    && s.jobsStill .kapael ctx && s.jobsStill .amdukor ctx && (s.ctxBlocks ctx).all fun e => s.blockSettled e.1

/-- A block whose stop was for a checkpoint goes on; what has a cause pending, is held or has a handler does not. -/
def State.goOn (s : State) (ref : BlockRef) : State :=
  let rest (l : List Cause) : List Cause := l.filter fun x => x != .preempt
  let wave (e : WaveId × Wave) : WaveId × Wave :=
    if e.2.block ≠ some ref then e
    else if e.2.status = .stopped ∧ e.2.causes = [] ∧ s.windowOn (.wave e.1) = false then (e.1, e.2.resume)
    else (e.1, { e.2 with stopWhy := rest e.2.stopWhy })
  let par (e : ParId × Parison) : ParId × Parison :=
    if e.2.block ≠ ref then e
    else if e.2.status = .stopped ∧ e.2.causes = [] ∧ s.windowOn (.par e.1) = false then (e.1, e.2.resume)
    else (e.1, { e.2 with stopWhy := rest e.2.stopWhy })
  { s with waves := s.waves.map wave, pars := s.pars.map par }

/-- A context's blocks go on, but for those that are being pre-empted. -/
def State.allGoOn (s : State) (ctx : Nat) : State :=
  ((s.ctxBlocks ctx).filter fun e => !e.2.stopped).foldl (fun (s : State) e => s.goOn e.1) s

/-- A context's lines in L1 that hold data their homes lack go home, and owners give theirs up. -/
def State.flushCtx (s : State) (ctx : Nat) : State :=
  let on (d : Die) (s : State) : State :=
    ((s.die d).l1.filter fun x => x.ctx == ctx && x.holds).foldl (fun (s : State) x => s.l1Drop ⟨d, x.core⟩ x.line) s
  on .amdukor (on .kapael s)

/-! ## Capture (R141, R142 steps 2 and 3) -/

/-- The granules of a page (R141). -/
def granulesOf (va : Nat) (leaf : DWord) : List (Nat × Nat) :=
  let n := pageBytes leaf
  if n < 65536 then [(va, n)] else (List.range (n / 65536)).map fun k => (va + 65536 * k, 65536)

/-- The pages of RST of a context at a home. -/
def State.rstPages (s : State) (c : Context) (h : Home) : List (Nat × DWord) :=
  ((s.pagesOf c).filter fun p => leafRst p.2.2 && leafHome p.2.2 == h).map fun p => (p.1, p.2.2)

/-- A granule as it stands. -/
def State.granuleCopy (s : State) (va size : Nat) (leaf : DWord) : GranuleCopy :=
  let h := leafHome leaf
  let pa := leafPa leaf va
  { va := va, home := h, pa := pa, size := size, cells := Memory.cells (s.mem h) pa size }

/-- The granules that a checkpoint sends: those marked dirty, those the mirror lacks, or all. -/
def State.dueGranules (s : State) (c : Context) : List GranuleCopy :=
  let kept := match c.mirror with
    | some m => m.granules.map fun (g : GranuleCopy) => g.va
    | none => []
  (s.rstPages c .amdukor).flatMap fun p =>
    ((granulesOf p.1 p.2).filter fun g => c.dirtyAll || c.dirty.contains g || !kept.contains g.1).map fun g => s.granuleCopy g.1 g.2 p.2

/-- The queues of a context, by number; a packet that waits for a checkpoint does not count as running. -/
def State.queuesOf (s : State) (c : Context) : List (Nat × Queue) :=
  (s.queues.filter fun e => e.1.ctx == c.num).map fun e =>
    let waits := (c.ckptWaits.filter fun x => x.1 == e.1.queue).map fun x => x.2.1
    (e.1.queue, { e.2 with running := e.2.running.filter fun x => !waits.contains x })

/-- The records of all blocks of a context, resident or saved. -/
def State.blockRecords (s : State) (ctx : Nat) : List Saved :=
  (s.ctxBlocks ctx).map (fun e => (s.imageOf e.1 e.2).record) ++ s.saved.filter fun v => v.blk.ctx == ctx

/-- The page tables that a checkpoint carries: those of a context that resides on Amdukor (R142). -/
def State.ckptTables (s : State) (c : Context) : List TableCopy := if c.resident = .amdukor then s.copyTables c else []

/-- A context's record as it stands. -/
def State.ctxRecord (s : State) (c : Context) (nblock : Nat) : List Byte :=
  contextBytes c (s.queuesOf c) (s.launches.filter fun l => l.ctx == c.num) (s.ckptTables c) nblock

/-- A checkpoint's contents, captured at the stop. -/
def State.capture (s : State) (c : Context) (k : Checkpoint) : Checkpoint :=
  let bs := s.blockRecords c.num
  let snaps := s.snaps.filter fun v => v.blk.ctx == c.num
  { k with
    stage := .sending, resident := c.resident, queues := s.queuesOf c, launches := s.launches.filter fun l => l.ctx == c.num
    blocks := bs, snaps := snaps, tables := s.ckptTables c
    pages := s.rstPages c .amdukor, granules := s.dueGranules c
    jobs := [Die.kapael, .amdukor].flatMap fun d => ((s.die d).jobs.filter fun j => j.ctx == c.num).map fun j => (d, j)
    recBytes := (s.ctxRecord c bs.length).length + ((bs ++ snaps).map fun v => v.bytes.length).sum }

/-- The mirror reserve that an update asked for takes effect (R29). -/
def Context.takeMirror (c : Context) : Context :=
  match c.mirrorNext with
  | none => c
  | some m => { c with desc := { c.desc with mirror := m }, mirrorNext := none, adopted := 0, usedK := c.usedK - c.room + 65536 * m }

/-- The RST bit of every page of a context (R141). -/
def State.rstNow (s : State) (c : Context) : List (Nat × Bool) := (s.pagesOf c).map fun p => (p.1, leafRst p.2.2)

/-- A context whose checkpoint has been captured: a new undo epoch is open, no granule is dirty, and its pages are of RST as their leaves
say now. -/
def Context.captured (c : Context) (k : Checkpoint) (rst : List (Nat × Bool)) : Context :=
  { c.takeMirror with ckpt := some k, epochs := { num := k.num } :: c.epochs, dirty := [], dirtyAll := false, rstWas := rst }

/-! ## Sending (R137, R142 steps 3 and 5) -/

/-- Bytes in pieces of a size. -/
def piecesOf (size : Nat) : Nat → List Byte → List (List Byte)
  | 0, _ => []
  | n + 1, l => if l.isEmpty then [] else l.take size :: piecesOf size n (l.drop size)

/-- A stream of records in pieces, with their offsets. -/
def recordPieces (b : List Byte) : List (Nat × List Byte) :=
  let l := piecesOf 8128 (b.length / 8128 + 1) b
  ((List.range l.length).map fun i => 8128 * i).zip l

/-- What of a checkpoint's records Amdukor holds. -/
def State.amdRecords (s : State) (c : Context) (k : Checkpoint) : List Byte :=
  let bs := (k.blocks ++ k.snaps).filter fun v => decide (v.die = .amdukor)
  (if c.resident = .amdukor then s.ctxRecord c bs.length else []) ++ bs.flatMap Saved.bytes

/-- The pieces of a checkpoint sent to Kapael, and CKPT_END after them. -/
def State.sendCkpt (s : State) (c : Context) (k : Checkpoint) : State :=
  let num : DWord := BitVec.ofNat 64 k.num
  let recs := recordPieces (s.amdRecords c k)
  let grans := k.granules.flatMap fun g => (List.range (g.size / 4096)).map fun i => (g.va + 4096 * i, g.pa + 4096 * i)
  let s := recs.foldl (fun (s : State) e => s.sendMsg .amdukor { s.mkMsg .amdukor tyCkptData c.num 0 with
    aux0 := BitVec.ofNat 64 e.1, aux1 := num, payload := e.2 }) s
  let s := grans.foldl (fun (s : State) e => s.sendMsg .amdukor { s.mkMsg .amdukor tyCkptData c.num e.1 with
    aux0 := BitVec.ofNat 64 e.2, aux1 := num, payload := Memory.readN s.memA e.2 4096 }) s
  let n := recs.length + grans.length
  let s := match s.ctx c.num with
    | some c => s.putCtx { c with ckpt := c.ckpt.map fun (k : Checkpoint) => { k with pieces := n } }
    | none => s
  s.request .amdukor (.ckpt c.num k.num) { s.mkMsg .amdukor tyCkptEnd c.num 0 with aux0 := num, aux1 := BitVec.ofNat 64 n }

/-! ## Abandonment and commitment (R142 step 6, R144) -/

/-- The undo epoch of a checkpoint that does not commit is one with the epoch before it; with none before it there is nothing
to undo to. -/
def Context.mergeEpochs (c : Context) : Context :=
  match c.epochs with
  | e :: o :: t =>
    let new := e.copies.filter fun g => !o.copies.any fun h => h.va == g.va
    { c with epochs := { o with copies := o.copies ++ new, frames := o.frames ++ e.frames, leaves := o.leaves ++ e.leaves } :: t }
  | _ => c.dropEpochs fun _ => true

/-- A checkpoint under way is abandoned for want of room: the last one stays, its packets complete CKPT_NOROOM, and what it was to
send is dirty again. -/
def State.abandonCkpt (s : State) (ctx : Nat) : State :=
  match s.ctx ctx with
  | none => s
  | some c => match c.ckpt with
    | none => s
    | some k =>
      let c := if k.stage = .sending then c.mergeEpochs else c
      let again := (k.granules.map fun g => (g.va, g.size)).filter fun g => !c.dirty.contains g
      let s := s.putCtx { c with ckpt := none, lastCommit := s.now c.resident, dirty := c.dirty ++ again, dirtyAll := c.dirtyAll || c.mirror.isNone }
      let s := if k.stage = .failed then s else s.faultNote ctx .kapael 5 Sub.ckptNoroom.code 0 0
      s.ckptPackets ctx k.packets 13

/-- A committed checkpoint as the mirror holds it: its granules in place of the older ones, for the pages it names. -/
def Checkpoint.over (k : Checkpoint) (old : Option Checkpoint) : Checkpoint :=
  let new (g : GranuleCopy) : Bool := k.granules.any fun h => h.va == g.va
  let named (g : GranuleCopy) : Bool := k.pages.any fun p => within p.1 (pageBytes p.2) g.va
  let kept := match old with
    | some o => o.granules.filter fun g => !new g && named g
    | none => []
  { k with granules := kept ++ k.granules, packets := [] }

/-- A checkpoint commits (R142 step 6): the mirror is switched, the epochs before it go, its packets complete. -/
def State.commitCkpt (s : State) (ctx : Nat) : State :=
  match s.ctx ctx with
  | none => s
  | some c => match c.ckpt with
    | none => s
    | some k =>
      let c := c.dropEpochs fun e => e.num != k.num
      let s := s.putCtx { c with ckpt := none, mirror := some (k.over c.mirror), lastCommit := s.now c.resident }
      let seen (q : Nat) : List Word := ((look q k.queues).map fun x => x.done).getD []
      let s := { s with queues := s.queues.map fun (e : QueueRef × Queue) =>
        if e.1.ctx = ctx then (e.1, { e.2 with done := e.2.done.drop (seen e.1.queue).length }) else e }
      s.ckptPackets ctx k.packets 0

/-! ## The steps (R142) -/

/-- A checkpoint that no longer applies ends; its packets complete, with the context's status when it has ended. -/
def State.dropCkpt (s : State) (c : Context) : State :=
  let ps := c.ckptWaits
  let s := (s.putCtx { c with ckpt := none, ckptAgain := [], ckptNow := false }).allGoOn c.num
  s.ckptPackets c.num ps (c.ended.getD 0)

/-- A checkpoint's stop: its work is asked to stop, and once everything stands still it is captured, the work goes on and the pieces
are sent. One that the free part of the mirror reserve cannot take is abandoned there and then (R144). -/
def State.ckptStop (s : State) (c : Context) (k : Checkpoint) : State :=
  let s := (s.ctxBlocks c.num).foldl (fun (s : State) e => s.askBlock e.1 .preempt) s
  if !s.ctxStill c.num then s else
  let s := s.flushCtx c.num
  if s.backedOut .kapael c.num || s.backedOut .amdukor c.num then s else
  match s.ctx c.num with
  | none => s
  | some c =>
    if c.ckpt.map (fun k => k.stage) != some .stopping then s else
    let k := s.capture c k
    let c' := c.captured k (s.rstNow c)
    let s := (s.putCtx c').allGoOn c.num
    if c'.room < c'.mirrorUse then s.abandonCkpt c.num else s.sendCkpt c k

/-- CKPT_TIMER (R142): the interval after the latest checkpoint has passed, or one is asked for, and a checkpoint starts; one under
way goes on as what it waits for comes about. -/
def execCkptTimer (ctx : Nat) (s : State) : Out :=
  match s.ctx ctx with
  | none => .next s
  | some c => if !s.fwIdle c.resident then .next s else match c.ckpt with
    | none =>
      let due := c.ckptNow || !c.ckptAgain.isEmpty || decide (c.lastCommit + 1000000 * c.ckptMs ≤ s.now c.resident)
      if !due || c.mig != .none then .next s
      else if s.ckptApplies c then .next (s.startCkpt c)
      else if c.ckptAgain.isEmpty && !c.ckptNow then .next s
      else .next (s.dropCkpt c)
    | some k => match k.stage with
      | .stopping => if s.ckptApplies c then .next (s.ckptStop c k) else .next (s.dropCkpt c)
      | .sending => if c.ended.isSome || !s.docked then .next (s.dropCkpt c) else .next s
      | .failed => if s.ckptApplies c then .next ((s.allGoOn ctx).abandonCkpt ctx) else .next (s.dropCkpt c)

/-! ## The messages (R140, R142) -/

/-- What a checkpoint message of a number finds: its checkpoint, one that is over and leaves the next alone, or that it must be
refused. -/
inductive CkptFor
  | now (c : Context) (k : Checkpoint)
  | old
  | bad (check : Nat)

/-- The checkpoint that a message belongs to. -/
def State.ckptFor (s : State) (m : Msg) (num : Nat) : CkptFor :=
  match s.keyed m with
  | none => .bad 1
  | some c => match c.ckpt with
    | some k => if k.num = num ∧ k.stage = .sending then .now c k else if num < c.nextCkpt then .old else .bad 2
    | none => if num < c.nextCkpt then .old else .bad 2

/-- A checkpoint message refused: the checkpoint of the context it names is abandoned (R140). -/
def State.refuseCkpt (s : State) (dest : Die) (m : Msg) (check : Nat) : State :=
  (s.refuseMsg dest m check .refuseFirmware).abandonCkpt m.ctx

/-- The request that a CKPT_END made is open no longer, though it has no answer. -/
def State.closeCkpt (s : State) (ctx num : Nat) : State :=
  let p := s.pipe .amdukor
  s.setPipe .amdukor { p with open_ := p.open_.filter fun e => e.2 != .ckpt ctx num }

/-- CKPT_DATA: a piece arrives at Kapael. -/
def execCkptData (dest : Die) (s : State) : Out :=
  match s.deliver dest tyCkptData with
  | none => .next s
  | some (s, m) => match s.ckptFor m m.aux1.toNat with
    | .bad n => .next (s.refuseCkpt dest m n)
    | .old => .next (s.refuseMsg dest m 2 .refuseFirmware)
    | .now c k =>
      if dest ≠ .kapael then .next (s.refuseCkpt dest m 2)
      else .next (s.putCtx { c with ckpt := some { k with got := k.got + 1 } })

/-- CKPT_END: Kapael has every piece; with room for them in the mirror reserve it answers, else the checkpoint is abandoned. -/
def execCkptEnd (dest : Die) (s : State) : Out :=
  match s.deliver dest tyCkptEnd with
  | none => .next s
  | some (s, m) => match s.ckptFor m m.aux0.toNat with
    | .bad n => .next ((s.closeCkpt m.ctx m.aux0.toNat).refuseCkpt dest m n)
    | .old => .next ((s.closeCkpt m.ctx m.aux0.toNat).refuseMsg dest m 2 .refuseFirmware)
    | .now c k =>
      if dest ≠ .kapael || k.got != m.aux1.toNat then .next ((s.closeCkpt c.num k.num).refuseCkpt dest m 2)
      else if c.room < c.mirrorUse then .next ((s.closeCkpt c.num k.num).abandonCkpt c.num)
      else .next (s.replyMsg dest m tyCkptAck id)

/-- CKPT_ACK: the checkpoint commits. -/
def execCkptAck (dest : Die) (s : State) : Out :=
  match s.deliver dest tyCkptAck with
  | none => .next s
  | some (s, m) => match s.closeTag dest m.tag with
    | some (s, .ckpt ctx num) => match s.ctx ctx with
      | some c => if c.ckpt.any fun k => k.num == num && k.stage == .sending then .next (s.commitCkpt ctx) else .next s
      | none => .next s
    | _ => .next (s.refuseCkpt dest m 2)

end Sys2Proof.Machine
end

