-- ==== Sys2Proof/Machine/Migrate.lean ====
section
/-! DEFINITION. Migration of contexts at docking, at QUEUE_CREATE and at an undock: the stop, the records sent, the take-over by the
receiving member; and the undock (R134, R135, R167, R345, R353 to R355). -/

namespace Sys2Proof.Machine

/-! ## Who migrates (R354, R355) -/

/-- Whether a context has a queue with PLACE 1 or 2. -/
def State.hasPlaced (s : State) (ctx : Nat) : Bool := s.queues.any fun e => e.1.ctx == ctx && e.2.desc.place != 0

/-- Contexts made to migrate. -/
def State.migrateAll (s : State) (dst : Die) (p : Context → Bool) : State :=
  { s with ctxs := s.ctxs.map fun (c : Context) => if p c then { c with mig := .due dst, inbox := [] } else c }

/-- Docking is over once no context migrates any more: STATE becomes 3 (R386). -/
def State.dockDone (s : State) : State :=
  if s.pairState = 2 ∧ (s.ctxs.all fun c => c.mig == .none) = true then { s with pairState := 3 } else s

/-- A context that migrates no longer. -/
def State.endMig (s : State) (ctx : Nat) : State :=
  (match s.ctx ctx with
    | some c => s.putCtx { c with mig := .none, inbox := [], kept := none }
    | none => s).dockDone

/-- Whether a block goes with its context to a member: every block of Amdukor's goes to Kapael; from Kapael, those of queues with
PLACE 1 or 2. -/
def State.moves? (s : State) (dst : Die) (e : BlockRef × Block) : Bool :=
  e.1.die == otherDie dst && (dst == .kapael || s.follows ⟨e.2.ctx, e.2.queue⟩)

/-! ## The take-over (R346, R352 to R354) -/

/-- A table pointer to a frame. -/
def ptrTo (pa : Nat) : DWord := BitVec.ofNat 64 (3 + pa / 4096 * 2 ^ 20)

/-- Frames of 4 KiB allocated to a context, one for each of some tables, or the status that refuses one. -/
def State.tableFrames (s : State) (ctx : Nat) (d : Die) (must : Bool) : List TableCopy → Except Nat (State × List (Nat × Nat))
  | [] => .ok (s, [])
  | t :: r => match s.allocFrame ctx d 4096 must with
    | .error st => .error st
    | .ok (s, pa) => match State.tableFrames s ctx d must r with
      | .error st => .error st
      | .ok (s, l) => .ok (s, (t.pa, pa) :: l)

/-- Tables written into their new frames; pointers name the new frames of their children. -/
def State.writeTables (s : State) (d : Die) (fs : List (Nat × Nat)) (ts : List TableCopy) : State :=
  ts.foldl (fun (s : State) t =>
    let at_ := (look t.pa fs).getD 0
    let fix (e : DWord) : DWord := if e.getLsbD 0 && e.getLsbD 1 then ptrTo ((look (childOf e) fs).getD 0) else e
    s.setMem (homeOf d) (Memory.writeN (s.mem (homeOf d)) at_ (t.entries.flatMap fun e => bytesOf 8 (fix e).toNat))) s

/-- The frames on a member that held tables and that no leaf maps: they are free once the tables stand elsewhere. -/
def State.freeTables (s : State) (ctx : Nat) (d : Die) (ts : List TableCopy) : State :=
  match s.ctx ctx with
  | none => s
  | some c =>
    let pages := (s.pagesOf c).filter fun p => leafHome p.2.2 == homeOf d
    let mapped (f : Frame) : Bool := pages.any fun p =>
      decide (leafBase p.2.2 < f.pa + f.size) && decide (f.pa < leafBase p.2.2 + pageBytes p.2.2)
    (c.frames.filter fun f => decide (f.die = d) && ts.any (fun t => within f.pa f.size t.pa) && !mapped f).foldl
      (fun (s : State) f => s.freeFrame ctx f) s

/-- A context's tables rebuilt on a member, which becomes its resident one; the translations of the old tables are gone. -/
def State.rebuildTables (s : State) (ctx : Nat) (d : Die) (must : Bool) (ts : List TableCopy) : Except Nat State :=
  match s.tableFrames ctx d must ts with
  | .error st => .error st
  | .ok (s, fs) =>
    let s := s.writeTables d fs ts
    match s.ctx ctx with
    | none => .error 1
    | some c =>
      let root := ((ts.head?.bind fun t => look t.pa fs)).getD 0
      let s := s.putCtx { c with resident := d, desc := { c.desc with root := root } }
      .ok ((s.tlbDrop .kapael ctx 0 (2 ^ 64)).tlbDrop .amdukor ctx 0 (2 ^ 64))

/-- A record that another member restores: SKEW is added to its write completion times (R80, R346). -/
def Saved.carried (v : Saved) (d : Die) : Saved :=
  if v.die = d then v else
  { v with die := d, waiter := false, blk := { v.blk with gd := v.blk.gd + skew, gp := v.blk.gp + skew }
           waves := v.waves.map fun (e : WaveId × Wave) => (e.1, { e.2 with gwd := e.2.gwd + skew, gwp := e.2.gwp + skew })
           pars := v.pars.map fun (e : ParId × Parison) => (e.1, { e.2 with gwd := e.2.gwd + skew, gwp := e.2.gwp + skew }) }

/-- Launches that satisfy a condition arrive at a scheduler anew: they take tickets after every other's, in their own order (R44). -/
def State.newTickets (s : State) (p : Launch → Bool) : State :=
  { s with ticketCtr := 2 * s.ticketCtr
           launches := s.launches.map fun (l : Launch) => if p l then { l with ticket := s.ticketCtr + l.ticket } else l }

/-- A launch that goes to another member; one whose cohort fits no rectangle there admits nothing more (R167). -/
def State.carryLaunch (s : State) (d : Die) (l : Launch) : Launch :=
  if l.die = d then l else
  let fits := s.rectAny d (cohortDim l.desc).1 (cohortDim l.desc).2
  { l with die := d, reserved := [], reservedAt := none, passedAt := none
           cores := l.cores.map fun (e : CoreRef × Nat × Nat) => (e.1, e.2.1 + skew, e.2.2 + skew)
           cancelled := l.cancelled || !fits, status := if fits || l.status != 0 then l.status else 2 }

/-- The launches of a context that satisfy a condition go to a member with their saved blocks; blocks that can stand nowhere there
are dropped with their launch. -/
def State.carryWork (s : State) (ctx : Nat) (d : Die) (p : Launch → Bool) : State :=
  let goes (l : Launch) : Bool := l.ctx == ctx && p l
  let ids := (s.launches.filter goes).map fun l => l.id
  let lost := (s.launches.filter fun l => goes l && !s.rectAny d (cohortDim l.desc).1 (cohortDim l.desc).2).map fun l => l.id
  let one (v : Saved) : Saved := if ids.contains v.blk.launch then v.carried d else v
  let s := s.newTickets fun l => goes l && decide (l.die ≠ d)
  { s with launches := s.launches.map fun (l : Launch) => if goes l then s.carryLaunch d l else l
           saved := (s.saved.filter fun v => !lost.contains v.blk.launch).map one, snaps := s.snaps.map one }

/-- A migration that is refused: the work stays with its source (R140, R353). A context that stays on Kapael is not checkpointed there. -/
def State.migRefused (s : State) (ctx : Nat) (dst : Die) : State :=
  (match s.ctx ctx, dst with
    | some c, .amdukor => s.putCtx { c.dropEpochs fun _ => true with mirror := none, dirtyAll := true }
    | _, _ => s).endMig ctx

/-- Kapael keeps its copies of what has gone to Amdukor until it reports every block restored (R354 step 5). -/
def State.keepCopies (s : State) (c : Context) (root : Nat) (ts : List TableCopy) (old : State) : State :=
  let goes (l : Launch) : Bool := l.ctx == c.num && old.follows ⟨l.ctx, l.queue⟩
  let ls := old.launches.filter goes
  let mine (v : Saved) : Bool := ls.any fun l => l.id == v.blk.launch
  { s.putCtx { c with mig := .arriving .amdukor, inbox := [], kept := some { root := root, tables := ts, launches := ls, snaps := old.snaps.filter mine } } with
    retained := s.retained ++ old.saved.filter mine }

/-- The receiving member takes a context over: its tables are rebuilt in frames of the quota, and the work that came with it is that
member's. Without room for the tables the work stays where it is. On Amdukor its blocks are now restored, and Kapael keeps its copies
meanwhile. -/
def State.takeOver (s : State) (ctx : Nat) (dst : Die) : State :=
  match s.ctx ctx with
  | none => s
  | some c =>
    let goes (l : Launch) : Bool := dst == .kapael || s.follows ⟨l.ctx, l.queue⟩
    if c.resident = dst then (s.carryWork ctx dst goes).endMig ctx else
    let ts := s.copyTables c
    match s.rebuildTables ctx dst (dst == .kapael) ts with
    | .error _ => (if dst = .amdukor then s.faultNote ctx .amdukor 8 Sub.migNoroom.code 0 0 else s).migRefused ctx dst
    | .ok t => match dst, t.ctx ctx with
      | .amdukor, some c' => (t.keepCopies c' c.desc.root ts s).carryWork ctx dst goes
      | _, _ => ((t.freeTables ctx (otherDie dst) ts).carryWork ctx dst goes).endMig ctx

/-- The blocks of an arriving context that Amdukor has still to restore. -/
def State.toArrive (s : State) (ctx : Nat) : List Saved :=
  s.saved.filter fun v => v.blk.ctx == ctx && s.retained.any fun u => u.id == v.id

/-- Whether those that stand there already leave the others no room: none of these fits, and every block on Amdukor is of a context
that waits in the same way. -/
def State.arriveStuck (s : State) (c : Context) : Bool :=
  let waits (n : Nat) : Bool := (s.ctx n).any fun x => x.mig == .arriving .amdukor
  !c.heldBudget && !s.launches.any (fun l => l.ctx == c.num && decide (l.die = .amdukor) && s.fitsSomewhere l)
    && (s.blocks.all fun e => decide (e.1.die ≠ .amdukor) || waits e.2.ctx)

/-- The blocks of an arriving context that stand restored give up their places: they are saved on Amdukor, so that the others can be
restored too before any of the context runs (log entry 99). -/
def State.makeRoom (s : State) (c : Context) : State :=
  ((s.ctxBlocks c.num).filter fun e => decide (e.1.die = .amdukor)).foldl (fun (s : State) e => s.saveBlock e.1) s

/-- Amdukor has restored every block of a context: it goes on there, and Kapael frees its copies (R354 step 5). -/
def State.arrived (s : State) (c : Context) : State :=
  let ts := (c.kept.map fun k => k.tables).getD []
  let s := (s.freeTables c.num .kapael ts).endMig c.num
  let s := { s with retained := s.retained.filter fun v => v.blk.ctx != c.num }
  ((s.ctxBlocks c.num).filter fun e => decide (e.1.die = .amdukor) && !e.2.stopped).foldl
    (fun (s : State) e => (s.goOn e.1).causesBack e.1) s

/-! ## The stop and the sending (R137, R345, R354) -/

/-- Checkpoint 0 (R354): records and pages as they stand at the stop, in the mirror at once, with an undo epoch opened; without room
the context has none. -/
def State.firstCkpt (s : State) (ctx : Nat) : State :=
  let s := s.flushCtx ctx
  match s.ctx ctx with
  | none => s
  | some c =>
    let bare : Context := { c with dirtyAll := true, mirror := none }
    let k0 : Checkpoint := s.capture bare { num := 0, packets := c.ckptAgain }
    let k : Checkpoint := { k0 with tables := s.copyTables c }
    let cc : Context := c.captured k (s.rstNow c)
    let c : Context := { cc with ckpt := none, mirror := some { k with packets := [] }, dirtyAll := true, nextCkpt := 1,
                                  epochs := [{ num := 0 }], ckptAgain := [], lastCommit := s.now c.resident }
    let full := decide (c.room < c.mirrorUse)
    let s := if full then (s.putCtx { c with mirror := none, epochs := [] }).faultNote ctx .kapael 5 Sub.ckptNoroom.code 0 0
      else s.putCtx c
    s.ckptPackets ctx k.packets (if full then 13 else 0)

/-- The records of a migration sent as MIG_DATA: each piece with its offset and the length of the whole. -/
def State.sendRecords (s : State) (c : Context) (dst : Die) : State :=
  let src := otherDie dst
  let bs := s.saved.filter fun v => v.blk.ctx == c.num && decide (v.die = src) && (dst == .kapael || s.follows ⟨c.num, v.blk.queue⟩)
  let ls := s.launches.filter fun l => l.ctx == c.num && (dst == .kapael || s.follows ⟨c.num, l.queue⟩)
  let b := contextBytes c (s.queuesOf c) ls (s.copyTables c) bs.length ++ bs.flatMap Saved.bytes
  let n := b.length
  (recordPieces b).foldl (fun (s : State) e => s.sendMsg src { s.mkMsg src tyMigData c.num 0 with
    aux0 := BitVec.ofNat 64 e.1, aux1 := BitVec.ofNat 64 n, payload := e.2 }) (s.putCtx { c with mig := .sent dst, inbox := [] })

/-- Whether the records of so many blocks find room, each by the configuration (R345). -/
def State.roomFor (s : State) (n : Nat) : Bool := (List.range n).all fun i => Config.hasRoom (s.freeCtr + i)

/-- The stop of a migration: the work that moves, with all of a restartable context's at docking, is asked to stop; once it stands
still and its jobs have run, but for those that this very stop holds back, it is saved and sent. With no room for its records it goes on,
and is asked again 100 µs later. -/
def State.migStop (s : State) (c : Context) (dst : Die) : State :=
  let src := otherDie dst
  let all := c.desc.restart && dst == .amdukor
  let mine := (s.ctxBlocks c.num).filter fun e => s.moves? dst e
  let asked := if all then s.ctxBlocks c.num else mine
  let s := asked.foldl (fun (s : State) e => s.askBlock e.1 .preempt) s
  let runs (d : Die) : Bool := (s.die d).jobs.any fun j => j.ctx == c.num && (j.started || !s.jobStill d j)
  let jobs := runs src || (all && runs (otherDie src))
  let moving := s.moves.any fun m => m.ctx == c.num && (m.stage != .wanted || s.moveNeeded m)
  if jobs || moving || !asked.all (fun e => s.blockSettled e.1) then s else
  let room := s.roomFor mine.length
  let s := { s with freeCtr := s.freeCtr + mine.length }
  if !room then (s.putCtx { c with mig := .due dst, migAt := s.now src + 100000 }).allGoOn c.num else
  let s := mine.foldl (fun (s : State) e => s.saveBlock e.1) s
  if dst == .kapael && (s.pagesOf c).any (fun p => leafHome p.2.2 == .amdukor) then s else
  let s := if all then (s.firstCkpt c.num).allGoOn c.num else s
  match s.ctx c.num with
  | some c => s.sendRecords c dst
  | none => s

/-- A context's migration goes on as what it waits for comes about. -/
def State.migStep (s : State) (c : Context) : State :=
  let leaves := match c.mig with | .due .amdukor | .stopping .amdukor | .sent .amdukor => true | _ => false
  if c.ended.isSome && leaves then s.endMig c.num else
  match c.mig with
  | .none => s
  | .due dst =>
    let towards := dst == .kapael && s.moves.any fun m => m.ctx == c.num && m.dst == .amdukor
    if c.ckpt.isSome || towards || decide (s.now (otherDie dst) < c.migAt) then s else s.putCtx { c with mig := .stopping dst }
  | .stopping dst => s.migStop c dst
  | .sent _ => s
  | .arriving _ => if (s.toArrive c.num).isEmpty then s.arrived c else if s.arriveStuck c then s.makeRoom c else s

/-- DOCK_MIGRATION (R354): the migration of a context goes on. -/
def execDockMigration (ctx : Nat) (s : State) : Out :=
  match s.ctx ctx with
  | none => .next s
  | some c => .next (s.migStep c).dockDone

/-! ## The messages (R140, R353) -/

/-- MIG_DATA: a piece of the records; when all have come and are consistent, the receiver takes the context over, else it refuses
them and the work stays with its source. -/
def execMigData (dest : Die) (s : State) : Out :=
  match s.deliver dest tyMigData with
  | none => .next s
  | some (s, m) => match s.keyed m with
    | none =>
      let s := s.refuseMsg dest m 1 .refuseFirmware
      .next (if (s.ctx m.ctx).any fun c => c.mig == .sent dest then s.migRefused m.ctx dest else s)
    | some c =>
      if c.mig ≠ .sent dest then .next (s.refuseMsg dest m 2 .refuseFirmware)
      else if m.aux0.toNat ≠ c.inbox.length then .next ((s.refuseMsg dest m 2 .refuseFirmware).migRefused c.num dest) else
      let b := c.inbox ++ m.payload
      let s := s.putCtx { c with inbox := b }
      if b.length < m.aux1.toNat then .next s
      else if streamOk c b then .next (s.takeOver c.num dest)
      else .next ((s.refuseMsg dest m 2 .refuseFirmware).migRefused c.num dest)

/-! ## The undock (R135, R355) -/

/-- The pages of a context homed on Amdukor. -/
def State.amdPages (s : State) (c : Context) : List (Nat × DWord) :=
  ((s.pagesOf c).filter fun p => leafHome p.2.2 == .amdukor).map fun p => (p.1, p.2.2)

/-- Bytes that an undock brings a context on Kapael: its pages, and its tables when it resides on Amdukor (R135). -/
def State.undockBytes (s : State) (c : Context) : Nat :=
  ((s.amdPages c).map fun p => pageBytes p.2).sum + if c.resident = .amdukor then 4096 * (s.tablesOf c).length else 0

/-- Whether an undock would have room (R135). -/
def State.undockFits (s : State) : Bool :=
  s.ctxs.all (fun c => s.undockBytes c == 0 || decide (c.usedK + s.undockBytes c ≤ c.quota .kapael))
    && decide ((s.ctxs.map s.undockBytes).sum ≤ s.freeOn .kapael)

/-- Whether a context resides on Amdukor or has launches or blocks there. -/
def State.standsOn (s : State) (c : Context) : Bool :=
  c.resident == .amdukor || s.blocks.any (fun e => e.2.ctx == c.num && e.1.die == .amdukor)
    || s.launches.any (fun l => l.ctx == c.num && l.die == .amdukor)
    || s.saved.any (fun v => v.blk.ctx == c.num && v.die == .amdukor)

/-- Whether a context resides on Amdukor or has work there. -/
def State.worksOn (s : State) (c : Context) : Bool := s.standsOn c || s.amd.jobs.any fun j => j.ctx == c.num

/-- Every queue placed on Kapael, for good (R315; that PLACE itself becomes 0, and not only what it acts as, is a DESIGN CHOICE, log entry 116). -/
def State.placeHome (s : State) : State :=
  { s with queues := s.queues.map fun (e : QueueRef × Queue) => (e.1, { e.2 with desc := { e.2.desc with place := 0 } }) }

/-- An undock ends: every queue is placed on Kapael (log entry 116), nothing is left that a loss would take, and Amdukor's records are written before
it may be removed (R355, R392). -/
def State.undockEnds (s : State) : State :=
  let plain (c : Context) : Context := { c.dropEpochs fun _ => true with mirror := none, dirty := [], dirtyAll := true, rstWas := [] }
  { (s.flash .amdukor).placeHome with pairState := 5, pairResult := 0, undockReq := false, ctxs := s.ctxs.map plain }

/-- UNDOCK (R355): a request in STATE 3 is refused with NO_ROOM, or the contexts begin to migrate to Kapael; then every page homed on
Amdukor is moved, until nothing is left there. A context whose migration to Amdukor ends only then migrates back. -/
def execUndock (s : State) : Out :=
  if !s.undockReq then s.onBar0 <|
    if s.pairState ≠ 3 then .next s
    else if !s.undockFits then .next { s with pairResult := 9 }
    else .next ({ s with undockReq := true, pairState := 4 }.migrateAll .kapael fun (c : Context) => c.mig == Mig.none && s.worksOn c)
  else if s.pairState ≠ 4 then .next s
  else if s.moves.any (fun m => m.dst == .amdukor && m.stage != .wanted) then .next s
  else
    let s := s.migrateAll .kapael fun (c : Context) => c.mig == Mig.none && s.standsOn c
    let pages := s.ctxs.flatMap fun c => (s.amdPages c).map fun p => (c.num, p)
    if !pages.isEmpty then .next (pages.foldl (fun (s : State) (e : Nat × Nat × DWord) => s.wantMove e.1 e.2.1 e.2.2 .kapael) s)
    else if s.ctxs.all (fun (c : Context) => c.mig == .none) && s.moves.isEmpty && s.amd.jobs.isEmpty then .next s.undockEnds
    else .next s

end Sys2Proof.Machine
end

