-- ==== Sys2Proof/Machine/Loss.lean ====
section
/-! DEFINITION. Surprise loss: what each die drops, the moves under way, the rebuilding of restartable contexts from their
checkpoints, the end of the others, and the timeout that declares a loss (R89, R128, R139, R145 to R147, R356). -/

namespace Sys2Proof.Machine

/-! ## What is dropped (R89, R128, R145) -/

/-- A die without any work, translation, line, tag or message; its clocks, boot state, fuses and records stay. -/
def DieState.idle (x : DieState) : DieState :=
  { x with l1 := [], tlb := [], walks := [], ptGot := [], wcache := [], tags := [], folds := [], acc := [], crucibles := [], marvers := [], jobs := []
           misc := [], events := [], late := [], fw := [], pipe := {} }

/-- Amdukor discards every context and stops all work (R145). -/
def State.dropAmdukor (s : State) : State :=
  { s with amd := s.amd.idle
           waves := s.waves.filter fun e => e.1.die != .amdukor, pars := s.pars.filter fun e => e.1.die != .amdukor
           forms := s.forms.filter fun e => e.1.die != .amdukor, blocks := s.blocks.filter fun e => e.1.die != .amdukor }

/-- Kapael drops its L1 lines homed on Amdukor and the bundles from there, and its end of the blowpipe starts afresh. -/
def State.dropRemote (s : State) : State :=
  let pile (c : Crucible) : Crucible := { c with pile := c.pile.filter fun b => b.die != .amdukor }
  { s with kap := { s.kap with l1 := s.kap.l1.filter fun x => x.line.home != .amdukor, crucibles := s.kap.crucibles.map pile, pipe := {} } }

/-- A move that the loss interrupts (R147): after step 4 of R133 it is over; before it the page keeps its home, with MV clear. -/
def State.lostMove (s : State) (m : PageMove) : State :=
  match m.stage with
  | .done => s.finishMove m
  | .wanted | .asked => (s.dropMove m).release m false true 0
  | _ =>
    let s := match s.ctx m.ctx with
      | some c => s.rewriteLeaf c m.va (withMv false)
      | none => s
    ((s.freeFrame m.ctx { die := m.dst, pa := m.newPa, size := m.size }).dropMove m).release m false true 0

/-- A context's frames on Amdukor are gone. -/
def Context.loseFrames (c : Context) : Context := { c with frames := c.frames.filter fun f => f.die != .amdukor, usedA := 0 }

/-- Everything of a context that runs or waits on Kapael is discarded; what its lines hold that their homes lack goes home first. -/
def State.dropContextWork (s : State) (ctx : Nat) : State :=
  let s := s.flushCtx ctx
  let free (s : State) (e : Nat × FwCore) : State := if s.boundCtx e.2.window = some ctx then s.freeFw .kapael e.1 else s
  let s := s.kap.fw.foldl free s
  let s := (s.ctxBlocks ctx).foldl (fun (s : State) e => s.clearBlock e.1) s
  let s := s.forgetOn .kapael ctx
  let other (v : Saved) : Bool := v.blk.ctx != ctx
  let calm (c : Crucible) : Crucible :=
    let pile := c.pile.filter fun b => b.ctx != ctx
    if c.batch.any fun b => b.ctx == ctx then { slice := c.slice, pile := pile } else { c with pile := pile }
  { s with kap := { s.kap with crucibles := s.kap.crucibles.map calm }
           launches := s.launches.filter fun l => l.ctx != ctx, saved := s.saved.filter other, snaps := s.snaps.filter other
           retained := s.retained.filter other, moves := s.moves.filter fun m => m.ctx != ctx }

/-! ## Rebuilding a context (R146) -/

/-- A page's frame replaced by one that the context holds: a Kapael frame it had instead is free. -/
def State.giveFrame (s : State) (ctx va : Nat) (f : Frame) : State :=
  match s.ctx ctx with
  | none => s
  | some c =>
    let old := (s.leafOf c va).bind fun e => if leafHome e.2 = .kapael ∧ leafBase e.2 ≠ f.pa then c.frameAt .kapael (leafBase e.2) else none
    let s := (s.putCtx { c with frames := c.frames ++ [f] }).rewriteLeaf c va (withHome .kapael f.pa)
    match old with
    | some o => s.freeFrame ctx o
    | none => s

/-- One undo epoch applied: its granules get their contents back, its frames their pages. -/
def State.undoEpoch (s : State) (ctx : Nat) (e : Epoch) : State :=
  let s := e.copies.foldl (fun (s : State) g =>
    { s with memK := Memory.copyIn (Memory.clear s.memK g.pa g.size) g.cells g.pa g.pa }) s
  e.frames.foldl (fun (s : State) x => s.giveFrame ctx x.1 x.2) s

/-- Whether the mirror reserve holds a page's contents in a frame aligned to its size: a page of one granule stands there as its granule
does (DESIGN CHOICE: where the reserve holds what is open, log entry 96). -/
def Checkpoint.holds (m : Checkpoint) (va : Nat) (leaf : DWord) : Bool :=
  decide (pageBytes leaf ≤ 65536) && m.granules.any fun g => g.va == va

/-- A frame of Kapael for a mirrored page: of the context's mirror reserve, which it leaves, and charged as before, or a new one, charged
whatever QUOTA_K says (R146). -/
def State.adoptFrame (s : State) (ctx n : Nat) (held : Bool) : Except Nat (State × Nat) :=
  match s.allocFrame ctx .kapael n true with
  | .error st => .error st
  | .ok (s, pa) => match s.ctx ctx with
    | some c => .ok (if held then s.putCtx { c with adopted := c.adopted + n, usedK := c.usedK - n } else s, pa)
    | none => .ok (s, pa)

/-- A mirrored page adopted at a frame of Kapael, or no frame is free for it; a frame of Kapael that it stood at is free. A page that the
driver has removed since is none any more. -/
def State.adoptPage (s : State) (ctx : Nat) (m : Checkpoint) (va : Nat) (leaf : DWord) : Except Nat State :=
  match s.ctx ctx with
  | none => .error 1
  | some c => match s.leafOf c va with
    | none => .ok s
    | some (_, e) =>
      let n := pageBytes leaf
      let old := if leafHome e = .kapael then c.frameAt .kapael (leafBase e) else none
      match s.adoptFrame ctx n (m.holds va leaf) with
      | .error st => .error st
      | .ok (s, pa) =>
        let mem := (m.granules.filter fun g => within va n g.va).foldl
          (fun (k : Memory) g => Memory.copyIn k g.cells g.pa (pa + (g.va - va))) (Memory.clear s.memK pa n)
        let s := { s with memK := mem }.rewriteLeaf c va fun _ => withHome .kapael pa leaf
        .ok (match old with
          | some f => s.freeFrame ctx f
          | none => s)

/-- Mirrored pages adopted one after another. -/
def State.adoptAll (s : State) (ctx : Nat) (m : Checkpoint) : List (Nat × DWord) → Except Nat State
  | [] => .ok s
  | (va, leaf) :: t => match s.adoptPage ctx m va leaf with
    | .error st => .error st
    | .ok s => State.adoptAll s ctx m t

/-- Restored tables with the leaves that a rewind does not take back: those that moves of pages without RST and the driver's services have
left in a range since, as firmware has noted them; a page that such a service removed is none (log entry 96). -/
def State.keepNotes (s : State) (ctx : Nat) (notes : List (Nat × Nat × List (Nat × DWord))) : State :=
  notes.foldl (fun (s : State) n => match s.ctx ctx with
    | none => s
    | some c =>
      let was := (s.pagesOf c).filter fun p => decide (p.1 < n.1 + n.2.1) && decide (n.1 < p.1 + pageBytes p.2.2)
      was.foldl (fun (s : State) p => s.rewriteLeaf c p.1 fun _ => ((look p.1 n.2.2).map (withMv false)).getD 0) s) s

/-- A queue put back to where a checkpoint has it, on Kapael; what completed since will be completed again with the replayed
flag. Graph tables stay as the driver has loaded them; a run that the checkpoint holds goes on with the nodes it began with. -/
def Queue.rewound (q : Queue) (k : Option Queue) : Queue :=
  let base := { q with desc := { q.desc with place := 0 }, locked := false, replays := q.replays ++ q.done, done := [] }
  let ran := match k with
    | some k => k.tables.filter fun (t : GTable) => t.run.isSome
    | none => []
  let again := ran.map fun (t : GTable) => { t with later := some (((q.table t.num).map fun u => u.idle.nodes).getD []) }
  let tables := again ++ q.idleTables.filter fun t => !ran.any fun u => u.num == t.num
  let r := match k with
    | some k => { base with
        rptr := k.rptr, cseq := k.cseq, status := k.status, sh := k.sh, twaits := k.twaits, waitGraph := k.waitGraph, running := k.running
        tables := tables }
    | none => { base with
        rptr := 0, cseq := q.desc.seq0 - 1, status := 0, sh := List.replicate 32 0, twaits := [], waitGraph := [], running := []
        tables := tables }
  { r with bell := r.rptr != r.wptr && r.status == 0 }

/-- A context's queues rewound, and their state blocks written. -/
def State.rewind (s : State) (ctx : Nat) (m : Checkpoint) : State :=
  let s := { s with queues := s.queues.map fun (e : QueueRef × Queue) =>
    if e.1.ctx = ctx then (e.1, e.2.rewound (look e.1.queue m.queues)) else e }
  (s.queues.filter fun e => e.1.ctx == ctx).foldl (fun (s : State) e => s.writeState (some e.1)) s

/-- The launches, blocks and jobs of a checkpoint brought back on Kapael, where they arrive in their order (R44; jobs: log entry 97). -/
def State.bringBack (s : State) (m : Checkpoint) : State :=
  let ls := m.launches.map (s.carryLaunch .kapael)
  let lost (v : Saved) : Bool := m.launches.any fun l => l.id == v.blk.launch && !s.rectAny .kapael (cohortDim l.desc).1 (cohortDim l.desc).2
  let bs := (m.blocks.filter fun v => !lost v).map fun v => v.carried .kapael
  let n := bs.length
  let late (e : Die × Job) : Job :=
    let dt := if e.1 = .kapael then 0 else skew
    { e.2 with ticket := s.ticketCtr + e.2.ticket, started := false, waiting := false, gd := e.2.gd + dt, gp := e.2.gp + dt }
  let again (l : Launch) : Launch := { l with ticket := s.ticketCtr + l.ticket }
  { s with launches := s.launches ++ ls.map again, savedCtr := s.savedCtr + n, ticketCtr := 2 * s.ticketCtr
           kap := { s.kap with jobs := s.kap.jobs ++ m.jobs.map late }
           saved := s.saved ++ ((List.range n).zip bs).map fun (e : Nat × Saved) => { e.2 with id := s.savedCtr + e.1 }
           snaps := s.snaps ++ m.snaps.map fun v => v.carried .kapael }

/-- CKPT packets that wait, as a rewind leaves them: those that the queue will read again are forgotten, the others complete. -/
def Checkpoint.keepsPacket (m : Checkpoint) (x : Nat × Word × Bool) : Bool :=
  match look x.1 m.queues with
  | some q => decide ((q.cseq - x.2.1).toNat < 2 ^ 31)
  | none => false

/-- An affected restartable context rebuilt from its last committed checkpoint (R146), or no frame was left for it. -/
def State.rebuild (s : State) (c : Context) (m : Checkpoint) : Except Nat State :=
  let ctx := c.num
  let notes := c.epochs.reverse.flatMap fun e => e.leaves
  let packets := c.ckptWaits.filter m.keepsPacket
  let s := s.dropContextWork ctx
  match s.ctx ctx with
  | none => .error 1
  | some c =>
    let s := s.putCtx { c.loseFrames with mig := .none, inbox := [], kept := none, ckpt := none, ckptAgain := [], ckptNow := false }
    let tables : Except Nat State := if c.resident = .amdukor then
        (match s.rebuildTables ctx .kapael true m.tables with
          | .ok s => .ok (s.keepNotes ctx notes)
          | .error st => .error st)
      else .ok s
    match tables with
    | .error st => .error st
    | .ok s =>
      let s := c.epochs.foldl (fun (s : State) e => s.undoEpoch ctx e) s
      match s.adoptAll ctx m m.pages with
      | .error st => .error st
      | .ok s => match s.ctx ctx with
        | none => .error 1
        | some c =>
          let s := s.putCtx { c with mirror := none, epochs := [], dirty := [], dirtyAll := true, rstWas := [], lastCommit := s.now .kapael }
          .ok (((s.rewind ctx m).bringBack m).ckptPackets ctx packets 0)

/-! ## The loss (R145, R147, R356) -/

/-- An affected context that is not rebuilt resides on Kapael from now on, without what Amdukor held of it. Tables that stood there are
gone (R2, R145); firmware completes what is left by the leaves of pages homed elsewhere that it knows (DESIGN CHOICE, log entry 100). -/
def State.loseHome (s : State) (c : Context) : State :=
  let known := (s.pagesOf c).filter fun p => leafHome p.2.2 != .amdukor
  let s := s.putCtx { c.loseFrames.dropEpochs fun _ => true with
    mig := .none, inbox := [], kept := none, ckpt := none, ckptAgain := [], ckptNow := false, mirror := none, resident := .kapael
    lost := if c.resident = .amdukor then some (known.map fun p => (p.1, withMv false p.2.2)) else c.lost }
  { s with moves := s.moves.filter fun m => m.ctx != c.num }

/-- An affected context that is not rebuilt ends with DOCK_LOST, unless it has ended before (R147); the CKPT packets that wait
complete with its status. -/
def State.dockLost (s : State) (ctx : Nat) : State :=
  match s.ctx ctx with
  | none => s
  | some c => ((s.loseHome c).endContext ctx 10).ckptPackets ctx c.ckptWaits (c.ended.getD 10)

/-- A context that is not affected goes on: a migration or checkpoint of it is over, and it has nothing to undo. -/
def State.untouched (s : State) (ctx : Nat) : State :=
  match s.ctx ctx with
  | none => s
  | some c =>
    let ps := c.ckptWaits
    let c := { c.loseFrames.dropEpochs fun _ => true with mig := .none, inbox := [], ckpt := none, ckptAgain := [], ckptNow := false,
                                                            mirror := none, dirty := [], dirtyAll := true, rstWas := [], kept := none }
    ((s.putCtx c).allGoOn ctx).ckptPackets ctx ps (c.ended.getD 0)

/-- A context whose blocks Amdukor has not all restored resides on Kapael again, as its records there have it; nothing of it ran on Amdukor
(R356). A launch cancelled meanwhile stays so. -/
def State.comeBack (s : State) (c : Context) : State :=
  match c.mig, c.kept with
  | .arriving _, some k =>
    let old (l : Launch) : Launch := match k.launches.find? fun x => x.id == l.id with
      | some x => if l.status = 16 then x.cancel 16 else x
      | none => l
    let mine (v : Saved) : Bool := k.launches.any fun l => l.id == v.blk.launch
    let s := ((s.ctxBlocks c.num).filter fun e => decide (e.1.die = .amdukor)).foldl (fun (s : State) e => s.clearBlock e.1) s
    { s.putCtx { c with mig := .none, inbox := [], kept := none, resident := .kapael, desc := { c.desc with root := k.root } } with
      launches := s.launches.map old
      saved := (s.saved.filter fun v => !mine v) ++ s.retained.filter fun v => v.blk.ctx == c.num
      retained := s.retained.filter fun v => v.blk.ctx != c.num
      snaps := (s.snaps.filter fun v => !mine v) ++ k.snaps }
  | _, _ => s

/-- What becomes of a context at a loss. -/
def State.afterLoss (s : State) (c : Context) (affected : Bool) : State :=
  if !affected then s.untouched c.num else
  match c.mirror with
  | some m => if c.desc.restart && c.ended.isNone then (match s.rebuild c m with
      | .ok s => s
      | .error _ => (s.dropContextWork c.num).dockLost c.num)
    else s.dockLost c.num
  | none => s.dockLost c.num

/-- The pair separates: PAIRCTL shows handheld mode, and what the pairing brought is forgotten (R390). -/
def State.separate (s : State) : State :=
  { s with link := .down, linkWidth := 0, linkSpeed := 0, pairState := 0, undockReq := false, amdHash := 0, amdSvn := 0, amdSlot := 0, amdPub := [] }

/-- The link is lost (R139, R145): at STATE 5 nothing is left to lose; before that Amdukor's work is gone, and Kapael rebuilds or ends
the contexts that are affected; those that were still arriving on Amdukor have never left. -/
def State.loseLink (s : State) : State :=
  if s.link = .down then (if s.cable.isSome then { s with pairState := 0, cable := none } else s) else
  let s := s.ctxs.foldl State.comeBack s
  let orderly := decide (s.pairState = 5)
  let affected := (s.ctxs.filter fun c => s.onAmdukor c).map fun c => c.num
  let moves := s.moves
  let s := s.separate.dropAmdukor.dropRemote.placeHome
  let s := moves.foldl State.lostMove s
  let count (x : DieState) : DieState := if orderly then x else { x with life := { x.life with cable.losses := more32 x.life.cable.losses } }
  let s := { s with kap := count s.kap, amd := count s.amd }
  (s.ctxs.map fun c => c.num).foldl (fun (s : State) n => match s.ctx n with
    | some c => s.afterLoss c (!orderly && affected.contains n)
    | none => s) s

/-- LINK_LOST (R139, R145): the cable is pulled, the link goes down or the port contains it, or the link has stayed out of L0. -/
def execLinkLost (s : State) : Out := .next s.loseLink

/-- Whether the link has stayed out of L0 for more than 300 µs (R139). -/
def State.linkTimedOut (s : State) : Bool :=
  s.link == .outOfL0 && decide (s.linkAt + 300000 < s.now .kapael)

/-- HEARTBEAT_TIMEOUT (R139): 300 µs in L0 without a heartbeat from the partner. -/
def execHeartbeatTimeout (d : Die) (s : State) : Out :=
  if s.link != .l0 || !s.docked || decide (s.now d ≤ (s.pipe d).heardAt + 300000) then .next s else .next s.loseLink

end Sys2Proof.Machine
end

