-- ==== Sys2Proof/Machine/Sha.lean ====
section
/-! DEFINITION. SHA-256 over bytes, as FIPS 180-4 defines it, and the identities of the dies (R194, R387, R390). -/

namespace Sys2Proof.Machine

/-! ## SHA-256 -/

/-- The round constants. -/
def shaK : List Word :=
  [0x428A2F98, 0x71374491, 0xB5C0FBCF, 0xE9B5DBA5, 0x3956C25B, 0x59F111F1, 0x923F82A4, 0xAB1C5ED5,
   0xD807AA98, 0x12835B01, 0x243185BE, 0x550C7DC3, 0x72BE5D74, 0x80DEB1FE, 0x9BDC06A7, 0xC19BF174,
   0xE49B69C1, 0xEFBE4786, 0x0FC19DC6, 0x240CA1CC, 0x2DE92C6F, 0x4A7484AA, 0x5CB0A9DC, 0x76F988DA,
   0x983E5152, 0xA831C66D, 0xB00327C8, 0xBF597FC7, 0xC6E00BF3, 0xD5A79147, 0x06CA6351, 0x14292967]
  ++ [0x27B70A85, 0x2E1B2138, 0x4D2C6DFC, 0x53380D13, 0x650A7354, 0x766A0ABB, 0x81C2C92E, 0x92722C85,
   0xA2BFE8A1, 0xA81A664B, 0xC24B8B70, 0xC76C51A3, 0xD192E819, 0xD6990624, 0xF40E3585, 0x106AA070,
   0x19A4C116, 0x1E376C08, 0x2748774C, 0x34B0BCB5, 0x391C0CB3, 0x4ED8AA4A, 0x5B9CCA4F, 0x682E6FF3,
   0x748F82EE, 0x78A5636F, 0x84C87814, 0x8CC70208, 0x90BEFFFA, 0xA4506CEB, 0xBEF9A3F7, 0xC67178F2]

/-- The initial hash value. -/
def shaInit : List Word :=
  [0x6A09E667, 0xBB67AE85, 0x3C6EF372, 0xA54FF53A, 0x510E527F, 0x9B05688C, 0x1F83D9AB, 0x5BE0CD19]

/-- A message padded to whole blocks: a one bit, zeros, and its length in bits, high byte first. -/
def shaPad (b : List Byte) : List Byte :=
  b ++ [0x80] ++ List.replicate ((119 - b.length % 64) % 64) 0 ++ (bytesOf 8 (8 * b.length)).reverse

/-- A block's 16 words, each high byte first. -/
def shaWords (b : List Byte) : List Word := (List.range 16).map fun i => BitVec.ofNat 32 (natOf (slice b (4 * i) 4).reverse)

/-- The message schedule extended by `n` words; the latest 16 words stand first, newest first. -/
def shaSchedule : Nat → List Word → List Word
  | 0, w => w
  | n + 1, w =>
    let at_ (k : Nat) : Word := w.getD k 0
    let s0 := (at_ 14).rotateRight 7 ^^^ (at_ 14).rotateRight 18 ^^^ (at_ 14 >>> 3)
    let s1 := (at_ 1).rotateRight 17 ^^^ (at_ 1).rotateRight 19 ^^^ (at_ 1 >>> 10)
    shaSchedule n ((at_ 15 + s0 + at_ 6 + s1) :: w)

/-- One round on the eight working words. -/
def shaRound (h : List Word) (kw : Word) : List Word :=
  match h with
  | [a, b, c, d, e, f, g, h] =>
    let s1 := e.rotateRight 6 ^^^ e.rotateRight 11 ^^^ e.rotateRight 25
    let ch := (e &&& f) ^^^ (~~~e &&& g)
    let t1 := h + s1 + ch + kw
    let s0 := a.rotateRight 2 ^^^ a.rotateRight 13 ^^^ a.rotateRight 22
    let maj := (a &&& b) ^^^ (a &&& c) ^^^ (b &&& c)
    [t1 + s0 + maj, a, b, c, d + t1, e, f, g]
  | l => l

/-- One block taken into the hash value. -/
def shaBlock (h : List Word) (b : List Byte) : List Word :=
  let w := (shaSchedule 48 (shaWords b).reverse).reverse
  ((List.zipWith (fun (x y : Word) => x + y) shaK w).foldl shaRound h).zipWith (fun x y => x + y) h

/-- Whole blocks taken one after another. -/
def shaBlocks : Nat → List Word → List Byte → List Word
  | 0, h, _ => h
  | n + 1, h, b => shaBlocks n (shaBlock h (b.take 64)) (b.drop 64)

/-- The 32 bytes of the digest. -/
def sha256 (b : List Byte) : List Byte :=
  let p := shaPad b
  (shaBlocks (p.length / 64) shaInit p).flatMap fun w => (bytesOf 4 w.toNat).reverse

/-! ## Identities (R390) -/

/-- The seed in a die's fuses. -/
def dieSeed (d : Die) : List Byte := (List.range 32).map (Config.seedByte (d == .amdukor))

/-- The public key that a die derives from its seed. -/
def dieKey (d : Die) : List Byte := (List.range 32).map (Config.keyByte (dieSeed d))

/-- A die's signature of a message. -/
def dieSign (d : Die) (msg : List Byte) : List Byte := (List.range 7856).map (Config.sigByte (dieSeed d) msg)

/-- A die's id: the SHA-256 of its public key. -/
def dieId (d : Die) : BitVec 256 := BitVec.ofNat 256 (natOf (sha256 (dieKey d)))

end Sys2Proof.Machine
end

