-- ==== Sys2Proof/Machine/Boot.lean ====
section
/-! DEFINITION. Boot, links and docking, firmware slots, identity and attestation, lifetime records, refresh modes, and registers
with no behaviour of their own (R5, R42, R80, R324, R355, R385 to R392, R394, R395, R401). -/

namespace Sys2Proof.Machine

/-! ## Firmware slots and the boot state word (R387, R388, R390) -/

/-- The fields of a slot's header (R387), and the LENGTH bytes of its body. -/
def FwSlot.svn (f : FwSlot) : Nat := fieldOf f.bytes 4 4
@[inherit_doc FwSlot.svn] def FwSlot.member (f : FwSlot) : Nat := fieldOf f.bytes 8 4
@[inherit_doc FwSlot.svn] def FwSlot.length (f : FwSlot) : Nat := fieldOf f.bytes 12 4
@[inherit_doc FwSlot.svn] def FwSlot.hash (f : FwSlot) : BitVec 256 := BitVec.ofNat 256 (fieldOf f.bytes 32 32)
@[inherit_doc FwSlot.svn] def FwSlot.dieId (f : FwSlot) : BitVec 256 := BitVec.ofNat 256 (fieldOf f.bytes 64 32)
@[inherit_doc FwSlot.svn] def FwSlot.sig (f : FwSlot) : List Byte := slice f.bytes 192 7856
@[inherit_doc FwSlot.svn] def FwSlot.body (f : FwSlot) : List Byte := slice f.bytes 8192 f.length

/-- The partner's id that a die's fuses hold (R1, R390). -/
def fusedPartner (d : Die) : BitVec 256 := dieId (otherDie d)

/-- A die's slot, B when asked for. -/
def DieState.slot (x : DieState) (b : Bool) : FwSlot := if b then x.slotB else x.slotA

/-- Whether the ROM of a die accepts a slot (R387). -/
def DieState.slotOk (x : DieState) (d : Die) (b : Bool) : Bool :=
  let f := x.slot b
  f.member == (match d with | .kapael => 0 | .amdukor => 1) && decide (x.minSvn ≤ f.svn) && decide (f.length ≤ 2 ^ 25)
    && (f.dieId == 0 || f.dieId == dieId d) && f.hash == BitVec.ofNat 256 (natOf (sha256 f.body)) && Config.sigVerifies f.sig (f.bytes.take 192)

/-- A count of boots or of a slot's abandonment. -/
def Lifetime.booted (l : Lifetime) (b gaveUp : Bool) : Lifetime :=
  { l with bootsA := if b then l.bootsA else more32 l.bootsA, bootsB := if b then more32 l.bootsB else l.bootsB
           abandoned := if gaveUp then more32 l.abandoned else l.abandoned }

/-- A die that has left reset (R385 steps 1 to 3, R388): the boot state word is brought up to date, the accepted slot runs, pair
time starts at 0; without an accepted slot it halts. What flash, fuses and the world hold stays. -/
def DieState.powerOn (x : DieState) (d : Die) : DieState :=
  let tries := if x.healthy then x.tries else x.tries + 1
  let gaveUp := !x.healthy && tries == 3
  let active := if gaveUp then !x.activeB else x.activeB
  let boot := if x.slotOk d active then active else !active
  let ok := x.slotOk d boot
  { activeB := boot, tries := if gaveUp then 0 else tries, healthy := x.healthy || gaveUp, bootFail := !ok, boot := if ok then 3 else 1
    slotA := x.slotA, slotB := x.slotB, minSvn := x.minSvn, temp := x.temp, disabled := x.disabled
    life := if ok then x.lifeFlash.booted boot gaveUp else x.lifeFlash, lifeFlash := x.lifeFlash }

/-- A die without power: what flash, fuses and the world hold stays. -/
def DieState.off (x : DieState) : DieState :=
  { activeB := x.activeB, tries := x.tries, healthy := x.healthy, slotA := x.slotA, slotB := x.slotB, minSvn := x.minSvn, temp := x.temp
    disabled := x.disabled, life := x.lifeFlash, lifeFlash := x.lifeFlash }

/-- DRAM of a die that has booted: the body of its image stands at the start of the firmware reserve (R385 step 2; where in the reserve is
DESIGN CHOICE, log entry 105). -/
def DieState.loaded (x : DieState) (d : Die) : Memory :=
  if x.bootFail then [] else Memory.writeN [] (dramBytes d - reserveBytes) (x.slot x.activeB).body

/-- The part with Kapael's power cycled: nothing is resident, no register of the host function keeps its value, a report under way is
abandoned (R391). -/
def State.cycled (s : State) (kap : DieState) (memK : Memory) : State :=
  { State.reset with
    agenda := s.agenda, cur := s.cur, nsteps := s.nsteps, freeCtr := s.freeCtr, opCtr := s.opCtr, log := s.log
    kap := kap, memK := memK, amd := s.amd.idle, memA := s.memA, wsA := s.wsA, memH := s.memH, hostEnds := s.hostEnds, fwNonce := s.fwNonce
    attctl := if Word.bit s.attctl 0 then 0x200 else 0 }

/-- An orderly shutdown of a die: its lifetime records are written, and it is off until it is powered on again (R392; log entry 105). -/
def execShutdown (d : Die) (s : State) : Out :=
  let s := s.flash d
  match d with
  | .kapael => .next (s.cycled s.kap.off [])
  | .amdukor =>
    let s := s.loseLink
    .next { s with amd := s.amd.off, memA := [], wsA := [] }

/-- POWER_ON_RESET (R385, R391): a die boots. With Kapael the whole part starts again: nothing is resident, DRAM holds
the image alone, weight banks list nothing. The dock powering Amdukor leaves Kapael as it is. -/
def execPowerOnReset (d : Die) (s : State) : Out :=
  match d with
  | .kapael =>
    let k := s.kap.powerOn .kapael
    .next (s.cycled k (k.loaded .kapael))
  | .amdukor =>
    let s := s.loseLink
    let a := s.amd.powerOn .amdukor
    .next { s with amd := a, memA := a.loaded .amdukor, wsA := [] }

/-! ## Links and docking (R80, R139, R386, R390, R401) -/

/-- Whether the host link can train to a width and speed, in GT/s (R386). -/
def hostOk (width speed : Nat) : Bool := ([1, 2, 4] : List Nat).contains width && ([16, 32, 64, 128] : List Nat).contains speed

/-- HOST_LINK_TRAIN (R385 step 4, R386): the host link trains to the width and speed that both ends sustain (`State.hostEnds`), and the host
reaches the part, or it fails to. A link that is up trains again, and one that has been down for no more than 300 µs recovers; both are counted (R392, log
entry 105). -/
def execHostLinkTrain (s : State) : Out :=
  if s.kap.boot ≠ 3 then .next s
  else if !hostOk s.hostEnds.1 s.hostEnds.2 then .next (s.onLife .kapael fun l => { l with failedTrainings := more16 l.failedTrainings })
  else
    let back := s.hostDownAt.any fun t => decide (s.now .kapael ≤ t + 300000)
    let s := if s.hostUp then s.onLife .kapael fun l => { l with host.retrains := more32 l.host.retrains }
      else if back then s.onLife .kapael fun l => { l with host.recoveries := more32 l.host.recoveries } else s
    .next { s with hostUp := true, hostWidth := s.hostEnds.1, hostSpeed := s.hostEnds.2, hostDownAt := none }

/-- HOST_LINK_DOWN (R401): host-homed leaves cannot be reached, the management queue halts, and the loss of a link that was up is
counted (R392). -/
def execHostLinkDown (s : State) : Out :=
  let s := if s.hostUp then s.onLife .kapael fun l => { l with host.losses := more32 l.host.losses } else s
  let s := { s with hostUp := false, hostWidth := 0, hostSpeed := 0, hostDownAt := if s.hostUp then some (s.now .kapael) else s.hostDownAt }
  if s.mq.isSome then .next ({ s with svc := none }.haltStatus none 18) else .next s

/-- Lifetime records of both dies changed. -/
def State.onLives (s : State) (f : Lifetime → Lifetime) : State :=
  { s with kap := { s.kap with life := f s.kap.life }, amd := { s.amd with life := f s.amd.life } }

/-- Whether the cable can train to a width and speed, in GT/s (R386). -/
def cableOk (width speed : Nat) : Bool := ([2, 4, 8] : List Nat).contains width && ([32, 64, 128] : List Nat).contains speed

/-- PRESENCE_DETECT (R139, R386): a cable is detected, STATE becomes 1 and the cable begins to train; a cable that is up trains again. -/
def execPresenceDetect (width speed : Nat) (s : State) : Out :=
  if s.link ≠ .down then
    if s.link ≠ .l0 then .next s
    else if cableOk width speed then
      .next ({ s with linkWidth := width, linkSpeed := speed }.onLives fun l => { l with cable.retrains := more32 l.cable.retrains })
    else .next s.loseLink
  else if s.pairState ≠ 0 ∨ s.kap.boot ≠ 3 then .next s
  else .next { s with pairState := 1, cable := some (width, speed) }

/-- The training of a cable ends: at the width and speed that both ends sustain, or, where these fall short or the other die has failed to
boot, in handheld mode, which is recorded (R386). A die that still boots is waited for (R385). -/
def State.trainCable (s : State) : Out :=
  match s.cable with
  | none => .next s
  | some (width, speed) =>
    if s.amd.bootFail || !cableOk width speed then
      .next ({ s with pairState := 0, cable := none }.onLives fun l => { l with failedTrainings := more16 l.failedTrainings })
    else if s.amd.boot ≠ 3 then .next s
    else .next { s with cable := none, link := .l0, linkWidth := width, linkSpeed := speed
                        kap := { s.kap with pipe := {} }, amd := { s.amd with pipe := {} } }

/-- What a die finds in what its partner has sent: the signature of its challenge verifies under the key that came with it, and the id of
that key is the one in its fuses (R390). -/
def partnerOk (d : Die) (chal pub sig : List Byte) : Bool :=
  BitVec.ofNat 256 (natOf (sha256 pub)) == fusedPartner d && Config.keyVerifies pub chal sig

/-- PAIRING (R390): each die signs its partner's challenge and checks the partner's signature and id; a mismatch on either side refuses the
pairing. -/
def execPairing (ids : PairIds) (s : State) : Out :=
  if s.pairState ≠ 1 ∨ s.link ≠ .l0 ∨ s.amdPub ≠ [] then .next s else
  let s := { s with log := .signed .amdukor (dieSign .amdukor ids.chalK) :: .signed .kapael (dieSign .kapael ids.chalA) :: s.log }
  if partnerOk .kapael ids.chalK ids.pubA ids.sigA && partnerOk .amdukor ids.chalA ids.pubK ids.sigK then
    let f := s.amd.slot s.amd.activeB
    .next { s with amdPub := ids.pubA, amdHash := f.hash, amdSvn := f.svn, amdSlot := if s.amd.activeB then 1 else 0 }
  else .next (s.separate.onLives fun l => { l with failedPairings := more16 l.failedPairings })

/-- PTM_EXCHANGE (R80, R354, R386): at link-up Amdukor adopts Kapael's pair time, STATE becomes 2 and the contexts with a queue of
PLACE 1 or 2 begin to migrate; while docked an offset above 40 ns loses the link, and one up to it is what Amdukor's rate is slewed by. -/
def execPtmExchange (offset : Int) (s : State) : Out :=
  if s.docked then
    if 40 < offset.natAbs then .next s.loseLink
    else .next { s with ptmAt := s.now .kapael, amd := { s.amd with slew := -offset, slewRest := 0 } }
  else if s.pairState ≠ 1 ∨ s.link ≠ .l0 ∨ s.amdPub = [] then .next s
  else
    let t := s.kap.ptime
    let s := { s with
      pairState := 2, ptmAt := t.toNat, kap := { s.kap with beatAt := t.toNat, pipe := { s.kap.pipe with heardAt := t.toNat } }
      amd := { s.amd with
        ptime := t, slew := 0, slewRest := 0, beatAt := t.toNat, report := t.toNat / 100000, decay := t.toNat / 1048576
        sweep := t.toNat / 2 ^ 25, pipe := { s.amd.pipe with heardAt := t.toNat } } }
    .next (s.migrateAll .amdukor fun c => c.ended.isNone && c.resident == .kapael && s.hasPlaced c.num).dockDone

/-! ## Remote rollback (R389) -/

/-- A die's slot whose writing begins, as an update of firmware comes (R388, R389; log entry 105). -/
def execSlotBegin (d : Die) (b : Bool) (s : State) : Out :=
  let x := s.die d
  if x.boot = 3 then .next (s.setDie d { x with writing := some b }) else .next s

/-- A slot that has been written: it is made active, and not yet healthy (R388). -/
def execSlotDone (d : Die) (f : FwSlot) (s : State) : Out :=
  let x := s.die d
  match x.writing with
  | none => .next s
  | some b => .next (s.setDie d { x with
      slotA := if b then x.slotA else f, slotB := if b then f else x.slotB, activeB := b, tries := 0, healthy := false, writing := none })

/-- The writing of one of Kapael's slots aborted; the slot keeps its old contents (R389). -/
def State.abortWrite (s : State) (slot : Nat) : State :=
  if s.kap.writing.any fun w => (if w then 1 else 0) == slot then { s with kap := { s.kap with writing := none } } else s

/-- FWCTL_ROLLBACK (R389): the command in the window aborts a write of its target slot, is checked and, when accepted, changes the boot
state word. -/
def execFwctlRollback (s : State) : Out := s.onBar0 <|
  let b := s.fwcmd ++ List.replicate (8192 - s.fwcmd.length) 0
  let slot := fieldOf b 4 4
  let s := s.abortWrite slot
  let nonce := fieldOf b 8 8
  let answer (n : Nat) (s : State) : Out := .next { s with fwctl := BitVec.ofNat 32 (n * 2 ^ 8) }
  if !Config.sigVerifies (slice b 192 7856) (b.take 192) || fieldOf b 0 4 != 0x534B5242 || fieldOf b 16 32 != (dieId .kapael).toNat
  then answer 1 s
  else if nonce ≤ s.fwNonce then answer 2 s
  else if 1 < slot || !s.kap.slotOk .kapael (slot == 1) then answer 3 s
  else answer 0 { s with fwNonce := nonce, kap := { s.kap with activeB := slot == 1, tries := 0, healthy := true } }

/-! ## Attestation (R391) -/

/-- The body of a report. -/
def State.reportBody (s : State) : List Byte :=
  let k := s.kap
  let hash (b : Bool) : List Byte := bytesOf 32 (if k.slotOk .kapael b then (k.slot b).hash.toNat else 0)
  bytesOf 4 0x534B4154 ++ bytesOf 2 1 ++ bytesOf 1 s.pairState ++ bytesOf 1 (if k.activeB then 1 else 0) ++ s.attNonce
    ++ bytesOf 8 (s.repseq + 1) ++ bytesOf 32 (dieId .kapael).toNat ++ bytesOf 32 (fusedPartner .kapael).toNat ++ hash false ++ hash true
    ++ bytesOf 4 k.slotA.svn ++ bytesOf 4 k.slotB.svn ++ bytesOf 32 s.amdHash.toNat ++ bytesOf 4 s.amdSvn ++ bytesOf 1 s.amdSlot
    ++ bytesOf 1 (if k.healthy then 1 else 0) ++ bytesOf 2 0 ++ dieKey .kapael ++ bytesOf 4 k.minSvn ++ bytesOf 12 0

/-- ATTCTL_REQ: a report is built with the nonce that stands there; a request under way takes this one in. -/
def execAttctlReq (s : State) : Out := s.onBar0 <|
  if Word.bit s.attctl 0 then .next s
  else .next { s with attctl := s.attctl ||| 1, report := s.reportBody, repseq := s.repseq + 1 }

/-- ATTESTATION_SIGNED: the report and its signature are complete; without the signing key the request ends with STATUS 1. -/
def execAttestationSigned (s : State) : Out :=
  if !Word.bit s.attctl 0 then .next s
  else if !Config.canSign s.repseq then .next { s with attctl := 0x100 }
  else .next { s with attctl := 0, sig := dieSign .kapael s.report }

/-! ## Lifetime records (R392) -/

/-- LIFETIME_RECORD_WRITE: a die's records are written to flash. -/
def execLifetimeRecordWrite (d : Die) (s : State) : Out := .next (s.flash d)

/-! ## Refresh (R42) -/

/-- The phase length of a die, in ns. -/
def DieState.phase (x : DieState) : Nat := if x.fast then 4096 else 8192

/-- REFRESH_PHASE_ADVANCE: the group in refresh is that of the present phase. Single-bit errors in its banks are corrected in place and
counted; an uncorrectable one is logged, once, and stays for the next read (R42, R51). -/
def execRefreshPhaseAdvance (d : Die) (s : State) : Out :=
  let x := s.die d
  let g := x.ptime.toNat / x.phase % 8
  let s := s.setDie d { x with group := g }
  let here (f : Flaw) : Bool := match f.at_ with
    | .weight e k => e == d && k / 2 ^ 18 % 8 == g
    | _ => false
  let met := s.flaws.filter here
  if met.isEmpty then .next s else
  let single := met.filter fun f => !f.double
  let found := met.filter fun f => f.double && !f.logged
  let left (f : Flaw) : Option Flaw := if !here f then some f else if f.double then some { f with logged := true } else none
  let note (f : Flaw) : LogEv := .weightError d (match f.at_ with | .weight _ k => k | _ => 0)
  .next (({ s with flaws := s.flaws.filterMap left, log := found.map note ++ s.log }).corrected d single)

/-- REFRESH_MODE_CHANGE: the junction temperature asks for fast refresh from 95 °C and no longer at 90 °C; the mode changes at the
next multiple of 65,536 ns. -/
def execRefreshModeChange (d : Die) (celsius : Nat) (s : State) : Out :=
  let x := s.die d
  let want := if 95 ≤ celsius then true else if celsius ≤ 90 then false else x.fastNext
  .next (s.setDie d { x with temp := celsius, fastNext := want, fast := if x.ptime.toNat % 65536 = 0 then want else x.fast })

/-- A die's refresh mode after its pair time has passed to a new value. -/
def DieState.passed (x : DieState) (old : Nat) : DieState :=
  if x.ptime.toNat / 65536 = old / 65536 then x else { x with fast := x.fastNext }

/-! ## Pair time (R80, R392) -/

/-- Amdukor's pair time less Kapael's, in ns. -/
def State.offset (s : State) : Int := (s.amd.ptime - s.kap.ptime).toInt

/-- PTM repeated: the dies exchange again 10 ms after the last time at the latest (R80); the offset found is within SKEW. -/
def State.ptmAgain (s : State) : State :=
  if s.docked && decide (s.ptmAt + 10000000 ≤ s.now .kapael) then
    { s with ptmAt := s.now .kapael, amd := { s.amd with slew := -s.offset, slewRest := 0 } }
  else s

/-- The ns of a correction that a slew of 1 part in 1,000 makes while `dt` ns pass, what is left of it, and the rest of the time (R80). -/
def slewOf (slew : Int) (rest dt : Nat) : Int × Int × Nat :=
  let k : Nat := min slew.natAbs ((rest + dt) / 1000)
  let part : Int := if slew < 0 then -k else k
  (part, slew - part, (rest + dt) % 1000)

/-- The ns that Amdukor's clock advances while Kapael's advances by `dt`: while docked the clocks drift, by what the configuration leaves
free up to 1 part in 1,000, and are corrected, but never run back or jump, and stay within SKEW of each other (R80; log entry 102). -/
def State.amdAdvance (s : State) (dt : Nat) : Nat :=
  if !s.docked then dt else
  let k : Int := ((s.amd.slewRest + dt) / 1000 : Nat)
  let drift := max (-k) (min k (Config.drift s.nsteps))
  let to_ := max (-40) (min 40 (s.offset + drift + (slewOf s.amd.slew s.amd.slewRest dt).1))
  (dt + to_ - s.offset).toNat

/-- The residencies of a die after `dt` ns more in its bands (R392). -/
def Lifetime.aged (l : Lifetime) (temp volt dt : Nat) : Lifetime :=
  let more (k : Nat) (b : List Nat) : List Nat := b.modify (min 15 k) (· + dt)
  { l with tempNs := more (temp / 8) l.tempNs, voltNs := more volt l.voltNs }

/-! ## Registers with no behaviour of their own (R5) -/

/-- A register of a plane written. -/
def Plane.write (p : Plane) (ofs : Nat) (v : Word) : Plane :=
  match ofs with
  | 0x00 => { p with base := (p.base &&& ~~~0xFFFFFFFF) ||| v.setWidth 64 }
  | 0x04 => { p with base := (p.base &&& 0xFFFFFFFF) ||| (v.setWidth 64 <<< 32) }
  | 0x08 => { p with pitch := v }
  | 0x0C => { p with size := v }
  | 0x10 => { p with pos := v }
  | 0x14 => { p with fmt := v &&& 0x3F }
  | _ => p

/-- A register of a head written; read-only and reserved fields keep their values (R5). -/
def Head.write (x : Head) (ofs : Nat) (v : Word) : Head :=
  match ofs with
  | 0x008 => { x with herr := x.herr &&& ~~~v }
  | 0x00C => { x with hirq := v &&& 3 }
  | 0x010 => { x with pclk := v }
  | 0x014 => { x with htime0 := v }
  | 0x018 => { x with htime1 := v }
  | 0x01C => { x with vtime0 := v }
  | 0x020 => { x with vtime1 := v }
  | 0x024 => { x with sync := v &&& 3 }
  | 0x030 => { x with ctxn := v &&& 0xFF }
  | 0x03C => { x with linktgt := v &&& 0x707 }
  | 0x040 => { x with ftoken := (x.ftoken &&& ~~~0xFFFFFFFF) ||| v.setWidth 64 }
  | 0x044 => { x with ftoken := (x.ftoken &&& 0xFFFFFFFF) ||| (v.setWidth 64 <<< 32) }
  | 0x0C0 => { x with auxcmd := v &&& 0x0FFFFFFF }
  | _ =>
    if 0x080 ≤ ofs ∧ ofs < 0x0A0 then { x with plane0 := x.plane0.write (ofs - 0x080) v }
    else if 0x0A0 ≤ ofs ∧ ofs < 0x0C0 then { x with plane1 := x.plane1.write (ofs - 0x0A0) v }
    else if 0x100 ≤ ofs ∧ ofs < 0x110 then { x with auxdata := patch x.auxdata (ofs - 0x100) (bytesOf 4 v.toNat) }
    else x

/-- REGISTER_WRITE (R5): a word of Kapael's host-function BAR0 that the host writes, where the register has no step of its own:
MQDESC, the command window, NONCE, and the heads' registers. -/
def execRegisterWrite (offset : Nat) (v : Word) (s : State) : Out := s.onBar0 <|
  let b := bytesOf 4 v.toNat
  if offset % 4 ≠ 0 then .next s
  else if 0x100 ≤ offset ∧ offset < 0x140 then .next { s with mqdesc := patch s.mqdesc (offset - 0x100) b }
  else if 0x2000 ≤ offset ∧ offset < 0x4000 then
    .next { s with fwcmd := patch (s.fwcmd ++ List.replicate (8192 - s.fwcmd.length) 0) (offset - 0x2000) b }
  else if 0x4010 ≤ offset ∧ offset < 0x4020 then .next { s with attNonce := patch s.attNonce (offset - 0x4010) b }
  else if 0x6000 ≤ offset ∧ offset < 0x6400 then
    let h := (offset - 0x6000) / 0x200
    .next (s.putHead h ((s.head h).write (offset % 0x200) v))
  else .next s

end Sys2Proof.Machine
end

