-- ==== Sys2Proof/Machine/Remote.lean ====
section
/-! DEFINITION. Accesses, walks and token signals in place over the blowpipe, and their answers (R98, R130, R131, R137,
R140). -/

namespace Sys2Proof.Machine

/-! ## Reads -/

/-- The code of a failed check in the fault-queue record, of an access request (R140, R399). -/
def refusedMsg (m : Msg) : Bool := (m.aux1 &&& refusedBit) != 0

/-- RD_REQ (R131, R137): the home serves a line to the other member, with the lease R86 gives; a read that bypasses the L1
takes none. AUX1 names an uncorrectable error that the line holds (R51, log entry 11). One of an object slot whose batch has formed stays
in its place until the batch is performed (R116), as does a write. -/
def execRdReq (dest : Die) (s0 : State) : Out :=
  match s0.deliver dest tyRdReq with
  | none => .next s0
  | some (s, m) => match s.accessCheck dest m (match m.aux0.toNat / 4 % 4 with | 0 => .load | 1 => .fetch | _ => .engineRead) with
    | .error (k, sub) => .next ((s.refuseMsg dest m k sub).replyMsg dest m tyRdData fun x => { x with aux1 := refusedBit })
    | .ok (leaf, pa) =>
      let l := lineAt (leafHome leaf) pa
      let req := otherDie dest
      if leafCls leaf = .object ∧ s.slotBusy l.home pa = true then .next s0 else
      let (s, flaw) := s.homeFlaw l
      let code : DWord := BitVec.ofNat 64 ((flaw.map flawStatus).getD 0)
      if m.aux0.toNat % 4 = 2 then
        let s := s.atHome l req m.ctx m.va leaf false
        let data := Memory.readN (s.mem l.home) (l.la * 128) 128
        .next (s.replyMsg dest m tyRdData fun x => { x with payload := data, time := 0, aux1 := code })
      else
        let (s, data, le) := s.homeRead l req m.ctx m.va leaf
        .next (s.replyMsg dest m tyRdData fun x => { x with payload := data, time := BitVec.ofNat 64 le, aux1 := code })

/-- A line that a read in place has brought: it is kept in the core's L1 under the load's policy, and answers the operation (R131, R183). -/
def State.lineBack (s : State) (a : AgentId) (o : Op) (l : LineRef) (m : Msg) : State :=
  let c := coreOf a
  match o.reqs.find? fun r => !r.done && r.line? == some l with
  | none => s
  | some r =>
    let flaw := statusFlaw m.aux1.toNat
    let (s, data) := s.homeBytesFor c l r.leaf m.payload
    let s := if o.pol = 2 || flaw.isSome then s.l1Forget c l else
      s.l1Put c { core := c.core, line := l, ctx := s.ctxOf a, va := r.va / 128 * 128, leaf := r.leaf, le := m.time.toNat, data := data } o.pol
    s.setAgentOp a (o.answer l data flaw)

/-- An operation whose request to the other member was refused (R140, R402). -/
def State.remoteFault (s : State) (a : AgentId) (op : Nat) (l : LineRef) : State :=
  match s.agentOp a op with
  | none => s
  | some o =>
    let here (r : LaneReq) : Bool := !r.done && r.line? == some l
    let hit := o.reqs.filter here
    let done (r : LaneReq) : LaneReq := if here r then { r with done := true } else r
    s.replyRefused a { o with reqs := o.reqs.map done } (maskOf fun k => hit.any fun r => r.lane == k) ((hit.head?.map (·.va)).getD 0)

/-- A line that has come for firmware, an engine or a wait, or its refusal, kept until it is taken. -/
def State.keepFar (s : State) (d : Die) (w : FwWho) (l : LineRef) (m : Msg) : State :=
  let p := s.pipe d
  let sub := if refusedMsg m then some .remoteRefused else statusFlaw m.aux1.toNat
  s.setPipe d { p with far := p.far ++ [{ who := w, line := l, data := m.payload, sub := sub }] }

/-- A line that has come for a core's L1, which an agent waits for; a refused one is a fault of that agent's access (R140). -/
def State.lineFilled (s : State) (a : AgentId) (acc : Access) (ctx va : Nat) (leaf : DWord) (l : LineRef) (m : Msg) : State :=
  let c := coreOf a
  match (if refusedMsg m then some .remoteRefused else statusFlaw m.aux1.toNat) with
  | some sub => s.setWalk (walkReq a ctx va acc) (.fault sub 0)
  | none =>
    let (s, data) := s.homeBytesFor c l leaf m.payload
    s.l1Put c { core := c.core, line := l, ctx := ctx, va := va, leaf := leaf, le := m.time.toNat, data := data }

/-- RD_DATA: the line comes back to the load, or the other access, that waits for it. -/
def execRdData (dest : Die) (s : State) : Out :=
  match s.deliver dest tyRdData with
  | none => .next s
  | some (s, m) => match s.closeTag dest m.tag with
    | some (s, .read a op l) =>
      if refusedMsg m then .next (s.remoteFault a op l) else
      (match s.agentOp a op with
       | some o => .next (s.lineBack a o l m)
       | none => .next s)
    | some (s, .far w _ _ l) => .next (s.keepFar dest w l m)
    | some (s, .fill a acc ctx va leaf l) => .next (s.lineFilled a acc ctx va leaf l m)
    | _ => .next (s.refuseMsg dest m 2 .refuseFirmware)

/-! ## Writes and token signals -/

/-- The pieces of a line that a WR_REQ writes: its masked bytes. -/
def maskedPieces (pa : Nat) (mask : Nat) (bytes : List Byte) : List (Nat × List Byte) :=
  (List.range 128).filterMap fun i => if Nat.testBit mask i then some (pa + i, [nth bytes i 0]) else none

/-- WR_REQ (R87, R131): the home performs a write of the other member. -/
def execWrReq (dest : Die) (s0 : State) : Out :=
  match s0.deliver dest tyWrReq with
  | none => .next s0
  | some (s, m) => match s.accessCheck dest m (if nth m.payload 128 0 = 1 then .engineWrite else .store) with
    | .error (k, sub) => .next ((s.refuseMsg dest m k sub).replyMsg dest m tyWrAck fun x => { x with aux1 := refusedBit })
    | .ok (leaf, pa) =>
      let l := lineAt (leafHome leaf) pa
      if leafCls leaf = .object ∧ s.slotBusy l.home pa = true then .next s0 else
      let mask := m.aux0.toNat + 2 ^ 64 * m.aux1.toNat
      let (s, gd, gp) := s.homeWrite l (otherDie dest) m.ctx m.va leaf (maskedPieces (l.la * 128) mask m.payload)
      .next (s.replyMsg dest m tyWrAck fun x => { x with time := BitVec.ofNat 64 gd, aux0 := BitVec.ofNat 64 gp })

/-- The signal a TOK_SIG carries (log entry 11). -/
def signalOf (m : Msg) : Signal :=
  let x := m.aux1.toNat
  { n := m.aux0.toNat, gd := fieldOf m.payload 0 8, gp := fieldOf m.payload 8 8, dies := x / 256 % 4, core := x % 256, multi := x / 1024 % 2 == 1 }

/-- TOK_SIG (R98, R278): the home of a token performs a signal of the other member. -/
def execTokSig (dest : Die) (s : State) : Out :=
  match s.deliver dest tyTokSig with
  | none => .next s
  | some (s, m) => match s.accessCheck dest m .tokenWrite with
    | .error (k, sub) => .next ((s.refuseMsg dest m k sub).replyMsg dest m tyWrAck fun x => { x with aux1 := refusedBit })
    | .ok (leaf, pa) =>
      let s := s.signalAt (otherDie dest) m.ctx m.va leaf (leafHome leaf) pa (signalOf m)
      let (gd, gp) := s.gwct (lineAt (leafHome leaf) pa) (otherDie dest)
      .next (s.replyMsg dest m tyWrAck fun x => { x with time := BitVec.ofNat 64 gd, aux0 := BitVec.ofNat 64 gp })

/-- The answer to a write or signal that a job has made on the other member: its write completion times, or the engine fault at which the
job ends (R95, R140). -/
def State.jobAcked (s : State) (d : Die) (w : FwWho) (va : Nat) (m : Msg) : State :=
  match w with
  | .job id =>
    let note (j : Job) : Job := if j.id != id then j else
      if refusedMsg m then { j with fault := some (.remoteRefused, va) } else { j with gd := max j.gd m.time.toNat, gp := max j.gp m.aux0.toNat }
    s.setDie d { s.die d with jobs := (s.die d).jobs.map note }
  | _ => s

/-- WR_ACK: a write has been performed, with its write completion times, or a signal. -/
def execWrAck (dest : Die) (s : State) : Out :=
  match s.deliver dest tyWrAck with
  | none => .next s
  | some (s, m) => match s.closeTag dest m.tag with
    | some (s, .write a op l) =>
      if refusedMsg m then .next (s.remoteFault a op l) else
      (match s.agentOp a op with
       | some o =>
         let done (r : LaneReq) : LaneReq := if r.line? == some l && r.sent then { r with done := true } else r
         .next (s.setAgentOp a { o with reqs := o.reqs.map done, gd := max o.gd m.time.toNat, gp := max o.gp m.aux0.toNat })
       | none => .next s)
    | some (s, .token a op va) => .next (s.signalAcked a op va (refusedMsg m))
    | some (s, .farWrite w _ va _) => .next (s.jobAcked dest w va m)
    | some (s, .farToken w _ va _) => .next (s.jobAcked dest w va { m with time := 0, aux0 := 0 })
    | some (s, .backed _ _ _) => .next s
    | _ => .next (s.refuseMsg dest m 2 .refuseFirmware)

/-! ## Bundles -/

/-- The method, width and kind that a COMB_REQ names, and its count (log entry 11). -/
def combHead (b : List Byte) : Nat × Bool × Bool := ((nth b 0 0).toNat, nth b 1 0 != 0, nth b 2 0 != 0)

/-- The requests of a COMB_REQ. -/
def combReqs (m : Msg) (leaf : DWord) (pa : Nat) : List BReq :=
  (List.range (nth m.payload 3 0).toNat).map fun k =>
    let ofs := 4 + 24 * k
    { lane := fieldOf m.payload ofs 4, pa := pa + fieldOf m.payload (ofs + 4) 4, va := m.va + fieldOf m.payload (ofs + 4) 4
      args := wordsOf (slice m.payload (ofs + 8) 16), leaf := leaf }

/-- The reply words of a refused object call: as many zeros as the slot's RWIDTH says, none where the address leads to no slot (R123, log
entry 11). -/
def State.refusedWords (s : State) (ctx va : Nat) : List Word :=
  match (s.ctx ctx).bind fun c => s.leafOf c va with
  | some (_, leaf) =>
    if leafCls leaf = .object then
      List.replicate (min 4 (Memory.read (s.mem (leafHome leaf)) (leafPa leaf (va / 512 * 512) + 19)).toNat) 0
    else []
  | none => []

/-- COMB_REQ (R109, R131): a bundle of the other member enters the pile at its home; it waits in its slot while the pile has
no room. -/
def execCombReq (dest : Die) (s : State) : Out :=
  match s.deliver dest tyCombReq with
  | none => .next s
  | some (t, m) =>
    let k := combHead m.payload
    match t.accessCheck dest m (if k.2.2 then .ocall else .atomic) with
    | .error (n, sub) =>
      .next ((t.refuseMsg dest m n sub).replyMsg dest m tyCombRsp fun x =>
        { x with aux1 := refusedBit, payload := rspPayload (List.replicate (nth m.payload 3 0).toNat (4, if k.2.2 then t.refusedWords m.ctx m.va else [])) })
    | .ok (leaf, pa) =>
      let reqs := combReqs m leaf pa
      let b : Bundle := { agent := .none, op := 0, die := otherDie dest, core := m.aux0.toNat, ctx := m.ctx
                          key := keyOf k (leafHome leaf) pa, reqs := reqs, tag := some m.tag }
      match t.arrive b (lineAt (leafHome leaf) pa) with
      | some t => .next t
      | none => .next s

/-- COMB_RSP: the replies of a bundle come back to the operation that sent it. -/
def execCombRsp (dest : Die) (s : State) : Out :=
  match s.deliver dest tyCombRsp with
  | none => .next s
  | some (s, m) => match s.closeTag dest m.tag with
    | some (s, .bundle a op) => match s.agentOp a op with
      | some o =>
        let far (r : LaneReq) : Bool := r.sent && !r.done && (r.line?.map fun l => serverOf l.home != dest).getD false
        let lanes := (o.reqs.filter far).map (·.lane)
        let rs := rspReplies m.payload lanes.length
        let near (r : LaneReq) : LaneReq := if far r then (({ o with reqs := [r] } : Op).replied lanes rs 0 0).reqs.headD r else r
        .next ((s.forgetLines (coreOf a) (o.reqs.filter far)).setAgentOp a { o with reqs := o.reqs.map near, gd := max o.gd m.time.toNat, gp := max o.gp m.aux0.toNat })
      | none => .next s
    | _ => .next (s.refuseMsg dest m 2 .refuseFirmware)

/-! ## Page-table entries (R130) -/

/-- Whether an entry's address lies in a page table of a context. -/
def State.inTables (s : State) (c : Context) (pa : Nat) : Bool :=
  (s.tablesOf c).any fun t => within t.2.1 (8 * tableLen t.1) pa

/-- The context whose entry a PT_RD or PT_CAS may name, or the check that fails. -/
def State.entryCheck (s : State) (dest : Die) (m : Msg) : Option Nat :=
  match s.keyed m with
  | none => some 1
  | some c => if c.resident = dest && s.inTables c m.aux0.toNat then none else some 2

/-- PT_RD (R130): the resident member reads an entry for the other's walker; where it is the leaf of a page homed there, the page's
counter is charged with this walk in place (R132, log entry 101). -/
def execPtRd (dest : Die) (s : State) : Out :=
  match s.deliver dest tyPtRd with
  | none => .next s
  | some (s, m) => match s.entryCheck dest m with
    | some k => .next ((s.refuseMsg dest m k .refuseFirmware).replyMsg dest m tyPtData fun x => { x with aux1 := refusedBit })
    | none =>
      let (s, flaw) := s.homeFlaw (lineAt (homeOf dest) m.aux0.toNat)
      let e := s.entryAt dest m.aux0.toNat
      let s := if e.getLsbD 0 && !e.getLsbD 1 && leafHome e == homeOf dest then s.countAccess m.ctx m.va e (otherDie dest) else s
      .next (s.replyMsg dest m tyPtData fun x =>
        { x with payload := bytesOf 8 e.toNat, aux1 := BitVec.ofNat 64 ((flaw.map flawStatus).getD 0) })

/-- PT_CAS (R23, R130): the resident member replaces an entry that holds the expected value; the answer carries what the
entry then holds. -/
def execPtCas (dest : Die) (s : State) : Out :=
  match s.deliver dest tyPtCas with
  | none => .next s
  | some (s, m) => match s.entryCheck dest m with
    | some k => .next ((s.refuseMsg dest m k .refuseFirmware).replyMsg dest m tyPtData fun x => { x with aux1 := refusedBit })
    | none =>
      let pa := m.aux0.toNat
      let swap := (s.entryAt dest pa).toNat == fieldOf m.payload 0 8
      let s := if swap then s.putEntry dest pa (BitVec.ofNat 64 (fieldOf m.payload 8 8)) else s
      .next (s.replyMsg dest m tyPtData fun x =>
        { x with payload := bytesOf 8 (s.entryAt dest pa).toNat, aux1 := if swap then 1 else 0 })

/-- Walks of a context that wait for an entry end at a fault: it was refused them (R140), or holds an error (R51). -/
def State.refuseWalks (s : State) (d : Die) (ctx pa : Nat) (sub : Sub) : State :=
  match s.ctx ctx with
  | none => s
  | some c =>
    let needs (va : Nat) (acc : Access) : Bool :=
      let at_ := walkStart (s.die d).wcache ctx va c.desc.root
      match walkFrom s d c.desc.moveth (s.walkRead d c) va acc at_.1 at_.2 with
      | .need p => p == pa
      | .leaf p _ => p == pa
      | _ => false
    let note (w : FwWait) : FwWait :=
      if w.by_.die = d ∧ w.ctx = ctx ∧ w.fault = none ∧ needs w.va w.acc = true then { w with fault := some sub } else w
    ((s.die d).walks.filter fun e => e.1.ctx == ctx && decide (e.2 = .pending) && needs e.1.va e.1.acc).foldl
      (fun (s : State) e => s.setWalk e.1 (.fault sub 0)) { s with fwWaits := s.fwWaits.map note }

/-- PT_DATA: an entry comes to the walker that asked for it. -/
def execPtData (dest : Die) (s : State) : Out :=
  match s.deliver dest tyPtData with
  | none => .next s
  | some (s, m) => match s.closeTag dest m.tag with
    | some (s, .entry ctx pa) =>
      if refusedMsg m then .next (s.refuseWalks dest ctx pa .remoteRefused) else
      match statusFlaw m.aux1.toNat with
      | some sub => .next (s.refuseWalks dest ctx pa sub)
      | none =>
      let e : DWord := BitVec.ofNat 64 (fieldOf m.payload 0 8)
      .next (s.setDie dest { s.die dest with ptGot := put (ctx, pa) e (s.die dest).ptGot })
    | some (s, .staleEntry) => .next s
    | _ => .next (s.refuseMsg dest m 2 .refuseFirmware)

end Sys2Proof.Machine
end

