-- ==== Sys2Proof/Machine/Tidy.lean ====
section
/-! DEFINITION. What follows from a step by itself: retirement of work that is done, waits of YIELD that are met, the ends of
waves, parisons and blocks, and records that can be written (R156, R158, R161, R163, R173, R208, R211, R272, R320, R344, R359,
R361). -/

namespace Sys2Proof.Machine

/-! ## Readiness (R332) -/

/-- Whether a split's next clause can be entered as far as its header goes: its waits are met, or its decision has been
pushed. -/
def State.headerReady (s : State) (a : AgentId) (w : Wave) (sp : Split) : Bool :=
  match s.fetchWord (.wave a w sp) sp.pos.hofs with
  | .word h =>
    hdrOk h && (if hdrCls h = 6 then ((w.par.bind fun p => look p s.pars).bind fun r => r.nextFor w).isSome else hdrMet w.ctr h)
  | _ => false

/-- Whether a split can issue: its wave runs, it is neither parked, held nor descheduled, and it stands in a clause or before
one that it can enter. -/
def State.splitReady (s : State) (id : WaveId) (w : Wave) (k : Nat) : Bool :=
  w.status == .running && (match nth w.slots k none with
    | some sp => sp.runnable && sp.wait == .none && (sp.pos.inside || s.headerReady (.wave id k) w sp)
    | none => false)

/-- Whether a wave has a ready split. -/
def State.waveReady (s : State) (id : WaveId) : Bool :=
  match look id s.waves with
  | some w => (List.range 4).any fun k => s.splitReady id w k
  | none => false

/-! ## Retirement (R173) -/

/-- Operations that retire by a reply of their own: FP32 functions, loads, stores, atomics, calls and texture reads. -/
def OpKind.ownReply : OpKind → Bool
  | .fpFunction | .load _ | .store | .atomic _ _ _ | .ocall _ | .trace | .sample | .pidld | .waitv | .qwait => true
  | _ => false

/-- Whether what an operation has written back has been acknowledged: CCTL's lines of the other member (R131, R173). -/
def State.backs (s : State) (a : AgentId) (o : Op) : Bool :=
  match o.kind with
  | .cctl _ => !s.backedOut (coreOf a).die (s.ctxOf a)
  | _ => true

/-- The oldest finished operation of an agent retired; one whose merge was refused faults (R140). -/
def State.retireOne (s : State) (a : AgentId) : State :=
  match (s.agentOps a).find? fun o => o.ready && !o.kind.ownReply && o.allDone && s.mayRetire a o && s.backs a o with
  | none => s
  | some o => match o.flawed with
    | [] => s.retire a o
    | r :: t => s.replyFaults a o (r :: t)

/-- Every finished operation of an agent retired; `n` bounds them. -/
def State.retireAll (s : State) (a : AgentId) : Nat → State
  | 0 => s
  | n + 1 => if (s.agentOps a).any (·.ready) then State.retireAll (s.retireOne a) a n else s

/-- The agents that hold operations: waves and parisons. -/
def State.holders (s : State) : List AgentId :=
  (s.waves.map fun e => AgentId.wave e.1 0) ++ s.pars.map fun e => AgentId.gaffer e.1

/-! ## YIELD (R211) -/

/-- Whether what a split yields for has come about. -/
def State.yieldOver (s : State) (c : Counters) : Wait → Bool
  | .yieldCount k n => yieldMet c k n
  | .yieldRuns l => !l.any s.waveReady
  | _ => false

/-- The splits of a wave whose YIELD is over go on. -/
def State.wakeYield (s : State) (w : Wave) : Wave :=
  let go (sp : Split) : Split := if s.yieldOver w.ctr sp.wait then { sp with wait := .none, stall := .issued } else sp
  { w with slots := w.slots.map fun o => o.map go, pend := w.pend.map go }

/-- Every YIELD that is over ended. -/
def State.wakeYields (s : State) : State :=
  { s with waves := s.waves.map fun (e : WaveId × Wave) => (e.1, s.wakeYield e.2)
           pars := s.pars.map fun (e : ParId × Parison) =>
             if s.yieldOver e.2.ctr e.2.wait then (e.1, { e.2 with wait := .none, stall := .issued }) else e }

/-! ## The end of a lane-focus step (R359) -/

/-- Why a lane-focus step is over short of a safe point: its lane has exited (1), is parked at a JOIN (2) or stands in a
scheduler-visible wait (3). -/
def Wave.stepOver (w : Wave) (l : Nat) : Option Nat :=
  match w.splits.find? fun sp => sp.act.getLsbD l with
  | none => some 1
  | some sp =>
    if sp.parked.isSome then some 2
    else match sp.wait with
      | .none | .fence _ _ | .snapshot => none
      | _ => some 3

/-- A wave whose lane-focus step is over is stopped with cause STEP. -/
def State.endStep (s : State) (e : WaveId × Wave) : State :=
  let (id, w) := e
  match w.stepLane with
  | none => s
  | some l =>
    if w.status != .running then { s with waves := put id { w with stepLane := none } s.waves } else
    match w.stepOver l with
    | none => s
    | some d =>
      let w := { w with stepLane := none }
      let sp := (w.splits.find? fun sp => sp.act.getLsbD l).getD {}
      let k := ((List.range 4).find? fun k => (nth w.slots k none).any fun sp => sp.act.getLsbD l).getD w.stepSlot
      let c : CauseRec := { (Actor.wave (.wave id k) w sp).record .step .none (if d = 1 then 0 else sp.act) 0 d with slot := k }
      let w := ({ w with causes := addCause w.causes c }).stop (s.image w.ctx w.image)
      ({ s with waves := put id w s.waves }).pushEvent id.die (.trap id w.ctx (s.queueOfBlock w.block))

/-! ## END records (R361) -/

/-- A wave that has ended or stopped writes its END record once. -/
def State.endTrace (s : State) (e : WaveId × Wave) : State :=
  let (id, w) := e
  if w.status = .running then (if w.endTraced then { s with waves := put id { w with endTraced := false } s.waves } else s)
  else if w.endTraced then s
  else
    let s := s.traceMark id 4 0
    { s with waves := put id { (look id s.waves).getD w with endTraced := true } s.waves }

/-! ## The ends of waves and parisons (R156, R208) -/

/-- The write completion times of what leaves a block are kept with it (R98). -/
def State.foldGw (s : State) (b : Option BlockRef) (gd gp : Nat) : State :=
  match b with
  | some r => s.onBlock r fun x => { x with gd := max x.gd gd, gp := max x.gp gp }
  | none => s

/-- A wave that has ended leaves its slot once its counters are zero. -/
def State.freeWave (s : State) (e : WaveId × Wave) : State :=
  if e.2.status = .ended ∧ quiet e.2.ops e.2.ctr = true then
    let s := ({ s with waves := drop e.1 s.waves }).foldGw e.2.block e.2.gwd e.2.gwp
    match e.2.par with
    | some p => s.trimQueue p
    | none => s
  else s

/-- A BLOWN parison whose waves have all ended has ended. -/
def State.endBlown (s : State) (e : ParId × Parison) : State :=
  if e.2.mode = .blown ∧ (s.waves.any fun w => decide (w.2.par = some e.1)) = false
  then (s.setPar e.1 { e.2 with mode := .ended }).endSibling e.1 else s

/-- A parison that has ended leaves the table once its counters are zero. -/
def State.freePar (s : State) (e : ParId × Parison) : State :=
  if e.2.mode = .ended ∧ quiet e.2.ops e.2.ctr = true ∧ s.windowOn (.par e.1) = false then
    ({ s with pars := drop e.1 s.pars }).foldGw (some e.2.block) e.2.gwd e.2.gwp
  else s

/-! ## Walks that nothing waits for -/

/-- Whether the agent that asked for a walk works for its context and is stalled at its walk or fetch, or waits for a value. -/
def State.walkAwaited (s : State) (q : WalkReq) : Bool :=
  let hit (st : Stall) : Bool := st == .memory || st == .fetch
  let waits := (s.agentOps q.agent).any fun o => match o.kind with
    | .waitv | .qwait => true
    | _ => false
  match s.actorOf q.agent with
  | some (.wave _ w sp) => w.ctx == q.ctx && w.status == .running && (waits || hit sp.stall)
  | some (.par _ r) => r.ctx == q.ctx && r.status == .running && (waits || hit r.stall)
  | none => false

/-- Faults of walks that nothing waits for any more are forgotten. -/
def State.purgeWalks (s : State) : State :=
  let keep (e : WalkReq × WalkSt) : Bool := match e.2 with
    | .fault _ _ => s.walkAwaited e.1
    | _ => true
  { s with kap := { s.kap with walks := s.kap.walks.filter keep }, amd := { s.amd with walks := s.amd.walks.filter keep } }

/-- Lines that have come for waits that are over are kept no longer (R131). -/
def State.purgeFar (s : State) (d : Die) : State :=
  let keep (x : FarLine) : Bool := match x.who with
    | .agent a => (s.agentOps a).any fun o => o.kind == .waitv || o.kind == .qwait
    | _ => true
  let p := s.pipe d
  if p.far.all keep then s else s.setPipe d { p with far := p.far.filter keep }

/-! ## All of it -/

/-- What queues owe written, where it can be now: stores that were held, and records that have room. -/
def State.flushAll (s : State) : State :=
  let keys : List QKey := none :: s.queues.map fun e => some e.1
  keys.foldl (fun (s : State) k => match s.queue k with
    | some q => if !q.owed.isEmpty || (!q.held.isEmpty && q.room) then s.flushHeld k else s
    | none => s) s

/-- Whether operations in flight read a WEIGHT bank that is in its refresh phase: a load or a tile op's blocks (R42, R258, R299). -/
def State.inRefresh (s : State) (ops : List Op) : Bool :=
  ops.any fun o => (o.kind.isLoad || o.kind == .mma) && o.reqs.any fun r => match r.place with
    | .weight d a => a / 2 ^ 23 % 8 == (s.die d).group
    | _ => false

/-- The stall reason of a wait as it stands now: of a FENCE, COUNT until the acknowledgements are there, then FENCE (R90); of a WEIGHT load
or a tile op whose bank is in its refresh phase, WSREFRESH (R258, R299). -/
def Actor.stallNow (x : Actor) (refresh : Bool) (wt : Wait) (st : Stall) : Stall :=
  match wt with
  | .fence scope _ => if fenceAcked x.ops scope then .fence else .count
  | _ => if refresh && st == .count then .wsrefresh else if !refresh && st == .wsrefresh then .count else st

/-- The stall reasons of every split and parison as they stand. -/
def State.nameStalls (s : State) : State :=
  let wave (e : WaveId × Wave) : WaveId × Wave :=
    let refresh := s.inRefresh e.2.ops
    let go (k : Nat) (o : Option Split) : Option Split := o.map fun sp =>
      { sp with stall := (Actor.wave (.wave e.1 k) e.2 sp).stallNow refresh sp.wait sp.stall }
    (e.1, { e.2 with slots := ((List.range e.2.slots.length).zip e.2.slots).map fun (x : Nat × Option Split) => go x.1 x.2 })
  let par (e : ParId × Parison) : ParId × Parison := (e.1, { e.2 with stall := (Actor.par e.1 e.2).stallNow (s.inRefresh e.2.ops) e.2.wait e.2.stall })
  { s with waves := s.waves.map wave, pars := s.pars.map par }

/-- Pending paths that waves have taken from the core store's reserved area are checked: one with an uncorrectable error is a fault of the
wave, in its lowest occupied slot (R35, R51). -/
def State.pathsRead (s : State) : State :=
  if s.flaws.isEmpty then s else
  s.waves.foldl (fun (s : State) e => match s.pathFlaw e.1 e.2 with
    | (s, false) => s
    | (s, true) => match (List.range 4).find? fun k => (nth e.2.slots k none).isSome with
      | some k => (s.actorOf (.wave e.1 k)).elim s fun x => s.raise x .ecc .eccCoreStore
      | none => s) s

/-- Soft errors in registers, pending paths, scratchpads and tiles that are no one's any more are gone. -/
def State.dropFlaws (s : State) : State :=
  if s.flaws.isEmpty then s else
  { s with flaws := s.flaws.filter fun f => match f.at_ with
      | .reg w _ _ | .path w _ => (look w s.waves).isSome
      | .store b _ | .tile b _ _ => (s.blockOf b).isSome
      | _ => true }

/-- A die's firmware writes the lifetime records once in each minute of pair time (R392). -/
def State.minuteOf (s : State) (d : Die) : State :=
  let x := s.die d
  let n := x.ptime.toNat / 60000000000
  if x.boot ≠ 3 ∨ x.minute = n then s else (s.setDie d { x with minute := n }).flash d

/-- What waits for a moment of its own: the minute's records, host accesses that are held, acknowledgements that are due, events that their sources hold, and
the launches that the dispatcher passes over (R116, R133, R138, R328, R330, R392). -/
def State.attend (s : State) : State :=
  let s := if s.hostHeld.isEmpty then s else s.hostAgain
  let s := (s.ackDue .kapael).ackDue .amdukor
  let s := (s.minuteOf .kapael).minuteOf .amdukor
  let more (x : DieState) : DieState := if x.late.isEmpty then x else x.refill
  let s := { s with kap := more s.kap, amd := more s.amd }
  if s.launches.isEmpty then s else { s with launches := s.launches.map s.passedOver }

/-- Whether an access of an agent to a range is still to be served: it waits for its walk, or some part of an operation on the range is not
done. -/
def State.toServe (s : State) (va len : Nat) (a : AgentId) : Bool :=
  let waits (st : Stall) : Bool := st == .memory || st == .fetch
  (s.agentOps a).any (fun o => o.reqs.any fun r => !r.done && within va len r.va) || match s.actorOf a with
    | some (.wave _ w sp) => w.status == .running && waits sp.stall
    | some (.par _ r) => r.status == .running && waits r.stall
    | none => false

/-- The pages whose waiting accesses have all been served: their moves are complete, and their counters start again at zero (R132, R133;
log entry 12). -/
def State.movesServed (s : State) : State :=
  let open_ (x : Settling) : Bool := x.agents.any (s.toServe x.va x.size) || s.hostHeld.any fun h => h.ctx == x.ctx && within x.va x.size h.va
  if s.settling.all open_ then s else
  (s.settling.filter fun x => !open_ x).foldl (fun (s : State) x => s.resetCounts x.ctx x.va) { s with settling := s.settling.filter open_ }

/-- What a step leaves to be done at once. -/
def State.tidy (s : State) : State :=
  let s := s.holders.foldl (fun (s : State) a => s.retireAll a ((s.agentOps a).length)) s
  let s := s.pathsRead.wakeYields
  let s := s.waves.foldl State.endStep s
  let s := s.retestBars
  let s := s.waves.foldl State.endTrace s
  let s := s.waves.foldl State.freeWave s
  let s := s.pars.foldl (fun (s : State) e => if e.2.mode = .blown then s.resolveReform e.1 else s) s
  let s := s.pars.foldl State.endBlown s
  let s := s.pars.foldl State.freePar s
  let s := s.endBlocks.flushAll
  let s := s.ctxs.foldl (fun (s : State) c => if c.faults.isEmpty then s else s.writeFault ((s.ctx c.num).getD c)) s
  let s := s.ctxs.foldl (fun (s : State) c => s.payRings c.num (c.dbg.owedS.length + c.dbg.owedT.length)) s
  (s.dropFlaws.nameStalls.attend.movesServed.purgeWalks.purgeFar .kapael).purgeFar .amdukor

end Sys2Proof.Machine
end

