-- ==== Sys2Proof/Machine/Trap.lean ====
section
/-! DEFINITION. Firmware's event queue, the delivery of traps, the return from a handler, and the sampling profiler (R313, R314,
R328, R342 to R344, R360). -/

namespace Sys2Proof.Machine

/-! ## Taking an event (R328) -/

/-- What a trap event is about, when it still stands stopped with a cause that a handler treats: PIPELINE and ECC are treated
by rollback (R343, R365). -/
def State.trapTarget (s : State) : FwEvent → Option (Bound × QueueRef × List CauseRec × List Op)
  | .trap w ctx q => match look w s.waves with
    | some x => if x.status = .stopped && !x.causes.isEmpty && !x.causes.any softCause then some (.wave w, ⟨ctx, q⟩, x.causes, x.ops) else none
    | none => none
  | .trapPar p ctx q => match look p s.pars with
    | some r => if r.status = .stopped && !r.causes.isEmpty && !r.causes.any softCause then some (.par p, ⟨ctx, q⟩, r.causes, r.ops) else none
    | none => none
  | _ => none

/-- Whether an event can be run now: its queue's lock is free, and what it is about has completed its stop. -/
def State.eventRuns (s : State) (e : FwEvent) : Bool :=
  let free (q : QueueRef) : Bool := !((s.queue (some q)).map (·.locked)).getD false
  match e with
  | .doorbell q => free q
  | .mgmtDoorbell => true
  | .retrySave _ _ => false
  | e => match s.trapTarget e with
    | some (b, q, _, ops) => free q && settled ops && !s.windowOn b
    | none => true

/-- FIRMWARE_EVENT_TAKE (R328): an idle core takes the oldest event that can be run: a doorbell's packets are read from then
on, and the core's window is bound to a wave or parison that has stopped, under its queue's lock. -/
def execFirmwareEventTake (d : Die) (core : Nat) (s : State) : Out :=
  let x := s.die d
  if (s.fwCore d core).busy || decide (12 ≤ core) then .next s else
  match x.events.find? s.eventRuns with
  | none => .next s
  | some e =>
    let s := s.setDie d { x with events := x.events.erase e }.refill
    match e with
    | .doorbell q => .next (s.onQueue (some q) fun q => { q with bell := true })
    | .mgmtDoorbell => .next (s.onQueue none fun q => { q with bell := true })
    | e => match s.trapTarget e with
      | some (b, q, _, _) =>
        .next ((s.putFw d core { busy := true, window := b }).lockQueue (some q) true)
      | none => .next s

/-! ## After a handler (R314, R342) -/

/-- The handler on a core ends: its window and its queue's lock are free. -/
def State.handlerEnds (s : State) (d : Die) (core : Nat) : State :=
  (s.lockQueue (s.boundQueue (s.fwCore d core).window) false).freeFw d core

/-- What a handler hands back is to resume: with causes pending it stops again for the next; with a stop asked for it stays
stopped; else it goes on. -/
def State.resumeBound (s : State) : Bound → State
  | .none => s
  | .wave w => match look w s.waves with
    | none => s
    | some x =>
      if !x.causes.isEmpty then s.pushEvent w.die (.trap w x.ctx (s.queueOfBlock x.block))
      else if !x.stopWhy.isEmpty then s
      else { s with waves := put w x.resume s.waves }
  | .par p => match look p s.pars with
    | none => s
    | some r =>
      if !r.causes.isEmpty then s.pushEvent p.die (.trapPar p r.ctx (s.queueOfBlock (some r.block)))
      else if !r.stopWhy.isEmpty then s
      else s.setPar p r.resume

/-- A wave or parison held for the debugger. -/
def State.holdBound (s : State) : Bound → State
  | .none => s
  | .wave w => match look w s.waves with
    | some x => { s with waves := put w { x with status := .held } s.waves }
    | none => s
  | .par p => match look p s.pars with
    | some r => s.setPar p { r with status := .held }
    | none => s

/-- The causes of what a window is bound to, and the state with others. -/
def State.boundCauses (s : State) : Bound → List CauseRec
  | .none => []
  | .wave w => ((look w s.waves).map (·.causes)).getD []
  | .par p => ((look p s.pars).map (·.causes)).getD []
@[inherit_doc State.boundCauses] def State.setBoundCauses (s : State) (b : Bound) (cs : List CauseRec) : State :=
  match b with
  | .none => s
  | .wave w => match look w s.waves with
    | some x => { s with waves := put w { x with causes := cs } s.waves }
    | none => s
  | .par p => match look p s.pars with
    | some r => s.setPar p { r with causes := cs }
    | none => s

/-! ## The standard handler (R343) -/

/-- TRAP_DELIVER (R342, R343): the handler on a core treats the first pending cause of what its window is bound to, and
returns. -/
def execTrapDeliver (d : Die) (core : Nat) (s : State) : Out :=
  let f := s.fwCore d core
  let b := f.window
  if !f.busy || b = .none then .next s else
  match delivery (s.boundCauses b), s.boundCtx b with
  | c :: _, some cx =>
    let dbg := ((s.ctx cx).map (·.dbg)).getD {}
    let hold := match c.cause with
      | .step | .halt => true
      | .bkpt => dbg.enable
      | _ => dbg.faultHold
    let s1 := s.setBoundCauses b ((s.boundCauses b).erase c)
    if c.cause = .bkpt && !dbg.enable then .next ((s1.resumeBound b).handlerEnds d core)
    else
      let s1 := s1.faultEntry cx d 3 { c with held := hold }.bytes
      if hold then .next ((s1.holdBound b).handlerEnds d core)
      else .next ((s1.handlerEnds d core).endContext cx 15)
  | _, _ => .next (s.handlerEnds d core)

/-! ## TRET (R314) -/

/-- What TRET does to what the window is bound to. -/
def State.tret (s : State) (d : Die) (core : Nat) (action status : Nat) : State :=
  let b := (s.fwCore d core).window
  match action with
  | 0 => (s.resumeBound b).handlerEnds d core
  | 1 => s.endsBound d core
  | _ => match s.boundCtx b with
    | some cx => (s.handlerEnds d core).endContext cx status
    | none => s.handlerEnds d core

/-- TRET (R314). -/
def execTret (x : GForm) (s : State) : Out :=
  let f := Instr.form (.tret x)
  runInstr f
    { wave := fun s a w sp =>
        match lowest (w.exec sp f), a with
        | none, _ => s.finishWave a (w.release f.lastReads) sp f
        | some l, .firmware d n =>
          let i := w.operands (s.formFile (coreOf a)) f l
          let action := Word.bits i.a0 1 0
          if action = 3 then s.raise (.wave a w sp) .illegal .window
          else s.tret d n action (Word.bits i.b0 15 0)
        | some _, _ => s
      par := fun s _ _ => s } s

/-! ## The sampling profiler (R360) -/

/-- The code of a stall reason. -/
def Stall.code : Stall → Nat
  | .issued => 0
  | .idle => 1
  | .other => 2
  | .fetch => 3
  | .count => 4
  | .lookahead => 5
  | .port => 6
  | .decision => 7
  | .catchup => 8
  | .memory => 9
  | .wsrefresh => 10
  | .fence => 11
  | .barrier => 12
  | .yield => 13
  | .waitv => 14
  | .token => 15
  | .object => 16
  | .engine => 17
  | .matrix => 18
  | .slot => 19
  | .fill => 20
  | .parked => 21
  | .stopped => 22
  | .held => 23

/-- The waves resident on a partition, by slot. -/
def State.onPart (s : State) (c : CoreRef) (part : Nat) : List (WaveId × Wave) :=
  (List.range 16).filterMap fun k =>
    let id : WaveId := ⟨c.die, c.core, part, k⟩
    (look id s.waves).map fun w => (id, w)

/-- The split a sample is about, and its stall reason: the first split that has a slot. -/
def State.sampleStall (s : State) (id : WaveId) (w : Wave) : Option Split × Stall :=
  match (List.range 4).find? fun k => (nth w.slots k none).isSome with
  | some k =>
    let sp := (nth w.slots k none).getD {}
    let why := match w.status with
      | .running => if sp.stall = .issued && s.splitReady id w k && nth (s.core ⟨id.die, id.core⟩).run id.part none != some (id.slot, k)
          then .other else sp.stall
      | .held => .held
      | _ => .stopped
    (some sp, why)
  | none => (w.splits.head?, match w.splits with
    | sp :: _ => if sp.deferred then .held else .parked
    | [] => .idle)

/-- The 16 bytes of a sample of a context. -/
def State.sampleBytes (s : State) (ctx : Nat) (c : CoreRef) (part : Nat) (e : Option (WaveId × Wave)) : List Byte :=
  let tail : List Byte := [BitVec.ofNat 8 part, BitVec.ofNat 8 c.core, match c.die with | .kapael => 0 | .amdukor => 1]
    ++ bytesOf 2 (s.die c.die).cycle.toNat
  let code (why : Stall) : Nat := why.code + if why = .issued then 32 else 0
  match e with
  | none => List.replicate 10 0 ++ [1] ++ tail
  | some (id, w) =>
    if w.ctx != ctx then List.replicate 10 0 ++ [BitVec.ofNat 8 (code (s.sampleStall id w).2 + 64)] ++ tail else
    let (sp, why) := s.sampleStall id w
    let sp := sp.getD {}
    bytesOf 4 sp.pos.ord ++ bytesOf 4 (if sp.pos.inside then sp.pos.pc else sp.pos.hofs) ++ bytesOf 2 w.image
      ++ [BitVec.ofNat 8 (code why)] ++ tail

/-- PROFILE_SAMPLE (R360): a partition writes a sample for each context with SAMPLE on that runs on its core, at each 2^k
clocks; the wave is taken in rotation by slot. -/
def execProfileSample (c : CoreRef) (part : Nat) (s : State) : Out :=
  let m := s.core c
  let now := (s.die c.die).cycle.toNat
  let last := nth m.sampled part 0
  let due := s.ctxs.filter fun x => x.dbg.sample && now / 2 ^ x.dbg.k != last / 2 ^ x.dbg.k
    && s.blocks.any fun e => decide (e.1.die = c.die) && e.1.core == c.core && e.2.ctx == x.num
  if due.isEmpty || decide (8 ≤ part) then .next s else
  let ws := s.onPart c part
  let from_ := nth m.rotate part 0
  let e := (ws.find? fun e => decide (from_ ≤ e.1.slot)) <|> ws.head?
  let next := match e with
    | some (id, _) => (id.slot + 1) % 16
    | none => from_
  let s := s.putCore c { m with rotate := m.rotate.set part next, sampled := m.sampled.set part now }
  .next (due.foldl (fun (s : State) x => s.samplePut c.die x.num (s.sampleBytes x.num c part e)) s)

end Sys2Proof.Machine
end

