-- ==== Sys2Proof/Machine/Debug.lean ====
section
/-! DEFINITION. The DEBUG service (R337, R338, R353, R357 to R359). -/

namespace Sys2Proof.Machine

/-! ## The service (R357) -/

/-- The operation code of a DEBUG packet. -/
def debugOp (p : Packet) : Nat := Word.bits (p.word 1) 7 0

/-- A DEBUG operation with so many argument words; every one but SET needs debug to be enabled. -/
def State.debugService (s : State) (p : Packet) (op args : Nat) (act : State → Context → SvcRes) : Out :=
  if svcCode p ≠ 0x0C ∨ debugOp p ≠ op then .next s else
  s.service p (p.len == 2 + args && Word.bits (p.word 1) 31 8 == 0) fun s => match s.ctx (svcCtx p) with
    | none => .done s 1
    | some c => if op != 1 && !c.dbg.enable then .done s 8 else act s c

/-- What an id of R357 names: a wave, or a parison by bit 31 and its table entry. -/
def debugName (n : Nat) : Option (WaveId ⊕ ParId) :=
  let die : Die := if Nat.testBit n 24 then .amdukor else .kapael
  let core := n / 2 ^ 16 % 256
  if Nat.testBit n 31 then
    (if n % 2 ^ 16 / 64 = 0 ∧ n / 2 ^ 25 % 64 = 0 then some (.inr ⟨die, core, n % 64⟩) else none)
  else if n / 2 ^ 25 = 0 ∧ n / 2 ^ 11 % 32 = 0 ∧ n / 16 % 16 = 0 then some (.inl ⟨die, core, n / 256 % 8, n % 16⟩)
  else none

/-- A held wave or parison of a context that an id names. -/
inductive Held
  | wave (id : WaveId) (w : Wave)
  | par (id : ParId) (r : Parison)

/-- What is held under an id. -/
def State.heldBy (s : State) (ctx n : Nat) : Option Held :=
  match debugName n with
  | some (.inl id) => (look id s.waves).bind fun w => if w.ctx = ctx ∧ w.status = .held then some (.wave id w) else none
  | some (.inr id) => (look id s.pars).bind fun r => if r.ctx = ctx ∧ r.status = .held ∧ r.mode ≠ .ended then some (.par id r) else none
  | none => none

/-! ## SET and breakpoints (R357, R358) -/

/-- DEBUG_SET (R357): the flags and the rings; waves start their traces afresh. A packet whose code names no operation completes
BAD_DESC. -/
def execDebugSet (p : Packet) (s : State) : Out :=
  if svcCode p ≠ 0x0C then .next s
  else if debugOp p = 0 ∨ 9 < debugOp p then s.service p (decide (2 ≤ p.len) && Word.bits (p.word 1) 31 8 == 0) fun s => .done s 1
  else s.debugService p 1 7 fun s c =>
    let f := p.word 2
    let k := Word.bits f 7 3
    if Word.bits f 31 9 != 0 || (Word.bit f 2 && (decide (k < 6) || decide (20 < k))) then .done s 1 else
    let s := s.putCtx { c with dbg := { c.dbg with
      enable := Word.bit f 0, faultHold := Word.bit f 1, sample := Word.bit f 2, k := k, trace := Word.bit f 8
      sampleVa := p.dword 3, sampleBytes := (p.word 5).toNat, traceVa := p.dword 6, traceBytes := (p.word 8).toNat, traceLost := 0 } }
    .done { s with waves := s.waves.map fun (e : WaveId × Wave) => if e.2.ctx = c.num then (e.1, { e.2 with synced := false }) else e } 0

/-- DEBUG_BKSET (R358): a breakpoint in a slot. -/
def execDebugBkset (p : Packet) (s : State) : Out :=
  s.debugService p 2 2 fun s c =>
    let a := p.word 2
    let slot := Word.bits a 19 16
    if Word.bits a 31 20 != 0 then .done s 1 else
    let b : Breakpoint := { slot := slot, image := Word.bits a 15 0, ord := (p.word 3).toNat }
    .done (s.putCtx { c with dbg := { c.dbg with breaks := (c.dbg.breaks.filter fun x => x.slot != slot) ++ [b] } }) 0

/-- DEBUG_BKCLR (R357): the breakpoint of a slot cleared. -/
def execDebugBkclr (p : Packet) (s : State) : Out :=
  s.debugService p 3 1 fun s c =>
    let slot := (p.word 2).toNat
    if 15 < slot then .done s 1
    else .done (s.putCtx { c with dbg := { c.dbg with breaks := c.dbg.breaks.filter fun x => x.slot != slot } }) 0

/-! ## HALT and RESUME (R337, R338, R357) -/

/-- A wave stopped for the debugger: HALT is its cause. -/
def State.haltWave (s : State) (id : WaveId) : State :=
  match look id s.waves with
  | none => s
  | some w =>
    if w.status = .ended ∨ w.status = .held then s else
    let k := ((List.range 4).find? fun k => (nth w.slots k none).isSome).getD 0
    let sp := ((nth w.slots k none) <|> w.pend.head?).getD {}
    let c := (Actor.wave (.wave id k) w sp).record .halt .none sp.act 0 0
    let w := { w with causes := addCause w.causes c }
    let w := if w.status = .running then w.stop (s.image w.ctx w.image) else w
    ({ s with waves := put id w s.waves }).pushEvent id.die (.trap id w.ctx (s.queueOfBlock w.block))

/-- A parison stopped for the debugger: one that stands stopped has HALT as its cause at once. -/
def State.haltPar (s : State) (p : ParId) : State :=
  match look p s.pars with
  | none => s
  | some r =>
    if r.mode = .ended ∨ r.status = .held then s
    else if r.status = .running then s.askPar p .halt
    else s.stopPar p { r with stopWhy := addWhy r.stopWhy .halt }

/-- A saved block whose waves and parisons come back held. -/
def Saved.hold (v : Saved) : Saved :=
  { v with waves := v.waves.map fun (e : WaveId × Wave) => (e.1, { e.2 with status := .held })
           pars := v.pars.map fun (e : ParId × Parison) => if e.2.mode = .ended then e else (e.1, { e.2 with status := .held }) }

/-- DEBUG_HALT (R357): every wave and parison of the context stops with cause HALT. -/
def execDebugHalt (p : Packet) (s : State) : Out :=
  s.debugService p 4 0 fun s c =>
    let s := (s.waves.filter fun e => e.2.ctx == c.num).foldl (fun (s : State) e => s.haltWave e.1) s
    let s := (s.pars.filter fun e => e.2.ctx == c.num).foldl (fun (s : State) e => s.haltPar e.1) s
    .done { s with saved := s.saved.map fun (v : Saved) => if v.blk.ctx = c.num then v.hold else v } 0

/-- Whether a block is being stopped, so that its work does not go on now. -/
def State.blockStops (s : State) (b : Option BlockRef) : Bool :=
  match b.bind s.blockOf with
  | some x => x.stopped || ((s.ctx x.ctx).map Context.quiesced).getD false
  | none => false

/-- A wave without DEFERRED marks. -/
def Wave.undefer (w : Wave) : Wave :=
  let go (sp : Split) : Split := { sp with deferred := false }
  { w with slots := w.slots.map fun (o : Option Split) => o.map go, pend := w.pend.map go }.fill

/-- What is held goes on; when its block is being stopped it counts as stopped, and with causes pending it stops again for the
next (R342). -/
def State.releaseHeld (s : State) : Held → State
  | .wave id w =>
    let w := w.undefer
    let stop := { s with waves := put id { w with status := .stopped } s.waves }
    if !w.causes.isEmpty then stop.pushEvent id.die (.trap id w.ctx (s.queueOfBlock w.block))
    else if s.blockStops w.block then stop else { s with waves := put id w.resume s.waves }
  | .par p r =>
    let stop := s.setPar p { r with status := .stopped }
    if !r.causes.isEmpty then stop.pushEvent p.die (.trapPar p r.ctx (s.queueOfBlock (some r.block)))
    else if s.blockStops (some r.block) then stop else s.setPar p r.resume

/-- A saved block whose held waves and parisons go on when it comes back. -/
def Saved.release (v : Saved) : Saved :=
  { v with waves := v.waves.map fun (e : WaveId × Wave) => if e.2.status = .held then (e.1, { e.2.undefer with status := .stopped }) else e
           pars := v.pars.map fun (e : ParId × Parison) => if e.2.status = .held then (e.1, { e.2 with status := .stopped }) else e }

/-- Everything of a context that is held. -/
def State.allHeld (s : State) (ctx : Nat) : List Held :=
  ((s.waves.filter fun e => e.2.ctx == ctx && e.2.status == .held).map fun e => Held.wave e.1 e.2)
    ++ (s.pars.filter fun e => e.2.ctx == ctx && e.2.status == .held && e.2.mode != .ended).map fun e => Held.par e.1 e.2

/-- DEBUG_RESUME (R357, R359): what is held goes on, and DEFERRED marks are cleared. -/
def execDebugResume (p : Packet) (s : State) : Out :=
  s.debugService p 5 1 fun s c =>
    let id := (p.word 2).toNat
    if id = 0xFFFFFFFF then
      let s := (s.allHeld c.num).foldl State.releaseHeld s
      .done { s with saved := s.saved.map fun (v : Saved) => if v.blk.ctx = c.num then v.release else v } 0
    else match s.heldBy c.num id with
      | none => .done s 1
      | some h => .done (s.releaseHeld h) 0

/-! ## STEP (R359) -/

/-- A wave divided for a lane-focus step: the lane alone has a slot and runs, every other split and the rest of the lane's own
are DEFERRED. -/
def Wave.focus (w : Wave) (l : Nat) : Option Wave :=
  match w.splits.find? fun sp => sp.act.getLsbD l with
  | none => none
  | some sp =>
    let bit := BitVec.twoPow 32 l
    let late (x : Split) : Split := { x with deferred := true }
    let others (o : Option Split) : Option Split := match o with
      | some x => if x.act.getLsbD l then none else some (late x)
      | none => none
    let mine : Split := { sp with act := bit, deferred := false, stepOff := !sp.precise, stall := .issued }
    let rest := if sp.act &&& ~~~bit = 0 then [] else [{ late sp with act := sp.act &&& ~~~bit }]
    let slots := w.slots.map others
    let pend := (w.pend.filter fun x => !x.act.getLsbD l).map late
    let w := { w with stepLane := some l }
    if sp.parked.isSome then some { w with slots := slots, pend := mine :: rest ++ pend }
    else
      let k := ((List.range 4).find? fun k => (nth w.slots k none) == some sp) <|> ((List.range 4).find? fun k => (nth slots k none).isNone)
      match k with
      | some k => some { w with slots := slots.set k (some mine), pend := rest ++ pend, stepSlot := k }
      | none =>
        some { w with slots := slots.set 0 (some mine), pend := (nth slots 0 none).toList ++ rest ++ pend, stepSlot := 0 }

/-- DEBUG_STEP (R359): a lane of a held wave runs on alone. A lane that is inactive, has exited or is a helper is refused. -/
def execDebugStep (p : Packet) (s : State) : Out :=
  s.debugService p 6 2 fun s c =>
    let l := (p.word 3).toNat
    match s.heldBy c.num (p.word 2).toNat with
    | some (.wave id w) =>
      if s.blockStops w.block then .wait s
      else if 31 < l || w.helper.getLsbD l || !w.live.getLsbD l then .done s 1
      else match w.rejoinAll.focus l with
        | none => .done s 1
        | some w =>
          let go (o : Option Split) : Option Split := o.map fun (sp : Split) => { sp with precise := sp.precise && sp.deferred }
          .done { s with waves := put id { w with status := .running, stopWhy := [], slots := w.slots.map go } s.waves } 0
    | _ => .done s 1

/-! ## DUMP, LOAD and KILL (R348 to R350, R353, R357) -/

/-- The record of what is held. -/
def State.heldRecord (s : State) : Held → List Byte
  | .wave id w =>
    let plink := match w.par, w.block with
      | some q, some b => placeIn (s.parsIn b) q
      | _, _ => 0
    { w.saved (s.formFile ⟨id.die, id.core⟩) with status := .held }.bytes plink
  | .par q r =>
    let l := s.parsIn r.block
    r.saved.bytes (placeIn l q) (fun e => l.findIdx fun x => x.1.entry == e) (s.formFile ⟨q.die, q.core⟩)

/-- DEBUG_DUMP (R357): the record of a held wave or parison written to a buffer that holds it. -/
def execDebugDump (p : Packet) (s : State) : Out :=
  s.debugService p 7 4 fun s c =>
    match s.heldBy c.num (p.word 2).toNat with
    | none => .done s 1
    | some h =>
      let b := s.heldRecord h
      if (p.word 5).toNat < b.length then .done s 1 else
      match s.fwWrite ⟨c.resident, .queue none⟩ c.num .store (p.dword 3) b with
      | .ok s => .done s 0
      | .wait s => .wait s
      | .bad s _ _ => .done s 1

/-- The position of a word offset within the clauses that follow a region's entry. -/
def State.clausePos (s : State) (d : Die) (ctx : Nat) (im : Image) (p : Pos) : Nat → Nat → FwRes Pos
  | 0, _ => .bad s .none 0
  | n + 1, h =>
    if im.codew ≤ h ∨ p.pc ≤ h then .bad s .none 0 else
    match s.fwRead ⟨d, .queue none⟩ ctx .fetch (im.va + 128 + 4 * h) 4 with
    | .wait s => .wait s
    | .bad s sub va => .bad s sub va
    | .ok (_, b) =>
      let w : Word := BitVec.ofNat 32 (natOf b)
      if p.pc ≤ h + hdrN w then .ok { p with hofs := h, hdr := w, inside := true }
      else State.clausePos s d ctx im p n (h + 1 + hdrN w)

/-- A precise split's position found in its clause. -/
def State.placePrecise (s : State) (d : Die) (ctx : Nat) (im : Image) (sp : Split) : FwRes Split :=
  if !sp.precise then .ok sp else
  match s.clausePos d ctx im sp.pos 4096 ((headerOf im sp.pos.ord).getD 0) with
  | .ok p => .ok { sp with pos := p }
  | .wait s => .wait s
  | .bad s sub va => .bad s sub va

/-- The positions of all precise splits of a list found. -/
def State.placeAll (s : State) (d : Die) (ctx : Nat) (im : Image) : List (Option Split) → FwRes (List (Option Split))
  | [] => .ok []
  | none :: t => match State.placeAll s d ctx im t with
    | .ok l => .ok (none :: l)
    | r => r
  | some sp :: t => match s.placePrecise d ctx im sp with
    | .ok sp => (match State.placeAll s d ctx im t with
      | .ok l => .ok (some sp :: l)
      | r => r)
    | .wait s => .wait s
    | .bad s sub va => .bad s sub va

/-- DEBUG_LOAD (R353, R357): a held wave takes the state of a record; an inconsistent one, or one whose names do not fit the
allotment, is refused. -/
def execDebugLoad (p : Packet) (s : State) : Out :=
  s.debugService p 8 3 fun s c =>
    match s.heldBy c.num (p.word 2).toNat with
    | some (.wave id w) =>
      let d := c.resident
      let va := p.dword 3
      (match s.fwRead ⟨d, .queue none⟩ c.num .load va 8 with
       | .wait s => .wait s
       | .bad s _ _ => .done s 1
       | .ok (s, h) =>
         let len := fieldOf h 4 4
         if len < 512 || decide (9648 < len) then .done s 1 else
         match s.fwRead ⟨d, .queue none⟩ c.num .load va len with
         | .wait s => .wait s
         | .bad s _ _ => .done s 1
         | .ok (s, b) => match s.image c.num (fieldOf b 8 2) with
           | none => .done s 1
           | some im =>
             if waveBad im b w.allot then .done s 1 else
             let w := w.load b
             match s.placeAll d c.num im (w.slots ++ w.pend.map some) with
             | .wait s => .wait s
             | .bad s _ _ => .done s 1
             | .ok l => .done { s with waves := put id { w with slots := l.take 4, pend := (l.drop 4).filterMap fun o => o } s.waves } 0)
    | _ => .done s 1

/-- DEBUG_KILL (R208, R357): every lane of a held wave exits; a held parison ends. -/
def execDebugKill (p : Packet) (s : State) : Out :=
  s.debugService p 9 1 fun s c =>
    match s.heldBy c.num (p.word 2).toNat with
    | some (.wave id _) => .done (s.endBound (.wave id)) 0
    | some (.par q _) => .done (s.endBound (.par q)) 0
    | none => .done s 1

end Sys2Proof.Machine
end

