-- ==== Sys2Proof/Machine/Lehr.lean ====
section
/-! DEFINITION. The lehr (R117, R118, R194 to R200): FINALISE parses a frit container, checks it, packs its instructions into clauses
and writes the finalised image. -/

namespace Sys2Proof.Machine

/-! ## The container (R194 to R196) -/

/-- An instruction of a frit image: its word offset, its words and its form. -/
structure FritIns where
  wofs : Nat
  ws : List Word
  f : Form
  deriving DecidableEq, Repr

/-- A region record (R195). -/
structure Region where
  wofs : Nat
  vlive : Nat
  slive : Nat
  plive : Nat
  deriving DecidableEq, Repr

/-- A frit image whose container is right. -/
structure Frit where
  kind : Nat
  code : List Word
  regions : List Region
  entries : List (List Byte)
  data : List Byte
  deriving DecidableEq, Repr

/-- What a reject reports (R200): the reason and the frit word offset. -/
abbrev Rejected := LehrReason × Nat

/-- The counts of a frit header: CODEW, NREG, NENT, DATAB. -/
def fritCounts (h : List Byte) : Nat × Nat × Nat × Nat := (fieldOf h 24 4, fieldOf h 28 4, fieldOf h 32 4, fieldOf h 36 4)

/-- Where the padding before the data starts, and where the data starts. -/
def fritEnds (h : List Byte) : Nat × Nat :=
  let (cw, nr, ne, _) := fritCounts h
  let e := 64 + 4 * cw + 24 * nr + 48 * ne
  (e, (e + 63) / 64 * 64)

/-- The bytes of the whole image (R194). -/
def fritSize (h : List Byte) : Nat := (fritEnds h).2 + (fritCounts h).2.2.2

/-- Whether the 64 bytes are the header of a frit image. -/
def fritHeaderOk (h : List Byte) : Bool :=
  fieldOf h 0 4 == 0x54495246 && fieldOf h 4 2 == 1 && decide (fieldOf h 6 1 ≤ 1) && fieldOf h 7 1 == 0 && fieldOf h 40 24 == 0

/-- A region record from its bytes (R195). -/
def regionOf (r : List Byte) : Region :=
  { wofs := fieldOf r 0 4, vlive := fieldOf r 4 8, slive := fieldOf r 12 8, plive := fieldOf r 20 3 }

/-- Whether an entry record's reserved bytes and codes are right (R196); one with KINDE above 1 or MIDX above 3 is rejected as CONTAINER
(DESIGN CHOICE: R200 names no reason for it, log entry 94). -/
def entryBytesOk (e : List Byte) : Bool :=
  fieldOf e 16 2 == 0 && decide (fieldOf e 18 1 ≤ 1) && decide (fieldOf e 19 1 ≤ 3) && fieldOf e 28 4 == 0

/-- The parts of a frit image whose header has been found right (R194). -/
def fritOf (b : List Byte) : Except Rejected Frit :=
  let (cw, nr, ne, _) := fritCounts b
  let (pad, dat) := fritEnds b
  let regs := (List.range nr).map fun i => slice b (64 + 4 * cw + 24 * i) 24
  let ents := (List.range ne).map fun i => slice b (64 + 4 * cw + 24 * nr + 48 * i) 48
  if regs.any (fun r => fieldOf r 23 1 != 0) || !ents.all entryBytesOk || fieldOf b pad (dat - pad) != 0 then .error (.container, 0)
  else .ok { kind := fieldOf b 6 1, code := wordsOf (slice b 64 (4 * cw)), regions := regs.map regionOf, entries := ents, data := b.drop dat }

/-! ## Decoding (R200: DECODE, SCHED_BITS, CONTEXT, METHOD) -/

/-- Whether a form carries a lookahead or a last read. -/
def schedBits (f : Form) : Bool :=
  f.guard.2.2 != 0 || match f with
    | .g _ x => x.lra || x.lrb || (x.w1.map (·.lrc)).getD false
    | .i _ x => x.lra || x.lrb
    | .m _ x => x.lra || x.lrb
    | .v _ x => x.lra || x.lrb
    | _ => false

/-- Whether a plain access has a scope (R79). -/
def plainScope (f : Form) : Bool :=
  match f with
  | .m o x => o != 0x86 && x.ord == 0 && x.scope != 0
  | .v _ x => x.ord == 0 && x.scope != 0
  | _ => false

/-- The instructions a method is made of (R118). -/
def methodOpc (o : Nat) : Bool :=
  o == 0x01 || (decide (0x10 ≤ o) && decide (o ≤ 0x35)) || o == 0x40 || (decide (0x43 ≤ o) && decide (o ≤ 0x47))
    || (decide (0x50 ≤ o) && decide (o ≤ 0x55)) || o == 0x70 || (decide (0x98 ≤ o) && decide (o ≤ 0x9B))

/-- Whether a method names a register that a combiner wave lacks (R117). -/
def methodNames (f : Form) : Bool :=
  (f.vreads ++ f.vwrites).any (fun n => decide (32 ≤ n)) || (f.sreads ++ f.swrites).any (fun n => decide (16 ≤ n))
    || f.predNames.any (fun n => decide (8 ≤ n) && n != 24) || f.pats != (0, 0, 0)

/-- The checks of one decoded instruction (R200). -/
def insReject (kind : Nat) (f : Form) : Option LehrReason :=
  if (decide (0xE2 ≤ f.opc) && decide (f.opc ≤ 0xE4)) || f.badGuard || f.badName || f.badPattern || plainScope f then some .decode
  else if schedBits f then some .schedBits
  else if kind = 0 && decide (0x98 ≤ f.opc) && decide (f.opc ≤ 0x9B) then some .context
  else if kind = 1 && !methodOpc f.opc then some .context
  else if kind = 1 && methodNames f then some .method
  else none

/-- The instructions of a frit image's code, one after another. -/
def fritIns (kind : Nat) : Nat → List Word → Nat → Except Rejected (List FritIns)
  | 0, _, _ => .ok []
  | _, [], _ => .ok []
  | n + 1, w :: t, ofs =>
    let two := wOf w
    if two && t.isEmpty then .error (.decode, ofs) else
    let ws := if two then w :: t.take 1 else [w]
    match decode ws with
    | .error _ => .error (.decode, ofs)
    | .ok i => match insReject kind i.form with
      | some r => .error (r, ofs)
      | none => match fritIns kind n (if two then t.drop 1 else t) (ofs + ws.length) with
        | .ok l => .ok ({ wofs := ofs, ws := ws, f := i.form } :: l)
        | .error e => .error e

/-! ## Control flow -/

/-- The word offset of the instruction after one. -/
def FritIns.after (i : FritIns) : Nat := i.wofs + i.ws.length

/-- A branch's target as an offset from word 0 of the code, when it has one (R194). -/
def FritIns.target (i : FritIns) : Option Int :=
  match i.f with
  | .c o x => if o = 0x06 then none else some ((i.wofs : Int) + x.ofs.toInt)
  | _ => none

/-- Whether an instruction never goes on at the next one; lanes that a KILL makes helpers do (R209). -/
def FritIns.stops (i : FritIns) : Bool :=
  i.f.guard.1 == 24 && ([0x01, 0x02, 0x05, 0x07, 0xDD, 0x9B, 0xE4] : List Nat).contains i.f.opc

/-- Where an instruction may go on; BRX, CALLX and RET also go where no word says. -/
def FritIns.succ (i : FritIns) : List Nat :=
  (match i.target with
    | some t => [t.toNat]
    | none => []) ++ if i.stops then [] else [i.after]

/-- The instruction at a word offset. -/
def insAt (l : List FritIns) (w : Nat) : Option FritIns := l.find? fun i => i.wofs == w

/-- What can be reached by following a relation, with fuel. -/
def closure (succ : Nat → List Nat) : Nat → List Nat → List Nat → List Nat
  | 0, _, seen => seen
  | _, [], seen => seen
  | n + 1, w :: t, seen => if seen.contains w then closure succ n t seen else closure succ n (succ w ++ t) (w :: seen)

/-- Fuel enough for a closure over an image. -/
def fuelOf (l : List FritIns) (regs : List Region) : Nat := (l.length + 1) * (regs.length + 4)

/-- Where an instruction may go on, a BRX or CALLX at every safe point of the image too (R198). RET goes on after a call, where the call
itself is taken to go on. -/
def FritIns.flows (regs : List Region) (i : FritIns) : List Nat :=
  (if i.f.opc = 0x02 || i.f.opc = 0x04 then regs.map Region.wofs else []) ++ i.succ

/-- The instructions that can be reached from some offsets (R198). -/
def reachFrom (l : List FritIns) (regs : List Region) (starts : List Nat) : List FritIns :=
  let next (w : Nat) : List Nat := match insAt l w with
    | some i => i.flows regs
    | none => []
  let seen := closure next (fuelOf l regs + starts.length) starts []
  l.filter fun i => seen.contains i.wofs

/-! ## TARGET, REGION, ENTRY, UNIFORM (R158, R195, R200) -/

/-- Instructions that a region entry must begin (R195) or follow (R205, R247, R267, R276, R278). -/
def entryBefore (o : Nat) : Bool :=
  ([0x90, 0x91, 0x92, 0xB4, 0x0A, 0xA0, 0xA1, 0xA2, 0xA3, 0xA4, 0xA5] : List Nat).contains o
@[inherit_doc entryBefore] def entryAfter (o : Nat) : Bool :=
  ([0x03, 0x04, 0x72, 0x90, 0x91, 0x92, 0xA0, 0xA2, 0xA4] : List Nat).contains o

/-- Whether an offset is the start of a region. -/
def isRegion (regs : List Region) (w : Nat) : Bool := regs.any fun r => r.wofs == w

/-- The first branch whose target is no instruction's word 0. -/
def targetReject (l : List FritIns) : Option Rejected :=
  (l.find? fun i => match i.target with
    | some t => decide (t < 0) || (insAt l t.toNat).isNone
    | none => false).map fun i => (.target, i.wofs)

/-- The first region record that is out of order or stands at no instruction. -/
def recordReject (l : List FritIns) : Option Nat → List Region → Option Rejected
  | _, [] => none
  | last, r :: t =>
    if (insAt l r.wofs).isNone || (last.map fun w => decide (r.wofs ≤ w)).getD false then some (.region, r.wofs)
    else recordReject l (some r.wofs) t

/-- The first instruction that lacks a region entry it must have. -/
def regionReject (l : List FritIns) (regs : List Region) : Option Rejected :=
  (l.find? fun i => (entryBefore i.f.opc && !isRegion regs i.wofs) || (entryAfter i.f.opc && !isRegion regs i.after)).map
    fun i => (.region, i.wofs)

/-- The first entry record that starts at no region or is of the other kind. -/
def entryReject (kind : Nat) (regs : List Region) (es : List (List Byte)) : Option Rejected :=
  (es.find? fun e => fieldOf e 18 1 != kind || !isRegion regs (fieldOf e 24 4)).map fun e => (.entry, fieldOf e 24 4)

/-- Whether an instruction is of class UNI (R174). -/
def FritIns.isUni (i : FritIns) : Bool := uniClass i.f.opc i.f.ml

/-- The JOIN id of a .DIV branch (R184). -/
def FritIns.divId (i : FritIns) : Option (BitVec 16) :=
  match i.f with
  | .c o x => if (o = 0x01 ∨ o = 0x03) ∧ x.kind = 1 then some x.aux else none
  | _ => none

/-- Whether an instruction is the JOIN of an id. -/
def FritIns.isJoin (i : FritIns) (id : BitVec 16) : Bool :=
  match i.f with
  | .c o x => o == 0x06 && x.aux == id
  | _ => false

/-- Where a RET goes on: after a call of the image. -/
def FritIns.returns (l : List FritIns) (i : FritIns) : List Nat :=
  if i.f.opc = 0x05 then (l.filter fun j => j.f.opc == 0x03 || j.f.opc == 0x04).map FritIns.after else []

/-- The instructions between a .DIV branch with an id and its JOIN; a callee that returns before it goes on after its call. -/
def divided (l : List FritIns) (regs : List Region) (i : FritIns) (id : BitVec 16) : List FritIns :=
  let next (w : Nat) : List Nat := match insAt l w with
    | some j => if j.isJoin id then [] else j.flows regs ++ j.returns l
    | none => []
  let seen := closure next (fuelOf l regs + l.length * l.length) i.succ []
  l.filter fun j => seen.contains j.wofs

/-- The first UNI instruction between a .DIV branch and its JOIN (R158). -/
def uniformReject (l : List FritIns) (regs : List Region) : Option Rejected :=
  l.findSome? fun i => i.divId.bind fun id => ((divided l regs i id).find? FritIns.isUni).map fun j => (.uniform, j.wofs)

/-! ## UNDEF and REFORM (R157, R161, R200; log entry 8) -/

/-- A set of vector names as a mask. -/
def nameMask (l : List Nat) : Nat := l.foldl (fun m n => m ||| 2 ^ n) 0

/-- All vector names. -/
def allNames : Nat := 2 ^ 64 - 1

/-- A fact for each offset, with a default. -/
abbrev Facts (α : Type) := List (Nat × α)

/-- Passes over an image until nothing changes, with fuel. -/
def settleFacts {α : Type} [DecidableEq α] (pass : Facts α → Facts α) : Nat → Facts α → Facts α
  | 0, m => m
  | n + 1, m => let m' := pass m
    if m' = m then m else settleFacts pass n m'

/-- The live names of a region. -/
def vliveAt (regs : List Region) (w : Nat) : Option Nat := (regs.find? fun r => r.wofs == w).map Region.vlive

/-- The group of names written under a guard: 0 holds those written whatever the guards, a further group for each predicate and sense those
written where it has held since. -/
def guardGroup (g : Nat × Bool × Nat) : Nat := if g.1 = 24 then 0 else 1 + 2 * g.1 + if g.2.1 then 1 else 0

/-- Names of a mask put into every group. -/
def inAllGroups (names : Nat) : Nat := (List.range 49).foldl (fun m k => m ||| names <<< (64 * k)) 0

/-- The names of one group. -/
def groupNames (m k : Nat) : Nat := m >>> (64 * k) % 2 ^ 64

/-- Names written under a guard added: a write under a predicate and one under its negation make one that is sure (R157). -/
def wroteUnder (m : Nat) (g : Nat × Bool × Nat) (names : Nat) : Nat :=
  let k := guardGroup g
  if k = 0 then (if g.2.1 then m else m ||| inAllGroups names)
  else m ||| names <<< (64 * k) ||| inAllGroups (names &&& groupNames m (if g.2.1 then k - 1 else k + 1))

/-- The predicates an instruction writes. -/
def predWrites (f : Form) : List Nat :=
  (match f.use.d with
    | .p | .pT => [f.fields.1]
    | _ => []) ++ match f with
    | .g o x => if o = 0x15 ∨ o = 0x16 then (x.w1.map fun w => w.mh.toNat % 32).toList else []
    | _ => []

/-- What a written predicate leaves of what was written under it: the names that are sure. -/
def predWritten (m : Nat) (ps : List Nat) : Nat :=
  (List.range 49).foldl (fun a k => a ||| ((if k ≠ 0 ∧ ps.contains ((k - 1) / 2) then groupNames m 0 else groupNames m k) <<< (64 * k))) 0

/-- One pass of the names surely written, in the groups of their guards: an instruction gives its successors what it has and writes. After a
call the callee has written what the region's live names say, and any predicate; where a BRX or CALLX may go, those of the safe point
are written. -/
def definedPass (l : List FritIns) (regs : List Region) (m : Facts Nat) : Facts Nat :=
  let top := inAllGroups allNames
  l.foldl (fun (m : Facts Nat) (i : FritIns) =>
    let got := predWritten ((look i.wofs m).getD top) (predWrites i.f)
    let outs := wroteUnder got i.f.guard (nameMask i.f.vwrites &&& allNames)
    let call := i.f.opc == 0x03 || i.f.opc == 0x04
    (i.flows regs).foldl (fun (m : Facts Nat) w =>
      let far := (call && w == i.after) || !i.succ.contains w
      let outs := if far then predWritten outs (List.range 24) ||| inAllGroups (((vliveAt regs w).getD allNames) &&& allNames) else outs
      put w ((look w m).getD top &&& outs) m) m) m

/-- The names an instruction is sure to read: of an OCALL's arguments the object decides how many (R268). -/
def sureReads (f : Form) : List Nat :=
  match f with
  | .v 0x92 x => FK.v2.vnames x.a.toNat
  | f => f.vreads

/-- The first reached instruction that may read an UNDEF name; one under a guard reads where the guard holds, and one under the negation of PT
reads nothing. A role starts with every name UNDEF (R188), a method with none (R117). -/
def undefReject (kind : Nat) (l : List FritIns) (regs : List Region) (starts : List Nat) : Option Rejected :=
  let seed : Facts Nat := if kind = 0 then starts.map fun w => (w, 0) else []
  let m := settleFacts (definedPass l regs) (64 * 49 * l.length + 1) seed
  ((reachFrom l regs starts).find? fun i =>
    let has := groupNames ((look i.wofs m).getD (inAllGroups allNames)) (guardGroup i.f.guard)
    !(i.f.guard.1 == 24 && i.f.guard.2.1) && (sureReads i.f).any fun n => !has.testBit n).map fun i => (.undef, i.wofs)

/-- One pass of the names that may be in physical registers: what any instruction but a UNI one writes, since a form file that is full makes
it blow the parison, whatever its sources (R152); a UNI instruction's result is a form. REFORM releases them; RET passes them to every
place a call returns to. -/
def physPass (l : List FritIns) (regs : List Region) (m : Facts Nat) : Facts Nat :=
  l.foldl (fun (m : Facts Nat) (i : FritIns) =>
    let got := (look i.wofs m).getD 0
    let names := nameMask i.f.vwrites &&& allNames
    let outs :=
      if i.f.opc = 0x09 then 0
      else if i.isUni then (if i.f.guard.1 = 24 ∧ i.f.guard.2.1 = false then got - (got &&& names) else got)
      else got ||| names
    (i.flows regs ++ i.returns l).foldl (fun (m : Facts Nat) w => put w ((look w m).getD 0 ||| outs) m) m) m

/-- The names live before an instruction, from those live before its successors. -/
def liveBefore (regs : List Region) (m : Facts Nat) (i : FritIns) : Nat × Nat :=
  let o := i.f.opc
  let every := regs.foldl (fun a r => a ||| r.vlive) 0
  let next := i.succ.foldl (fun a w => a ||| ((vliveAt regs w).getD ((look w m).getD 0))) 0
  let next := if o = 0x02 || o = 0x04 || o = 0x05 then next ||| every else next
  let keep := if i.f.guard.1 = 24 then allNames - (nameMask i.f.vwrites &&& allNames) else allNames
  ((next &&& keep) ||| nameMask i.f.vreads, next)

/-- One pass of liveness, from the last instruction to the first. -/
def livePass (l : List FritIns) (regs : List Region) (m : Facts Nat) : Facts Nat :=
  l.reverse.foldl (fun (m : Facts Nat) (i : FritIns) => put i.wofs (liveBefore regs m i).1 m) m

/-- The first REFORM where a live name may be in a physical register (R161). -/
def reformReject (l : List FritIns) (regs : List Region) : Option Rejected :=
  if !l.any (fun i => i.f.opc == 0x09) then none else
  let phys := settleFacts (physPass l regs) (64 * l.length + 1) []
  let live := settleFacts (livePass l regs) (65 * l.length + 1) []
  (l.find? fun i => i.f.opc == 0x09 && (look i.wofs phys).getD 0 &&& (liveBefore regs live i).2 != 0).map fun i => (.reform, i.wofs)

/-- The first of the static checks that rejects an image (R200). -/
def staticReject (x : Frit) (l : List FritIns) : Option Rejected :=
  let starts := x.entries.map fun e => fieldOf e 24 4
  (targetReject l).or <| (recordReject l none x.regions).or <| (regionReject l x.regions).or <| (entryReject x.kind x.regions x.entries).or <|
    (uniformReject l x.regions).or <| (reformReject l x.regions).or (undefReject x.kind l x.regions starts)

/-! ## Extents of an entry (R198) -/

/-- The highest vector name of an instruction, plus one. -/
def vTop (f : Form) : Nat := (f.vreads ++ f.vwrites).foldl (fun a n => max a (n + 1)) 0

/-- The highest histogram name of an instruction, plus one. -/
def hTop (f : Form) : Nat :=
  let u := f.use
  let (d, a, _, _) := f.fields
  match f with
  | .g 0xB0 x => if 4 ≤ x.ml.toNat then ((x.w1.map (·.mh.toNat)).getD 0) / 4 % 4 + 1 else 0
  | _ => max (if u.d = .h then d + 1 else 0) (if u.a = .h then a + 1 else 0)

/-! ## Packing (R171, R199) -/

/-- The class of an instruction, 0 for the base set (R174). -/
def homeClass (f : Form) : Nat :=
  if uniClass f.opc f.ml then 6 else ((List.range 6).find? fun c => classAdmits c f.opc f.ml).getD 0

/-- The class of a clause that holds two, if there is one. -/
def joinClass (x y : Nat) : Option Nat := if x = y then some x else if x = 6 ∨ y = 6 then none else if x = 0 then some y else if y = 0 then some x else none

/-- Catch-up instructions and ULAUNCH, which start a UNI clause (R159, R160). -/
def startsClause (f : Form) : Bool :=
  match f with
  | .m 0xDE x => x.b.toNat % 2 == 1
  | .g 0xB0 x => ((x.w1.map (·.mh.toNat)).getD 0) / 16 % 2 == 1
  | .g 0xB1 x => x.ml.toNat % 2 == 1
  | .g 0xDF _ => true
  | _ => false

/-- The counter on which an instruction counts, by its code in a header (R171, R173). -/
def ctrCode (f : Form) : Nat :=
  let o := f.opc
  if o = 0x80 || o = 0x82 || o = 0x90 || o = 0xDE then 1
  else if o = 0x81 || o = 0x83 || o = 0x91 || o = 0x85 then 2
  else if o = 0xB4 then 3
  else if o = 0xB2 || o = 0xB0 || o = 0xB1 then 4
  else if o = 0xC0 || o = 0xC1 || o = 0xC2 || o = 0xC3 then 5
  else if o = 0x92 then 6
  else 0

/-- Whether an instruction is counted and gives a result. -/
def countedResult (f : Form) : Bool := ctrCode f != 0 && !(f.vwrites ++ f.swrites).isEmpty

/-- The names an instruction touches, vector names first, as a mask. -/
def touchMask (f : Form) : Nat := nameMask (f.vreads ++ f.vwrites) ||| nameMask (f.sreads ++ f.swrites) <<< 64

/-- The names of a counted instruction's result, in the group of its counter. -/
def resultMask (f : Form) : Nat :=
  if ctrCode f = 0 then 0 else (nameMask f.vwrites ||| nameMask f.swrites <<< 64) <<< (128 * ctrCode f)

/-- The counters that have one of some names out. -/
def countersOut (out names : Nat) : List Nat := (List.range' 1 6).filter fun c => out >>> (128 * c) % 2 ^ 128 &&& names != 0

/-- What is still out once some counters have been waited for. -/
def retired (out : Nat) (waits : List Nat) : Nat :=
  (List.range' 1 6).foldl (fun a c => if waits.contains c then a else a ||| ((out >>> (128 * c) % 2 ^ 128) <<< (128 * c))) 0

/-- How the clauses of an image come to wait: for the counters of an instruction's names wherever they are counted in the image, or for
results that may be out where it stands; then either two counters at most are let stand, or any. -/
inductive WaitPlan
  | anywhere
  | out
  | let_ (a b : Nat)
  deriving DecidableEq, Repr

/-- Whether a NOP clause that waits stands after a counted instruction: under a plan that lets its counter not stand, where no instruction of
the wave that could wait comes next. -/
def drained (pl : WaitPlan) (l : List FritIns) (i : FritIns) : Bool :=
  match pl with
  | .let_ a b => !i.isUni && countedResult i.f && ctrCode i.f != a && ctrCode i.f != b && ((insAt l i.after).all FritIns.isUni)
  | _ => false

/-- The counters an instruction's clause waits for, from the results that may be out for the waves and for the gaffer: those of its names,
those that the plan does not let stand, and others while more than two would be out (R186, R199). -/
def planned (pl : WaitPlan) (all : Nat) (out : Nat × Nat) (i : FritIns) : List Nat :=
  match pl with
  | .anywhere => countersOut all (touchMask i.f)
  | pl =>
    let mine := if i.isUni then out.2 else out.1
    let every := countersOut mine (2 ^ 128 - 1)
    let need := countersOut (if i.isUni then out.2 else out.1 ||| out.2) (touchMask i.f)
    let must := dedup (need ++ match pl with
      | .let_ a b => if i.isUni then [] else every.filter fun c => c != a && c != b
      | _ => [])
    let own := if countedResult i.f then [ctrCode i.f] else []
    every.foldl (fun w c => if w.contains c || decide (2 ≤ w.length) || decide ((dedup (every.filter (fun x => !w.contains x) ++ own)).length ≤ 2)
      then w else w ++ [c]) must

/-- One pass of the results that may be out before each instruction, of the waves and of the gaffer. A wave passes over UNI clauses, and a
gaffer that runs ahead over all others, without their waits. -/
def outPass (pl : WaitPlan) (l : List FritIns) (regs : List Region) (m : Facts (Nat × Nat)) : Facts (Nat × Nat) :=
  l.foldl (fun (m : Facts (Nat × Nat)) (i : FritIns) =>
    let got := (look i.wofs m).getD (0, 0)
    let waits := planned pl 0 got i
    let outs : Nat × Nat :=
      if i.isUni then (got.1, retired got.2 waits ||| resultMask i.f)
      else (retired got.1 waits ||| (if drained pl l i then 0 else resultMask i.f), got.2)
    (i.flows regs ++ i.returns l).foldl (fun (m : Facts (Nat × Nat)) w =>
      let old := (look w m).getD (0, 0)
      put w (old.1 ||| outs.1, old.2 ||| outs.2) m) m) m

/-- The counters that each instruction's clause waits for under a plan. -/
def waitsOf (pl : WaitPlan) (l : List FritIns) (regs : List Region) : FritIns → List Nat :=
  let of (uni : Bool) : Nat := l.foldl (fun a i => if uni && !i.isUni then a else a ||| resultMask i.f) 0
  let (all, unis) := (of false, of true)
  match pl with
  | .anywhere => fun i => planned .anywhere (if i.isUni then unis else all) (0, 0) i
  | pl =>
    let out := settleFacts (outPass pl l regs) (2 * 768 * l.length + 1) []
    fun i => planned pl 0 ((look i.wofs out).getD (0, 0)) i

/-- A clause before it is laid out. -/
structure Group where
  cls : Nat
  ins : List FritIns
  waits : List Nat
  bnd : Bool := false
  deriving DecidableEq, Repr

/-- The instruction words of a group. -/
def Group.size (g : Group) : Nat := (g.ins.map fun (i : FritIns) => i.ws.length).sum

/-- The frit offset of a group's first instruction; a NOP clause that only waits has none. -/
def Group.start (g : Group) : Option Nat := g.ins.head?.map FritIns.wofs

/-- Whether a group ends with a control transfer (R175). -/
def Group.transfers (g : Group) : Bool := ((g.ins.getLast?.map fun (i : FritIns) => controlTransfer i.f.opc).getD false)

/-- Whether a group counts on one of some counters with a result: these are not out when its header waits. -/
def Group.counts (g : Group) (waits : List Nat) : Bool :=
  g.ins.any fun (j : FritIns) => countedResult j.f && waits.contains (ctrCode j.f)

/-- Instructions grouped: `plan` says what their clauses wait for, `after` which are followed by a NOP clause that waits for their counter,
`mustStart` which offsets start a clause; the groups stand latest first. -/
def groupUp (plan : FritIns → List Nat) (after : FritIns → Bool) (mustStart : Nat → Bool) : List FritIns → List Group → List Group
  | [], gs => gs
  | i :: t, gs =>
    let w := plan i
    let new : Group := { cls := homeClass i.f, ins := [i], waits := w }
    let nop : List Group := if after i then [{ cls := 0, ins := [], waits := [ctrCode i.f] }] else []
    match gs with
    | [] => groupUp plan after mustStart t (nop ++ [new])
    | g :: rest =>
      let all := dedup (g.waits ++ w)
      match joinClass g.cls (homeClass i.f) with
      | some c =>
        if mustStart i.wofs || startsClause i.f || g.transfers || g.ins.isEmpty || g.counts w || decide (15 < g.size + i.ws.length)
            || decide (2 < all.length) then
          groupUp plan after mustStart t (nop ++ new :: g :: rest)
        else groupUp plan after mustStart t (nop ++ { g with cls := c, ins := g.ins ++ [i], waits := all } :: rest)
      | none => groupUp plan after mustStart t (nop ++ new :: g :: rest)

/-- The instruction words of a group with those of the NOP clauses that wait before it, when its header names too few counters. -/
def Group.runSize (g : Group) : Nat := (if g.ins.isEmpty then 1 else g.size) + (g.waits.length - 1) / 2

/-- Run boundaries set so that no run passes 24 words (R176, R199): `n` words stand in the run so far. A wave issues no word of a UNI clause, at
which no run of it ends by its length. -/
def boundRuns : Nat → List Group → List Group
  | _, [] => []
  | n, g :: t =>
    if g.cls = 6 then g :: boundRuns n t else
    let n := n + g.runSize
    match t.find? fun h => h.cls != 6 with
    | none => g :: boundRuns n t
    | some h =>
      if g.transfers then g :: boundRuns 0 t
      else if 24 < n + h.runSize then { g with bnd := true } :: boundRuns 0 t
      else g :: boundRuns n t

/-- A header word (R171). -/
def headerWord (n cls : Nat) (bnd sp : Bool) (waits : List Nat) : Word :=
  BitVec.ofNat 32 (n + cls * 2 ^ 4 + (if bnd then 2 ^ 7 else 0) + (if sp then 2 ^ 8 else 0) + nth waits 0 0 * 2 ^ 9 + nth waits 1 0 * 2 ^ 18)

/-- NOP clauses that wait for the counters a header has no room for, and the counters left to it (R171): only where paths meet on which
results of three kinds are out (log entry 8). -/
def extraWaits (sp : Bool) : Nat → List Nat → List Word × List Nat
  | 0, ws => ([], ws)
  | n + 1, ws =>
    if ws.length ≤ 2 then ([], ws) else
    let r := extraWaits false n (ws.drop 2)
    (headerWord 1 0 false sp (ws.take 2) :: 0 :: r.1, r.2)

/-- A group laid out: where its first header and its own header stand, and its words. -/
structure Placed where
  g : Group
  first : Nat
  own : Nat
  ws : List Word
  deriving DecidableEq, Repr

/-- Groups laid out one after another. -/
def place (regs : List Region) : Nat → List Group → List Placed
  | _, [] => []
  | at_, g :: t =>
    let sp := g.start.any (isRegion regs)
    let (extra, left) := extraWaits sp 3 g.waits
    let own := at_ + extra.length
    let body := if g.ins.isEmpty then [0] else g.ins.flatMap FritIns.ws
    let ws := extra ++ headerWord body.length g.cls g.bnd (sp && extra.isEmpty) left :: body
    { g := g, first := at_, own := own, ws := ws } :: place regs (at_ + ws.length) t

/-- The finalised offset of the clause that starts with a frit offset. -/
def placedAt (ps : List Placed) (w : Nat) : Nat := ((ps.find? fun (p : Placed) => p.g.start == some w).map Placed.first).getD 0

/-- The words of a clause with its branch's offset rewritten from header to header (R184, R199). LA and last-read bits stay zero, so that no
last read ever releases a name (DESIGN CHOICE: R199 leaves them to the lehr, log entry 94). -/
def Placed.out (ps : List Placed) (p : Placed) : List Word :=
  match p.g.ins.getLast?.bind FritIns.target with
  | none => p.ws
  | some t =>
    let ofs := BitVec.ofInt 23 ((placedAt ps t.toNat : Int) - (p.own : Int))
    let k := p.ws.length - 2
    p.ws.set k ((((nth p.ws k 0).extractLsb' 23 9) ++ ofs).setWidth 32)

/-- The clauses of an image under a plan for its waits. -/
def packedBy (x : Frit) (l : List FritIns) (pl : WaitPlan) : List Placed :=
  let ts := l.filterMap FritIns.target
  let must (w : Nat) : Bool := isRegion x.regions w || ts.contains (w : Int)
  place x.regions 0 (boundRuns 0 (groupUp (waitsOf pl l x.regions) (drained pl l) must l []).reverse)

/-- The plans for an image's waits, in order of preference: where splits may divide, a name may be pending in another one, so that every
clause that touches it waits (R186). -/
def waitPlans (l : List FritIns) : List WaitPlan :=
  let pairs := ([1, 4, 5, 6] : List Nat).flatMap fun a => (([1, 4, 5, 6] : List Nat).filter fun b => decide (a < b)).map (WaitPlan.let_ a)
  (if l.any fun i => i.divId.isSome then [.anywhere] else []) ++ .out :: pairs

/-- The words of some clauses. -/
def wordsIn (ps : List Placed) : Nat := (ps.map fun (p : Placed) => p.ws.length).sum

/-- The clauses of an image: the first plan whose clauses keep to twice CODEW words, or else the shortest (R197, R199). -/
def packed (x : Frit) (l : List FritIns) : List Placed :=
  match (waitPlans l).findSome? fun pl =>
    let ps := packedBy x l pl
    if wordsIn ps ≤ 2 * x.code.length then some ps else none with
  | some ps => ps
  | none => (waitPlans l).foldl (fun best pl =>
      let ps := packedBy x l pl
      if wordsIn ps < wordsIn best then ps else best) (packedBy x l .out)

/-! ## The finalised image (R197, R198) -/

/-- A safe point of a region. -/
def safePointOf (ps : List Placed) (r : Region) : SafePoint :=
  { wofs := placedAt ps r.wofs, fwofs := r.wofs, vlive := r.vlive, slive := r.slive, plive := r.plive }

/-- The bytes of a safe point (R198). -/
def SafePoint.bytes (p : SafePoint) : List Byte :=
  bytesOf 4 p.wofs ++ bytesOf 4 p.fwofs ++ bytesOf 8 p.vlive ++ bytesOf 8 p.slive ++ bytesOf 3 p.plive ++ List.replicate 5 0

/-- An entry with its offset and extents (R198). -/
def entryOf (x : Frit) (l : List FritIns) (ps : List Placed) (e : List Byte) : Entry :=
  let w := fieldOf e 24 4
  let reached := reachFrom l x.regions [w]
  { wofs := placedAt ps w, fwofs := w, scratch := fieldOf e 20 1, tiles := fieldOf e 21 2, cohort := fieldOf e 23 1, banks := fieldOf e 32 16
    maxv := reached.foldl (fun a (i : FritIns) => max a (vTop i.f)) 0, hist := reached.foldl (fun a (i : FritIns) => max a (hTop i.f)) 0 }

/-- The bytes of an entry: the frit record, and after it what the lehr adds (R198). -/
def entryBytes (e : List Byte) (n : Entry) : List Byte :=
  e ++ [0, 0, BitVec.ofNat 8 n.maxv, BitVec.ofNat 8 n.hist] ++ bytesOf 4 n.wofs ++ List.replicate 8 0

/-- A finalised image: what firmware keeps of it and its bytes. -/
structure Finalised where
  codew : Nat
  datofs : Nat
  sps : List SafePoint
  entries : List Entry
  bytes : List Byte
  deriving DecidableEq, Repr

/-- An image laid out (R197, R198). -/
def finalImage (frit : List Byte) (x : Frit) (l : List FritIns) : Finalised :=
  let ps := packed x l
  let code := ps.flatMap (Placed.out ps)
  let sps := x.regions.map (safePointOf ps)
  let es := x.entries.map (entryOf x l ps)
  let spofs := 128 + 4 * code.length
  let entofs := spofs + 32 * sps.length
  let endofs := entofs + 64 * es.length
  let datofs := (endofs + 63) / 64 * 64
  let header := bytesOf 4 0x4C414E46 ++ bytesOf 2 1 ++ bytesOf 1 x.kind ++ [0]
    ++ ([code.length, sps.length, es.length, x.data.length, spofs, entofs, datofs] : List Nat).flatMap (bytesOf 4)
    ++ List.replicate 28 0 ++ sha256 frit ++ List.replicate 32 0
  { codew := code.length, datofs := datofs, sps := sps, entries := es
    bytes := header ++ bytesOfWords code ++ sps.flatMap SafePoint.bytes ++ (x.entries.zip es).flatMap (fun e => entryBytes e.1 e.2)
      ++ List.replicate (datofs - endofs) 0 ++ x.data }

/-- The lehr: a frit image rejected or finalised (R197 to R200). -/
def lehr (frit : List Byte) : Except Rejected Finalised :=
  match fritOf frit with
  | .error e => .error e
  | .ok x => match fritIns x.kind x.code.length x.code 0 with
    | .error e => .error e
    | .ok l => match staticReject x l with
      | some e => .error e
      | none => .ok (finalImage frit x l)

/-- The bytes of a context's frit image at an address, or the address of one that cannot be read; a header that is none is given
alone. -/
def State.readFrit (s : State) (ctx va : Nat) : FwRes (State × List Byte) :=
  match s.fwRead ⟨.kapael, .queue none⟩ ctx .load va 64 with
  | .ok (s, h) => if fritHeaderOk h then s.fwRead ⟨.kapael, .queue none⟩ ctx .load va (fritSize h) else .ok (s, h)
  | r => r

/-- An image rejected (R200): status LEHR_REJECT, with the reason and offset. -/
def State.rejectImage (s : State) (ctx : Nat) (e : Rejected) : SvcRes :=
  .done { s with log := .lehrReject ctx e.2 e.1 :: s.log } 12

/-- FINALISE (R197 to R200, R323): the lehr run on a frit image; the finalised image is written to a destination of READ-SHARED
pages with X = 1, and gets an id. -/
def execFinalise (p : Packet) (s : State) : Out :=
  s.ctxService p 0x08 5 fun s c =>
    let dst := p.dword 3
    let size := (p.word 5).toNat
    match s.readFrit c.num (p.dword 1) with
    | .wait s => .wait s
    | .bad s _ _ => .done s 1
    | .ok (s, frit) =>
      if !fritHeaderOk frit then s.rejectImage c.num (.container, 0) else
      match lehr frit with
      | .error e => s.rejectImage c.num e
      | .ok x =>
        if size < x.bytes.length then .done s 1 else
        match s.fwRange ⟨.kapael, .queue none⟩ c.num .fetch dst x.bytes.length with
        | .wait s => .wait s
        | .bad s _ _ => .done s 1
        | .ok (s, ps) =>
          let s := s.homeStore ⟨.kapael, .queue none⟩ c.num ps x.bytes
          match s.ctx c.num, lowestFree (fun n => c.images.any fun (i : Image) => i.id == n) 65536 with
          | some c, some id =>
            let im : Image := { id := id, va := dst, objMethod := fieldOf frit 6 1 == 1, codew := x.codew, dataVa := dst + x.datofs
                                sps := x.sps, entries := x.entries }
            .done (s.putCtx { c with images := im :: c.images }) 0
          | _, _ => .done s 9

end Sys2Proof.Machine
end

