-- ==== Sys2Proof/Machine/Dispatch.lean ====
section
/-! DEFINITION. The dispatcher: one arm for each row of the opcode table, each a direct call of the meaning. -/

namespace Sys2Proof.Machine

/-- One instruction or step of the part. -/
def exec (i : Instr) (s : State) : Host.Outcome State Fault Refusal :=
  match i with
  | .nop g => Sys2Proof.Machine.execNop g s
  | .bra c => Sys2Proof.Machine.execBra c s
  | .brx g => Sys2Proof.Machine.execBrx g s
  | .call c => Sys2Proof.Machine.execCall c s
  | .callx g => Sys2Proof.Machine.execCallx g s
  | .ret g => Sys2Proof.Machine.execRet g s
  | .join c => Sys2Proof.Machine.execJoin c s
  | .exit g => Sys2Proof.Machine.execExit g s
  | .kill g => Sys2Proof.Machine.execKill g s
  | .reform g => Sys2Proof.Machine.execReform g s
  | .yield g => Sys2Proof.Machine.execYield g s
  | .trap g => Sys2Proof.Machine.execTrap g s
  | .bkpt g => Sys2Proof.Machine.execBkpt g s
  | .iadd g => Sys2Proof.Machine.execIadd g s
  | .iaddImm f => Sys2Proof.Machine.execIaddImm f s
  | .isub g => Sys2Proof.Machine.execIsub g s
  | .isubImm f => Sys2Proof.Machine.execIsubImm f s
  | .imul g => Sys2Proof.Machine.execImul g s
  | .imulImm f => Sys2Proof.Machine.execImulImm f s
  | .imulh g => Sys2Proof.Machine.execImulh g s
  | .imulhImm f => Sys2Proof.Machine.execImulhImm f s
  | .imad g => Sys2Proof.Machine.execImad g s
  | .iaddc g => Sys2Proof.Machine.execIaddc g s
  | .isubb g => Sys2Proof.Machine.execIsubb g s
  | .imin g => Sys2Proof.Machine.execImin g s
  | .iminImm f => Sys2Proof.Machine.execIminImm f s
  | .imax g => Sys2Proof.Machine.execImax g s
  | .imaxImm f => Sys2Proof.Machine.execImaxImm f s
  | .iabs g => Sys2Proof.Machine.execIabs g s
  | .sel g => Sys2Proof.Machine.execSel g s
  | .imadw g => Sys2Proof.Machine.execImadw g s
  | .rng g => Sys2Proof.Machine.execRng g s
  | .rngImm f => Sys2Proof.Machine.execRngImm f s
  | .and g => Sys2Proof.Machine.execAnd g s
  | .andImm f => Sys2Proof.Machine.execAndImm f s
  | .or g => Sys2Proof.Machine.execOr g s
  | .orImm f => Sys2Proof.Machine.execOrImm f s
  | .xor g => Sys2Proof.Machine.execXor g s
  | .xorImm f => Sys2Proof.Machine.execXorImm f s
  | .not g => Sys2Proof.Machine.execNot g s
  | .logt g => Sys2Proof.Machine.execLogt g s
  | .shl g => Sys2Proof.Machine.execShl g s
  | .shlImm f => Sys2Proof.Machine.execShlImm f s
  | .shr g => Sys2Proof.Machine.execShr g s
  | .shrImm f => Sys2Proof.Machine.execShrImm f s
  | .sar g => Sys2Proof.Machine.execSar g s
  | .sarImm f => Sys2Proof.Machine.execSarImm f s
  | .funl g => Sys2Proof.Machine.execFunl g s
  | .bfe g => Sys2Proof.Machine.execBfe g s
  | .bfi g => Sys2Proof.Machine.execBfi g s
  | .popc g => Sys2Proof.Machine.execPopc g s
  | .clz g => Sys2Proof.Machine.execClz g s
  | .brev g => Sys2Proof.Machine.execBrev g s
  | .mov g => Sys2Proof.Machine.execMov g s
  | .movi f => Sys2Proof.Machine.execMovi f s
  | .icmp g => Sys2Proof.Machine.execIcmp g s
  | .icmpImm f => Sys2Proof.Machine.execIcmpImm f s
  | .fcmp g => Sys2Proof.Machine.execFcmp g s
  | .fcmpImm f => Sys2Proof.Machine.execFcmpImm f s
  | .plogt g => Sys2Proof.Machine.execPlogt g s
  | .ppack g => Sys2Proof.Machine.execPpack g s
  | .punpk g => Sys2Proof.Machine.execPunpk g s
  | .fkind g => Sys2Proof.Machine.execFkind g s
  | .lxch g => Sys2Proof.Machine.execLxch g s
  | .qxch g => Sys2Proof.Machine.execQxch g s
  | .qdd g => Sys2Proof.Machine.execQdd g s
  | .vote g => Sys2Proof.Machine.execVote g s
  | .ballot g => Sys2Proof.Machine.execBallot g s
  | .matchLanes g => Sys2Proof.Machine.execMatchLanes g s
  | .lfold g => Sys2Proof.Machine.execLfold g s
  | .scan g => Sys2Proof.Machine.execScan g s
  | .xset g => Sys2Proof.Machine.execXset g s
  | .fadd g => Sys2Proof.Machine.execFadd g s
  | .faddImm f => Sys2Proof.Machine.execFaddImm f s
  | .fmul g => Sys2Proof.Machine.execFmul g s
  | .fmulImm f => Sys2Proof.Machine.execFmulImm f s
  | .ffma g => Sys2Proof.Machine.execFfma g s
  | .fmin g => Sys2Proof.Machine.execFmin g s
  | .fminImm f => Sys2Proof.Machine.execFminImm f s
  | .fmax g => Sys2Proof.Machine.execFmax g s
  | .fmaxImm f => Sys2Proof.Machine.execFmaxImm f s
  | .frnd g => Sys2Proof.Machine.execFrnd g s
  | .frcp g => Sys2Proof.Machine.execFrcp g s
  | .frsq g => Sys2Proof.Machine.execFrsq g s
  | .fsqrt g => Sys2Proof.Machine.execFsqrt g s
  | .fex2 g => Sys2Proof.Machine.execFex2 g s
  | .flg2 g => Sys2Proof.Machine.execFlg2 g s
  | .fsin g => Sys2Proof.Machine.execFsin g s
  | .fcos g => Sys2Proof.Machine.execFcos g s
  | .hadd2 g => Sys2Proof.Machine.execHadd2 g s
  | .hmul2 g => Sys2Proof.Machine.execHmul2 g s
  | .hfma2 g => Sys2Proof.Machine.execHfma2 g s
  | .hmin2 g => Sys2Proof.Machine.execHmin2 g s
  | .hmax2 g => Sys2Proof.Machine.execHmax2 g s
  | .vdot2 g => Sys2Proof.Machine.execVdot2 g s
  | .vdot4 g => Sys2Proof.Machine.execVdot4 g s
  | .cvt g => Sys2Proof.Machine.execCvt g s
  | .pack2 g => Sys2Proof.Machine.execPack2 g s
  | .qhist g => Sys2Proof.Machine.execQhist g s
  | .qscale g => Sys2Proof.Machine.execQscale g s
  | .qclr g => Sys2Proof.Machine.execQclr g s
  | .qpack g => Sys2Proof.Machine.execQpack g s
  | .qdeq g => Sys2Proof.Machine.execQdeq g s
  | .ld m => Sys2Proof.Machine.execLd m s
  | .st m => Sys2Proof.Machine.execSt m s
  | .ldblk m => Sys2Proof.Machine.execLdblk m s
  | .stblk m => Sys2Proof.Machine.execStblk m s
  | .pref m => Sys2Proof.Machine.execPref m s
  | .cctl m => Sys2Proof.Machine.execCctl m s
  | .fence m => Sys2Proof.Machine.execFence m s
  | .atom v => Sys2Proof.Machine.execAtom v s
  | .red v => Sys2Proof.Machine.execRed v s
  | .ocall v => Sys2Proof.Machine.execOcall v s
  | .old m => Sys2Proof.Machine.execOld m s
  | .ost m => Sys2Proof.Machine.execOst m s
  | .reply g => Sys2Proof.Machine.execReply g s
  | .oend g => Sys2Proof.Machine.execOend g s
  | .bara g => Sys2Proof.Machine.execBara g s
  | .barw g => Sys2Proof.Machine.execBarw g s
  | .bars g => Sys2Proof.Machine.execBars g s
  | .waitv g => Sys2Proof.Machine.execWaitv g s
  | .qsig g => Sys2Proof.Machine.execQsig g s
  | .qwait g => Sys2Proof.Machine.execQwait g s
  | .mma g => Sys2Proof.Machine.execMma g s
  | .mzero g => Sys2Proof.Machine.execMzero g s
  | .mtile g => Sys2Proof.Machine.execMtile g s
  | .mdrain g => Sys2Proof.Machine.execMdrain g s
  | .jobGaffer g => Sys2Proof.Machine.execJobGaffer g s
  | .jobWave g => Sys2Proof.Machine.execJobWave g s
  | .jstatGaffer g => Sys2Proof.Machine.execJstatGaffer g s
  | .jstatWave g => Sys2Proof.Machine.execJstatWave g s
  | .trace g => Sys2Proof.Machine.execTrace g s
  | .sample g => Sys2Proof.Machine.execSample g s
  | .pidld g => Sys2Proof.Machine.execPidld g s
  | .visr g => Sys2Proof.Machine.execVisr g s
  | .umov g => Sys2Proof.Machine.execUmov g s
  | .umovi f => Sys2Proof.Machine.execUmovi f s
  | .uadd g => Sys2Proof.Machine.execUadd g s
  | .uaddImm f => Sys2Proof.Machine.execUaddImm f s
  | .usub g => Sys2Proof.Machine.execUsub g s
  | .usubImm f => Sys2Proof.Machine.execUsubImm f s
  | .umul g => Sys2Proof.Machine.execUmul g s
  | .umulImm f => Sys2Proof.Machine.execUmulImm f s
  | .umad g => Sys2Proof.Machine.execUmad g s
  | .ushl g => Sys2Proof.Machine.execUshl g s
  | .ushlImm f => Sys2Proof.Machine.execUshlImm f s
  | .ushr g => Sys2Proof.Machine.execUshr g s
  | .ushrImm f => Sys2Proof.Machine.execUshrImm f s
  | .uand g => Sys2Proof.Machine.execUand g s
  | .uandImm f => Sys2Proof.Machine.execUandImm f s
  | .uor g => Sys2Proof.Machine.execUor g s
  | .uorImm f => Sys2Proof.Machine.execUorImm f s
  | .uxor g => Sys2Proof.Machine.execUxor g s
  | .uxorImm f => Sys2Proof.Machine.execUxorImm f s
  | .ucmp g => Sys2Proof.Machine.execUcmp g s
  | .ucmpImm f => Sys2Proof.Machine.execUcmpImm f s
  | .usel g => Sys2Proof.Machine.execUsel g s
  | .ubra c => Sys2Proof.Machine.execUbra c s
  | .uld m => Sys2Proof.Machine.execUld m s
  | .ulaunch g => Sys2Proof.Machine.execUlaunch g s
  | .csrr g => Sys2Proof.Machine.execCsrr g s
  | .csrw g => Sys2Proof.Machine.execCsrw g s
  | .winrd g => Sys2Proof.Machine.execWinrd g s
  | .winwr g => Sys2Proof.Machine.execWinwr g s
  | .tret g => Sys2Proof.Machine.execTret g s
  | .clauseHeaderWaitMet a => Sys2Proof.Machine.execClauseHeaderWaitMet a s
  | .decisionConsume a => Sys2Proof.Machine.execDecisionConsume a s
  | .parisonMerge p => Sys2Proof.Machine.execParisonMerge p s
  | .pageWalk q => Sys2Proof.Machine.execPageWalk q s
  | .mvHoldRelease a => Sys2Proof.Machine.execMvHoldRelease a s
  | .loadReply a op => Sys2Proof.Machine.execLoadReply a op s
  | .storeAck a op => Sys2Proof.Machine.execStoreAck a op s
  | .atomReply a op => Sys2Proof.Machine.execAtomReply a op s
  | .ocallReply a op => Sys2Proof.Machine.execOcallReply a op s
  | .texReply a op => Sys2Proof.Machine.execTexReply a op s
  | .fenceTimePassed a => Sys2Proof.Machine.execFenceTimePassed a s
  | .homeRead a op => Sys2Proof.Machine.execHomeRead a op s
  | .homeWrite a op => Sys2Proof.Machine.execHomeWrite a op s
  | .ownershipGrant c l => Sys2Proof.Machine.execOwnershipGrant c l s
  | .lineRecall l => Sys2Proof.Machine.execLineRecall l s
  | .hostAccess h => Sys2Proof.Machine.execHostAccess h s
  | .bundleArrive a op => Sys2Proof.Machine.execBundleArrive a op s
  | .formBatch r => Sys2Proof.Machine.execFormBatch r s
  | .batchPerform r => Sys2Proof.Machine.execBatchPerform r s
  | .contentionSweep d => Sys2Proof.Machine.execContentionSweep d s
  | .counterDecay d => Sys2Proof.Machine.execCounterDecay d s
  | .moveStart p dest => Sys2Proof.Machine.execMoveStart p dest s
  | .tileOp c => Sys2Proof.Machine.execTileOp c s
  | .visrSlotAction p op => Sys2Proof.Machine.execVisrSlotAction p op s
  | .jobStart d job => Sys2Proof.Machine.execJobStart d job s
  | .jobComplete d job => Sys2Proof.Machine.execJobComplete d job s
  | .blockAdmit c launch => Sys2Proof.Machine.execBlockAdmit c launch s
  | .launchComplete launch => Sys2Proof.Machine.execLaunchComplete launch s
  | .dispatchReserve c launch => Sys2Proof.Machine.execDispatchReserve c launch s
  | .reservePreempt c => Sys2Proof.Machine.execReservePreempt c s
  | .budgetExhausted ctx => Sys2Proof.Machine.execBudgetExhausted ctx s
  | .budgetPeriodStart ctx => Sys2Proof.Machine.execBudgetPeriodStart ctx s
  | .budgetReport d => Sys2Proof.Machine.execBudgetReport d s
  | .firmwareEventTake d core => Sys2Proof.Machine.execFirmwareEventTake d core s
  | .trapDeliver d core => Sys2Proof.Machine.execTrapDeliver d core s
  | .preempt b => Sys2Proof.Machine.execPreempt b s
  | .saveRetry b => Sys2Proof.Machine.execSaveRetry b s
  | .blockRestore saved c => Sys2Proof.Machine.execBlockRestore saved c s
  | .registerFill w group => Sys2Proof.Machine.execRegisterFill w group s
  | .snapshot b => Sys2Proof.Machine.execSnapshot b s
  | .rollback b => Sys2Proof.Machine.execRollback b s
  | .profileSample c part => Sys2Proof.Machine.execProfileSample c part s
  | .waitvReread a => Sys2Proof.Machine.execWaitvReread a s
  | .twaitGateMet launch => Sys2Proof.Machine.execTwaitGateMet launch s
  | .refreshPhaseAdvance d => Sys2Proof.Machine.execRefreshPhaseAdvance d s
  | .refreshModeChange d celsius => Sys2Proof.Machine.execRefreshModeChange d celsius s
  | .ckptTimer ctx => Sys2Proof.Machine.execCkptTimer ctx s
  | .doorbellWptr q v => Sys2Proof.Machine.execDoorbellWptr q v s
  | .doorbellCrptr q v => Sys2Proof.Machine.execDoorbellCrptr q v s
  | .dispatch q p => Sys2Proof.Machine.execDispatch q p s
  | .graph q p => Sys2Proof.Machine.execGraph q p s
  | .tsig q p => Sys2Proof.Machine.execTsig q p s
  | .twait q p => Sys2Proof.Machine.execTwait q p s
  | .ckpt q p => Sys2Proof.Machine.execCkpt q p s
  | .nopk q p => Sys2Proof.Machine.execNopk q p s
  | .ctxCreate p => Sys2Proof.Machine.execCtxCreate p s
  | .ctxDestroy p => Sys2Proof.Machine.execCtxDestroy p s
  | .ctxUpdate p => Sys2Proof.Machine.execCtxUpdate p s
  | .queueCreate p => Sys2Proof.Machine.execQueueCreate p s
  | .queueReset p => Sys2Proof.Machine.execQueueReset p s
  | .graphLoad p => Sys2Proof.Machine.execGraphLoad p s
  | .graphUnload p => Sys2Proof.Machine.execGraphUnload p s
  | .finalise p => Sys2Proof.Machine.execFinalise p s
  | .invalidate p => Sys2Proof.Machine.execInvalidate p s
  | .objClear p => Sys2Proof.Machine.execObjClear p s
  | .ckptInterval p => Sys2Proof.Machine.execCkptInterval p s
  | .debugSet p => Sys2Proof.Machine.execDebugSet p s
  | .debugBkset p => Sys2Proof.Machine.execDebugBkset p s
  | .debugBkclr p => Sys2Proof.Machine.execDebugBkclr p s
  | .debugHalt p => Sys2Proof.Machine.execDebugHalt p s
  | .debugResume p => Sys2Proof.Machine.execDebugResume p s
  | .debugStep p => Sys2Proof.Machine.execDebugStep p s
  | .debugDump p => Sys2Proof.Machine.execDebugDump p s
  | .debugLoad p => Sys2Proof.Machine.execDebugLoad p s
  | .debugKill p => Sys2Proof.Machine.execDebugKill p s
  | .frameAlloc p => Sys2Proof.Machine.execFrameAlloc p s
  | .frameFree p => Sys2Proof.Machine.execFrameFree p s
  | .mqctlCreate => Sys2Proof.Machine.execMqctlCreate s
  | .mqctlReset => Sys2Proof.Machine.execMqctlReset s
  | .mqwptrWrite v => Sys2Proof.Machine.execMqwptrWrite v s
  | .mqcrptrWrite v => Sys2Proof.Machine.execMqcrptrWrite v s
  | .undock => Sys2Proof.Machine.execUndock s
  | .fwctlRollback => Sys2Proof.Machine.execFwctlRollback s
  | .attctlReq => Sys2Proof.Machine.execAttctlReq s
  | .attestationSigned => Sys2Proof.Machine.execAttestationSigned s
  | .hctlEnable h v => Sys2Proof.Machine.execHctlEnable h v s
  | .flip h v => Sys2Proof.Machine.execFlip h v s
  | .verticalBlank h => Sys2Proof.Machine.execVerticalBlank h s
  | .lineSend h fetched => Sys2Proof.Machine.execLineSend h fetched s
  | .linkctlTrain h => Sys2Proof.Machine.execLinkctlTrain h s
  | .headTrainDone h ok lanes rate => Sys2Proof.Machine.execHeadTrainDone h ok lanes rate s
  | .auxgo h => Sys2Proof.Machine.execAuxgo h s
  | .auxReply h reply data => Sys2Proof.Machine.execAuxReply h reply data s
  | .hpdChange h present => Sys2Proof.Machine.execHpdChange h present s
  | .registerWrite offset v => Sys2Proof.Machine.execRegisterWrite offset v s
  | .powerOnReset d => Sys2Proof.Machine.execPowerOnReset d s
  | .hostLinkTrain => Sys2Proof.Machine.execHostLinkTrain s
  | .presenceDetect width speed => Sys2Proof.Machine.execPresenceDetect width speed s
  | .pairing ids => Sys2Proof.Machine.execPairing ids s
  | .ptmExchange offset => Sys2Proof.Machine.execPtmExchange offset s
  | .dockMigration ctx => Sys2Proof.Machine.execDockMigration ctx s
  | .heartbeat d => Sys2Proof.Machine.execHeartbeat d s
  | .heartbeatTimeout d => Sys2Proof.Machine.execHeartbeatTimeout d s
  | .linkRecovery => Sys2Proof.Machine.execLinkRecovery s
  | .resyncTimeout d => Sys2Proof.Machine.execResyncTimeout d s
  | .linkLost => Sys2Proof.Machine.execLinkLost s
  | .blowpipeHeaderWrite dest slot m => Sys2Proof.Machine.execBlowpipeHeaderWrite dest slot m s
  | .ackWrite dest k => Sys2Proof.Machine.execAckWrite dest k s
  | .ackTimer d => Sys2Proof.Machine.execAckTimer d s
  | .resync dest k => Sys2Proof.Machine.execResync dest k s
  | .rdReq dest => Sys2Proof.Machine.execRdReq dest s
  | .rdData dest => Sys2Proof.Machine.execRdData dest s
  | .wrReq dest => Sys2Proof.Machine.execWrReq dest s
  | .wrAck dest => Sys2Proof.Machine.execWrAck dest s
  | .combReq dest => Sys2Proof.Machine.execCombReq dest s
  | .combRsp dest => Sys2Proof.Machine.execCombRsp dest s
  | .ptRd dest => Sys2Proof.Machine.execPtRd dest s
  | .ptCas dest => Sys2Proof.Machine.execPtCas dest s
  | .ptData dest => Sys2Proof.Machine.execPtData dest s
  | .shoot dest => Sys2Proof.Machine.execShoot dest s
  | .shootAck dest => Sys2Proof.Machine.execShootAck dest s
  | .homeReq dest => Sys2Proof.Machine.execHomeReq dest s
  | .homeGrant dest => Sys2Proof.Machine.execHomeGrant dest s
  | .homeDeny dest => Sys2Proof.Machine.execHomeDeny dest s
  | .homeData dest => Sys2Proof.Machine.execHomeData dest s
  | .homeDone dest => Sys2Proof.Machine.execHomeDone dest s
  | .migData dest => Sys2Proof.Machine.execMigData dest s
  | .ckptData dest => Sys2Proof.Machine.execCkptData dest s
  | .ckptEnd dest => Sys2Proof.Machine.execCkptEnd dest s
  | .ckptAck dest => Sys2Proof.Machine.execCkptAck dest s
  | .tokSig dest => Sys2Proof.Machine.execTokSig dest s
  | .lifetimeRecordWrite d => Sys2Proof.Machine.execLifetimeRecordWrite d s
  | .linkExitL0 => Sys2Proof.Machine.execLinkExitL0 s
  | .hostLinkDown => Sys2Proof.Machine.execHostLinkDown s
  | .fpFunctionResult a op => Sys2Proof.Machine.execFpFunctionResult a op s
  | .tileDrain a op => Sys2Proof.Machine.execTileDrain a op s
  | .l1Drop c l => Sys2Proof.Machine.execL1Drop c l s

end Sys2Proof.Machine
end

