-- ==== Sys2Proof/Machine/Sched.lean ====
section
/-! DEFINITION. Issue: reading the instruction at an agent's position, the runs of R176 and who may issue (R331, R332); and what
moves when nothing is asked for: the part's own steps in a fixed order (log entry 1). -/

namespace Sys2Proof.Machine

/-! ## Reading an instruction (R171, R177, R190) -/

/-- What stands at an actor's position. -/
inductive AtPc
  | instr (i : Instr)
  | bad (sub : Sub)
  | wait (f : Fetched)

/-- The subcause of words that decode to nothing (R190). -/
def rejectSub : Reject → Sub
  | .opcode => .opcode
  | .truncated => .clauseSplit
  | .oneWord => .oneWord
  | .reserved => .reserved
  | .guard => .guard

/-- The instruction at an actor's position, which lies in a clause. -/
def State.readInstr (s : State) (x : Actor) : AtPc :=
  let dec (ws : List Word) : AtPc := match decode ws with
    | .ok i => .instr i
    | .error r => .bad (rejectSub r)
  match s.fetchWord x x.pos.pc with
  | .word w =>
    (match rawCheck x (opcOf w) (mlOf w).toNat (if wOf w then 2 else 1) with
     | some sub => .bad sub
     | none =>
       if wOf w then (match s.fetchWord x (x.pos.pc + 1) with
         | .word v => dec [w, v]
         | f => .wait f)
       else dec [w])
  | f => .wait f

/-- Whether an agent's access waits for walks none of which has ended: it is not made again before (R24). -/
def State.walkWaits (s : State) (a : AgentId) : Bool :=
  let mine (o : Op) : Bool := o.kind == .walk && (match a with
    | .wave _ k => o.slot == k
    | _ => true)
  let going (q : WalkReq) : Bool := match look q (s.die (coreOf q.agent).die).walks with
    | some (.fault _ _) | none => false
    | _ => true
  match (s.agentOps a).find? mine with
  | some o => !o.walks.isEmpty && o.walks.all going
  | none => false

/-- An agent's instruction executed: the agent's word at its position is fetched, decoded and run (R190). -/
def State.runAgent (s : State) (a : AgentId) : Out :=
  if s.walkWaits a then .next s else
  let s := { s with cur := a }.unwalk a
  match s.actorOf a with
  | none => .next s
  | some x => match x.held with
    | some _ => .next s
    | none => match s.readInstr x with
      | .instr i => exec i s
      | .bad sub => .next (s.raise x .illegal sub)
      | .wait f => .next (s.fetchMissed x f)

/-! ## Runs (R176, R332) -/

/-- The state with the split in a slot of a wave changed. -/
def State.onSplit (s : State) (id : WaveId) (k : Nat) (f : Split → Split) : State :=
  match look id s.waves with
  | some w => { s with waves := put id (w.setSlot k ((nth w.slots k none).map f)) s.waves }
  | none => s

/-- Whether a wait stalls a split within its run: of a fence or a release. The others deschedule it (R170), and a captured wave stands
stopped at the entry before which its run has ended (R363). -/
def Wait.within : Wait → Bool
  | .none | .fence _ _ => true
  | _ => false

/-- The run under way on a partition: its wave and split slot, while that split runs. A stall within it leaves the partition idle. -/
def State.openRun (s : State) (c : CoreRef) (part : Nat) : Option (WaveId × Nat) :=
  match nth (s.core c).run part none with
  | some (slot, k) =>
    let id : WaveId := ⟨c.die, c.core, part, slot⟩
    (look id s.waves).bind fun w => (nth w.slots k none).bind fun sp =>
      if w.status == .running && sp.runnable && sp.wait.within then some (id, k) else none
  | none => none

/-- The ready splits of a partition, with their waves. -/
def State.readySplits (s : State) (c : CoreRef) (part : Nat) : List (WaveId × Wave × Nat) :=
  (s.onPart c part).flatMap fun e => ((List.range 4).filter fun k => s.splitReady e.1 e.2 k).map fun k => (e.1, e.2, k)

/-- Whether a split comes before another for its priority, its wave's admission and its slot. -/
def splitBefore (x y : WaveId × Wave × Nat) : Bool :=
  decide (y.2.1.prio < x.2.1.prio) || (x.2.1.prio == y.2.1.prio && (decide (x.2.1.age < y.2.1.age)
    || (x.2.1.age == y.2.1.age && decide (x.2.2 < y.2.2))))

/-- The split whose run a partition issues next: the run under way, else the choice of R332. -/
def State.pick (s : State) (c : CoreRef) (part : Nat) : Option (WaveId × Nat) :=
  match s.openRun c part with
  | some r => some r
  | none =>
    let all := s.readySplits c part
    let last := nth (s.core c).lastWave part (none, 0)
    let tired (x : WaveId × Wave × Nat) : Bool := last.1 == some x.1.slot && decide (4 ≤ last.2)
    let l := if all.any tired && all.any (fun x => !tired x) then all.filter fun x => !tired x else all
    (l.find? fun x => l.all fun y => (y.1 == x.1 && y.2.2 == x.2.2) || splitBefore x y).map fun x => (x.1, x.2.2)

/-- A run of a split begins: it is counted for its wave, and the YIELDs of other waves see it (R211). -/
def State.beginRun (s : State) (id : WaveId) (k : Nat) : State :=
  let c : CoreRef := ⟨id.die, id.core⟩
  let m := s.core c
  let last := nth m.lastWave id.part (none, 0)
  let n := if last.1 = some id.slot then last.2 + 1 else 1
  let seen (wt : Wait) : Wait := match wt with
    | .yieldRuns l => .yieldRuns (l.filter fun x => x != id)
    | wt => wt
  let see (sp : Split) : Split := { sp with wait := seen sp.wait }
  let wave (e : WaveId × Wave) : WaveId × Wave :=
    if e.1.die = id.die ∧ e.1.core = id.core ∧ e.1.part = id.part then
      (e.1, { e.2 with slots := e.2.slots.map fun o => o.map see, pend := e.2.pend.map see }) else e
  let s := s.putCore c { m with run := m.run.set id.part (some (id.slot, k)), lastWave := m.lastWave.set id.part (some id.slot, n) }
  ({ s with waves := s.waves.map wave }).onSplit id k fun sp => { sp with pos := { sp.pos with run := 0 } }

/-- A run of a partition ends. -/
def State.endRun (s : State) (id : WaveId) (k : Nat) : State :=
  let c : CoreRef := ⟨id.die, id.core⟩
  let m := s.core c
  (s.putCore c { m with run := m.run.set id.part none }).onSplit id k fun sp => { sp with pos := { sp.pos with run := 0 } }

/-- Whether a run of a split begins with its next word. -/
def State.runBegins (s : State) (id : WaveId) (k : Nat) : Bool :=
  nth (s.core ⟨id.die, id.core⟩).run id.part none != some (id.slot, k)

/-- Whether the split has issued the last word of a run, as it stood before and stands now; `ready` says that the header it stands at has
its waits met and its decision pushed (R176). -/
def runEnds (old : Split) (w : Wave) (new : Option Split) (ct ready : Bool) : Bool :=
  match new with
  | none => true
  | some sp =>
    w.status != .running || !sp.runnable || !sp.wait.within
      || (sp.pos != old.pos && (ct || (!sp.pos.inside && (hdrBnd old.pos.hdr || decide (24 < sp.pos.run) || !ready))))

/-- The run of a split after one of its words: its end is noted. -/
def State.noteRun (s : State) (old : State) (id : WaveId) (k : Nat) : State :=
  match (look id old.waves).bind fun w => nth w.slots k none with
  | none => s
  | some sp =>
    let ct := match old.actorOf (.wave id k) with
      | some x => (match old.fetchWord x sp.pos.pc with
        | .word w => controlTransfer (opcOf w)
        | _ => false)
      | none => false
    match look id s.waves with
    | none => s.endRun id k
    | some w =>
      let ready := (nth w.slots k none).any fun x => s.headerReady (.wave id k) w x
      if runEnds sp w (nth w.slots k none) ct ready then s.endRun id k else s

/-! ## The gaffer's rotation (R331) -/

/-- Whether a parison stands within a UNI clause. -/
def Parison.inUni (r : Parison) : Bool := r.status == .running && r.pos.inside && hdrCls r.pos.hdr == 6

/-- Whether a parison's next instruction would issue, or stall for a reason that keeps it ready. -/
def State.parReady (s : State) (p : ParId) : Bool :=
  match look p s.pars with
  | none => false
  | some r =>
    (Actor.par p r).held.isNone && (match s.runAgent (.gaffer p) with
      | .next t => (match look p t.pars with
        | some r => !([.lookahead, .decision, .catchup, .matrix, .slot, .count] : List Stall).contains r.stall
        | none => true)
      | _ => true)

/-- The parison that a core's gaffer serves next: one within a UNI clause, else the next ready one in rotation. Where two are within one,
as after a resumption, the clause begun last is issued to its end first. -/
def State.nextPar (s : State) (c : CoreRef) : Option ParId :=
  let mine := (s.pars.filter fun e => decide (parCore e.1 = c))
  let last := (s.core c).lastPar
  match (mine.find? fun e => e.2.inUni && e.1.entry == last).or (mine.find? fun e => e.2.inUni) with
  | some e => some e.1
  | none =>
    ((List.range 64).map fun i => (⟨c.die, c.core, (last + 1 + i) % 64⟩ : ParId)).find? s.parReady

/-! ## Who may move (R331, R332) -/

/-- Whether an agent may issue an instruction now. -/
def State.mayIssue (s : State) (a : AgentId) : Bool :=
  match a with
  | .wave id k => s.pick ⟨id.die, id.core⟩ id.part == some (id, k)
  | .gaffer p => s.nextPar (parCore p) == some p
  | _ => true

/-- An agent's instruction with what its run or rotation notes of it. -/
def State.issue (s : State) (a : AgentId) : Out :=
  match a with
  | .wave id k =>
    let s := if s.runBegins id k then s.beginRun id k else s
    (match s.runAgent a with
     | .next t => .next (t.noteRun s id k)
     | r => r)
  | .gaffer p => (s.putCore (parCore p) { s.core (parCore p) with lastPar := p.entry }).runAgent a
  | a => s.runAgent a

/-- A split's header and decision steps are part of its run: only the split that may issue enters a clause; any other may only
find that it cannot. -/
def State.headerMay (s : State) (a : AgentId) : Bool :=
  match a with
  | .wave id k => s.mayIssue a || !(((look id s.waves).map fun w => s.splitReady id w k).getD false)
  | _ => true

/-- A clause entered on behalf of an agent: for a split this begins a run, or goes on with one. -/
def State.enterClause (s : State) (a : AgentId) : Out :=
  match a with
  | .wave id k =>
    if !s.headerMay (.wave id k) then .next s else
    let s := if s.runBegins id k && s.mayIssue (.wave id k) then s.beginRun id k else s
    execClauseHeaderWaitMet (.wave id k) s
  | a => execClauseHeaderWaitMet a s

/-- The run of a split that has consumed the decision of a UNI clause: the clause's BND ends it, as does its branch, and a header that the
split cannot enter now (R176). -/
def State.decisionRun (s : State) (old : State) (id : WaveId) (k : Nat) : State :=
  match old.actorOf (.wave id k), look id s.waves with
  | some (.wave a w sp), some w1 =>
    if w1.dcons = w.dcons || s.runBegins id k then s else
    let bnd := match old.fetchWord (.wave a w sp) sp.pos.hofs with
      | .word h => hdrBnd h
      | _ => false
    let branch := ((w.par.bind fun p => look p old.pars).bind fun r => r.nextFor w).any fun d => d.outcome.isSome
    let ready := (nth w1.slots k none).any fun x => s.headerReady (.wave id k) w1 x
    if bnd || branch || !ready then s.endRun id k else s
  | _, _ => s

/-- A decision consumed on behalf of an agent. -/
def State.takeDecision (s : State) (a : AgentId) : Out :=
  if !s.headerMay a then .next s else
  match a, execDecisionConsume a s with
  | .wave id k, .next t => .next (t.decisionRun s id k)
  | _, o => o

/-- A step of the part other than an instruction's issue. -/
def State.fire (s : State) (i : Instr) : Out :=
  match i with
  | .clauseHeaderWaitMet a => s.enterClause a
  | .decisionConsume a => s.takeDecision a
  | i => exec i s

/-! ## Packets (R316, R319, R323, R328) -/

/-- The step that takes a packet of a user queue (R319). -/
def packetStep (r : QueueRef) (p : Packet) : State → Out :=
  match p.type with
  | 0x01 => execDispatch r p
  | 0x02 => execGraph r p
  | 0x03 => execTsig r p
  | 0x04 => execTwait r p
  | 0x05 => execCkpt r p
  | _ => execNopk r p

/-- The step that takes a packet of the management queue (R323, R357); a service that no row names is refused by the first. -/
def serviceStep (p : Packet) : State → Out :=
  match Word.bits (p.word 0) 15 0 with
  | 0x02 => execCtxDestroy p
  | 0x03 => execCtxUpdate p
  | 0x04 => execQueueCreate p
  | 0x05 => execQueueReset p
  | 0x06 => execGraphLoad p
  | 0x07 => execGraphUnload p
  | 0x08 => execFinalise p
  | 0x09 => execInvalidate p
  | 0x0A => execObjClear p
  | 0x0B => execCkptInterval p
  | 0x0C => (match Word.bits (p.word 1) 7 0 with
    | 0x02 => execDebugBkset p
    | 0x03 => execDebugBkclr p
    | 0x04 => execDebugHalt p
    | 0x05 => execDebugResume p
    | 0x06 => execDebugStep p
    | 0x07 => execDebugDump p
    | 0x08 => execDebugLoad p
    | 0x09 => execDebugKill p
    | _ => execDebugSet p)
  | 0x0D => execFrameAlloc p
  | 0x0E => execFrameFree p
  | _ => execCtxCreate p

/-- The next packet of a queue whose doorbell has been taken is consumed, if it can be. -/
def State.drain (s : State) (k : QKey) : Out :=
  match s.queue k with
  | none => .next s
  | some q =>
    if !q.bell then .next s
    else if q.status != 0 || q.rptr == q.wptr then .next (s.putQueue k { q with bell := false })
    else match s.readPacket k q with
      | .wait s => .next s
      | .bad s sub va => .next (s.queueHalts k sub va)
      | .ok (_, none) => .next (s.putQueue k { q with bell := false })
      | .ok (t, some p) => match k with
        | some r => packetStep r p t
        | none => serviceStep p t

/-! ## The part's own steps, in a fixed order (log entry 1) -/

/-- The steps that an operation in flight waits for. -/
def opSteps (a : AgentId) (o : Op) : List (State → Out) :=
  match o.kind, a with
  | .load _, _ | .uld, _ => [execHomeRead a o.id, execLoadReply a o.id]
  | .store, _ => [execHomeWrite a o.id, execStoreAck a o.id]
  | .cctl _, _ => [execStoreAck a o.id]
  | .atomic _ _ _, _ => [execBundleArrive a o.id, execAtomReply a o.id]
  | .ocall _, _ => [execBundleArrive a o.id, execOcallReply a o.id]
  | .mdrain _, _ => [execTileDrain a o.id, execBundleArrive a o.id]
  | .fpFunction, _ => [execFpFunctionResult a o.id]
  | .trace, _ | .sample, _ | .pidld, _ => [execTexReply a o.id]
  | .visr, .gaffer p => [execVisrSlotAction p o.id]
  | _, _ => []

/-- The agents with a split or parison. -/
def State.agents (s : State) : List AgentId :=
  (s.waves.flatMap fun e => ((List.range 4).filter fun k => (nth e.2.slots k none).isSome).map fun k => AgentId.wave e.1 k)
    ++ (s.pars.map fun e => AgentId.gaffer e.1)
    ++ [Die.kapael, Die.amdukor].flatMap fun d =>
      (((s.die d).crucibles.filter fun c => c.running && !c.done).map fun c => AgentId.combiner ⟨d, c.slice⟩)
        ++ ((s.die d).fw.filter fun e => (nth e.2.wave.slots 0 none).isSome).map fun e => AgentId.firmware d e.1

/-- The register groups that a stalled instruction needs filled. -/
def State.fillSteps (s : State) (a : AgentId) : List (State → Out) :=
  match a, s.actorOf a with
  | .wave id _, some (.wave b w sp) =>
    if sp.stall != .fill then [] else
    match s.readInstr (.wave b w sp) with
    | .instr i =>
      let f := i.form
      let due (g : Nat) : Bool := (List.range 4).any fun k => match nth w.vmap (4 * g + k) .undef with | .absent _ => true | _ => false
      (dedup (((f.vreads ++ f.vwrites).map (· / 4)).filter due)).map fun g => execRegisterFill id g
    | _ => []
  | _, _ => []

/-- The steps of agents: clauses, decisions, fences, what operations wait for, fills. -/
def State.agentSteps (s : State) : List (State → Out) :=
  (s.agents.flatMap fun a =>
    [(·.takeDecision a), (·.enterClause a), execFenceTimePassed a, execMvHoldRelease a] ++ s.fillSteps a)
  ++ s.holders.flatMap fun a => (s.agentOps a).flatMap (opSteps a)

/-- The steps of a die: walks, homes, crucibles, engines, firmware and the blowpipe. -/
def State.dieSteps (s : State) (d : Die) : List (State → Out) :=
  let x := s.die d
  (x.walks.filterMap fun e => if e.2 = .pending then some (execPageWalk e.1) else none)
  ++ [execContentionSweep d, execCounterDecay d, execBudgetReport d, execRefreshPhaseAdvance d, execHeartbeat d, execHeartbeatTimeout d, execResyncTimeout d]
  ++ (x.tags.filterMap fun t => t.grantTo.map fun g => execOwnershipGrant ⟨d, g.core⟩ ⟨t.home, t.la⟩)
  ++ (x.crucibles.flatMap fun c => [execFormBatch ⟨d, c.slice⟩, execBatchPerform ⟨d, c.slice⟩])
  ++ (x.marvers.map fun e => execTileOp ⟨d, e.1⟩)
  ++ (x.jobs.flatMap fun j => [execJobStart d j.id, execJobComplete d j.id])
  ++ ((List.range 12).flatMap fun n => [execTrapDeliver d n, execFirmwareEventTake d n])
  ++ ((s.pipe (otherDie d)).unacked[(s.pipe (otherDie d)).written]?.toList.map fun m => execBlowpipeHeaderWrite d (m.seq.toNat % 4096) m)
  ++ (match s.nextType d with
    | some ty => [deliverStep d ty]
    | none => if (s.pipe d).shoots.isEmpty then [] else [execShoot d])
  ++ [execAckTimer d]
where
  /-- The step that takes a message of a type. -/
  deliverStep (d : Die) (ty : Nat) : State → Out :=
    match ty with
    | 0x01 => execRdReq d
    | 0x02 => execRdData d
    | 0x03 => execWrReq d
    | 0x04 => execWrAck d
    | 0x05 => execCombReq d
    | 0x06 => execCombRsp d
    | 0x07 => execPtRd d
    | 0x08 => execPtCas d
    | 0x09 => execPtData d
    | 0x0A => execShoot d
    | 0x0B => execShootAck d
    | 0x0C => execHomeReq d
    | 0x0D => execHomeGrant d
    | 0x0E => execHomeDeny d
    | 0x0F => execHomeData d
    | 0x10 => execHomeDone d
    | 0x11 => execMigData d
    | 0x12 => execCkptData d
    | 0x13 => execCkptEnd d
    | 0x14 => execCkptAck d
    | 0x15 => execTokSig d
    | _ => fun s => .next (s.dropMessage d)

/-- The steps of launches, blocks, contexts and page moves. -/
def State.workSteps (s : State) : List (State → Out) :=
  (s.launches.flatMap fun l =>
    [execTwaitGateMet l.id, execLaunchComplete l.id]
    ++ (List.range (coreCount l.die)).flatMap fun c =>
      [execBlockAdmit ⟨l.die, c⟩ l.id, execDispatchReserve ⟨l.die, c⟩ l.id, execReservePreempt ⟨l.die, c⟩])
  ++ (s.saved.flatMap fun v => (List.range (coreCount .kapael)).map fun c => execBlockRestore v.id ⟨.kapael, c⟩)
  ++ (s.saved.flatMap fun v => (List.range (coreCount .amdukor)).map fun c => execBlockRestore v.id ⟨.amdukor, c⟩)
  ++ (s.blocks.flatMap fun e => [execPreempt e.1, execSaveRetry e.1, execSnapshot e.1, execRollback e.1])
  ++ (s.pars.map fun e => execParisonMerge e.1)
  ++ (s.ctxs.flatMap fun c => [execBudgetExhausted c.num, execBudgetPeriodStart c.num, execCkptTimer c.num, execDockMigration c.num])
  ++ (s.moves.map fun m => execMoveStart ⟨m.ctx, m.va⟩ m.dst)
  ++ (if s.undockReq then [execUndock] else [])
  ++ (if s.linkTimedOut then [execLinkLost] else []) ++ (if s.cable.isSome then [State.trainCable] else [])
  ++ s.blocks.flatMap fun e => (List.range 8).map fun p => execProfileSample ⟨e.1.die, e.1.core⟩ p

/-- The first of some steps that changes the state. -/
def State.firstThat (s : State) : List (State → Out) → Option Out
  | [] => none
  | i :: t => match i s with
    | .next u => if u = s then State.firstThat s t else some (.next u)
    | o => some o

/-- The first of some agents that may issue and does. -/
def State.firstIssue (s : State) : List AgentId → Option Out
  | [] => none
  | a :: t =>
    if !s.mayIssue a then State.firstIssue s t else
    match s.issue a with
    | .next u => if { u with cur := s.cur } = s then State.firstIssue s t else some (.next u)
    | o => some o

/-- The first of some queues whose packet changes the state. -/
def State.firstPacket (s : State) : List QKey → Option Out
  | [] => none
  | k :: t => match s.drain k with
    | .next u => if u = s then State.firstPacket s t else some (.next u)
    | o => some o

/-- A list turned by some places. -/
def turned {α : Type} (n : Nat) (l : List α) : List α := l.drop (n % max 1 l.length) ++ l.take (n % max 1 l.length)

/-- What moves when the agenda names nothing: the part's own steps, packets, instructions in rotation, the re-reads of waits;
else only time passes. A Kapael whose boot has failed stands still (R388). -/
def State.ownStep (s : State) : Out :=
  if s.kap.bootFail then .fault (.bootFail .kapael) else
  match s.firstThat s.agentSteps with
  | some o => o
  | none => match s.firstThat (s.dieSteps .kapael ++ s.dieSteps .amdukor ++ s.workSteps) with
    | some o => o
    | none => match s.firstPacket (none :: s.queues.map fun e => some e.1) with
      | some o => o
      | none => match s.firstIssue (turned s.nsteps s.agents) with
        | some o => o
        | none => match s.firstThat (s.agents.map fun a => execWaitvReread a) with
          | some o => o
          | none => .next s

/-- What a move of the agenda does; one that may not be made now does nothing. -/
def State.move (s : State) (m : Move) : Out :=
  if s.kap.bootFail && !wakes m then .fault (.bootFail .kapael) else
  match m with
  | .run a => if s.mayIssue a then s.issue a else .next s
  | .event i => if i.wf && !isWord i then s.fire i else .next s
  | .hostWrite addr bytes => .next { s with memH := Memory.writeN s.memH addr bytes }
  | .upset f => .next (if s.flawIdle f then s else { s with flaws := s.flaws ++ [f] })
  | .slotBegin d b => execSlotBegin d b s
  | .slotDone d f => execSlotDone d f s
  | .shutdown d => execShutdown d s
  | .hostEnds width speed => .next { s with hostEnds := (width, speed) }
where
  /-- A die that has halted wakes by a power-on reset alone. -/
  wakes (m : Move) : Bool := match m with
    | .event i => (match i with
      | .powerOnReset _ => true
      | _ => false)
    | _ => false
  /-- Whether a row is an instruction, which only its agent's position brings up. -/
  isWord (i : Instr) : Bool := match i.form with
    | .step => false
    | _ => true

/-! ## Time (R80) -/

/-- Time passes: a nanosecond and a clock, and as much more as the configuration leaves free (log entry 2); contexts are charged
for the cores their work holds, and what the time itself brings is done: counters decay, heartbeats are written, PTM is repeated (R80, R132,
R137, R334). -/
def State.tick (s : State) : State :=
  let dt := 1 + Config.elapsed s.nsteps
  let dc := 1 + Config.clocks s.nsteps
  let go (d : Bool) (dt : Nat) (x : DieState) : DieState :=
    let life := if x.boot = 3 then x.life.aged x.temp (Config.voltBand d s.nsteps) dt else x.life
    ({ x with ptime := x.ptime + BitVec.ofNat 64 dt, cycle := x.cycle + BitVec.ofNat 64 dc, life := life }.passed x.ptime.toNat).decayed
  let left := (slewOf s.amd.slew s.amd.slewRest dt).2
  let amd := { s.amd with slew := left.1, slewRest := left.2 }
  let s := { s with nsteps := s.nsteps + 1, kap := go false dt s.kap, amd := go true (s.amdAdvance dt) amd
                    ctxs := s.ctxs.map fun c => s.charged .amdukor dt (s.charged .kapael dt c) }
  ((s.beat .kapael).beat .amdukor).ptmAgain

end Sys2Proof.Machine
end

