-- ==== Sys2Proof/Machine/Place.lean ====
section
/-! DEFINITION. How one step ends; and an instruction placed where the next step fetches it (log entry 5). -/

namespace Sys2Proof.Machine

/-- A step's answer once what is over has been cleared away and time has passed. -/
def afterStep (o : Out) : Out :=
  match o with
  | .next s => .next s.tidy.tick
  | .fault f => .fault f
  | .refused r => .refused r

/-! ## Placing an instruction (log entry 5) -/

/-- The words of an instruction as the opcode table numbers its bits: a second word of zeros where it has one and the table gives it no
bits. -/
def tableWords (nbits w : Nat) : List Word :=
  let lo : Word := BitVec.ofNat 32 (w % 2 ^ nbits)
  let hi : Word := BitVec.ofNat 32 (w % 2 ^ nbits / 2 ^ 32)
  if wOf lo then [lo, hi] else [lo]

/-- Where the placed instruction's image stands: its virtual address, and its physical address in Kapael's DRAM. -/
def placeVa : Nat := 0x10000
@[inherit_doc placeVa] def placePa : Nat := 0x10000

/-- The leaf of the code page: a 4 KiB READ-SHARED page of Kapael with R = 1, X = 1 and A = 1 (R19). -/
def placeLeaf : DWord := BitVec.ofNat 64 (1 + 2 ^ 6 + 2 ^ 8 + 2 ^ 10 + 2 ^ 17 + placePa / 4096 * 2 ^ 20)

/-- The clause of one instruction: a header of a class that admits it, then its words (R171, R174). -/
def placeClause (ws : List Word) : List Word :=
  let w := ws.headD 0
  let cls := ((List.range 7).find? fun c => classAdmits c (opcOf w) (mlOf w).toNat).getD 0
  BitVec.ofNat 32 (ws.length + cls * 2 ^ 4 + 2 ^ 8) :: ws

/-- The agent that the placed instruction is for: the gaffer for UNI instructions, a combiner wave for those of methods, a firmware
core for the trap window, else a wave. -/
def placeAgent (ws : List Word) : AgentId :=
  let w := ws.headD 0
  let opc := opcOf w
  if uniClass opc (mlOf w).toNat then .gaffer ⟨.kapael, 0, 0⟩
  else if opc = 0x98 ∨ opc = 0x99 ∨ opc = 0x9A ∨ opc = 0x9B then .combiner ⟨.kapael, 0⟩
  else if opc = 0xE2 ∨ opc = 0xE3 ∨ opc = 0xE4 then .firmware .kapael 0
  else .wave ⟨.kapael, 0, 0, 0⟩ 0

/-- The position inside the placed clause. -/
def placePos (ws : List Word) : Pos := { hdr := (placeClause ws).headD 0, inside := true, pc := 1 }

/-- A wave whose one split, with all lanes active, stands at the placed instruction. -/
def placeWave (ws : List Word) : Wave :=
  { slots := [some { pos := placePos ws, act := 0xFFFFFFFF }, none, none, none] }

/-- An image with the placed clause in a context, its page at hand in the die's TLB, and its words in memory. -/
def State.placeImage (s : State) (ws : List Word) : State :=
  let im : Image := { id := 0, va := placeVa - 128, codew := (placeClause ws).length, dataVa := placeVa + 64
                      sps := [{ wofs := 0, fwofs := 0, vlive := 0, slive := 0, plive := 0 }], entries := [{ wofs := 0 }] }
  let e : TlbEntry := { core := none, ctx := 0, base := placeVa, size := 4096, leaf := placeLeaf, entryPa := 0 }
  { s with
    ctxs := { num := 0, desc := {}, images := [im] } :: s.ctxs.filter fun c => c.num != 0
    kap := { s.kap with tlb := e :: s.kap.tlb }, memK := Memory.writeN s.memK placePa (bytesOfWords (placeClause ws)) }

/-- An instruction placed, with the agent that runs it next. -/
def State.placeWords (s : State) (ws : List Word) : State :=
  let a := placeAgent ws
  let s := { s with agenda := [.run a] }
  match a with
  | .gaffer p =>
    { s.placeImage ws with pars := put p { block := ⟨.kapael, 0, 0⟩, box := ⟨0, 0, 0, 0, 0, 0⟩, pos := placePos ws } s.pars }
  | .combiner r => (s.placeImage ws).putCrucible r { slice := r.slice, running := true, wave := placeWave ws }
  | .firmware d n =>
    let s := s.putFw d n { busy := true, wave := placeWave ws }
    { s with memK := Memory.writeN s.memK (fwCode .kapael 0) (bytesOfWords (placeClause ws)) }
  | .wave id k =>
    let c : CoreRef := ⟨id.die, id.core⟩
    let m := s.core c
    { (s.placeImage ws).putCore c { m with run := m.run.set id.part (some (id.slot, k)) } with waves := put id (placeWave ws) s.waves }
  | .none => s

end Sys2Proof.Machine
end

