-- ==== Sys2Proof/Machine/Step.lean ====
section
/-! DEFINITION. One step of the machine, and the placing of one instruction so that the next step runs it. -/

namespace Sys2Proof.Machine

/-- One step: the next move of the agenda, or what the part does of itself (log entry 1); then what is over is cleared away and time
passes. -/
def step (s : State) : Host.Outcome State Fault Refusal :=
  match s.agenda with
  | m :: t => afterStep ({ s with agenda := t }.move m)
  | [] => afterStep s.ownStep

namespace State

/-- An instruction placed at the next agent's position, as `bits` of it by the opcode table and zeros above (log entry 5). -/
def withFetchWord (s : State) (nbits w : Nat) : State := s.placeWords (tableWords nbits w)

end State

end Sys2Proof.Machine
end

