-- ==== Sys2Proof/Safety.lean ====
section
/-! DEFINITION. What statements about runs are written in: when an agent runs an instruction to its effect, what a byte of
memory reads as, what holds of the memories and of the walker's table, and which steps end a run. -/

namespace Sys2Proof.Machine

/-! ## An instruction that runs (R173, R186, R190) -/

/-- Whether a combiner wave may still execute an instruction: fewer than 256 have been counted (R121). -/
def State.stepsLeft (s : State) (a : AgentId) : Bool :=
  match a with
  | .combiner r => decide ((s.crucible r).steps < 256)
  | _ => true

/-- A wave's agent (of a partition, a combiner or a firmware core) is the one to run an instruction, from the split in its slot, and no
check stalls or traps it; no soft error stands anywhere (R51, R362). -/
def Runs (s : State) (i : Instr) (a : AgentId) (w : Wave) (sp : Split) : Prop :=
  s.cur = a ∧ s.actorOf a = some (.wave a w sp) ∧ gate (.wave a w sp) i.form = .go ∧ s.stepsLeft a = true ∧ s.flaws = []

/-- The gaffer is the one to run an instruction for a parison, and no check stalls or traps it. -/
def RunsPar (s : State) (i : Instr) (p : ParId) (r : Parison) : Prop :=
  s.cur = .gaffer p ∧ look p s.pars = some r ∧ gate (.par p r) i.form = .go ∧ s.flaws = []

/-- The gaffer stands at an instruction of a UNI clause for a parison, and none of R190's checks before GUARD stops it. -/
def UniAtGuard (s : State) (i : Instr) (p : ParId) (r : Parison) : Prop :=
  s.cur = .gaffer p ∧ look p s.pars = some r ∧ (Actor.par p r).held = none ∧ hdrCls r.pos.hdr = 6
    ∧ rawCheck (.par p r) i.form.opc i.form.ml i.form.len = none ∧ i.form.oneWord = false ∧ i.form.reserved = false
    ∧ i.form.pats = (0, 0, 0)

/-- The state in which a wave's instruction has its effect: a combiner's instruction is counted first (R121). -/
def State.counted (s : State) (a : AgentId) (w : Wave) (sp : Split) : State := (s.countStep (.wave a w sp)).1

/-- In a wave, an instruction completes with an effect. -/
def WaveEffect (i : Instr) (e : State → AgentId → Wave → Split → State) : Prop :=
  ∀ s a w sp, Runs s i a w sp → exec i s = .next (e (s.counted a w sp) a w sp)

/-- For a parison, an instruction completes with an effect. -/
def ParEffect (i : Instr) (e : State → ParId → Parison → State) : Prop :=
  ∀ s p r, RunsPar s i p r → exec i s = .next (e s p r)

/-- An instruction computes each lane of its destination by `fn` in a wave, and follows `rule` in form mode (R151, R201). -/
def VecEffect (i : Instr) (rule : FormRule) (fn : VFn) : Prop :=
  WaveEffect i (vecWave i.form fn) ∧ ParEffect i (vecPar i.form rule fn)

/-! ## Frames -/

/-- Only one wave differs. -/
def OnlyWave (s t : State) (id : WaveId) : Prop :=
  ({ t with waves := s.waves } : State) = s ∧ ∀ id', id' ≠ id → look id' t.waves = look id' s.waves

/-- Only one parison differs. -/
def OnlyPar (s t : State) (p : ParId) : Prop :=
  ({ t with pars := s.pars } : State) = s ∧ ∀ q, q ≠ p → look q t.pars = look q s.pars

/-- What an instruction that completes in form mode changes: only its own parison differs, in its position, in the names that it writes or
reads for the last time, and in the predicates of a list; the core's form file keeps the form of every slot that anything but these names
holds. -/
def FormFrame (s t : State) (p : ParId) (r : Parison) (f : Form) (ps : List (Nat × Bool)) : Prop :=
  ({ t with pars := s.pars, forms := s.forms } : State) = s ∧ (∀ q, q ≠ p → look q t.pars = look q s.pars)
    ∧ (∀ c, c ≠ parCore p → t.formFile c = s.formFile c)
    ∧ (∀ k, (s.setPar p { r with nmap := (f.vwrites ++ f.lastReads).foldl (fun m n => m.set n none) r.nmap }).slotUsed (parCore p) k = true →
        look k (t.formFile (parCore p)) = look k (s.formFile (parCore p)))
    ∧ ∃ r', look p t.pars = some r' ∧ r'.pos = r.pos.advance f.len
      ∧ (∀ n, n ∉ f.vwrites → n ∉ f.lastReads → nth r'.nmap n none = nth r.nmap n none)
      ∧ (∀ n, n ∉ ps.map (·.1) → nth r'.pmap n (.uni false) = nth r.pmap n (.uni false))
      ∧ ({ r' with nmap := r.nmap, pmap := r.pmap, pos := r.pos, ahead := r.ahead, stall := r.stall } : Parison) = r

/-- Every byte of the three DRAMs and the two weight stores reads as before, and the core stores of the blocks are unchanged. -/
def SameMemory (s t : State) : Prop :=
  (∀ h a, Memory.read (t.mem h) a = Memory.read (s.mem h) a) ∧ (∀ d a, Memory.read (t.ws d) a = Memory.read (s.ws d) a)
    ∧ t.blocks = s.blocks

/-- Whether an address lies in a line of a home. -/
def inLine (l : LineRef) (h : Home) (a : Nat) : Prop := h = l.home ∧ l.la * 128 ≤ a ∧ a < l.la * 128 + 128

/-! ## Accesses (R78, R91, R112, R255) -/

/-- Whether an actor may make an access of an order modifier now: nothing holds its accesses, and its release is met. -/
def State.mayAccess (s : State) (x : Actor) (ord : Ord) (scope : Nat) : Prop :=
  x.ordered = none ∧ (ord = .release ∨ ord = .acqRel → s.fenceMet x scope = true)

/-- The state in which an access of an order modifier is made: its release is done first. -/
def State.released (s : State) (x : Actor) (ord : Ord) (scope : Nat) : State :=
  if ord = .release ∨ ord = .acqRel then s.fenceDone x scope else s

/-- Every lane of a wave's access lands at a place, and none has an atomic still out on the line. -/
def Lands (s : State) (a : AgentId) (w : Wave) (acc : Access) (space align : Nat) (eas : List (Nat × Nat))
    (l : List (Nat × Nat × Place × DWord)) : Prop :=
  s.locateLanes a w.ctx w.block acc space align eas = .places l ∧ (∀ e ∈ l, atomicOut w.ops e.1 e.2.2.1 = false) ∧ s.flaws = []

/-- Whether a byte of a core store is one that some lane of a list of places stores to. -/
def storedTo (l : List (Nat × Nat × Place × DWord)) (n : Nat) (ref : BlockRef) (b : Nat) : Prop :=
  ∃ e ∈ l, ∃ ofs, e.2.2.1 = .scratch ref ofs ∧ ofs ≤ b ∧ b < ofs + n

/-! ## Packets and services (R317 to R320, R323) -/

/-- A packet of a user queue is taken: its checks pass, it is consumed, and the state is the one in which it acts. -/
def Takes (s : State) (q : QueueRef) (p : Packet) (ty : Nat) (fits : Bool) (t : State) : Prop :=
  s.takePacket (some q) p ty fits = .act t

/-- A management packet of a service is taken, and names a live context. -/
def Serves (s : State) (p : Packet) (code args : Nat) (c : Context) : Prop :=
  svcCode p = code ∧ s.ctx (svcCtx p) = some c ∧ p.len = 1 + args ∧ ∃ t, s.takePacket none p 0x10
    ((p.len == 1 + args) && decide (1 ≤ p.len) && Word.bits (p.word 0) 31 24 == 0) = .act t

/-- A DEBUG packet of an operation is taken, and names a live context that admits the operation. -/
def ServesDebug (s : State) (p : Packet) (op args : Nat) (c : Context) : Prop :=
  svcCode p = 0x0C ∧ debugOp p = op ∧ s.ctx (svcCtx p) = some c ∧ (op ≠ 1 → c.dbg.enable = true) ∧ p.len = 2 + args
    ∧ Word.bits (p.word 1) 31 8 = 0 ∧ ∃ t, s.takePacket none p 0x10
    ((p.len == 2 + args && Word.bits (p.word 1) 31 8 == 0) && decide (1 ≤ p.len) && Word.bits (p.word 0) 31 24 == 0) = .act t

/-! ## What holds of every state a step leaves -/

/-- A fault that the page walker has recorded is still awaited by something on the core that asked for the walk. -/
def State.walksAwaited (s : State) : Bool :=
  [Die.kapael, Die.amdukor].all fun d => (s.die d).walks.all fun e => match e.2 with
    | .fault _ _ => s.walkAwaited e.1
    | _ => true

/-- The records of blocks that a checkpoint holds. -/
def Checkpoint.records (k : Checkpoint) : List Saved := k.blocks ++ k.snaps

/-- The records of blocks that a context holds: those of its checkpoints, and those Kapael keeps while it arrives on Amdukor. -/
def Context.records (c : Context) : List Saved :=
  ((c.mirror.map (·.records)).getD []) ++ ((c.ckpt.map (·.records)).getD []) ++ ((c.kept.map (·.snaps)).getD [])

/-- Every record of a block that the part holds. -/
def State.records (s : State) : List Saved := s.saved ++ s.snaps ++ s.retained ++ s.ctxs.flatMap Context.records

/-- Every memory of the part, and every scratchpad of a record, stands in its one canonical form. -/
def State.memoriesWf (s : State) : Bool :=
  Memory.wf s.memK && Memory.wf s.memA && Memory.wf s.memH && Memory.wf s.wsK && Memory.wf s.wsA
    && (s.blocks.all fun e => Memory.wf e.2.scratch) && s.records.all fun v => Memory.wf v.blk.scratch

/-- A safe run has only next states: a step ends it only where a die's boot has failed (R388). -/
def safeStep (s : State) : Prop := ∃ t, step s = .next t

end Sys2Proof.Machine
end

