-- ==== Sys2Proof/Certificates/Slice0/Obligations.lean ====
section
/-! DEFINITION. The statements for the provers. -/

open Sys2Proof Sys2Proof.Machine

/-! ## Words and their decoding -/

/-- Decoding the words of a well-formed instruction gives it back, whatever its operands (R177 to R184): every field of word 0, of the
general word 1, of the immediate, memory, method and control forms. -/
def Obligations.DecodeOfEncode : Prop :=
  ∀ i : Instr, i.wf = true → i.form ≠ .step → decode (encode i) = .ok i ∧ decodeBytes (encodeBytes i) = .ok i

/-- Words written out from the encodings of the specification decode to the instructions they stand for (R177 to R184), or are
refused (R190, R191); those in the comments are the specification's own examples. -/
def Obligations.KnownWordsDecode : Prop :=
  -- NOP (R213); FENCE.PAIR (R264); CSRR v2, PTIME (R312); UBRA (R294); STBLK.GLB [v2+64], v4 (R259)
  decode [0x00000000] = .ok (.nop { d := 0, a := 0, b := 0, lra := false, lrb := false, ml := 0, w1 := none })
  ∧ decode [0x86800000, 0x000C0180] = .ok (.fence
      { d := 0, a := 0, b := 0, lra := false, lrb := false, ml := 0, ofs := 0, gp := 24, gn := false, la := 0, scope := 3, ord := 0, space := 0, pol := 0 })
  ∧ decode [0xE0040160] = .ok (.csrr { d := 2, a := 0, b := 11, lra := false, lrb := false, ml := 0, w1 := none })
  ∧ decode [0xDDFFFFFA, 0x00300000] = .ok (.ubra { ofs := 0x7FFFFA, rsv := 0, gp := 3, gn := false, kind := 0, aux := 0 })
  ∧ decode [0x83801080, 0x001C0000] = .ok (.stblk
      { d := 0, a := 2, b := 4, lra := false, lrb := false, ml := 0, ofs := 1, gp := 24, gn := false, la := 0, scope := 0, ord := 0, space := 0, pol := 0 })
  -- IADD v3, v1, v2 with the last read of v1 (R177): OPC 0x10, D 3, A 1, B 2, LRA 1
  ∧ decode [0x10060850] = .ok (.iadd { d := 3, a := 1, b := 2, lra := true, lrb := false, ml := 0, w1 := none })
  -- an opcode the map leaves free (R191), a control form in one word (R178), a method code above 0xC (R182), GN with GP = 24 (R179)
  ∧ decode [0x01000000, 0] = .error .oneWord
  ∧ decode [0x0D000000] = .error .opcode
  ∧ decode [0x90800000, 0xD18C0000] = .error .reserved
  ∧ decode [0x10860850, 0x01880000] = .error .guard

/-! ## One step -/

/-- A word of code is the word that memory holds at the address its image, its word offset and the translation of a fetch give (R131, R171).
When the words at the position of an agent that may issue decode to an instruction which stands whole in its clause, in a class that
admits it, the step that runs the agent is that instruction's meaning, with what the step does around it (R24, R173, R176, R190; log entry 1): the run
or the rotation is noted, an access that waited for its walk is made again once a walk has ended, what is over is cleared away, time
passes. -/
def Obligations.StepRunsDecodedInstruction : Prop :=
  (∀ (s : State) (x : Actor) (n : Nat) (im : Image) (leaf : DWord) (pa : Nat), x.firmware = false →
    s.image x.ctx x.image = some im → s.translate x.agent x.ctx (im.va + 128 + 4 * n) .fetch = .hit leaf pa → serverOf (leafHome leaf) = x.core.die →
    s.fetchWord x n = .word (BitVec.ofNat 32 (natOf (Memory.readN (s.mem (leafHome leaf)) pa 4))))
  ∧ ∀ (s u v : State) (a : AgentId) (t : List Move) (x : Actor) (i : Instr) (w w1 : Word),
    s.agenda = .run a :: t → s.kap.bootFail = false → ({ s with agenda := t } : State).mayIssue a = true →
    u = (match a with
      | .wave id k => if ({ s with agenda := t } : State).runBegins id k then ({ s with agenda := t } : State).beginRun id k
          else { s with agenda := t }
      | .gaffer p => ({ s with agenda := t } : State).putCore (parCore p)
          { ({ s with agenda := t } : State).core (parCore p) with lastPar := p.entry }
      | _ => { s with agenda := t }) →
    u.walkWaits a = false → v = { u with cur := a }.unwalk a →
    v.actorOf a = some x → x.held = none → v.fetchWord x x.pos.pc = .word w →
    rawCheck x (opcOf w) (mlOf w).toNat (if wOf w then 2 else 1) = none →
    (if wOf w then v.fetchWord x (x.pos.pc + 1) = .word w1 ∧ decode [w, w1] = .ok i else decode [w] = .ok i) →
    Machine.step s = afterStep (match exec i v with
      | .next y => .next (match a with
        | .wave id k => y.noteRun u id k
        | _ => y)
      | o => o)

/-- The part stands still once no firmware slot of Kapael passes: every step but its power-on reset is the halt (R388). -/
def Obligations.FailedBootHalts : Prop :=
  ∀ s : State, s.kap.bootFail = true → s.agenda.head? ≠ some (.event (.powerOnReset .kapael)) →
    s.agenda.head? ≠ some (.event (.powerOnReset .amdukor)) → Machine.step s = .fault (.bootFail .kapael)

/-! ## Reset -/

/-- What reset leaves of the state the specification gives values for: both dies before step 1 of their boot, pair time 0 and slow
refresh, nothing resident, no context, queue, lease, ownership or contention record, caches and TLBs empty, the pair undocked, the link
down, and every register of the host function with a reset value at it (R80, R102, R324, R385, R391, R394). Every memory stands in its one canonical form, nothing listed
(log entry 3), and no walk fault is recorded. -/
def Obligations.ResetState : Prop :=
  ((∀ d, (State.reset.die d).boot = 0 ∧ (State.reset.die d).ptime = 0 ∧ (State.reset.die d).l1 = [] ∧ (State.reset.die d).tlb = []
      ∧ (State.reset.die d).tags = [] ∧ (State.reset.die d).folds = [] ∧ (State.reset.die d).jobs = [] ∧ (State.reset.die d).crucibles = []
      ∧ (State.reset.die d).fast = false)
    ∧ State.reset.waves = [] ∧ State.reset.pars = [] ∧ State.reset.blocks = [] ∧ State.reset.ctxs = [] ∧ State.reset.queues = []
    ∧ State.reset.launches = [] ∧ State.reset.mq = none ∧ State.reset.pairState = 0 ∧ State.reset.link = .down
    ∧ State.reset.docked = false ∧ State.reset.mqctl = 0 ∧ State.reset.mqstatus = 0 ∧ State.reset.mqwptr = 0 ∧ State.reset.mqcrptr = 0
    ∧ State.reset.attctl = 0 ∧ (∀ h, (State.reset.head h).hctl = 0 ∧ (State.reset.head h).hstatus = 0 ∧ (State.reset.head h).flip = 0))
  ∧ (State.reset.memoriesWf = true ∧ State.reset.walksAwaited = true)

/-- Whatever the state before, no step leaves a fault in the walker's table that nothing on the asking core awaits: a fault recorded for
a walk is delivered to the work that met it or forgotten, so that it is never given to later work (R22, R24). -/
def Obligations.EveryStepLeavesWalksAwaited : Prop :=
  ∀ s t : State, Machine.step s = .next t → t.walksAwaited = true

/-! ## Vector instructions: what each lane gets (R201) -/

/-- The integer instructions complete in waves and in form mode with the results of R215 and R216. -/
def Obligations.IntegerInstructionsComplete : Prop :=
  (∀ x, VecEffect (.iadd x) addForm (each1 fun i => i.a0 + i.b0))
  ∧ (∀ x, VecEffect (.iaddImm x) addForm (each1 fun i => i.a0 + i.b0))
  ∧ (∀ x, VecEffect (.isub x) subForm (each1 fun i => i.a0 - i.b0))
  ∧ (∀ x, VecEffect (.isubImm x) subForm (each1 fun i => i.a0 - i.b0))
  ∧ (∀ x, VecEffect (.imul x) mulForm (each1 fun i => i.a0 * i.b0))
  ∧ (∀ x, VecEffect (.imulImm x) mulForm (each1 fun i => i.a0 * i.b0))
  ∧ (∀ x, VecEffect (.imulh x) .uniform
      (each1 fun i => BitVec.ofInt 32 (numOf (x.ml.getLsbD 0) i.a0 * numOf (x.ml.getLsbD 0) i.b0 / 2 ^ 32)))
  ∧ (∀ x, VecEffect (.imulhImm x) .uniform
      (each1 fun i => BitVec.ofInt 32 (numOf (x.ml.getLsbD 0) i.a0 * numOf (x.ml.getLsbD 0) i.b0 / 2 ^ 32)))
  ∧ (∀ x, VecEffect (.imad x) madForm (each1 fun i => i.a0 * i.b0 + i.c0))
  ∧ (∀ x, VecEffect (.iaddc x) .uniform (each fun i =>
      { words := [i.a0 + i.b0 + (if i.pc then 1 else 0)]
        preds := if gMh x % 32 = 24 then [] else [(gMh x % 32, decide (2 ^ 32 ≤ i.a0.toNat + i.b0.toNat + i.pc.toNat))] }))
  ∧ (∀ x, VecEffect (.isubb x) .uniform (each fun i =>
      { words := [i.a0 - i.b0 - (if i.pc then 1 else 0)]
        preds := if gMh x % 32 = 24 then [] else [(gMh x % 32, decide (i.a0.toNat < i.b0.toNat + i.pc.toNat))] }))
  ∧ (∀ x, VecEffect (.imin x) .uniform
      (each1 fun i => if numOf (x.ml.getLsbD 0) i.a0 ≤ numOf (x.ml.getLsbD 0) i.b0 then i.a0 else i.b0))
  ∧ (∀ x, VecEffect (.iminImm x) .uniform
      (each1 fun i => if numOf (x.ml.getLsbD 0) i.a0 ≤ numOf (x.ml.getLsbD 0) i.b0 then i.a0 else i.b0))
  ∧ (∀ x, VecEffect (.imax x) .uniform
      (each1 fun i => if numOf (x.ml.getLsbD 0) i.a0 ≤ numOf (x.ml.getLsbD 0) i.b0 then i.b0 else i.a0))
  ∧ (∀ x, VecEffect (.imaxImm x) .uniform
      (each1 fun i => if numOf (x.ml.getLsbD 0) i.a0 ≤ numOf (x.ml.getLsbD 0) i.b0 then i.b0 else i.a0))
  ∧ (∀ x, VecEffect (.iabs x) .uniform (each1 fun i => absOf (x.ml.getLsbD 0) i.a0))
  ∧ (∀ x, VecEffect (.sel x) .uniform (each1 fun i => if i.pc then i.a0 else i.b0))
  ∧ (∀ x, VecEffect (.imadw x) .uniform (each2 fun i =>
      BitVec.ofInt 64 (numOf (x.ml.getLsbD 0) i.a0 * numOf (x.ml.getLsbD 0) i.b0 + (pairOf i.c).toInt)))
  ∧ (∀ x, VecEffect (.rng x) .uniform (each1 fun i => rngOf i.a0 i.b0))
  ∧ (∀ x, VecEffect (.rngImm x) .uniform (each1 fun i => rngOf i.a0 i.b0))

/-- The logic, shift, bit-field, move and predicate instructions complete in waves and in form mode with the results of R218 to R223. -/
def Obligations.LogicInstructionsComplete : Prop :=
  (∀ x, VecEffect (.and x) .uniform (each1 fun i => i.a0 &&& i.b0))
  ∧ (∀ x, VecEffect (.andImm x) .uniform (each1 fun i => i.a0 &&& i.b0))
  ∧ (∀ x, VecEffect (.or x) .uniform (each1 fun i => i.a0 ||| i.b0))
  ∧ (∀ x, VecEffect (.orImm x) .uniform (each1 fun i => i.a0 ||| i.b0))
  ∧ (∀ x, VecEffect (.xor x) .uniform (each1 fun i => i.a0 ^^^ i.b0))
  ∧ (∀ x, VecEffect (.xorImm x) .uniform (each1 fun i => i.a0 ^^^ i.b0))
  ∧ (∀ x, VecEffect (.not x) .uniform (each1 fun i => ~~~i.a0))
  ∧ (∀ x, VecEffect (.logt x) .uniform (each1 fun i => logtOf (tableOf x) i.a0 i.b0 i.c0))
  ∧ (∀ x, VecEffect (.shl x) shlForm (each1 fun i => i.a0 <<< i.b0.toNat))
  ∧ (∀ x, VecEffect (.shlImm x) shlForm (each1 fun i => i.a0 <<< i.b0.toNat))
  ∧ (∀ x, VecEffect (.shr x) .uniform (each1 fun i => i.a0 >>> i.b0.toNat))
  ∧ (∀ x, VecEffect (.shrImm x) .uniform (each1 fun i => i.a0 >>> i.b0.toNat))
  ∧ (∀ x, VecEffect (.sar x) .uniform (each1 fun i => i.a0.sshiftRight i.b0.toNat))
  ∧ (∀ x, VecEffect (.sarImm x) .uniform (each1 fun i => i.a0.sshiftRight i.b0.toNat))
  ∧ (∀ x, VecEffect (.funl x) .uniform (each1 fun i => funlOf (x.ml.getLsbD 0) (x.ml.getLsbD 1) i.a0 i.b0 i.c0))
  ∧ (∀ x, VecEffect (.bfe x) .uniform (each1 fun i => bfeOf (x.ml.getLsbD 0) i.a0 i.b0))
  ∧ (∀ x, VecEffect (.bfi x) .uniform (each1 fun i => bfiOf i.a0 i.b0 i.c0))
  ∧ (∀ x, VecEffect (.popc x) .uniform (each1 fun i => BitVec.ofNat 32 (popcount i.a0)))
  ∧ (∀ x, VecEffect (.clz x) .uniform (each1 fun i => clzOf i.a0))
  ∧ (∀ x, VecEffect (.brev x) .uniform (each1 fun i => i.a0.reverse))
  ∧ (∀ x, VecEffect (.mov x) (.stays fun i => some i.a) (each fun i => { words := i.a }))
  ∧ (∀ x, VecEffect (.movi x) (.stays fun i => some i.b) (each1 fun _ => x.imm))
  ∧ (∀ x, WaveEffect (.icmp x) (vecWave (Instr.form (.icmp x)) (each fun i => { preds := [(x.d.toNat, icmpOf (gMh x) i.a0 i.b0)] }))
      ∧ ParEffect (.icmp x) (icmpPar (Instr.form (.icmp x)) (gMh x)
          (each fun i => { preds := [(x.d.toNat, icmpOf (gMh x) i.a0 i.b0)] })))
  ∧ (∀ x, WaveEffect (.icmpImm x) (vecWave (Instr.form (.icmpImm x)) (each fun i => { preds := [(x.d.toNat, icmpOf x.mh.toNat i.a0 i.b0)] }))
      ∧ ParEffect (.icmpImm x) (icmpPar (Instr.form (.icmpImm x)) x.mh.toNat
          (each fun i => { preds := [(x.d.toNat, icmpOf x.mh.toNat i.a0 i.b0)] })))
  ∧ (∀ x, VecEffect (.plogt x) .uniform (each fun i =>
      { preds := [(x.d.toNat, Nat.testBit (tableOf x) (i.pa.toNat + 2 * i.pb.toNat + 4 * i.pc.toNat))] }))
  ∧ (∀ x, WaveEffect (.ppack x) fun s a w sp => vecWave (Instr.form (.ppack x)) (each1 fun i => packPreds w.preds i.lane) s a w sp)
  ∧ (∀ x, ParEffect (.ppack x) fun s p r =>
      if r.guard (Instr.form (.ppack x)) ≠ some false ∧ r.pmap.any (fun b => match b with | .uni _ => false | .range _ _ _ => true) = true
      then s.blow p r else
        vecPar (Instr.form (.ppack x)) .uniform (each1 fun _ => bitwise fun i => decide (nth r.pmap i (.uni false) = .uni true)) s p r)
  ∧ (∀ x, VecEffect (.punpk x) .uniform (each fun i => { preds := unpackPreds i.a0 i.b0 }))
  -- FUNL (R219)
  ∧ (∀ (sat : Bool) (a b c : Word), let n := if sat then min c.toNat 32 else (c.extractLsb' 0 5).toNat
      funlOf true sat a b c = ((a ++ b : BitVec 64) <<< n).extractLsb' 32 32
      ∧ funlOf false sat a b c = ((b ++ a : BitVec 64) >>> n).extractLsb' 0 32
      ∧ (sat = true → 32 ≤ c.toNat → funlOf true sat a b c = b ∧ funlOf false sat a b c = b))

/-- The floating-point, packed, dot-product and conversion instructions and the float compares complete in waves and in form mode with
the results of R221, R224 and R236 to R245. The long-latency functions hold their results in flight in a wave, with a lookahead window,
until FP_FUNCTION_RESULT writes them; in form mode they follow R151 (R186, R237). -/
def Obligations.FloatInstructionsComplete : Prop :=
  ((∀ x, VecEffect (.fcmp x) .uniform (each fun i =>
      { preds := [(x.d.toNat, floatCond (gMh x % 8) (Nat.testBit (gMh x) 3) (f32 i.a0) (f32 i.b0))] }))
  ∧ (∀ x, VecEffect (.fcmpImm x) .uniform (each fun i =>
      { preds := [(x.d.toNat, floatCond (x.mh.toNat % 8) (x.mh.getLsbD 3) (f32 i.a0) (f32 i.b0))] }))
  ∧ (∀ x, VecEffect (.fkind x) .uniform (each1 fun i =>
      BitVec.ofNat 32 (2 ^ kindOf (kindFmt (x.ml.toNat % 4)) (i.a0.toNat % 2 ^ (kindFmt (x.ml.toNat % 4)).width))))
  ∧ (∀ x, VecEffect (.fadd x) .uniform (each1 fun i => ofF (sumF fF32 (modeOf x.ml.toNat) [srcA (gMh x) i.a0, srcB (gMh x) i.b0])))
  ∧ (∀ x, VecEffect (.faddImm x) .uniform (each1 fun i => ofF (sumF fF32 (modeOf x.ml.toNat) [srcA x.mh.toNat i.a0, srcB x.mh.toNat i.b0])))
  ∧ (∀ x, VecEffect (.fmul x) .uniform (each1 fun i => ofF (encodeF fF32 (modeOf x.ml.toNat) ((srcA (gMh x) i.a0).mul (srcB (gMh x) i.b0)))))
  ∧ (∀ x, VecEffect (.fmulImm x) .uniform
      (each1 fun i => ofF (encodeF fF32 (modeOf x.ml.toNat) ((srcA x.mh.toNat i.a0).mul (srcB x.mh.toNat i.b0)))))
  ∧ (∀ x, VecEffect (.ffma x) .uniform (each1 fun i => ofF (sumF fF32 (modeOf x.ml.toNat)
      [((f32 i.a0).mul (f32 i.b0)).mods (Nat.testBit (gMh x) 0) false, (f32 i.c0).mods (Nat.testBit (gMh x) 1) false])))
  ∧ (∀ x, VecEffect (.fmin x) .uniform (each1 fun i => ofF (minMaxF fF32 false (srcA (gMh x) i.a0) (srcB (gMh x) i.b0))))
  ∧ (∀ x, VecEffect (.fminImm x) .uniform (each1 fun i => ofF (minMaxF fF32 false (srcA x.mh.toNat i.a0) (srcB x.mh.toNat i.b0))))
  ∧ (∀ x, VecEffect (.fmax x) .uniform (each1 fun i => ofF (minMaxF fF32 true (srcA (gMh x) i.a0) (srcB (gMh x) i.b0))))
  ∧ (∀ x, VecEffect (.fmaxImm x) .uniform (each1 fun i => ofF (minMaxF fF32 true (srcA x.mh.toNat i.a0) (srcB x.mh.toNat i.b0))))
  ∧ (∀ x, VecEffect (.frnd x) .uniform (each1 fun i => ofF (frndOf (modeOf x.ml.toNat) (srcA (gMh x) i.a0))))
  ∧ (∀ x, VecEffect (.hadd2 x) .uniform (each1 fun i => packHalves fun e => sumF (hFmt x) (modeOf x.ml.toNat)
      [elem (hFmt x) (Nat.testBit (gMh x) 0) i.a0 e, elem (hFmt x) (Nat.testBit (gMh x) 1) i.b0 e]))
  ∧ (∀ x, VecEffect (.hmul2 x) .uniform (each1 fun i => packHalves fun e => encodeF (hFmt x) (modeOf x.ml.toNat)
      ((elem (hFmt x) (Nat.testBit (gMh x) 0) i.a0 e).mul (elem (hFmt x) (Nat.testBit (gMh x) 1) i.b0 e))))
  ∧ (∀ x, VecEffect (.hfma2 x) .uniform (each1 fun i => packHalves fun e => sumF (hFmt x) (modeOf x.ml.toNat)
      [(elem (hFmt x) (Nat.testBit (gMh x) 0) i.a0 e).mul (elem (hFmt x) (Nat.testBit (gMh x) 1) i.b0 e),
       elem (hFmt x) (Nat.testBit (gMh x) 2) i.c0 e]))
  ∧ (∀ x, VecEffect (.hmin2 x) .uniform (each1 fun i => packHalves fun e => minMaxF (hFmt x) false
      (elem (hFmt x) (Nat.testBit (gMh x) 0) i.a0 e) (elem (hFmt x) (Nat.testBit (gMh x) 1) i.b0 e)))
  ∧ (∀ x, VecEffect (.hmax2 x) .uniform (each1 fun i => packHalves fun e => minMaxF (hFmt x) true
      (elem (hFmt x) (Nat.testBit (gMh x) 0) i.a0 e) (elem (hFmt x) (Nat.testBit (gMh x) 1) i.b0 e)))
  ∧ (∀ x, VecEffect (.vdot2 x) .uniform (each1 fun i =>
      let f := if x.ml.getLsbD 2 then fF16 else fBF16
      ofF (sumF fF32 (modeOf x.ml.toNat)
        [(elem f (Nat.testBit (gMh x) 0) i.a0 0).mul (elem f (Nat.testBit (gMh x) 1) i.b0 0),
         (elem f (Nat.testBit (gMh x) 0) i.a0 1).mul (elem f (Nat.testBit (gMh x) 1) i.b0 1), (f32 i.c0).mods (Nat.testBit (gMh x) 2) false])))
  ∧ (∀ x, VecEffect (.vdot4 x) .uniform (each1 fun i => vdot4Of (x.ml.getLsbD 0) (x.ml.getLsbD 1) i.a0 i.b0 i.c0))
  ∧ (∀ x, VecEffect (.cvt x) .uniform (each fun i => { words := cvtOf x i }))
  ∧ (∀ x, VecEffect (.pack2 x) .uniform
      (each1 fun i => pack2Of (gMh x % 8) (Nat.testBit (gMh x) 3) (modeOf x.ml.toNat) i.a0 i.b0 i.c0)))
  ∧ ((∀ x, WaveEffect (.frcp x) (fpWave (Instr.form (.frcp x)) frcpOf)
    ∧ ParEffect (.frcp x) (vecPar (Instr.form (.frcp x)) .uniform (each1 fun i => ofF (frcpOf (f32 i.a0)))))
  ∧ (∀ x, WaveEffect (.frsq x) (fpWave (Instr.form (.frsq x)) frsqOf)
    ∧ ParEffect (.frsq x) (vecPar (Instr.form (.frsq x)) .uniform (each1 fun i => ofF (frsqOf (f32 i.a0)))))
  ∧ (∀ x, WaveEffect (.fsqrt x) (fpWave (Instr.form (.fsqrt x)) fsqrtOf)
    ∧ ParEffect (.fsqrt x) (vecPar (Instr.form (.fsqrt x)) .uniform (each1 fun i => ofF (fsqrtOf (f32 i.a0)))))
  ∧ (∀ x, WaveEffect (.fex2 x) (fpWave (Instr.form (.fex2 x)) fex2Of)
    ∧ ParEffect (.fex2 x) (vecPar (Instr.form (.fex2 x)) .uniform (each1 fun i => ofF (fex2Of (f32 i.a0)))))
  ∧ (∀ x, WaveEffect (.flg2 x) (fpWave (Instr.form (.flg2 x)) flg2Of)
    ∧ ParEffect (.flg2 x) (vecPar (Instr.form (.flg2 x)) .uniform (each1 fun i => ofF (flg2Of (f32 i.a0)))))
  ∧ (∀ x, WaveEffect (.fsin x) (fpWave (Instr.form (.fsin x)) fsinOf)
    ∧ ParEffect (.fsin x) (vecPar (Instr.form (.fsin x)) .uniform (each1 fun i => ofF (fsinOf (f32 i.a0)))))
  ∧ (∀ x, WaveEffect (.fcos x) (fpWave (Instr.form (.fcos x)) fcosOf)
    ∧ ParEffect (.fcos x) (vecPar (Instr.form (.fcos x)) .uniform (each1 fun i => ofF (fcosOf (f32 i.a0)))))
  -- the reply
  ∧ (∀ s a op w o, s.waveOf a = some w → opOf w.ops op = some o → o.kind = .fpFunction →
      exec (.fpFunctionResult a op) s =
        .next (s.setWave a { w.writeResults (s.formFile (coreOf a)) o o.vdst 0 with ops := delOp w.ops op })))

/-- The lane, quad and collective instructions and QPACK complete in waves with the results of R227 to R232 and R250, and blow a parison
in form mode (R152). -/
def Obligations.LaneInstructionsComplete : Prop :=
  (∀ x, VecEffect (.lxch x) .blows fun inp _ _ l => { words := (inp (lxchLane (x.ml.toNat % 4) (inp l).b0 l)).a })
  ∧ (∀ x, VecEffect (.qxch x) .blows fun inp _ _ l => { words := (inp (l / 4 * 4 + qxchLane (x.ml.toNat % 4) (gMh x) l)).a })
  ∧ (∀ x, VecEffect (.qdd x) .blows fun inp _ _ l =>
      { words := [ofF (sumF fF32 .rn [f32 (inp (l / 4 * 4 + (qddLanes (x.ml.getLsbD 0) (x.ml.getLsbD 1) (l % 4)).1)).a0,
          (f32 (inp (l / 4 * 4 + (qddLanes (x.ml.getLsbD 0) (x.ml.getLsbD 1) (l % 4)).2)).a0).neg])] })
  ∧ (∀ x, VecEffect (.vote x) .blows fun inp _ c _ => { preds := [(x.d.toNat, voteOf (x.ml.toNat % 4) inp c)] })
  ∧ (∀ x, VecEffect (.ballot x) .blows fun inp _ c _ => { words := [maskOf fun j => c.getLsbD j && (inp j).pa] })
  ∧ (∀ x, VecEffect (.matchLanes x) .blows fun inp _ c l =>
      { words := if x.ml.getLsbD 0 then [matchOf inp c l, 0] else [matchOf inp c l] })
  ∧ (∀ x, VecEffect (.lfold x) .blows fun inp _ c _ => { words := [lfoldOf (gMh x) inp c] })
  ∧ (∀ x, VecEffect (.scan x) .blows fun inp _ c l =>
      { words := if c.getLsbD l then [scanOf (gMh x) (x.ml.getLsbD 0) inp c l] else [] })
  ∧ (∀ x, VecEffect (.qpack x) .blows fun inp _ c l => { words := if l = 31 then [qpackHeader inp c] else
      [BitVec.ofNat 32 (sext16 (qpackElem (inp l).a0 ((inp l).c0.toNat % 256))
        + 2 ^ 16 * sext16 (qpackElem (inp l).b0 ((inp l).c0.toNat % 256)))] })
  ∧ (∀ x, WaveEffect (.xset x) fun s a w sp =>
        s.finishWave a { w with xpat := w.xpat.set (x.d.toNat - 1) (BitVec.ofNat 8 (x.ml.toNat % 4 * 32 + x.a.toNat % 32)) } sp
          (Instr.form (.xset x)))
  ∧ (∀ x, ParEffect (.xset x) fun s p r => s.blow p r)
  -- the source lanes of LXCH (R227) and, within the quad, of QXCH (R228)
  ∧ (∀ (b : Word) (l : Nat), lxchLane 0 b l = b.toNat % 32 ∧ lxchLane 1 b l = (if b.toNat ≤ l then l - b.toNat else l)
      ∧ lxchLane 2 b l = (if 31 < l + b.toNat then l else l + b.toNat) ∧ lxchLane 3 b l = l ^^^ (b.toNat % 32))
  ∧ (∀ mh l : Nat, qxchLane 0 mh l = mh % 4 ∧ qxchLane 1 mh l = (l % 4) ^^^ 1 ∧ qxchLane 2 mh l = (l % 4) ^^^ 2
      ∧ qxchLane 3 mh l = (l % 4) ^^^ 3)

/-! ## Vector instructions: operands, results and frame -/


/-- A name of a wave reads in a live lane as its form at the lane's item or as its register's lane, and as zero while it is UNDEF; a lane
inactive for life gives zero (R157). The executing lanes are the active lanes of the split whose guard is true (R201). Through a pattern
register an operand is taken from the lane that its kind gives (R187). -/
def Obligations.LanesAndOperands : Prop :=
  ((∀ (w : Wave) (ff : List (Nat × Aff)) (n l : Nat),
    (w.live.getLsbD l = false → w.lane ff n l = 0)
    ∧ (w.live.getLsbD l = true →
      (nth w.vmap n .undef = .undef → w.lane ff n l = 0)
      ∧ (∀ v, nth w.vmap n .undef = .phys v → w.lane ff n l = nth v l 0)
      ∧ (∀ k b x y z, nth w.vmap n .undef = .form k → look k ff = some ⟨b, x, y, z⟩ →
          w.lane ff n l = b + x * (w.item l).1 + y * (w.item l).2.1 + z * (w.item l).2.2)))
  ∧ (∀ (w : Wave) (sp : Split) (f : Form) (l : Nat), l < 32 →
    (w.exec sp f).getLsbD l =
      (sp.act.getLsbD l && (decide (f.guard.1 = 24) || ((nth w.preds f.guard.1 0).getLsbD l != f.guard.2.1)))))
  ∧ (∀ (p : BitVec 5) (l : Nat), l < 32 →
    srcLane ((0 : BitVec 1) ++ (0 : BitVec 2) ++ p) l = (l + p.toNat) % 32
    ∧ srcLane ((0 : BitVec 1) ++ (1 : BitVec 2) ++ p) l = p.toNat
    ∧ srcLane ((0 : BitVec 1) ++ (2 : BitVec 2) ++ p) l = l ^^^ p.toNat
    ∧ (p.toNat ≤ 5 → srcLane ((0 : BitVec 1) ++ (3 : BitVec 2) ++ p) l = l ^^^ (2 ^ p.toNat - 1) ∧ srcLane ((0 : BitVec 1) ++ (3 : BitVec 2) ++ p) l < 32))

/-- What a vector instruction leaves in a wave: a live executing lane of each destination name holds the word computed for it, every
other lane keeps what the name held once last reads have released theirs; a predicate holds what was computed in the executing lanes
and is kept in the others (R157, R186, R201). -/
def Obligations.VectorResults : Prop :=
  ∀ (i : Instr) (rule : FormRule) (fn : VFn), VecEffect i rule fn →
    ∀ (s : State) (id : WaveId) (k : Nat) (w : Wave) (sp : Split), Runs s i (.wave id k) w sp → i.form.vwrites.Nodup →
    ∃ t w', exec i s = .next t ∧ look id t.waves = some w' ∧
      let ff := s.formFile ⟨id.die, id.core⟩
      let ex := w.exec sp i.form
      let out := outputs w ff i.form fn ex
      (∀ j n l, i.form.vwrites[j]? = some n → n < w.vmap.length → l < 32 → w.live.getLsbD l = true →
        w'.lane ff n l = if ex.getLsbD l && decide (j < (nth out l {}).words.length) then nth (nth out l {}).words j 0
          else (w.release i.form.lastReads).lane ff n l)
      ∧ (∀ n l, n < w.preds.length → l < 32 →
        (nth w'.preds n 0).getLsbD l = ((if ex.getLsbD l then look n (nth out l {}).preds else none).getD ((nth w.preds n 0).getLsbD l)))
      ∧ ∀ l, l < 32 → nth out l {} =
          if ex.getLsbD l then fn (fun m => nth (perLane fun l => w.operands ff i.form l) m {}) ex (ex &&& ~~~w.helper) l else {}

/-- What a vector instruction leaves alone: every other wave, everything outside the waves (all memories, parisons, blocks, contexts,
special registers), and of its own wave every name that it neither writes nor reads for the last time, every predicate that it does not
write, its uniform registers, pattern registers, counters, operations in flight and causes, and its other splits; the split's position
moves past the instruction, and it keeps what the names held that it has read for the last time, for a return to its region's entry
(R171, R186, R201, R337). In form mode an instruction whose results find form slots completes, and changes nothing but its own parison's
position, the names and predicates that it writes and the names that it reads for the last time, and the form slots it takes (R151). -/
def Obligations.VectorFrame : Prop :=
  (∀ (i : Instr) (rule : FormRule) (fn : VFn), VecEffect i rule fn →
    ∀ (s : State) (id : WaveId) (k : Nat) (w : Wave) (sp : Split), Runs s i (.wave id k) w sp →
    ∃ t w', exec i s = .next t ∧ OnlyWave s t id ∧ SameMemory s t ∧ look id t.waves = some w'
      ∧ ({ w' with vmap := w.vmap, preds := w.preds, slots := w.slots } : Wave) = w
      ∧ (∀ n l, n ∉ i.form.vwrites → n ∉ i.form.lastReads →
          w'.lane (s.formFile ⟨id.die, id.core⟩) n l = w.lane (s.formFile ⟨id.die, id.core⟩) n l)
      ∧ (∀ n, (∀ l, look n (nth (outputs w (s.formFile ⟨id.die, id.core⟩) i.form fn (w.exec sp i.form)) l {}).preds = none) →
          nth w'.preds n 0 = nth w.preds n 0)
      ∧ (∀ j, j ≠ k → nth w'.slots j none = nth w.slots j none)
      ∧ nth w'.slots k none = some
          { sp with pos := sp.pos.advance i.form.len, ahead := tickLook sp.ahead, stall := .issued
                    freed := sp.freed ++ s.freedBy (.wave id k) i.form })
  ∧ (∀ (i : Instr) (rule : FormRule) (fn : VFn), VecEffect i rule fn →
    ∀ (s : State) (p : ParId) (r : Parison) (x : FormIn) (t : State), RunsPar s i p r → r.guard i.form = some true →
      r.operands (s.formFile (parCore p)) i.form = some x →
      (∀ g ws, rule = .stays g → g x = some ws → s.finishForm p r i.form ws [] = some t → exec i s = .next t ∧ FormFrame s t p r i.form [])
      ∧ (let out := fn (fun _ => x.lane) 0xFFFFFFFF 0xFFFFFFFF 0
        rule = .uniform → x.uni = true → s.finishForm p r i.form (out.words.map Aff.ofWord) out.preds = some t →
          exec i s = .next t ∧ FormFrame s t p r i.form out.preds))

/-- Where the result of an instruction on forms stays a form, its value at every item is exactly what the instruction computes for that
item's lane (R151): IADD, ISUB, IMUL, IMAD, SHL. An instruction whose guard is UNI-false only passes; one whose guard is a range
predicate, whose rule is to blow, that reads through a pattern which exchanges lanes, or that reads a name in state UNDEF blows the
parison (R152, R153, R187). -/
def Obligations.FormMode : Prop :=
  (∀ (f : FormIn) (x y z : Word) (l : LaneIn),
    l = { a := f.a.map fun g => g.at x y z, b := f.b.map fun g => g.at x y z, c := f.c.map fun g => g.at x y z } →
    f.a.length = 1 → f.b.length = 1 →
    (∀ g, addForm = .stays g → ∃ r, g f = some [r] ∧ r.at x y z = l.a0 + l.b0)
    ∧ (∀ g, subForm = .stays g → ∃ r, g f = some [r] ∧ r.at x y z = l.a0 - l.b0)
    ∧ (∀ g, mulForm = .stays g → ((aff0 f.a).uni = true ∨ (aff0 f.b).uni = true) →
        ∃ r, g f = some [r] ∧ r.at x y z = l.a0 * l.b0)
    ∧ (∀ g, madForm = .stays g → f.c.length = 1 → ((aff0 f.a).uni = true ∨ (aff0 f.b).uni = true) →
        ∃ r, g f = some [r] ∧ r.at x y z = l.a0 * l.b0 + l.c0)
    ∧ (∀ g, shlForm = .stays g → (aff0 f.b).uni = true → ∃ r, g f = some [r] ∧ r.at x y z = l.a0 <<< l.b0.toNat))
  ∧ (∀ (i : Instr) (rule : FormRule) (fn : VFn), VecEffect i rule fn →
    ∀ (s : State) (p : ParId) (r : Parison), RunsPar s i p r →
    (rule ≠ .blows → r.guard i.form = some false → r.exchanges i.form = false → exec i s = .next (s.setPar p (r.issued i.form)))
    ∧ (r.guard i.form = some false → r.exchanges i.form = true → exec i s = .next (s.blow p r))
    ∧ (r.guard i.form = none → exec i s = .next (s.blow p r))
    ∧ (rule = .blows → exec i s = .next (s.blow p r))
    ∧ (r.guard i.form = some true → r.operands (s.formFile (parCore p)) i.form = none → exec i s = .next (s.blow p r)))
/-! ## Control transfers -/

/-- NOP moves past itself, BRA and CALL fall through when no lane takes them, move the split whole when every active lane does, and
otherwise divide it under a new join record; CALL writes the link in the lanes that go to the target (R164, R204, R205, R213). In a combiner
wave a BRA that divides fails its batch with DIVERGE (R118). -/
def Obligations.BranchesComplete : Prop :=
  (∀ x, WaveEffect (.nop x) (fun s a w sp => s.finishWave a w sp (Instr.form (.nop x)))
    ∧ ParEffect (.nop x) (fun s p r => s.setPar p (r.issued (Instr.form (.nop x)))))
  ∧ (∀ x s a w sp, Runs s (.bra x) a w sp →
      let f := Instr.form (.bra x)
      let t := s.counted a w sp
      let ex := w.exec sp f
      let to_ := (sp.pos.advance 2).goHeader ((sp.pos.hofs : Int) + x.ofs.toInt).toNat
      (ex = 0 → exec (.bra x) s = .next (t.finishWave a w sp f))
      ∧ (ex ≠ 0 → ex = sp.act → exec (.bra x) s = .next (t.setWave a (w.setSlot (slotOf a) (some { sp.issued f with pos := to_ }))))
      ∧ (ex ≠ 0 → ex ≠ sp.act → x.kind ≠ 0 → (Actor.wave a w sp).combiner = false →
          exec (.bra x) s = .next (t.setWave a (w.divide (slotOf a) sp f ex to_ x.aux.toNat)))
      ∧ (∀ c, a = .combiner c → ex ≠ 0 → ex ≠ sp.act → exec (.bra x) s = .next (t.failBatch c .diverge sp.pos.pc)))
  ∧ (∀ x s a w sp, Runs s (.call x) a w sp →
      let f := Instr.form (.call x)
      let t := s.counted a w sp
      let ex := w.exec sp f
      let to_ := (sp.pos.advance 2).goHeader ((sp.pos.hofs : Int) + x.ofs.toInt).toNat
      let linked := w.write (t.formFile (coreOf a)) 0 ex fun _ => t.link? w.ctx w.image sp.pos
      (ex = 0 → exec (.call x) s = .next (t.finishWave a w sp f))
      ∧ (ex ≠ 0 → ex = sp.act →
          exec (.call x) s = .next (t.setWave a (linked.setSlot (slotOf a) (some { sp.issued f with pos := to_ }))))
      ∧ (ex ≠ 0 → ex ≠ sp.act → x.kind ≠ 0 → (Actor.wave a w sp).combiner = false →
          exec (.call x) s = .next (t.setWave a (linked.divide (slotOf a) sp f ex to_ x.aux.toNat))))
  -- form mode: the parison moves as a whole or falls through
  ∧ (∀ x s p r, RunsPar s (.bra x) p r →
      let f := Instr.form (.bra x)
      (r.guard f = some false → exec (.bra x) s = .next (s.setPar p (r.issued f)))
      ∧ (r.guard f = some true → exec (.bra x) s =
          .next (s.setPar p { r.issued f with pos := (r.pos.advance 2).goHeader ((r.pos.hofs : Int) + x.ofs.toInt).toNat }))
      ∧ (∀ d lo hi, r.guard f = none → x.kind ≠ 0 → nth r.pmap f.guard.1 (.uni false) = .range d lo hi →
          exec (.bra x) s = .next ((s.cut p r f d lo hi ((r.pos.advance 2).goHeader ((r.pos.hofs : Int) + x.ofs.toInt).toNat)
            x.aux.toNat false).getD (s.blow p r))))


/-- BRX, CALLX and RET fall through when no lane executes them, and otherwise, when every active lane executes them with one ordinal
that the image has, continue at the header of that safe point; CALLX writes the link (R206). The link that CALL and CALLX leave is the
ordinal of the region entry that begins the clause after theirs (R205). -/
def Obligations.OrdinalBranchesComplete : Prop :=
  (∀ (i : Instr) (call : Bool), (∃ x, i = .brx x ∧ call = false ∨ i = .callx x ∧ call = true ∨ i = .ret x ∧ call = false) →
    ∀ s a w sp, Runs s i a w sp →
      let f := i.form
      let t := s.counted a w sp
      let ex := w.exec sp f
      let at_ := fun l => (w.operands (t.formFile (coreOf a)) f l).a0
      (ex = 0 → exec i s = .next (t.finishWave a (w.release f.lastReads) sp f))
      ∧ (∀ l0 h im, lowest ex = some l0 → ex = sp.act → (∀ l ∈ lanesOf ex, at_ l = at_ l0) → t.image w.ctx w.image = some im →
          headerOf im (at_ l0).toNat = some h →
          exec i s = .next (t.setWave a
            ((if call then (w.release f.lastReads).write (t.formFile (coreOf a)) f.fields.1 ex fun _ => t.link? w.ctx w.image sp.pos
              else w.release f.lastReads).setSlot (slotOf a) (some { sp.issued f with pos := (sp.pos.advance f.len).goHeader h })))))
  ∧ (∀ (s : State) (ctx img o : Nat) (im : Image) (p : Pos), s.image ctx img = some im →
    (∀ k, k < im.sps.length → ((im.sps[k]?).map (·.wofs) = some p.clauseEnd ↔ k = o)) → o < im.sps.length →
    s.link? ctx img p = BitVec.ofNat 32 o)

/-- A branch whose active lanes differ traps where its encoding does not allow divergence: BRA and CALL of KIND .U, BRX, CALLX and RET
whose lanes or targets differ raise DIVERGE_U, and an ordinal the image lacks raises TARGET (R184, R204, R206). -/
def Obligations.DivergingBranchesTrap : Prop :=
  (∀ x s id k w sp, Runs s (.bra x) (.wave id k) w sp → w.exec sp (Instr.form (.bra x)) ≠ 0 →
      w.exec sp (Instr.form (.bra x)) ≠ sp.act → x.kind = 0 →
      exec (.bra x) s = .next (s.raise (.wave (.wave id k) w sp) .illegal .divergeU))
  ∧ (∀ x s id k w sp, Runs s (.call x) (.wave id k) w sp → w.exec sp (Instr.form (.call x)) ≠ 0 →
      w.exec sp (Instr.form (.call x)) ≠ sp.act → x.kind = 0 →
      exec (.call x) s = .next (s.raise (.wave (.wave id k) w sp) .illegal .divergeU))
  ∧ (∀ i, (∃ x, i = .brx x ∨ i = .callx x ∨ i = .ret x) → ∀ s a w sp l0, Runs s i a w sp → lowest (w.exec sp i.form) = some l0 →
      let t := s.counted a w sp
      let ex := w.exec sp i.form
      let at_ := fun l => (w.operands (t.formFile (coreOf a)) i.form l).a0
      let x := Actor.wave a w sp
      (ex ≠ sp.act → exec i s = .next (t.trap x [x.record .illegal .divergeU ex 0 0] none))
      ∧ ((∃ l ∈ lanesOf ex, at_ l ≠ at_ l0) → exec i s = .next (t.trap x [x.record .illegal .divergeU ex 0 0] none))
      ∧ (ex = sp.act → (∀ l ∈ lanesOf ex, at_ l = at_ l0) →
          ((t.image w.ctx w.image).bind fun im => headerOf im (at_ l0).toNat) = none →
          exec i s = .next (t.trap x [x.record .illegal .target ex 0 0] none)))

/-- JOIN passes a split that has no record of its id, and parks one whose innermost record has it, counting its lanes as arrived; EXIT
and KILL end the lanes of ex, KILL leaving in a QUAD launch a lane whose quad lives on as a helper; REFORM parks the split, and once
every split that the wave has left is parked at one REFORM the wave waits for its parison (R161, R165, R207 to R210). YIELD goes on at the next clause when
nothing holds it, and otherwise waits for what it names: a run of every other wave of the partition that is ready as it issues, or a counter
at most at its bound; that mode 0 awaits no wave that becomes ready later, and passes at once in form mode, is the model's own (DESIGN CHOICE,
log entry 95; R211). -/
def Obligations.JoinsExitsAndYieldComplete : Prop :=
  ((∀ x s a w sp, Runs s (.join x) a w sp →
      let f := Instr.form (.join x)
      let t := s.counted a w sp
      ((∀ n j, sp.inner = some n → nth w.joins n none = some j → j.id ≠ x.aux.toNat) →
        exec (.join x) s = .next (t.finishWave a w sp f))
      ∧ (∀ n j, sp.inner = some n → nth w.joins n none = some j → j.id = x.aux.toNat →
        exec (.join x) s = .next (t.setWave a
          ({ ({ w with joins := w.joins.set n (some { j with arrived := j.arrived ||| sp.act }) } : Wave).setSlot (slotOf a) none with
              pend := { sp.issued f with parked := some (.join n), stall := .parked } :: w.pend } : Wave).settle)))
  ∧ (∀ x, WaveEffect (.exit x) (fun s a w sp =>
        let f := Instr.form (.exit x)
        let v := w.setSlot (slotOf a) (some (sp.issued f))
        if w.exec sp f = 0 then s.setWave a v
        else (if w.exec sp f &&& ~~~w.helper = 0 then s else s.holed v).putReform a (v.exitLanes (w.exec sp f)))
      ∧ ParEffect (.exit x) (exitPar (Instr.form (.exit x))))
  ∧ (∀ x, WaveEffect (.kill x) (fun s a w sp =>
        let f := Instr.form (.kill x)
        let m := killSplit w (((w.block.bind s.blockOf).map (·.quad)).getD false) (w.exec sp f)
        let v := { w with helper := w.helper ||| m.2 }
        exitWave f m.1 (if m.2 = 0 then s else s.holed v) a v sp)
      ∧ ParEffect (.kill x) (exitPar (Instr.form (.kill x))))
  ∧ (∀ x, WaveEffect (.reform x) (fun s a w sp =>
        let f := Instr.form (.reform x)
        let v := ({ w.setSlot (slotOf a) none with
            pend := { sp.issued f with parked := some .reform, stall := .parked } :: w.pend } : Wave).fill
        if v.reformed then (match v.par with
          | some p => (s.setWave a v.parkReform).resolveReform p
          | none => s.setWave a v.parkReform)
        else s.setWave a v)
      ∧ ParEffect (.reform x) (fun s p r => s.setPar p (r.issued (Instr.form (.reform x))))))
  ∧ ((∀ x s id k w sp, Runs s (.yield x) (.wave id k) w sp →
      let f := Instr.form (.yield x)
      let done := s.setWave (.wave id k) (w.setSlot k (some (sp.issued f)))
      let waits := fun wt => s.setWave (.wave id k) (w.setSlot k (some { sp.issued f with wait := wt, stall := .yield }))
      (x.ml = 0 → s.rivals id = [] → exec (.yield x) s = .next done)
      ∧ (x.ml = 0 → s.rivals id ≠ [] → exec (.yield x) s = .next (waits (.yieldRuns (s.rivals id))))
      ∧ (x.ml = 1 → w.ctr.enc.toNat ≤ x.b.toNat → exec (.yield x) s = .next done)
      ∧ (x.ml = 1 → x.b.toNat < w.ctr.enc.toNat → exec (.yield x) s = .next (waits (.yieldCount .enc x.b.toNat)))
      ∧ (x.ml = 2 → w.ctr.obc.toNat ≤ x.b.toNat → exec (.yield x) s = .next done)
      ∧ (x.ml = 2 → x.b.toNat < w.ctr.obc.toNat → exec (.yield x) s = .next (waits (.yieldCount .obc x.b.toNat))))
  ∧ (∀ x s p r, RunsPar s (.yield x) p r → (x.ml = 0 ∨ x.ml = 1 ∧ r.ctr.enc.toNat ≤ x.b.toNat ∨ x.ml = 2 ∧ r.ctr.obc.toNat ≤ x.b.toNat) →
      exec (.yield x) s = .next (s.setPar p (r.issued (Instr.form (.yield x))))))

/-- TRAP, and BKPT where debug is enabled for the context, raise a trap of their cause with the 12-bit code and the executing lanes, the
split standing at the next clause; with no executing lane, and BKPT without debug, they only pass; the trap is taken once what the split or the parison issued before has
retired (R212, R340). -/
def Obligations.TrapInstructionsTrap : Prop :=
  (∀ x s id k w sp, Runs s (.trap x) (.wave id k) w sp →
      let f := Instr.form (.trap x)
      let y := Actor.wave (.wave id k) w sp
      (w.exec sp f = 0 → exec (.trap x) s = .next (s.finishWave (.wave id k) w sp f))
      ∧ (w.exec sp f ≠ 0 → (∀ o ∈ w.ops, o.mask &&& sp.act = 0 ∧ (o.mask = 0 → o.slot ≠ k)) → exec (.trap x) s =
          .next (s.trap y [y.record .trap .none (w.exec sp f) 0 (x.a.toNat * 64 + x.b.toNat)] (some (sp.pos.advance f.len)))))
  ∧ (∀ x s id k w sp, Runs s (.bkpt x) (.wave id k) w sp →
      let f := Instr.form (.bkpt x)
      let y := Actor.wave (.wave id k) w sp
      (s.debugOn w.ctx = false → exec (.bkpt x) s = .next (s.finishWave (.wave id k) w sp f))
      ∧ (s.debugOn w.ctx = true → w.exec sp f = 0 → exec (.bkpt x) s = .next (s.finishWave (.wave id k) w sp f))
      ∧ (s.debugOn w.ctx = true → w.exec sp f ≠ 0 → (∀ o ∈ w.ops, o.mask &&& sp.act = 0 ∧ (o.mask = 0 → o.slot ≠ k)) → exec (.bkpt x) s =
          .next (s.trap y [y.record .bkpt .none (w.exec sp f) 0 (x.a.toNat * 64 + x.b.toNat)] (some (sp.pos.advance f.len)))))
  ∧ (∀ x s p r, RunsPar s (.trap x) p r →
      let f := Instr.form (.trap x)
      let y := Actor.par p r
      (r.guard f = some false → exec (.trap x) s = .next (s.setPar p (r.issued f)))
      ∧ (r.guard f = some true → r.ops = [] → exec (.trap x) s =
          .next (s.trap y [y.record .trap .none 0xFFFFFFFF 0 (x.a.toNat * 64 + x.b.toNat)] (some (r.pos.advance f.len)))))

/-! ## Taking and leaving a trap -/

/-- Taking a trap in a wave (R337, R339, R341, R342): each cause is recorded, with those of the wave's other splits that are raised together,
up to 16 of them, a further one setting OVF in the first; the wave stops, its loads and texture reads are cancelled, nothing else of its
work is. Each split that stands inside a clause, is not parked, not precise and not within an issued barrier or signal, the one that traps
among them, stands afterwards at the header of its region's entry. Unless a split is precise, the names that no split's entry lists as live are
released, and a function result still on its way is written to the names among them that live on. The stop is an event of the die's firmware
queue, or is held for it while the queue is full (R328). -/
def Obligations.TrapStopsWave : Prop :=
  ∀ (s : State) (id : WaveId) (k : Nat) (w : Wave) (sp : Split) (cs : List CauseRec) (im : Image),
    s.waveOf (.wave id k) = some w → nth w.slots k none = some sp → s.image w.ctx w.image = some im →
    let x := Actor.wave (.wave id k) w sp
    ∃ w', look id (s.trap x cs none).waves = some w' ∧ w'.status = .stopped
      ∧ w'.causes = ((cs.map fun (c : CauseRec) => { c with precise := false }) ++ s.otherFaults x).foldl addCause w.causes
      ∧ w'.causes.length ≤ max 16 w.causes.length
      ∧ w'.sreg = w.sreg ∧ w'.preds = w.preds ∧ w'.xpat = w.xpat ∧ w'.gwd = w.gwd ∧ w'.gwp = w.gwp
      ∧ (∀ j q h, nth w.slots j none = some q → committed w.ops j = false → q.parked = none → q.precise = false →
          q.pos.inside = true → headerOf im q.pos.ord = some h →
          ∃ q', nth w'.slots j none = some q' ∧ q'.pos.hofs = h ∧ q'.pos.inside = false ∧ q'.pos.ord = q.pos.ord ∧ q'.act = q.act)
      ∧ (let live := w'.splits.foldl (fun m q => m ||| ((im.sps[q.pos.ord]?).map (·.vlive)).getD 0) 0
        let drops := !w'.splits.any (·.precise)
        w'.ops = ((w.ops.filter fun o => !o.kind.cancellable).map fun o =>
          if drops = true ∧ o.kind = .fpFunction then { o with vdst := o.vdst.filter fun n => Nat.testBit live n } else o)
        ∧ (drops = true → ∀ n, Nat.testBit live n = false → nth w'.vmap n .undef = .undef))
      ∧ (let y := (s.trap x cs none).die id.die
        FwEvent.trap id w.ctx (s.queueOfBlock w.block) ∈ y.events ++ y.late)

/-! ## Memory instructions -/

/-- LD and LDBLK, once their order modifier allows it and every lane's address lands at a place, issue a load: each lane's bytes are
taken at once from core store, weight store or a copy that the core's L1 holds, and are otherwise asked of the line's home (R82, R91,
R255, R258, R260). ULD issues a load of the parison once its catch-up, where it asks for one, is reached and its address lands at a
place; with a false guard it is counted and writes nothing (R159, R292, R295). -/
def Obligations.LoadsIssue : Prop :=
  ((∀ i x blk, (i = .ld x ∧ blk = false ∨ i = .ldblk x ∧ blk = true) → ∀ s a w sp l, Runs s i a w sp →
    let f := Instr.form i
    let n := if blk then 64 else typeBytes x.ml.toNat
    let y := Actor.wave a w sp
    let t := s.counted a w sp
    let u := t.released y (ordOf x.ord.toNat) x.scope.toNat
    t.mayAccess y (ordOf x.ord.toNat) x.scope.toNat →
    Lands u a w (if blk then .blkLoad else .load) x.space.toNat n
      (w.addrs (t.formFile (coreOf a)) f x.space.toNat x.ofs.toInt n (w.exec sp f &&& ~~~w.helper)) l →
    exec i s = .next (u.issueOp a w sp f { newOp u a sp f (.load x.pol.toNat) (w.exec sp f) with
      order := ordOf x.ord.toNat, args := [if blk then 7 else x.ml.setWidth 32], reqs := l.map (u.loadReq (coreOf a) x.pol.toNat n) }))
  ∧ (∀ i, (∃ x, i = .ld x ∨ i = .ldblk x) → ∀ s p r, RunsPar s i p r → exec i s = .next (s.blow p r)))
  ∧ (∀ x s p r, RunsPar s (.uld x) p r →
    let f := Instr.form (.uld x)
    let n := typeBytes x.ml.toNat
    (r.guard f = some false → exec (.uld x) s = .next (s.issuePar p r f { newParOp s r f .uld with mask := 0, ready := true }))
    ∧ (∀ l, r.guard f = some true → (x.b.getLsbD 0 = true → s.caughtUp p r = true) → (Actor.par p r).ordered = none →
        s.locateLanes (.gaffer p) r.ctx (some r.block) .load x.space.toNat n
          [(0, effAddr x.space.toNat (r.sregs f.use.a f.fields.2.1) x.ofs.toInt n)] = .places l →
        exec (.uld x) s = .next (s.issuePar p r f { newParOp s r f .uld with
          sdst := f.swrites, order := ordOf x.ord.toNat, args := [x.ml.setWidth 32, x.pol.setWidth 32]
          reqs := l.map (s.loadReq (parCore p) x.pol.toNat n) })))

/-- ST, and STBLK with a format that can be packed, issue a store once their order modifier allows it and every lane lands at a place:
lanes store in ascending order, at once in core store, on PRIVATE lines (those of the other member once they stand in the L1, unless .BYP
passes it) and in an owning L1, and otherwise at the line's home; STBLK
stores one block for each distinct address; a store outside its block makes the block irrevocable (R81, R84, R92, R131, R183, R258, R261, R364). -/
def Obligations.StoresIssue : Prop :=
  (∀ x s a w sp l, Runs s (.st x) a w sp →
    let f := Instr.form (.st x)
    let n := typeBytes x.ml.toNat
    let y := Actor.wave a w sp
    let t := s.counted a w sp
    let ff := t.formFile (coreOf a)
    let u := t.released y (ordOf x.ord.toNat) x.scope.toNat
    t.mayAccess y (ordOf x.ord.toNat) x.scope.toNat →
    Lands u a w .store x.space.toNat n (w.addrs ff f x.space.toNat x.ofs.toInt n (w.exec sp f &&& ~~~w.helper)) l →
    (∀ e ∈ l, x.pol ≠ 2 → u.privAway (coreOf a) e = false) →
    (∀ e ∈ l, u.storeHeld (coreOf a) e.2.2.1 e.2.2.2 = false) →
    let v := if l.any (fun e => outsideStore w.block e.2.2.1) then u.irrevocable w.block else u
    let r := v.storeReqs (coreOf a) w.ctx x.pol.toNat (fun lane => storeBytes x.ml.toNat (w.operands ff f lane).b) l
    exec (.st x) s = .next (r.1.issueOp a w sp f { newOp r.1 a sp f .store (w.exec sp f) with
      order := ordOf x.ord.toNat, reqs := r.2.1, gd := r.2.2, gp := r.2.2 }))
  ∧ (∀ x s a w sp l blk, Runs s (.stblk x) a w sp →
    let f := Instr.form (.stblk x)
    let y := Actor.wave a w sp
    let t := s.counted a w sp
    let ff := t.formFile (coreOf a)
    let u := t.released y (ordOf x.ord.toNat) x.scope.toNat
    let all := w.addrs ff f x.space.toNat x.ofs.toInt 64 (w.exec sp f &&& ~~~w.helper)
    t.mayAccess y (ordOf x.ord.toNat) x.scope.toNat → Lands u a w .blkStore x.space.toNat 64 all l →
    packBlock (fun k => (w.operands ff f k).b0) = some blk →
    let mine := l.filter fun e => decide (∀ d ∈ all, d.2 = e.2.1 → e.1 ≤ d.1)
    (∀ e ∈ mine, x.pol ≠ 2 → u.privAway (coreOf a) e = false) → (∀ e ∈ mine, u.storeHeld (coreOf a) e.2.2.1 e.2.2.2 = false) →
    let v := if mine.any (fun e => outsideStore w.block e.2.2.1) then u.irrevocable w.block else u
    let r := v.storeReqs (coreOf a) w.ctx x.pol.toNat (fun _ => blk) mine
    exec (.stblk x) s = .next (r.1.issueOp a w sp f { newOp r.1 a sp f .store (w.exec sp f) with
      order := ordOf x.ord.toNat, reqs := r.2.1, gd := r.2.2, gp := r.2.2 }))
  ∧ (∀ i, (∃ x, i = .st x ∨ i = .stblk x) → ∀ s p r, RunsPar s i p r → exec i s = .next (s.blow p r))

/-- What the stores of a list of lanes leave in core stores and memories at issue: the byte that the last lane naming it gives; every
other byte of every core store as before, and no byte of a DRAM or a weight store changed when all lanes store to core store (R81, R92).
A write performed at a line's home (R87): in that line the byte of the last piece that gives it; every byte of another line, of
another memory and of the weight stores as before; its write completion times are at least the home's time, and 40 ns more for a
requester on the other member. There no batch stands half performed on the line, and no
line that the write drives out of the slice has an owner, who would write it back. -/
def Obligations.StoresWriteTheirBytes : Prop :=
  (∀ (s : State) (c : CoreRef) (ctx pol n : Nat) (data : Nat → List Byte) (l : List (Nat × Nat × Place × DWord)),
    (∀ e ∈ l, ∃ ref ofs, e.2.2.1 = .scratch ref ofs) → (∀ e ∈ l, (data e.1).length = n) →
    let t := (s.storeReqs c ctx pol data l).1
    (∀ h, t.mem h = s.mem h) ∧ (∀ d, t.ws d = s.ws d) ∧ t.waves = s.waves ∧ t.pars = s.pars
    ∧ (∀ ref b, ¬ storedTo l n ref b → t.scratchRead ref b 1 = s.scratchRead ref b 1)
    ∧ (∀ pre e post ref ofs k, l = pre ++ e :: post → e.2.2.1 = .scratch ref ofs → k < n → ¬ storedTo post n ref (ofs + k) →
        s.blockOf ref ≠ none → t.scratchRead ref (ofs + k) 1 = [nth (data e.1) k 0]))
  ∧ (∀ (s : State) (l : LineRef) (req : Die) (ctx va : Nat) (leaf : DWord) (ws : List (Nat × List Byte)),
    leafCls leaf ≠ .object → (l.home = .host → (s.crucible (sliceOf l)).half = none) →
    (∀ t ∈ (s.die (serverOf l.home)).tags, t.line ≠ l → t.owner = none) →
    (∀ p ∈ ws, l.la * 128 ≤ p.1 ∧ p.1 + p.2.length ≤ l.la * 128 + 128) →
    let r := s.homeWrite l req ctx va leaf ws
    (∀ h a, ¬ inLine l h a → Memory.read (r.1.mem h) a = Memory.read (s.mem h) a) ∧ (∀ d, r.1.ws d = s.ws d)
    ∧ (∀ pre p post k, ws = pre ++ p :: post → k < p.2.length → (∀ q ∈ post, ¬ (q.1 ≤ p.1 + k ∧ p.1 + k < q.1 + q.2.length)) →
        Memory.read (r.1.mem l.home) (p.1 + k) = nth p.2 k 0)
    ∧ s.now (serverOf l.home) ≤ r.2.1 ∧ r.2.1 ≤ r.2.2
    ∧ (req ≠ serverOf l.home → s.now (serverOf l.home) + 40 ≤ r.2.1))

/-- PREF asks for its lines and changes no register; CCTL writes back or drops the lines named, or with .ALL every line of the context,
and is counted as a store; FENCE goes on once the accesses before it are acknowledged and pair time has passed what its scope waits for,
and waits until then (R78, R90, R262 to R264). -/
def Obligations.CacheInstructionsComplete : Prop :=
  (∀ x s a w sp l, Runs s (.pref x) a w sp →
    let f := Instr.form (.pref x)
    let t := s.counted a w sp
    (Actor.wave a w sp).ordered = none →
    t.locateLanes a w.ctx w.block .pref 0 (typeBytes x.ml.toNat)
      (w.addrs (t.formFile (coreOf a)) f 0 x.ofs.toInt (typeBytes x.ml.toNat) (w.exec sp f &&& ~~~w.helper)) = .places l →
    exec (.pref x) s = .next
      ((l.foldl (fun (u : State) e => u.prefetch (coreOf a) w.ctx x.pol.toNat e) t).finishWave a (w.release f.lastReads) sp f))
  ∧ (∀ x s a w sp l, Runs s (.cctl x) a w sp →
    let f := Instr.form (.cctl x)
    let t := s.counted a w sp
    (Actor.wave a w sp).ordered = none →
    Lands t a w .cctl 0 1 (if 2 ≤ x.ml.toNat then [] else
      w.addrs (t.formFile (coreOf a)) f 0 x.ofs.toInt 128 (w.exec sp f &&& ~~~w.helper)) l →
    let u := if w.exec sp f = 0 then t else t.cctl (coreOf a) w.ctx x.ml.toNat l
    exec (.cctl x) s = .next (u.issueOp a w sp f (newOp u a sp f (.cctl x.ml.toNat) (w.exec sp f))))
  ∧ (∀ x s a w sp, Runs s (.fence x) a w sp →
    let f := Instr.form (.fence x)
    let y := Actor.wave a w sp
    let t := s.counted a w sp
    (w.exec sp f = 0 → exec (.fence x) s = .next (t.finishWave a w sp f))
    ∧ (t.fenceMet y x.scope.toNat = true → w.exec sp f ≠ 0 →
        exec (.fence x) s = .next ((t.fenceDone y x.scope.toNat).finishWave a w sp f))
    ∧ (t.fenceMet y x.scope.toNat = false → w.exec sp f ≠ 0 → exec (.fence x) s = .next (t.fenceWait y x.scope.toNat)))
  -- form mode: one access for the parison when the address is uniform; FENCE is the gaffer's
  ∧ (∀ x s p r l ea, RunsPar s (.pref x) p r →
    let f := Instr.form (.pref x)
    r.guard f = some true → r.uniAddr (s.formFile (parCore p)) f x.ofs.toInt (typeBytes x.ml.toNat) = some ea →
    s.locateLanes (.gaffer p) r.ctx (some r.block) .pref 0 (typeBytes x.ml.toNat) [(0, ea)] = .places l →
    exec (.pref x) s = .next ((l.foldl (fun (u : State) e => u.prefetch (parCore p) r.ctx x.pol.toNat e) s).setPar p (r.issued f)))
  ∧ (∀ x s p r l ea, RunsPar s (.cctl x) p r →
    let f := Instr.form (.cctl x)
    let op := fun (u : State) => ({ id := u.opCtr, kind := .cctl x.ml.toNat, ctr := some .stc, wofs := r.pos.pc, ord := r.pos.ord
                                    mask := 0xFFFFFFFF } : Op)
    r.ctr.get .stc ≠ 63 →
    let done := fun (u : State) => { u with opCtr := u.opCtr + 1 }.setPar p { r.issued f with ops := r.ops ++ [op u], ctr := r.ctr.up .stc }
    (r.guard f = some false → exec (.cctl x) s = .next (done s))
    ∧ (r.guard f = some true → 2 ≤ x.ml.toNat → exec (.cctl x) s = .next (done (s.cctl (parCore p) r.ctx x.ml.toNat [])))
    ∧ (r.guard f = some true → x.ml.toNat < 2 → r.uniAddr (s.formFile (parCore p)) f x.ofs.toInt 128 = some ea →
        s.locateLanes (.gaffer p) r.ctx (some r.block) .cctl 0 1 [(0, ea)] = .places l →
        exec (.cctl x) s = .next (done (s.cctl (parCore p) r.ctx x.ml.toNat l))))
  ∧ (∀ x s p r, RunsPar s (.fence x) p r →
    let f := Instr.form (.fence x)
    (r.guard f = some false → exec (.fence x) s = .next (s.setPar p (r.issued f)))
    ∧ (r.guard f ≠ some false → s.fenceMet (.par p r) x.scope.toNat = true →
        exec (.fence x) s = .next ((s.fenceDone (.par p r) x.scope.toNat).setPar p (r.issued f))))

/-- A load, store, fence or cache instruction that issues in a wave counts one more on its counter, adds its operation, releases the
names it reads for the last time, keeping what they held for a return to its region's entry, moves past itself, and changes nothing else of
its wave or outside it beyond its effect on memory (R171, R173, R186, R337). -/
def Obligations.IssueCounts : Prop :=
  ∀ (s : State) (id : WaveId) (k : Nat) (w : Wave) (sp : Split) (f : Form) (o : Op) (c : Ctr), o.ctr = some c → w.ctr.get c ≠ 63 →
    let t := s.issueOp (.wave id k) w sp f o
    ({ t with waves := s.waves, opCtr := s.opCtr } : State) = s ∧ (∀ id', id' ≠ id → look id' t.waves = look id' s.waves)
    ∧ ∃ w', look id t.waves = some w' ∧ (w'.ctr.get c).toNat = (w.ctr.get c).toNat + 1 ∧ (∀ d, d ≠ c → w'.ctr.get d = w.ctr.get d)
      ∧ w'.ops = w.ops ++ [o] ∧ w'.slots = w.slots.set k (some { sp.issued f with freed := sp.freed ++ s.freedBy (.wave id k) f })
      ∧ ({ w' with vmap := w.vmap, ctr := w.ctr, ops := w.ops, slots := w.slots } : Wave) = w
      ∧ (∀ n, n ∉ f.lastReads → nth w'.vmap n .undef = nth w.vmap n .undef) ∧ (∀ n ∈ f.lastReads, nth w'.vmap n .undef = .undef)

/-- Where an access meets a fault in some lane no lane is performed: its faults are recorded, one cause for each distinct subcause, and
the wave stops (R255, R339, R341); where a translation is missing the access is counted and waits for the walk (R24). -/
def Obligations.FaultingAccessesTrap : Prop :=
  ∀ i x s id k w sp, (i = .ld x ∨ i = .st x) → Runs s i (.wave id k) w sp → ordOf x.ord.toNat = .relaxed →
    (Actor.wave (.wave id k) w sp).ordered = none →
    let f := Instr.form i
    let n := typeBytes x.ml.toNat
    let y := Actor.wave (.wave id k) w sp
    let acc := if i = .ld x then Access.load else .store
    let at_ := s.locateLanes (.wave id k) w.ctx w.block acc x.space.toNat n
      (w.addrs (s.formFile ⟨id.die, id.core⟩) f x.space.toNat x.ofs.toInt n (w.exec sp f &&& ~~~w.helper))
    (∀ l, at_ = .bad l → exec i s = .next (s.faultLanes y l))
    ∧ (∀ l, at_ = .miss l → exec i s = .next (s.waitWalks y (some (if i = .ld x then Ctr.ldc else .stc)) acc l))

/-! ## Atomics and objects -/

/-- ATOM, RED and OCALL, once their order allows it and every lane lands at a place, make the block irrevocable where a lane acts, and
issue: lanes whose place is core store, a PRIVATE line or an owned line are performed at once in ascending order, the others are bundled
for their line's home; in form mode they blow the parison (R106, R107, R265 to R268, R364). -/
def Obligations.AtomicsIssue : Prop :=
  (∀ i x red, (i = .atom x ∧ red = false ∨ i = .red x ∧ red = true) → ∀ s a w sp l, Runs s i a w sp →
    let f := Instr.form i
    let n := if x.ml.getLsbD 0 then 8 else 4
    let y := Actor.wave a w sp
    let t := s.counted a w sp
    let ff := t.formFile (coreOf a)
    let u := t.released y (ordOf x.ord.toNat) x.scope.toNat
    t.mayAccess y (ordOf x.ord.toNat) x.scope.toNat →
    Lands u a w .atomic x.space.toNat n (w.addrs ff f x.space.toNat x.ofs.toInt n (w.exec sp f &&& ~~~w.helper)) l →
    (∀ e ∈ l, u.privAway (coreOf a) e = false) → (∀ e ∈ l, u.storeHeld (coreOf a) e.2.2.1 e.2.2.2 = false) →
    let v := if l = [] then u else u.irrevocable w.block
    let r := v.atomicReqs (coreOf a) w.ctx x.method.toNat (x.ml.getLsbD 0) (l.map fun e =>
      { lane := e.1, va := e.2.1, place := e.2.2.1, leaf := e.2.2.2, size := n, arg := (w.operands ff f e.1).b })
    exec i s = .next (r.1.issueOp a w sp f { newOp r.1 a sp f (.atomic x.method.toNat (x.ml.getLsbD 0) red) (w.exec sp f) with
      order := ordOf x.ord.toNat, reqs := r.2.1, gd := r.2.2, gp := r.2.2 }))
  ∧ (∀ x s a w sp l, Runs s (.ocall x) a w sp →
    let f := Instr.form (.ocall x)
    let t := s.counted a w sp
    let ff := t.formFile (coreOf a)
    let eas := w.addrs ff f 0 0 1 (w.exec sp f &&& ~~~w.helper)
    (∀ e ∈ eas, e.2 % 512 = 0) → (Actor.wave a w sp).ordered = none → Lands t a w .ocall 0 512 eas l →
    let v := if l = [] then t else t.irrevocable w.block
    exec (.ocall x) s = .next (v.issueOp a w sp f { newOp v a sp f (.ocall x.method.toNat) (w.exec sp f) with
      reqs := l.map fun e => { lane := e.1, va := e.2.1, place := e.2.2.1, leaf := e.2.2.2, size := 512, arg := (w.operands ff f e.1).b } }))
  ∧ (∀ i, (∃ x, i = .atom x ∨ i = .red x ∨ i = .ocall x) → ∀ s p r, RunsPar s i p r → exec i s = .next (s.blow p r))

/-- The built-in methods (R113): the new value each leaves in 32 bits, and those with a 64-bit width in 64, from the old value and the
operands a and b; the codes above are reserved; a batch applies its lanes one after another, each reading what the lane before left, and
returns the old values. -/
def Obligations.BuiltInMethods : Prop :=
  (∀ old a b : Word,
    let m := fun k => BitVec.ofNat 32 (methodNew k false old.toNat a.toNat b.toNat)
    m 0x0 = old + a ∧ m 0x1 = addRn old a ∧ m 0x2 = (if a.slt old then a else old) ∧ m 0x3 = (if a.ult old then a else old)
    ∧ m 0x4 = (if old.slt a then a else old) ∧ m 0x5 = (if old.ult a then a else old) ∧ m 0x6 = old &&& a ∧ m 0x7 = old ||| a
    ∧ m 0x8 = old ^^^ a ∧ m 0x9 = a ∧ m 0xA = (if old = b then a else old) ∧ m 0xB = (if a.ule old then 0 else old + 1)
    ∧ m 0xC = (if old = 0 ∨ a.ult old then a else old - 1))
  ∧ (∀ old a b : DWord,
    let m := fun k => BitVec.ofNat 64 (methodNew k true old.toNat a.toNat b.toNat)
    m 0x0 = old + a ∧ m 0x2 = (if a.slt old then a else old) ∧ m 0x3 = (if a.ult old then a else old)
    ∧ m 0x4 = (if old.slt a then a else old) ∧ m 0x5 = (if old.ult a then a else old) ∧ m 0x6 = old &&& a ∧ m 0x7 = old ||| a
    ∧ m 0x8 = old ^^^ a ∧ m 0x9 = a ∧ m 0xA = (if old = b then a else old))
  ∧ (∀ x : VForm, 0xD ≤ x.method.toNat ∨ x.ml.toNat % 2 = 1 ∧ (x.method = 0x1 ∨ x.method = 0xB ∨ x.method = 0xC) →
      (Instr.form (.atom x)).reserved = true ∧ (Instr.form (.red x)).reserved = true)
  ∧ (∀ (m : Nat) (w64 : Bool) (addr : BReq → Nat) (mem : Memory), applyAll m w64 addr mem [] = (mem, []))
  ∧ (∀ (m : Nat) (w64 : Bool) (addr : BReq → Nat) (mem : Memory) (r : BReq) (t : List BReq),
      let n := if w64 then 8 else 4
      let old := Memory.readN mem (addr r) n
      let ab := methodArgs w64 r.args
      let rest := applyAll m w64 addr (Memory.writeN mem (addr r) (bytesOf n (methodNew m w64 (natOf old) ab.1 ab.2))) t
      applyAll m w64 addr mem (r :: t) = (rest.1, (1, wordsOf old) :: rest.2))

/-- The combiner wave's instructions: OLD reads and OST writes the staging copy of STATE, highest lane last, REPLY gives the executing
lanes' reply words, and OEND ends the method and performs its batch in the same action; an offset past STATE fails the batch (R119 to
R121, R269, R270). -/
def Obligations.CombinerInstructionsComplete : Prop :=
  (∀ x s c w sp, Runs s (.old x) (.combiner c) w sp →
    let f := Instr.form (.old x)
    let t := s.counted (.combiner c) w sp
    let n := typeBytes x.ml.toNat
    let stage := (s.crucible c).stage
    let at_ := fun l => stageOfs stage (w.operands (t.formFile ⟨c.die, 0⟩) f l).a0 x.ofs.toInt n
    ((∀ l ∈ lanesOf (w.exec sp f), at_ l ≠ none) → exec (.old x) s = .next (t.finishWave (.combiner c)
      ((w.release f.lastReads).writeDst (t.formFile ⟨c.die, 0⟩) (w.exec sp f) (perLane fun l =>
        if (w.exec sp f).getLsbD l then { words := loadWords x.ml.toNat (slice stage ((at_ l).getD 0) n) } else {}) f.vwrites 0) sp f))
    ∧ ((∃ l ∈ lanesOf (w.exec sp f), at_ l = none) → exec (.old x) s = .next (t.failBatch c .stateRange sp.pos.pc)))
  ∧ (∀ x s c w sp, Runs s (.ost x) (.combiner c) w sp →
    let f := Instr.form (.ost x)
    let t := s.counted (.combiner c) w sp
    let stage := (s.crucible c).stage
    let ops := fun l => w.operands (t.formFile ⟨c.die, 0⟩) f l
    let at_ := fun l => stageOfs stage (ops l).a0 x.ofs.toInt (typeBytes x.ml.toNat)
    let u := t.finishWave (.combiner c) (w.release f.lastReads) sp f
    (∀ l ∈ lanesOf (w.exec sp f), at_ l ≠ none) → exec (.ost x) s = .next (u.putCrucible c { u.crucible c with
      stage := (lanesOf (w.exec sp f)).foldl (fun st l => patch st ((at_ l).getD 0) (storeBytes x.ml.toNat (ops l).b)) stage }))
  ∧ (∀ x s c w sp, Runs s (.reply x) (.combiner c) w sp →
    let f := Instr.form (.reply x)
    let t := s.counted (.combiner c) w sp
    let k := s.crucible c
    let u := t.finishWave (.combiner c) (w.release f.lastReads) sp f
    let words := fun l => (List.range k.rwidth).map fun j => w.lane (t.formFile ⟨c.die, 0⟩) (x.a.toNat + j) l
    exec (.reply x) s = .next (u.putCrucible c { u.crucible c with
      replies := (List.range k.replies.length).map fun l => if (w.exec sp f).getLsbD l then some (words l) else nth k.replies l none }))
  ∧ (∀ x s c w sp, Runs s (.oend x) (.combiner c) w sp →
    let t := s.counted (.combiner c) w sp
    exec (.oend x) s = .next ((t.putCrucible c { t.crucible c with done := true }).performBatch c))
  -- a method that has run 256 instructions fails its batch at the next (R121)
  ∧ (∀ i : Instr, (∃ x, i = .oend x ∨ i = .reply x) → ∀ s c w sp, s.cur = .combiner c → s.actorOf (.combiner c) = some (.wave (.combiner c) w sp) →
      gate (.wave (.combiner c) w sp) i.form = .go → s.flaws = [] → 256 ≤ (s.crucible c).steps →
      exec i s = .next (s.failBatch c .stepLimit sp.pos.pc))

/-! ## Histograms and unpacked blocks -/

/-- QHIST counts each executing lane, helpers excluded, into its bin, QSCALE computes the scale byte of a unit, QCLR empties one and
loads its base, QDEQ converts an element of an unpacked block; form mode counts a uniform source once for every item, once no tile op
of the parison that counts into the unit is queued (R73, R247 to R250, R252). A unit that the block does not have raises NAME (R297). A count goes to the bin of its value and to no other: zeros to bin 0, infinities and NaNs to bin 31, another value to a bin from 0
to 31; counts saturate (R71, R72). -/
def Obligations.HistogramInstructionsComplete : Prop :=
  ((∀ x s a w sp, Runs s (.qhist x) a w sp → x.d.toNat < (s.counted a w sp).histCount w.block →
      let f := Instr.form (.qhist x)
      let t := s.counted a w sp
      exec (.qhist x) s = .next ((t.setHist w.block x.d.toNat ((lanesOf (w.exec sp f &&& ~~~w.helper)).foldl (fun h l =>
        h.count (w.operands (t.formFile (coreOf a)) f l).a0 1) (t.hist w.block x.d.toNat))).finishWave a (w.release f.lastReads) sp f))
  ∧ (∀ x s a w sp, Runs s (.qscale x) a w sp → x.a.toNat < (s.counted a w sp).histCount w.block →
      let t := s.counted a w sp
      exec (.qscale x) s = .next (vecWave (Instr.form (.qscale x))
        (each1 fun i => BitVec.ofNat 32 (scaleFor (t.hist w.block x.a.toNat) (min i.b0.toNat 256))) t a w sp))
  ∧ (∀ x s p r, RunsPar s (.qscale x) p r → x.a.toNat < s.histCount (some r.block) → s.histBusy p r x.a.toNat = false →
      exec (.qscale x) s = .next (vecPar (Instr.form (.qscale x)) .uniform
        (each1 fun i => BitVec.ofNat 32 (scaleFor (s.hist (some r.block) x.a.toNat) (min i.b0.toNat 256))) s p r))
  ∧ (∀ i u, (∃ x, i = .qhist x ∧ u = x.d.toNat) ∨ (∃ x, (i = .qscale x ∨ i = .qclr x) ∧ u = x.a.toNat) →
      (∀ s a w sp, Runs s i a w sp → (s.counted a w sp).histCount w.block ≤ u →
        exec i s = .next ((s.counted a w sp).raise (.wave a w sp) .illegal .name))
      ∧ (∀ s p r, RunsPar s i p r → s.histCount (some r.block) ≤ u → exec i s = .next (s.raise (.par p r) .illegal .name)))
  ∧ (∀ x s a w sp, Runs s (.qclr x) a w sp → x.a.toNat < (s.counted a w sp).histCount w.block →
      let f := Instr.form (.qclr x)
      let t := s.counted a w sp
      (w.exec sp f = 0 → exec (.qclr x) s = .next (t.finishWave a (w.release f.lastReads) sp f))
      ∧ (∀ l, lowest (w.exec sp f) = some l → exec (.qclr x) s = .next ((t.setHist w.block x.a.toNat
          { bins := List.replicate 32 0, base := (w.operands (t.formFile (coreOf a)) f l).b0.extractLsb' 0 8 }).finishWave a
            (w.release f.lastReads) sp f)))
  ∧ (∀ x s a w sp, Runs s (.qdeq x) a w sp →
      let f := Instr.form (.qdeq x)
      let t := s.counted a w sp
      (w.exec sp f = 0 ∨ (w.operands (t.formFile (coreOf a)) f 31).a0.toNat % 256 < 8 →
        exec (.qdeq x) s = .next (vecWave f (fun inp _ _ l =>
          { words := [qdeqOf (modeOf x.ml.toNat) (gMh x % 8) (inp 31).a0 (inp l).a0 l] }) t a w sp))
      ∧ (w.exec sp f ≠ 0 → 8 ≤ (w.operands (t.formFile (coreOf a)) f 31).a0.toNat % 256 → exec (.qdeq x) s = .next
          (t.trap (.wave a w sp) [(Actor.wave a w sp).record .format .blkFormat (w.exec sp f) 0 0] none)))
  ∧ (∀ x s p r, RunsPar s (.qdeq x) p r → exec (.qdeq x) s = .next (s.blow p r))
  ∧ (∀ i u hist, (∃ x, i = .qhist x ∧ u = x.d.toNat ∧ hist = true ∨ i = .qclr x ∧ u = x.a.toNat ∧ hist = false) →
      ∀ s p r, RunsPar s i p r → u < s.histCount (some r.block) → s.histBusy p r u = false →
      (r.guard i.form = some false → exec i s = .next (s.setPar p (r.issued i.form)))
      ∧ (r.guard i.form = none → exec i s = .next (s.blow p r))
      ∧ (∀ f, r.guard i.form = some true → r.operands (s.formFile (parCore p)) i.form = some f → f.uni = false →
          exec i s = .next (s.blow p r))
      ∧ (∀ f, r.guard i.form = some true → r.operands (s.formFile (parCore p)) i.form = some f → f.uni = true →
          exec i s = .next ((s.setHist (some r.block) u (if hist then (s.hist (some r.block) u).count f.lane.a0 r.box.count
            else { bins := List.replicate 32 0, base := f.lane.b0.extractLsb' 0 8 })).setPar p (r.issued i.form)))))
  ∧ (∀ (h : Hist) (x : Word) (n : Nat), h.bins.length = 32 →
    let b := histBin h.exp x
    b < 32 ∧ (h.count x n).base = h.base ∧ ((h.count x n).bins).length = 32
    ∧ (nth (h.count x n).bins b 0).toNat = min ((nth h.bins b 0).toNat + n) (2 ^ 32 - 1)
    ∧ (∀ c, c ≠ b → nth (h.count x n).bins c 0 = nth h.bins c 0)
    ∧ (x = 0 ∨ x = 0x80000000 → b = 0) ∧ (x.extractLsb' 23 8 = 0xFF → b = 31))

/-! ## Barriers and waiting -/

/-- BARA, BARW and BARS in a wave whose lanes name an object that is well formed: BARA arrives with the count of its executing lanes,
helpers excluded, and gives the token; BARS arrives and waits for the phase, or goes on with RESULT when its arrival completes it; BARW
waits while its token names the phase, and otherwise gives RESULT, or 0 and STALE for an older phase. With no executing lane they pass
(R93, R272 to R276). -/
def Obligations.BarriersComplete : Prop :=
  ∀ i st rel, (∃ x, (i = .bara x ∨ i = .bars x) ∧ st = 0 ∧ rel = true ∨ i = .barw x ∧ st = staleOf x ∧ rel = false) →
    ∀ s a w sp, Runs s i a w sp →
    let f := Instr.form i
    let y := Actor.wave a w sp
    let t := s.counted a w sp
    let ex := w.exec sp f
    let src := fun l => w.operands (t.formFile (coreOf a)) f l
    let coh := f.ml % 2 == 1
    (ex = 0 → exec i s = .next (t.finishWave a (w.release f.lastReads) sp f))
    ∧ (∀ l0 ref ofs leaf, lowest ex = some l0 →
        let u := if rel then t.released y .release (barScope coh (src l0).a0) else t
        (rel = true → t.mayAccess y .release (barScope coh (src l0).a0)) → (rel = false → y.ordered = none) →
        u.locateLanes a y.ctx y.block .load (if coh then 2 else 1) 16 [(0, (src l0).a0.toNat)] =
          .places [(0, (src l0).a0.toNat, .scratch ref ofs, leaf)] →
        (u.barObj ref ofs).rsv = 0 →
        let o := u.barObj ref ofs
        let c := ex &&& ~~~w.helper
        let v := (lanesOf c).foldl (fun m l => barCombine o.op m (barGive o.op (src l).b0)) (barIdentity o.op)
        (∀ x z tok, i = .bara x → u.arriveBar ref ofs (whoOf a) (f.ml / 2 % 2 == 1) (popcount c) v none = .ok (z, tok) →
          exec i s = .next ((z.barOutside ((z.waveNow a w).release f.lastReads).block ref).finishWave a
            (((z.waveNow a w).release f.lastReads).writeDst (t.formFile (coreOf a)) ex (perLane fun _ => { words := [BitVec.ofNat 32 tok] })
              f.vwrites 0) sp f))
        ∧ (∀ x z tok, i = .bars x → u.arriveBar ref ofs (whoOf a) (f.ml / 2 % 2 == 1) (popcount c) v none = .ok (z, tok) →
          let z1 := z.barOutside w.block ref
          exec i s = .next (if (z1.barObj ref ofs).phase = tok then z1.waitBar a (z1.waveNow a w) sp f ex ref ofs tok 0 true
            else z1.finishWave a (((z1.waveNow a w).release f.lastReads).writeDst (t.formFile (coreOf a)) ex
              (perLane fun _ => { words := [(z1.barObj ref ofs).result] }) f.vwrites 0) sp f))
        ∧ (∀ x, i = .barw x →
          let tok := Word.bits (src l0).b0 7 0
          let now := (o.phase + 256 - tok) % 256 == 1
          let w1 := (w.release f.lastReads).writeDst (t.formFile (coreOf a)) ex
            (perLane fun _ => { words := [if now then o.result else 0] }) f.vwrites 0
          exec i s = .next (if tok = o.phase then u.waitBar a w sp f ex ref ofs tok st false
            else u.finishWave a (if st = 0 then w1 else w1.writePred (st - 1) ex fun _ => !now) sp f)))

/-- The arrival of n lanes at an object (R272, R274): of none, nothing changes; of some, ARRIVED rises by n, held at 65,535, and PAYLOAD
takes the contribution in; when this reaches the expected count the phase completes in the same action: RESULT takes PAYLOAD, PAYLOAD its
identity, ARRIVED 0 and PHASE the next of 256. The token is the phase before. No other byte of any core store changes. -/
def Obligations.BarrierArrival : Prop :=
  ∀ (s : State) (r : BlockRef) (ofs n : Nat) (who : AgentId) (rb : Bool) (v : Word) (cap : Option (ParId × Parison × List (Nat × Aff)))
    (t : State) (tok : Nat), s.blockOf r ≠ none → s.arriveBar r ofs who rb n v cap = .ok (t, tok) →
    let o := s.barObj r ofs
    let e := s.barExpected r o
    let arrived := min (o.arrived + n) 65535
    tok = o.phase
    ∧ (n = 0 → t = s)
    ∧ (0 < n → e ≠ 0 → arrived < e → t.barObj r ofs = { o with arrived := arrived, payload := barCombine o.op o.payload v })
    ∧ (0 < n → (e = 0 ∨ e ≤ arrived) → t.barObj r ofs =
        { o with result := barCombine o.op o.payload v, payload := if o.op = 0 then 0xFFFFFFFF else 0, arrived := 0, phase := (o.phase + 1) % 256 })
    ∧ (∀ q b, ¬ (q = r ∧ ofs ≤ b ∧ b < ofs + 16) → t.scratchRead q b 1 = s.scratchRead q b 1)
    ∧ (∀ h, t.mem h = s.mem h) ∧ (∀ d, t.ws d = s.ws d)

/-- WAITV and QWAIT in a wave deschedule their split on what their lanes name, and QSIG, once the wave's stores and atomics have
retired, signals each distinct token once with the sum of its lanes; at homes of its own member the signal is performed at once. With no
executing lane they pass (R97, R277 to R279, R364). token_signal (R98): COUNT rises by n modulo 2^64, the completion times are the larger
ones, the producer's die joins DIES, CORE is the first producer's, and MULTI is set once producers differ in core or die and is never
cleared. -/
def Obligations.WaitsComplete : Prop :=
  ((∀ i k acc space size align wt why args, (∃ x, i = .waitv x ∧ k = .waitv ∧ acc = Access.load ∧ space = x.ml.toNat % 4 ∧ align = 4
        ∧ size = 4 ∧ wt = Wait.location ∧ why = Stall.waitv ∧ args = [BitVec.ofNat 32 (gMh x)]
      ∨ i = .qwait x ∧ k = .qwait ∧ acc = .tokenRead ∧ space = 0 ∧ align = 32 ∧ size = 32 ∧ wt = .token ∧ why = .token ∧ args = []) →
    ∀ s a w sp l, Runs s i a w sp →
    let f := Instr.form i
    let t := s.counted a w sp
    let ff := t.formFile (coreOf a)
    let ex := w.exec sp f
    (ex = 0 → exec i s = .next (t.finishWave a (w.release f.lastReads) sp f))
    ∧ (ex ≠ 0 → (Actor.wave a w sp).ordered = none → Lands t a w acc space align (w.addrs ff f space 0 1 (ex &&& ~~~w.helper)) l →
        exec i s = .next (t.waitMem a w sp f { newOp t a sp f k ex with
          ctr := none, args := args
          reqs := l.map fun e => { lane := e.1, va := e.2.1, place := e.2.2.1, leaf := e.2.2.2, size := size, arg := (w.operands ff f e.1).b } }
            wt why)))
  ∧ (∀ x s a w sp l, Runs s (.qsig x) a w sp →
    let f := Instr.form (.qsig x)
    let t := s.counted a w sp
    let ff := t.formFile (coreOf a)
    let lanes := w.exec sp f &&& ~~~w.helper
    let eas := w.addrs ff f 0 0 1 lanes
    (Actor.wave a w sp).ordered = none → (∀ o ∈ w.ops, o.kind.beforeSignal = false) → t.locateLanes a w.ctx w.block .tokenWrite 0 32 eas = .places l →
    let first := l.filter fun e => (l.find? fun d => d.2.1 == e.2.1).any fun d => d.1 == e.1
    let r := t.signals (.wave a w sp) (whoOf a) t.opCtr w.gwd w.gwp first
      fun va => ((eas.filter fun e => e.2 == va).map fun e => (w.operands ff f e.1).b0.toNat).sum
    let u := if lanes = 0 then r.1 else r.1.irrevocable w.block
    exec (.qsig x) s = .next (if r.2 = [] then u.finishWave a (w.release f.lastReads) sp f
      else u.issueOp a w sp f { newOp u a sp f .qsig (w.exec sp f) with reqs := r.2, vdst := [], results := laneVas eas })))
  ∧ (∀ (t : Token) (g : Signal), g.core < 256 → (g.dies = 1 ∨ g.dies = 2) →
    let u := t.signal g
    u.count = (t.count + g.n) % 2 ^ 64 ∧ u.gd = max t.gd g.gd ∧ u.gp = max t.gp g.gp
    ∧ u.place % 4 = (t.place % 4) ||| g.dies
    ∧ u.place / 16 % 256 = (if t.place % 4 = 0 then g.core else t.place / 16 % 256)
    ∧ (u.place / 4 % 2 = 1 ↔ t.place / 4 % 2 = 1 ∨ g.multi = true
        ∨ t.place % 4 ≠ 0 ∧ (t.place / 16 % 256 ≠ g.core ∨ t.place % 4 ≠ g.dies)))

/-! ## Tiles -/

/-- MMA with operands it can fetch as it issues (DEDUCED, log entry 37: R299's text has its tile action fetch them), MZERO, and MTILE, issued by the gaffer: MMA and MZERO join the marver's queue, counted on MXC, once
their catch-up is reached and the queue of 16 has room; MTILE gives the tile's state bits once the parison's earlier tile ops on it have
retired. With a false guard they write nothing; a malformed tile operand raises TILE_NAME (R297 to R300). MDRAIN in a wave, whose tile
operand names a tile of its block, is counted on MXC and waits for its tile action; with .AMX its merge, of the lowest executing lane that
is no helper, lands at an address that an atomic may use. In form mode it blows the parison (R301). -/
def Obligations.TileInstructionsComplete : Prop :=
  ((∀ x s p r s1 s2 ab bb, RunsPar s (.mma x) p r →
    let f := Instr.form (.mma x)
    let ml := x.ml.toNat
    let n := s.tileCount r.block
    let c := nth r.sreg x.d.toNat 0
    let aw := r.sregs f.use.a f.fields.2.1
    let bw := r.sregs f.use.b f.fields.2.2.1
    let hists := ((s.blockOf r.block).map (·.hists.length)).getD 0
    (ml / 4 % 2 = 1 → gMh x / 4 % 4 < hists) →
    tileBad false n c = false → (ml % 4 = 2 → ∀ v ∈ r.sregs f.use.a x.a.toNat, tileBad true n v = false) →
    (r.guard f = some false → exec (.mma x) s = .next (s.issuePar p r f { newParOp s r f .mma with mask := 0, args := tilesNamed r f, ready := true }))
    ∧ (r.guard f = some true → s.tileStall p r (gMh x / 16 % 2 == 1) = none → (Actor.par p r).ordered = none →
        s.fetchBlocks p r (gMh x % 4) (opBase (gMh x % 4) bw) 62 = .ok s1 bb → badBlock 1 bb = none →
        (ml % 4 = 2 → s2 = s1 ∧ ab = bytesOfWords aw) →
        (ml % 4 ≠ 2 → s1.fetchBlocks p r (aSpace (ml % 4)) (opBase (ml % 4) aw) 256 = .ok s2 ab ∧ badBlock 2 ab = none) →
        exec (.mma x) s = .next (s2.queueTile p r f .mma { par := p, op := 0, zero := false, tile := tileName c, a := ab, b := bb
                                                           mods := ml % 4 + (if ml / 4 % 2 = 1 then 4 else 0) + 8 * (gMh x / 4 % 4) }
          ((if ml % 4 = 3 then weightReqs p.die 3 (opBase 3 aw) 256 else []) ++ weightReqs p.die (gMh x % 4) (opBase (gMh x % 4) bw) 62))))
  ∧ (∀ x s p r, RunsPar s (.mzero x) p r →
    let f := Instr.form (.mzero x)
    let v := nth r.sreg x.d.toNat 0
    tileBad false (s.tileCount r.block) v = false →
    (r.guard f = some false → exec (.mzero x) s = .next (s.issuePar p r f { newParOp s r f .mzero with mask := 0, args := tilesNamed r f, ready := true }))
    ∧ (r.guard f = some true → s.tileStall p r (x.ml.getLsbD 0) = none →
        exec (.mzero x) s = .next (s.queueTile p r f .mzero { par := p, op := 0, zero := true, tile := tileName v })))
  ∧ (∀ x s p r t, RunsPar s (.mtile x) p r →
    let f := Instr.form (.mtile x)
    let v := nth r.sreg x.a.toNat 0
    s.tile r.block (tileName v) = some t → tileBad false (s.tileCount r.block) v = false →
    (∀ o ∈ r.ops, (o.kind = .mma ∨ o.kind = .mzero) → BitVec.ofNat 32 (tileName v) ∉ o.args) →
    (r.guard f = some false → exec (.mtile x) s = .next (s.setPar p (r.issued f)))
    ∧ (r.guard f = some true → exec (.mtile x) s = .next (s.setPar p ((r.issued f).writeS [x.d.toNat]
        [(0#28 ++ BitVec.ofBool t.zero ++ BitVec.ofBool t.poison ++ BitVec.ofBool t.dirty ++ 1#1)]))))
  ∧ (∀ i v, (∃ x, i = .mzero x ∧ v = x.d ∨ i = .mtile x ∧ v = x.a) → ∀ s p r, RunsPar s i p r → r.guard i.form ≠ none →
      tileBad false (s.tileCount r.block) (nth r.sreg v.toNat 0) = true → exec i s = .next (s.raise (.par p r) .format .tileName)))
  ∧ ((∀ x s a w sp l l0, Runs s (.mdrain x) a w sp →
    let f := Instr.form (.mdrain x)
    let t := s.counted a w sp
    let amx := x.ml.toNat / 4 % 2 == 1
    let v := (w.operands (t.formFile (coreOf a)) f l0).a0
    (lowest (w.exec sp f) = some l0 ∨ w.exec sp f = 0 ∧ lowest sp.act = some l0) →
    Word.bits v 15 10 = 0 → Word.bits v 31 22 = 0 → tileName v < (w.block.map t.tileCount).getD 0 →
    (Actor.wave a w sp).ordered = none →
    Lands t a w .atomic 0 4
      (match lowest (w.exec sp f &&& ~~~w.helper) with
       | some k => if amx then [(k, (pairOf (w.operands (t.formFile (coreOf a)) f l0).b).toNat)] else []
       | none => []) l →
    exec (.mdrain x) s = .next (t.issueOp a w sp f { newOp t a sp f (.mdrain amx) (w.exec sp f) with
      args := [v, BitVec.ofNat 32 (x.ml.toNat % 4)], ready := w.exec sp f == 0
      reqs := l.map fun e => { lane := e.1, va := e.2.1, place := e.2.2.1, leaf := e.2.2.2, size := 4, sent := true } }))
  ∧ (∀ x s p r, RunsPar s (.mdrain x) p r → exec (.mdrain x) s = .next (s.blow p r)))

/-- A tile op leaves in each element of C what cell_update gives from its row of A and column of B, and a poisoned operand poisons C;
MZERO leaves a zero tile that is not poisoned; a poisoned tile reads as the canonical NaN (R38, R39, R67, R68). -/
def Obligations.TileActions : Prop :=
  (∀ (c : Tile) (as : List (List MBlock)) (bs : List MBlock) (i j : Nat), i < 64 → j < 62 →
    ((c.mma as bs).at i j = cellUpdate (nth as i []) (nth bs j { scale := 0x7F, elems := [], poison := false }) (c.at i j))
    ∧ (c.mma as bs).zero = false ∧ (c.mma as bs).dirty = true
    ∧ ((c.mma as bs).poison = true ↔ c.poison = true ∨ (∃ r ∈ as, ∃ b ∈ r, b.poison = true) ∨ ∃ b ∈ bs, b.poison = true))
  ∧ (∀ (c : Tile) (i j : Nat), c.mzero.at i j = 0 ∧ c.mzero.poison = false ∧ c.mzero.zero = true ∧ c.mzero.dirty = true)
  ∧ (∀ (c : Tile) (i j : Nat), c.poison = true → c.drain i j = 0x7FC00000)

/-! ## Jobs, traversal, sampling, visibility -/

/-- JOB at an aligned card: when its release is met, the scheduler has room and the card can be read, the card is submitted with the next
ticket and the instruction is counted on ENC; with a false guard or no lane it is counted and submits nothing. JSTAT reads the
scheduler's word. A misaligned card raises JOB_HANDLE (R303 to R305, R307). -/
def Obligations.JobInstructionsComplete : Prop :=
  (∀ x s p r, RunsPar s (.jobGaffer x) p r →
    let f := Instr.form (.jobGaffer x)
    let y := Actor.par p r
    let va := (pairOf (r.sregs .s2 x.a.toNat)).toNat
    let u := s.released y .release 2
    (r.guard f = some false → va % 128 = 0 →
      exec (.jobGaffer x) s = .next (s.issuePar p r f { newParOp s r f (.job 0) with mask := 0, ready := true }))
    ∧ (r.guard f ≠ none → va % 128 ≠ 0 → exec (.jobGaffer x) s = .next
        (s.trap y [y.record .engine .jobHandle 0xFFFFFFFF (BitVec.ofNat 64 va) 0] (some r.pos)))
    ∧ (∀ h pa leaf rest r2, r.guard f = some true → va % 128 = 0 → (s.die p.die).jobs.length < 256 → s.mayAccess y .release 2 →
        u.locateLanes (.gaffer p) r.ctx (some r.block) .load 0 1 [(0, va), (0, va + 64)] = .places ((0, va, .mem h pa, leaf) :: rest) →
        u.lineBusy (parCore p) u.opCtr (lineAt h pa) = false → u.away (parCore p) (lineAt h pa) = false → u.flaws = [] →
        let m := u.loadLine (parCore p) (lineAt h pa) r.ctx va leaf
        look p m.1.pars = some r2 →
        exec (.jobGaffer x) s = .next ((m.1.issuePar p r2 f (newParOp m.1 r2 f (.job m.1.jobCtr))).submitJob (.gaffer p) r.ctx
          (some r.block) m.1.opCtr va m.2)))
  ∧ (∀ x s a w sp l0, Runs s (.jobWave x) a w sp →
    let f := Instr.form (.jobWave x)
    let y := Actor.wave a w sp
    let t := s.counted a w sp
    let ex := w.exec sp f
    let va := (pairOf (w.operands (t.formFile (coreOf a)) f l0).a).toNat
    let u := t.released y .release 2
    (lowest (ex &&& ~~~w.helper) = some l0 ∨ ex &&& ~~~w.helper = 0 ∧ lowest (sp.act &&& ~~~w.helper) = some l0) →
    (va % 128 ≠ 0 → exec (.jobWave x) s = .next
      (t.trap y [y.record .engine .jobHandle (if ex = 0 then sp.act else ex) (BitVec.ofNat 64 va) 0] none))
    ∧ (va % 128 = 0 → ex &&& ~~~w.helper = 0 →
        exec (.jobWave x) s = .next (t.issueOp a w sp f { newOp t a sp f (.job 0) ex with vdst := [], ready := true }))
    ∧ (∀ h pa leaf rest, ex &&& ~~~w.helper ≠ 0 → va % 128 = 0 → (t.die (coreOf a).die).jobs.length < 256 → t.mayAccess y .release 2 →
        u.locateLanes a w.ctx w.block .load 0 1 [(l0, va), (l0, va + 64)] = .places ((l0, va, .mem h pa, leaf) :: rest) →
        u.lineBusy (coreOf a) u.opCtr (lineAt h pa) = false → u.flaws = [] →
        let m := u.loadLine (coreOf a) (lineAt h pa) w.ctx va leaf
        exec (.jobWave x) s = .next ((m.1.issueOp a (m.1.waveNow a w) sp f
          { newOp m.1 a sp f (.job m.1.jobCtr) ex with vdst := [] }).submitJob (whoOf a) w.ctx w.block m.1.opCtr va m.2)))
  ∧ (∀ x s p r, RunsPar s (.jstatGaffer x) p r → r.guard (Instr.form (.jstatGaffer x)) = some true →
      exec (.jstatGaffer x) s = .next (s.setPar p ((r.issued (Instr.form (.jstatGaffer x))).writeS [x.d.toNat] [s.jstat p.die r.ctx])))
  ∧ (∀ x, WaveEffect (.jstatWave x) fun s a w sp =>
      vecWave (Instr.form (.jstatWave x)) (each1 fun _ => s.jstat (coreOf a).die w.ctx) s a w sp)
  ∧ (∀ i, (∃ x, i = .jobWave x ∨ i = .jstatWave x) → ∀ s p r, RunsPar s i p r → exec i s = .next (s.blow p r))

/-- TRACE and SAMPLE with a descriptor that can be read and is valid, and lanes whose reads all land, are counted on TXC with their
results; PIDLD is counted with the entries of the block's slots as they stand; VISR, whose slots are free or its block's own and whose
list can be read, is counted and left to its slot action (R282 to R291, R308 to R311). That TRACE and SAMPLE read all they need in the action
that issues them, and so does VISR its list, is the model's own (DEDUCED, log entry 40). -/
def Obligations.TextureInstructionsComplete : Prop :=
  (∀ x s a w sp u b d, Runs s (.trace x) a w sp →
    let f := Instr.form (.trace x)
    let y := Actor.wave a w sp
    let t := s.counted a w sp
    let ex := w.exec sp f
    let va := ((lowest (if ex = 0 then sp.act else ex)).map fun l => (pairOf (w.operands (t.formFile (coreOf a)) f l).b).toNat).getD 0
    y.ordered = none → va % 32 = 0 → t.texRead y va 2 = (u, .ok b) → bvhOf b = some d →
    let r := texLanes (traceLane f y w d) u (lanesOf ex)
    let v := r.s.clearWalks a
    r.misses = [] → r.busy = false → r.bads = [] →
    exec (.trace x) s = .next (v.issueOp a (v.waveNow a w) sp f { newOp v a sp f .trace ex with results := r.results }))
  ∧ (∀ x s a w sp u b d, Runs s (.sample x) a w sp →
    let f := Instr.form (.sample x)
    let y := Actor.wave a w sp
    let t := s.counted a w sp
    let ex := w.exec sp f
    let va := ((lowest (if ex = 0 then sp.act else ex)).map fun l => (pairOf (w.operands (t.formFile (coreOf a)) f l).b).toNat).getD 0
    y.ordered = none → va % 32 = 0 → t.texRead y va 2 = (u, .ok b) → texDescOf b = some d →
    let r := texLanes (sampleLane f y w d) u (lanesOf ex)
    let v := r.s.clearWalks a
    r.misses = [] → r.busy = false → r.bads = [] →
    exec (.sample x) s = .next (v.issueOp a (v.waveNow a w) sp f { newOp v a sp f .sample ex with results := r.results }))
  ∧ (∀ x, WaveEffect (.pidld x) fun s a w sp =>
      let f := Instr.form (.pidld x)
      let ex := w.exec sp f
      let i := fun l => (w.operands (s.formFile (coreOf a)) f l).a0
      let slots := ((w.block.bind s.blockOf).map fun (b : Block) => b.slots).getD []
      let e := fun l => (nth slots (Word.bits (i l) 11 10) {}).get
        (32 * Word.bits (i l) 9 5 + Word.bits (i l) 4 0)
      s.issueOp a w sp f { newOp s a sp f .pidld ex with results := (lanesOf ex).map fun l => (l, [(e l).2, (e l).1]) })
  ∧ (∀ x s p r u ws, RunsPar s (.visr x) p r →
    let f := Instr.form (.visr x)
    let va := (pairOf (r.sregs .s2 x.a.toNat)).toNat
    (r.guard f = some false → exec (.visr x) s = .next (s.issuePar p r f { newParOp s r f .visr with mask := 0, ready := true }))
    ∧ (r.guard f = some true → (s.slotOwner (parCore p) = none ∨ s.slotOwner (parCore p) = some r.block) → va % 16 = 0 →
        (Actor.par p r).ordered = none →
        (s.bindSlots r.block).primList (.par p r) va (nth r.sreg x.b.toNat 0).toNat = (u, .ok ws) →
        exec (.visr x) s = .next (u.issuePar p r f { newParOp u r f .visr with
          args := [BitVec.ofNat 32 f.ml, nth r.sreg f.fields.2.2.2 0] ++ ws })))
  ∧ (∀ i, (∃ x, i = .trace x ∨ i = .sample x ∨ i = .pidld x) → ∀ s p r, RunsPar s i p r → exec i s = .next (s.blow p r))

/-! ## Uniform instructions -/

/-- The gaffer's arithmetic writes the uniform register D, UCMP and UCMP_IMM the predicate D, and USEL picks by a predicate; a false guard
leaves only the issue. A range predicate as guard of an instruction of a UNI clause other than UBRA, or as what USEL selects by, raises GUARD
(R190, R292, R293). -/
def Obligations.UniformArithmeticCompletes : Prop :=
  (∀ i g, (∃ x, i = .umov x ∧ g = (fun a _ _ => a) ∨ i = .uadd x ∧ g = (fun a b _ => a + b) ∨ i = .usub x ∧ g = (fun a b _ => a - b)
      ∨ i = .umul x ∧ g = (fun a b _ => a * b) ∨ i = .umad x ∧ g = (fun a b c => a * b + c)
      ∨ i = .ushl x ∧ g = (fun a b _ => a <<< b.toNat)
      ∨ i = .ushr x ∧ g = (fun a b _ => if x.ml.getLsbD 0 then a.sshiftRight b.toNat else a >>> b.toNat)
      ∨ i = .uand x ∧ g = (fun a b _ => a &&& b) ∨ i = .uor x ∧ g = (fun a b _ => a ||| b) ∨ i = .uxor x ∧ g = (fun a b _ => a ^^^ b))
      ∨ (∃ x, i = .umovi x ∧ g = (fun _ b _ => b) ∨ i = .uaddImm x ∧ g = (fun a b _ => a + b) ∨ i = .usubImm x ∧ g = (fun a b _ => a - b)
      ∨ i = .umulImm x ∧ g = (fun a b _ => a * b) ∨ i = .ushlImm x ∧ g = (fun a b _ => a <<< b.toNat)
      ∨ i = .ushrImm x ∧ g = (fun a b _ => if x.ml.getLsbD 0 then a.sshiftRight b.toNat else a >>> b.toNat)
      ∨ i = .uandImm x ∧ g = (fun a b _ => a &&& b) ∨ i = .uorImm x ∧ g = (fun a b _ => a ||| b)
      ∨ i = .uxorImm x ∧ g = (fun a b _ => a ^^^ b)) →
    ∀ s p r, RunsPar s i p r →
    let f := Instr.form i
    (r.guard f = some true → exec i s = .next (s.setPar p ((r.issued f).writeS [f.fields.1]
      [g (r.usrc f).1 (r.usrc f).2.1 (r.usrc f).2.2])))
    ∧ (r.guard f = some false → exec i s = .next (s.setPar p (r.issued f))))
  ∧ (∀ i mh, (∃ x, i = .ucmp x ∧ mh = gMh x) ∨ (∃ x, i = .ucmpImm x ∧ mh = x.mh.toNat) → ∀ s p r, RunsPar s i p r →
    let f := Instr.form i
    (r.guard f = some true → exec i s = .next (s.setPar p { r.issued f with
      pmap := (r.issued f).pmap.set f.fields.1 (.uni (icmpOf mh (r.usrc f).1 (r.usrc f).2.1)) }))
    ∧ (r.guard f = some false → exec i s = .next (s.setPar p (r.issued f))))
  ∧ (∀ x s p r v, RunsPar s (.usel x) p r →
    let f := Instr.form (.usel x)
    (r.guard f = some true → nth r.pmap f.fields.2.2.2 (.uni false) = .uni v →
      exec (.usel x) s = .next (s.setPar p ((r.issued f).writeS [f.fields.1] [if v then (r.usrc f).1 else (r.usrc f).2.1])))
    ∧ (r.guard f = some false → exec (.usel x) s = .next (s.setPar p (r.issued f))))
  -- a range predicate as guard, or as what USEL selects by, which is found as the instruction is decoded (R190, R292, R293)
  ∧ (∀ i, (∃ x, i = .umov x ∨ i = .uadd x ∨ i = .usub x ∨ i = .umul x ∨ i = .umad x ∨ i = .ushl x ∨ i = .ushr x ∨ i = .uand x ∨ i = .uor x
        ∨ i = .uxor x ∨ i = .ucmp x ∨ i = .usel x ∨ i = .ulaunch x ∨ i = .mma x ∨ i = .mzero x ∨ i = .mtile x ∨ i = .jobGaffer x
        ∨ i = .jstatGaffer x ∨ i = .visr x)
      ∨ (∃ x, i = .umovi x ∨ i = .uaddImm x ∨ i = .usubImm x ∨ i = .umulImm x ∨ i = .ushlImm x ∨ i = .ushrImm x ∨ i = .uandImm x
        ∨ i = .uorImm x ∨ i = .uxorImm x ∨ i = .ucmpImm x)
      ∨ (∃ x, i = .uld x) →
    ∀ s p r, UniAtGuard s i p r →
    (r.guard i.form = none → exec i s = .next (s.raise (.par p r) .illegal .guard))
    ∧ (∀ x d lo hi, i = .usel x → i.form.fields.2.2.2 ≠ 24 → nth r.pmap i.form.fields.2.2.2 (.uni false) = .range d lo hi →
        exec i s = .next (s.raise (.par p r) .illegal .guard)))

/-- What a uniform instruction leaves alone (R186, R292, R293): every wave, every other parison, every memory, and of its own parison every
uniform register but the one written, the forms, counters and operations, and every name but those it reads for the last time, which are
released; its position moves past it. One that writes a uniform register leaves every predicate, and one that writes a predicate (UCMP,
UCMP_IMM) every other predicate and every uniform register. -/
def Obligations.UniformFrame : Prop :=
  ∀ (s : State) (p : ParId) (r : Parison) (f : Form) (n : Nat) (v : Word) (b : PBind),
    (let t := s.setPar p ((r.issued f).writeS [n] [v])
    OnlyPar s t p ∧ SameMemory s t
    ∧ ∃ r', look p t.pars = some r' ∧ (n < r.sreg.length → nth r'.sreg n 0 = v) ∧ (∀ m, m ≠ n → nth r'.sreg m 0 = nth r.sreg m 0)
      ∧ r'.pos = r.pos.advance f.len ∧ r'.wroteS = r.wroteS ++ [n]
      ∧ ({ r' with sreg := r.sreg, pos := r.pos, wroteS := r.wroteS, ahead := r.ahead, stall := r.stall, nmap := r.nmap } : Parison) = r
      ∧ (∀ m, m ∉ f.lastReads → nth r'.nmap m none = nth r.nmap m none) ∧ (∀ m ∈ f.lastReads, nth r'.nmap m none = none))
    ∧ (let t := s.setPar p { r.issued f with pmap := (r.issued f).pmap.set n b }
    OnlyPar s t p ∧ SameMemory s t
    ∧ ∃ r', look p t.pars = some r' ∧ (n < r.pmap.length → nth r'.pmap n (.uni false) = b)
      ∧ (∀ m, m ≠ n → nth r'.pmap m (.uni false) = nth r.pmap m (.uni false)) ∧ r'.pos = r.pos.advance f.len
      ∧ ({ r' with pmap := r.pmap, pos := r.pos, ahead := r.ahead, stall := r.stall, nmap := r.nmap } : Parison) = r
      ∧ (∀ m, m ∉ f.lastReads → nth r'.nmap m none = nth r.nmap m none) ∧ (∀ m ∈ f.lastReads, nth r'.nmap m none = none))

/-- UBRA moves the parison to its target or on, and records which way as the outcome the waves take; with a range predicate as guard it
raises DIVERGE_U. ULAUNCH of a node that its table has takes one from the node's remaining count and settles the run, once the parison's
catch-up is reached and its stores are performed; a table that is absent, or has no such node, raises GRAPH_HANDLE whatever the guard
(R158, R159, R294, R296). -/
def Obligations.UniformControlCompletes : Prop :=
  (∀ x s p r, RunsPar s (.ubra x) p r →
    let f := Instr.form (.ubra x)
    (r.guard f = some true → exec (.ubra x) s = .next (s.setPar p
      { r.issued f with outcome := some true, pos := r.pos.jump f (branchTarget r.pos x.ofs) }))
    ∧ (r.guard f = some false → exec (.ubra x) s = .next (s.setPar p { r.issued f with outcome := some false }))
    ∧ (r.guard f = none → exec (.ubra x) s = .next (s.raise (.par p r) .illegal .divergeU)))
  ∧ (∀ x s p r, RunsPar s (.ulaunch x) p r →
    let f := Instr.form (.ulaunch x)
    let h := nth (r.sregs f.use.a f.fields.2.1) 0 0
    let q : QueueRef := ⟨r.ctx, s.queueOfBlock (some r.block)⟩
    (∀ t, s.table q (Word.bits h 31 16) = some t → Word.bits h 15 0 < t.nodes.length →
      (r.guard f = some false → exec (.ulaunch x) s = .next (s.setPar p (r.issued f)))
      ∧ (r.guard f = some true → s.caughtUp p r = true → (s.parGwp p r = 0 ∨ s.parGwp p r < s.now p.die) →
          exec (.ulaunch x) s = .next
            ((((s.setPar p (r.issued f)).irrevocable (some r.block)).decrements q (Word.bits h 31 16) maxDecrements
              [Word.bits h 15 0]).settleRuns q (Word.bits h 31 16))))
    ∧ ((∀ t, s.table q (Word.bits h 31 16) = some t → t.nodes.length ≤ Word.bits h 15 0) → exec (.ulaunch x) s = .next
        (s.trap (.par p r) [(Actor.par p r).record .engine .graphHandle 0xFFFFFFFF 0 0] (some r.pos))))

/-! ## Special registers and the trap window -/

/-- CSRR reads each special register in a wave that is no combiner's and as forms in form mode, where the lane's own numbers blow the
parison; CSRW writes a marker record where the trace is on (R189, R312). That CSRR in a combiner wave raises CONTEXT is the model's own
reading (DEDUCED, log entry 19). -/
def Obligations.SpecialRegisterInstructionsComplete : Prop :=
  (∀ x s a w sp, Runs s (.csrr x) a w sp → (∀ c, a ≠ .combiner c) →
    exec (.csrr x) s = .next (vecWave (Instr.form (.csrr x))
      (each fun i => { words := s.csrLane a w x.b.toNat i.lane }) s a w sp))
  ∧ (∀ x s c w sp, Runs s (.csrr x) (.combiner c) w sp → exec (.csrr x) s = .next
      ((s.counted (.combiner c) w sp).raise (.wave (.combiner c) w sp) .illegal .context))
  ∧ (∀ x s p r l, RunsPar s (.csrr x) p r → s.csrForms (parCore p) (s.blockOf r.block) r.role x.b.toNat = some l →
      exec (.csrr x) s = .next (vecPar (Instr.form (.csrr x)) (.stays fun _ => some l) (each fun _ => {}) s p r))
  ∧ (∀ x s p r, RunsPar s (.csrr x) p r → (x.b = 4 ∨ x.b = 5 ∨ x.b = 6) → exec (.csrr x) s = .next (s.blow p r))
  -- what the registers of every lane hold
  ∧ (∀ (s : State) (id : WaveId) (k : Nat) (w : Wave) (l : Nat), let a := AgentId.wave id k
      let b := w.block.bind s.blockOf
      s.csrLane a w 0x03 l = [BitVec.ofNat 32 ((b.map (·.bindex)).getD 0)] ∧ s.csrLane a w 0x04 l = [BitVec.ofNat 32 l]
      ∧ s.csrLane a w 0x05 l = [BitVec.ofNat 32 (l / 4)] ∧ s.csrLane a w 0x06 l = [BitVec.ofNat 32 w.number]
      ∧ (w.role = 0 → s.csrLane a w 0x00 l = [(w.item l).1] ∧ s.csrLane a w 0x01 l = [(w.item l).2.1] ∧ s.csrLane a w 0x02 l = [(w.item l).2.2])
      ∧ s.csrLane a w 0x07 l = [BitVec.ofNat 32 w.role] ∧ s.csrLane a w 0x0A l = [if id.die = .kapael then 0 else 1]
      ∧ s.csrLane a w 0x0B l = [(s.die id.die).ptime.extractLsb' 0 32, (s.die id.die).ptime.extractLsb' 32 32]
      ∧ s.csrLane a w 0x0C l = [(s.die id.die).cycle.extractLsb' 0 32, (s.die id.die).cycle.extractLsb' 32 32])
  ∧ (∀ x s id k w sp, Runs s (.csrw x) (.wave id k) w sp →
    let f := Instr.form (.csrw x)
    (w.exec sp f = 0 → exec (.csrw x) s = .next (s.finishWave (.wave id k) ((s.waveNow (.wave id k) w).release f.lastReads) sp f))
    ∧ (∀ l, lowest (w.exec sp f) = some l →
        let u := s.traceMark id 3 (w.operands (s.formFile ⟨id.die, id.core⟩) f l).a0.toNat
        exec (.csrw x) s = .next (u.finishWave (.wave id k) ((u.waveNow (.wave id k) w).release f.lastReads) sp f)))
  ∧ (∀ x s p r i, RunsPar s (.csrw x) p r → r.guard (Instr.form (.csrw x)) = some true →
      r.operands (s.formFile (parCore p)) (Instr.form (.csrw x)) = some i → i.uni = true →
      exec (.csrw x) s = .next ((s.parMark p r.ctx i.lane.a0).setPar p (r.issued (Instr.form (.csrw x)))))

/-- WINRD and WINWR in a firmware wave whose window is bound, with a class and index in range, read and write the bound wave or parison;
with no executing lane they pass; otherwise they raise WINDOW (R313). TRET acts on the wave or parison its window is bound to: it ends
the handler and frees the core, and for action 3 it raises WINDOW (R314). The model's own are the order in which CAUSE gives the causes (DESIGN CHOICE,
log entry 43), that selector bits [31:16] are ignored (DEDUCED, log entry 44), what WINWR takes for a parison's predicate, of a register beyond the
allotment and of a name without a form slot (DEDUCED, log entry 45), and a TRET whose core has no binding (DEDUCED, log entry 79). -/
def Obligations.FirmwareInstructionsComplete : Prop :=
  (∀ s d n w sp, s.cur = .firmware d n →
    (∀ i, (∃ x, i = .winrd x ∨ i = .winwr x) → Runs s i (.firmware d n) w sp →
      let f := i.form
      let sel := fun l => (w.operands (s.formFile ⟨d, 0⟩) f l).a0
      (w.exec sp f = 0 → exec i s = .next (s.finishWave (.firmware d n) (w.release f.lastReads) sp f))
      ∧ (∀ l, lowest (w.exec sp f) = some l →
          ((s.fwCore d n).window = .none ∨ windowOk (Word.bits (sel l) 7 0) (Word.bits (sel l) 15 8) = false) →
          exec i s = .next (s.raise (.wave (.firmware d n) w sp) .illegal .window)))
    ∧ (∀ x l id b, Runs s (.winrd x) (.firmware d n) w sp →
      let f := Instr.form (.winrd x)
      let sel := (w.operands (s.formFile ⟨d, 0⟩) f l).a0
      let cls := Word.bits sel 7 0
      let idx := Word.bits sel 15 8
      lowest (w.exec sp f) = some l → windowOk cls idx = true → (s.fwCore d n).window = .wave id → look id s.waves = some b →
      let b1 := if cls = 0 then b.fillGroup (idx / 4) else b
      exec (.winrd x) s = .next (vecWave f
        (each fun i => { words := [nth (windowWave b1 (s.formFile ⟨id.die, id.core⟩) cls idx) i.lane 0] })
        { s with waves := put id b1 s.waves } (.firmware d n) w sp))
    ∧ (∀ x l p r, Runs s (.winrd x) (.firmware d n) w sp →
      let f := Instr.form (.winrd x)
      let sel := (w.operands (s.formFile ⟨d, 0⟩) f l).a0
      let cls := Word.bits sel 7 0
      let idx := Word.bits sel 15 8
      lowest (w.exec sp f) = some l → windowOk cls idx = true → (s.fwCore d n).window = .par p → look p s.pars = some r →
      let v := s.windowPar r (s.formFile (parCore p)) cls idx
      exec (.winrd x) s = .next (vecWave f (each fun i => { words := [nth v.2 i.lane 0] }) v.1 (.firmware d n) w sp))
    ∧ (∀ x l, Runs s (.winwr x) (.firmware d n) w sp →
      let f := Instr.form (.winwr x)
      let ex := w.exec sp f
      let src := fun l => w.operands (s.formFile ⟨d, 0⟩) f l
      let cls := Word.bits (src l).a0 7 0
      let idx := Word.bits (src l).a0 15 8
      let b := fun j => if ex.getLsbD j then (src j).b0 else 0
      let t := s.finishWave (.firmware d n) (w.release f.lastReads) sp f
      lowest ex = some l → windowOk cls idx = true →
      (∀ id y, (s.fwCore d n).window = .wave id → look id t.waves = some y →
        exec (.winwr x) s = .next { t with waves := put id (writeWindow (if cls = 0 then y.fillGroup (idx / 4) else y)
          (t.formFile ⟨id.die, id.core⟩) cls idx ex b (b l)) t.waves })
      ∧ (∀ p r, (s.fwCore d n).window = .par p → look p t.pars = some r →
        exec (.winwr x) s = .next (t.writeWindowPar p r cls idx ex b (b l)))))
  ∧ (∀ (x : GForm) (s : State) (d : Die) (n : Nat) (w : Wave) (sp : Split), Runs s (.tret x) (.firmware d n) w sp →
    let f := Instr.form (.tret x)
    let at_ := fun l => w.operands (s.formFile ⟨d, 0⟩) f l
    (w.exec sp f = 0 → exec (.tret x) s = .next (s.finishWave (.firmware d n) (w.release f.lastReads) sp f))
    ∧ (∀ l, lowest (w.exec sp f) = some l → Word.bits (at_ l).a0 1 0 ≠ 3 →
        exec (.tret x) s = .next (s.tret d n (Word.bits (at_ l).a0 1 0) (Word.bits (at_ l).b0 15 0)))
    ∧ (∀ l, lowest (w.exec sp f) = some l → Word.bits (at_ l).a0 1 0 = 3 →
        exec (.tret x) s = .next (s.raise (.wave (.firmware d n) w sp) .illegal .window)))
/-! ## Steps of the part: clauses, decisions, walks -/

/-- A split at a clause header whose waits are met enters the clause, and one whose waits are not met stalls; a header that is no safe
point is entered with nothing else done but the fetch, which its page's counters count. A parison in form mode enters its clause in the
same way. A split at a UNI clause takes its next decision: uniform registers, rename map, and the clause it goes on at. Sibling parisons at
one JOIN merge when they differ in nothing and their predicates fit together, and otherwise both go on. A pending walk is made once one of
the die's walkers is free for it; walks held for a page on the move are asked again once it has moved; an absent register group is filled;
a fence or release that waits goes on once it is met (R22, R24, R90, R132, R133, R158, R162, R172, R346). The merge compares no pattern
registers and keeps those of the lower sibling (DESIGN CHOICE, log entry 93), and the cut stacks that name the higher one name the merged
parison from then on (DESIGN CHOICE, log entry 107). -/
def Obligations.ClauseStepsComplete : Prop :=
  (∀ s id k w sp h, let a := AgentId.wave id k
    let x := Actor.wave a w sp
    s.actorOf a = some x → canReach w sp = true → s.fetchWord x sp.pos.hofs = .word h → hdrOk h = true → hdrCls h ≠ 6 →
    (hdrMet w.ctr h = false → exec (.clauseHeaderWaitMet a) s = .next (s.stalled x .count))
    ∧ (∀ t q, hdrMet w.ctr h = true → s.atEntry a w sp h = .on t q → exec (.clauseHeaderWaitMet a) s =
        .next ((t.fetched x q.pos.hofs).setWave a ((t.waveNow a w).setSlot k
          (some { q with pos := { q.pos with inside := true, pc := q.pos.hofs + 1, hdr := h }, stall := .issued }))))
    ∧ (hdrMet w.ctr h = true → hdrSp h = false → exec (.clauseHeaderWaitMet a) s =
        .next ((s.fetched x sp.pos.hofs).setWave a (w.setSlot k
          (some { sp with pos := { sp.pos with inside := true, pc := sp.pos.hofs + 1, hdr := h }, stall := .issued })))))
  ∧ (∀ s p r h, look p s.pars = some r → r.mode = .form → r.status = .running → r.wait = .none → r.pos.inside = false → r.due = none →
      s.fetchWord (.par p r) r.pos.hofs = .word h → hdrOk h = true → hdrCls h ≠ 6 → hdrSp h = false → hdrMet r.ctr h = true →
      exec (.clauseHeaderWaitMet (.gaffer p)) s =
        .next ((s.fetched (.par p r) r.pos.hofs).setPar p
          { r with pos := { r.pos with inside := true, pc := r.pos.hofs + 1, hdr := h }, stall := .issued }))
  ∧ (∀ s id k w sp h p r d t q, let a := AgentId.wave id k
    let x := Actor.wave a w sp
    s.actorOf a = some x → canReach w sp = true → s.fetchWord x sp.pos.hofs = .word h → hdrOk h = true → hdrCls h = 6 →
    w.par = some p → look p s.pars = some r →
    (r.nextFor w = none → exec (.decisionConsume a) s = .next ((s.stalled x .decision).resumeGaffer p sp.pos.hofs))
    ∧ (r.nextFor w = some d → d.wofs = sp.pos.hofs → s.atEntry a w sp h = .on t q → exec (.decisionConsume a) s =
        .next ((t.setWave a ((t.waveNow a w).consume k q d t.opCtr)).trimQueue p))
    ∧ (r.nextFor w = some d → d.wofs ≠ sp.pos.hofs →
        exec (.decisionConsume a) s = .next (s.trap x [x.record .pipeline .decision sp.act 0 0] none)))
  ∧ (∀ s (p : ParId) r sib e rest t d ps, look p s.pars = some r → r.mode = .waitJoin → r.cuts = (sib, e) :: rest →
      look { p with entry := sib } s.pars = some t → t.mode = .waitJoin → t.joinId = r.joinId → t.pos.pc = r.pos.pc →
      r.box.abut t.box = some d → r.values (s.formFile (parCore p)) = t.values (s.formFile (parCore p)) → r.sreg = t.sreg →
      ((r.pmap.zip t.pmap).foldr (fun e acc => match mergePred d r.box t.box e.1 e.2, acc with
        | some x, some l => some (x :: l)
        | _, _ => none) (some [])) = some ps →
      r.ctr.clear = true → t.ctr.clear = true →
      let box := { r.box with x1 := t.box.x1, y1 := t.box.y1, z1 := t.box.z1 }
      exec (.parisonMerge p) s = .next (({ s with pars := drop { p with entry := sib } s.pars }.setPar p { r with
        mode := .form, cuts := rest, pos := r.pos.advance 2, stall := .issued, box := box, pmap := ps.map fun (x : PBind) => x.clip box
        gwd := max r.gwd t.gwd, gwp := max r.gwp t.gwp }).renameSibling { p with entry := sib } fun _ => p.entry))
  -- siblings that differ: both pass the JOIN, in form mode, and nothing else changes
  ∧ (∀ s (p : ParId) r sib e rest t, let q : ParId := { p with entry := sib }
      look p s.pars = some r → r.mode = .waitJoin → r.cuts = (sib, e) :: rest → sib ≠ p.entry →
      look q s.pars = some t → t.mode = .waitJoin → t.joinId = r.joinId → t.pos.pc = r.pos.pc →
      (r.values (s.formFile (parCore p)) ≠ t.values (s.formFile (parCore p)) ∨ r.sreg ≠ t.sreg
        ∨ (r.box.abut t.box = none ∧ t.box.abut r.box = none)
        ∨ ∃ d b, r.box.abut t.box = some d ∧ b ∈ r.pmap.zip t.pmap ∧ mergePred d r.box t.box b.1 b.2 = none) →
      ∃ u, exec (.parisonMerge p) s = .next u
        ∧ look p u.pars = some { r with mode := .form, cuts := rest, pos := r.pos.advance 2, stall := .issued }
        ∧ look q u.pars = some { t with mode := .form, cuts := t.cuts.drop 1, pos := t.pos.advance 2, stall := .issued }
        ∧ (∀ i, i ≠ p → i ≠ q → look i u.pars = look i s.pars) ∧ { u with pars := s.pars } = s)
  ∧ (∀ s q, look q (s.die (coreOf q.agent).die).walks = some .pending → s.hasWalker q = true →
      exec (.pageWalk q) s = .next (s.doWalk q))
  ∧ (∀ s a, exec (.mvHoldRelease a) s = .next (s.setDie (coreOf a).die { s.die (coreOf a).die with
      walks := (s.die (coreOf a).die).walks.map fun e =>
        if e.2 = .held ∧ e.1.agent = a ∧ s.moving e.1.ctx e.1.va = false then (e.1, .pending) else e }))
  ∧ (∀ s id g w, look id s.waves = some w → s.flaws = [] → exec (.registerFill id g) s = .next { s with waves := put id { w with
      vmap := (List.range w.vmap.length).map fun n => if n / 4 = g then (nth w.vmap n .undef).filled else nth w.vmap n .undef } s.waves })
  ∧ (∀ s id k w sp scope u, look id s.waves = some w → nth w.slots k none = some sp → sp.wait = .fence scope u →
      s.fenceMet (.wave (.wave id k) w sp) scope = true →
      exec (.fenceTimePassed (.wave id k)) s = .next (s.setWave (.wave id k) (w.setSlot k (some { sp with wait := .none }))))
  ∧ (∀ s p r scope u, look p s.pars = some r → r.wait = .fence scope u → s.fenceMet (.par p r) scope = true →
      exec (.fenceTimePassed (.gaffer p)) s = .next (s.setPar p { r with wait := .none }))

/-! ## Steps of the part: replies -/

/-- An operation whose work is done and which is the oldest on its counter is given back: loads, atomics, object calls and texture reads
write their results and retire, stores retire; a load of a block of a reserved format raises BLK_FORMAT, an atomic refused at the other
member REMOTE_REFUSED, and data that comes with an uncorrectable error ECC, with what the reply brings (R61, R87, R126, R140, R173, R266,
R268, R309, R402). A wait that is satisfied in every lane
writes its result and goes on; one that is not waits on. A tile action reads the row of an MDRAIN (R277, R279, R301). -/
def Obligations.RepliesComplete : Prop :=
  (∀ s id k w o, let a := AgentId.wave id k
    look id s.waves = some w → opOf w.ops o.id = some o → o.kind.isLoad = true → o.allDone = true → oldest w.ops o = true →
    (o.flawed ≠ [] → exec (.loadReply a o.id) s = .next (s.replyFaults a o o.flawed))
    ∧ (o.flawed = [] → o.badFmt = [] → exec (.loadReply a o.id) s = .next
      ((s.setWave a (w.writeResults (s.formFile ⟨id.die, id.core⟩) { o with results := o.loaded } o.vdst 0)).retire a o))
    ∧ (∀ b t, o.flawed = [] → o.badFmt = b :: t → exec (.loadReply a o.id) s = .next
      (s.replyFault a o .blkFormat (maskOf fun l => (b :: t).any fun r => r.lane == l) b.va)))
  ∧ (∀ s p r o q rest, look p s.pars = some r → opOf r.ops o.id = some o → o.kind = .uld → o.allDone = true → oldest r.ops o = true →
      o.reqs = q :: rest → o.flawed = [] →
      let names := o.sdst.zip (loadWords (nth o.args 0 0).toNat q.data)
      exec (.loadReply (.gaffer p) o.id) s = .next ((s.setPar p { r with
        sreg := names.foldl (fun m e => m.set e.1 e.2) r.sreg, wroteS := r.wroteS ++ names.map (·.1) }).retire (.gaffer p) o))
  ∧ (∀ s a o, s.agentOp a o.id = some o → (o.kind = .store ∨ ∃ m, o.kind = .cctl m) → o.allDone = true → s.mayRetire a o = true →
      exec (.storeAck a o.id) s = .next (s.retire a o))
  ∧ (∀ s a o m w64 red, s.agentOp a o.id = some o → o.kind = .atomic m w64 red → o.allDone = true → s.mayRetire a o = true →
      let zero : List Word := List.replicate (if w64 then 2 else 1) 0
      let res := (lanesOf o.mask).filterMap fun l => match o.reqs.find? fun r => r.lane == l with
        | some r => if r.status == 4 then some (l, zero) else if r.flaw.isSome then none else some (l, r.reply)
        | none => some (l, zero)
      let t := s.writeOp a { o with results := res }
      (o.flawed = [] → exec (.atomReply a o.id) s = .next (t.retire a o))
      ∧ (o.flawed ≠ [] → exec (.atomReply a o.id) s = .next (t.replyFaults a o o.flawed)))
  ∧ (∀ s a o m, s.agentOp a o.id = some o → o.kind = .ocall m → o.allDone = true → s.mayRetire a o = true →
      exec (.ocallReply a o.id) s = .next ((s.writeOp a { o with
        results := o.reqs.map fun r => (r.lane, BitVec.ofNat 32 r.status :: r.reply) }).retire a o))
  ∧ (∀ s a w o, s.waveOf a = some w → s.agentOp a o.id = some o → (o.kind = .trace ∨ o.kind = .sample ∨ o.kind = .pidld) →
      s.mayRetire a o = true →
      exec (.texReply a o.id) s = .next ((s.setWave a (w.writeResults (s.formFile (coreOf a)) o o.vdst 0)).retire a o))
  ∧ (∀ s id k w o amx t, let a := AgentId.wave id k
    look id s.waves = some w → opOf w.ops o.id = some o → o.kind = .mdrain amx → o.ready = false → s.flaws = [] →
    (∀ q ∈ w.ops, q.id < o.id → (∃ m, q.kind = .mdrain m) → q.slot = o.slot → q.ready = true) →
    (w.block.bind fun r => s.tile r (tileName (nth o.args 0 0))) = some t →
    let row := fun j => t.drain (Word.bits (nth o.args 0 0) 21 16) j
    let u := s.writeOp a { o with results := (lanesOf o.mask).map fun l => (l, drainLane (nth o.args 1 0 == 1) row l) }
    let top := (List.range 62).foldl (fun m j => max m ((row j).toNat % 2 ^ 31)) 0
    let r := u.atomicReqs ⟨id.die, id.core⟩ w.ctx 0x5 false (o.reqs.map fun r => { r with sent := false, arg := [BitVec.ofNat 32 top] })
    exec (.tileDrain a o.id) s = .next (r.1.setAgentOp a { o with ready := true, reqs := r.2.1, gd := max o.gd r.2.2, gp := max o.gp r.2.2 }))
  ∧ (∀ s id k o, let a := AgentId.wave id k
    ((s.agentOps a).find? fun o => (match o.kind with | .waitv | .qwait => true | _ => false) && o.slot == k) = some o →
    s.rereadFaults a (s.ctxOf a) o = [] →
    let r := s.rereadLanes a (s.ctxOf a) o o.reqs
    let u := r.1.dropFar id.die (.agent a)
    ({ o with reqs := r.2 } : Op).flawed = [] →
    (r.2.all (·.done) = false → exec (.waitvReread a) s = .next (u.setAgentOp a { o with reqs := r.2 }))
    ∧ (r.2.all (·.done) = true → exec (.waitvReread a) s = .next (u.waited a { o with reqs := r.2 } fun l =>
        ((r.2.find? fun q => q.lane == l).map (·.reply)).getD (List.replicate o.vdst.length 0))))

/-- A retirement takes 1 from the operation's counter, keeps the later of the write completion times, removes the operation and changes
nothing else (R87, R173). -/
def Obligations.Retirement : Prop :=
  ∀ (s : State) (id : WaveId) (k : Nat) (w : Wave) (o : Op) (c : Ctr), look id s.waves = some w → o.ctr = some c → w.ctr.get c ≠ 0 →
    let t := s.retire (.wave id k) o
    OnlyWave s t id ∧ ∃ w', look id t.waves = some w' ∧ (w'.ctr.get c).toNat + 1 = (w.ctr.get c).toNat
      ∧ (∀ d, d ≠ c → w'.ctr.get d = w.ctr.get d) ∧ w'.gwd = max w.gwd o.gd ∧ w'.gwp = max w.gwp o.gp
      ∧ (∀ q, q ∈ w'.ops ↔ q ∈ w.ops ∧ q.id ≠ o.id)
      ∧ ({ w' with ctr := w.ctr, ops := w.ops, gwd := w.gwd, gwp := w.gwp } : Wave) = w

/-! ## Steps of the part: homes -/

/-- The steps of the home slices and caches: a load's line is read at its home, in the order of the core's accesses to it, or asked of the
other member; a store's line is written; ownership is granted once pair time has passed both leases and no bundle waits; a line is
recalled or dropped; a bundle enters the pile of its line's slice, or is applied in an owning L1; a free engine forms a batch, which is
performed once no method runs for it, a read and then a write where its line is the host's and its method no AtomicOp; the contention and
access counters are swept and halved at their multiples of pair time; the host reads and writes at the page's home, and is held there
while the page moves and within a batch of an object slot (R82, R83, R86 to R89, R102 to R111, R116, R132, R133). -/
def Obligations.HomeStepsComplete : Prop :=
  (∀ s a o r l, s.agentOp a o.id = some o → o.next = some (r, l) → o.kind.isLoad = true → s.lineBusy (coreOf a) o.id l = false →
      serverOf l.home = (coreOf a).die → s.flaws = [] →
      let u := if o.pol = 2 then s.passLine (coreOf a) l (s.ctxOf a) r.va r.leaf else s.loadLine (coreOf a) l (s.ctxOf a) r.va r.leaf o.pol
      exec (.homeRead a o.id) s = .next (u.1.setAgentOp a (o.answer l u.2)))
  ∧ (∀ s a o r l, s.agentOp a o.id = some o → o.next = some (r, l) → o.kind.isLoad = true → s.lineBusy (coreOf a) o.id l = false →
      serverOf l.home ≠ (coreOf a).die → s.l1Get (coreOf a) l = none →
      exec (.homeRead a o.id) s = .next (s.request (coreOf a).die (.read a o.id l)
        { s.mkMsg (coreOf a).die tyRdReq (s.ctxOf a) (r.va / 128 * 128) with aux0 := BitVec.ofNat 64 o.pol }))
  ∧ (∀ s a o r l, s.agentOp a o.id = some o → o.next = some (r, l) → o.kind = .store → s.lineBusy (coreOf a) o.id l = false →
      serverOf l.home = (coreOf a).die →
      let t := (o.pieces l).foldl (fun (s : State) w => s.l1Refresh (coreOf a) l (w.1 % 128) w.2) s
      let u := t.homeWrite l (coreOf a).die (s.ctxOf a) r.va r.leaf (o.pieces l)
      exec (.homeWrite a o.id) s = .next (u.1.setAgentOp a { o.mark l true with
        gd := max o.gd u.2.1, gp := max o.gp u.2.2 }))
  ∧ (∀ s c l g, let t := s.tag l
      t.grantTo = some g → g.core = c.core → c.die = serverOf l.home → t.owner = none → t.leK < s.now c.die → t.leA < s.now c.die → s.piled l = false →
      exec (.ownershipGrant c l) s = .next ((s.onTag l fun (t : LineTag) => { t with owner := some c.core, grantTo := none }).l1Put c
        { core := c.core, line := l, ctx := g.ctx, va := g.va / 128 * 128, leaf := g.leaf, owned := true
          data := Memory.readN (s.mem l.home) (l.la * 128) 128 }))
  ∧ (∀ s l, exec (.lineRecall l) s = .next (s.recall l))
  ∧ (∀ s c l, exec (.l1Drop c l) s = .next (s.l1Drop c l))
  ∧ (∀ s a o m r l k, s.agentOp a o.id = some o → o.kind.method = some m → o.next = some (r, l) → r.key? m = some k →
      s.lineBusy (coreOf a) o.id l = false → bundleBefore (s.agentOps a) o.id l = false → ((s.l1Get (coreOf a) l).map (·.owned)).getD false = false → serverOf l.home = (coreOf a).die →
      ∀ t, s.arrive { agent := a, op := o.id, die := (coreOf a).die, core := (coreOf a).core, ctx := s.ctxOf a, key := k
                      reqs := (o.reqs.filter fun q => q.key? m == some k && !q.done && !q.sent).map fun q =>
                        { lane := q.lane, pa := (match q.place with | .mem _ pa => pa | _ => 0), va := q.va, args := q.arg, leaf := q.leaf } } l =
        some t → exec (.bundleArrive a o.id) s = .next (t.setAgentOp a (o.markKey m k)))
  ∧ (∀ s r b rest, let c := s.crucible r
      c.batch = [] → c.pile = b :: rest →
      let g := formBatch c.pile
      let c1 : Crucible := { c with batch := g.1, pile := g.2, broken := false, running := false, fail := none, done := false, half := none }
      (∀ l m w, b.key = .line l m w → exec (.formBatch r) s = .next (s.putCrucible r c1))
      ∧ (∀ l pa m, b.key = .object l pa m → exec (.formBatch r) s = .next (s.startObject r c1 l.home pa m)))
  ∧ (∀ s r, (s.crucible r).batch ≠ [] → ((s.crucible r).running = true → (s.crucible r).done = true) →
      (∀ l m w, ((s.crucible r).batch.head?.map (·.key)) = some (.line l m w) → (s.crucible r).half = none → twoStep l m = true →
        exec (.batchPerform r) s = .next (s.readHalf r (s.crucible r) l m w))
      ∧ ((∀ l m w, ((s.crucible r).batch.head?.map (·.key)) = some (.line l m w) → (s.crucible r).half = none → twoStep l m = false) →
        exec (.batchPerform r) s = .next (s.performBatch r)))
  ∧ (∀ s d, (s.die d).sweep < s.now d / 2 ^ 25 →
      exec (.contentionSweep d) s = .next (s.setDie d { s.die d with sweep := s.now d / 2 ^ 25, tags := (s.die d).tags.map fun t =>
        if (List.range (min 2 (s.now d / 2 ^ 25 - (s.die d).sweep))).any (fun i =>
            decide (16 ≤ (2 ^ 25 * ((s.die d).sweep + 1 + i) / 1024 % 65536 + 65536 - t.lastt) % 65536))
          then { t with old := true } else t }))
  ∧ (∀ s d, let n := (s.die d).ptime.toNat / 1048576
      (s.die d).decay < n → exec (.counterDecay d) s = .next (s.setDie d { s.die d with decay := n, acc := (s.die d).acc.map fun e =>
        { e with k := e.k / 2 ^ min 8 (n - (s.die d).decay), a := e.a / 2 ^ min 8 (n - (s.die d).decay) } }))
  -- the host: a read or write within one line at the page's home, and one that is held there
  ∧ (∀ s h t home pa leaf, h.data = [] →
      s.fwPieces (fun va => ⟨s.hostSide h.ctx va .pref, .host h.va⟩) h.ctx .pref 2 h.va 1 = .ok (t, [(home, pa, leaf, h.va, 1)]) →
      (∀ d, s.slotsBusy d [(home, pa, leaf, h.va, 1)] = false) →
      exec (.hostAccess h) s = .next (t.atHome (lineAt home pa) (serverOf home) h.ctx h.va leaf false))
  ∧ (∀ s h t home pa leaf, h.data ≠ [] → pa % 128 + h.data.length ≤ 128 →
      s.fwPieces (fun va => ⟨s.hostSide h.ctx va .engineWrite, .host h.va⟩) h.ctx .engineWrite 2 h.va h.data.length =
        .ok (t, [(home, pa, leaf, h.va, h.data.length)]) →
      (∀ d, s.slotsBusy d [(home, pa, leaf, h.va, h.data.length)] = true →
        exec (.hostAccess h) s = .next { s with hostHeld := s.hostHeld ++ [h] })
      ∧ ((∀ d, s.slotsBusy d [(home, pa, leaf, h.va, h.data.length)] = false) →
        let r := t.homeWrite (lineAt home pa) (serverOf home) h.ctx h.va leaf [(pa, h.data)]
        exec (.hostAccess h) s = .next { r.1 with hostGd := max r.1.hostGd r.2.1, hostGp := max r.1.hostGp r.2.2 }))
  ∧ (∀ s h t, h.data ≠ [] → h.data.length < 4096 →
      s.fwPieces (fun va => ⟨s.hostSide h.ctx va .engineWrite, .host h.va⟩) h.ctx .engineWrite 2 h.va h.data.length = .wait t →
      exec (.hostAccess h) s = .next { t with hostHeld := t.hostHeld ++ [h] })

/-- What a home does with leases (R28, R86, R87, R89): reading a COHERENT line for a member raises that member's lease end to at least the
home's time plus the length its context gives, 2^(6+d) ns, never lowers one, and hands out the line's bytes; the write completion times of
a later write are then at least that lease's end. -/
def Obligations.LeasesBindWrites : Prop :=
  ∀ (s : State) (l : LineRef) (req : Die) (ctx va : Nat) (leaf : DWord), leafCls leaf = .coherent → l.home ≠ .host →
    let r := s.homeRead l req ctx va leaf
    (∀ c, s.ctx ctx = some c → r.2.2 = s.now (serverOf l.home)
      + 2 ^ (6 + if req = serverOf l.home then c.desc.leaseDie else c.desc.leasePair))
    ∧ (∀ d, (s.tag l).le d ≤ (r.1.tag l).le d)
    ∧ r.2.1 = Memory.readN (r.1.mem l.home) (l.la * 128) 128
    ∧ r.2.2 ≤ (r.1.tag l).le req
    ∧ (r.1.gwct l req).1 ≥ r.2.2 ∧ ∀ q, (r.1.gwct l q).2 ≥ r.2.2

/-! ## Steps of the part: engines, moves, scheduling -/

/-- The marver performs its oldest tile op, a VISR draws its list into its slot, a job that nothing holds starts, and one that has moved
everything is performed, ends once its writes on the other member are acknowledged and pair time has passed them all, and signals its token;
a wanted move of a page begins with a frame at the destination, or is refused (R133, R134, R299, R303 to R306, R311). That a job performs
the accesses it is not held at in one step is an inference of the model (DEDUCED, log entry 38). -/
def Obligations.EngineStepsComplete : Prop :=
  (∀ s c t rest r ct o, s.flaws = [] → s.marver c = t :: rest → look t.par s.pars = some r → s.tile r.block t.tile = some ct →
      opOf r.ops t.op = some o →
      let u := s.setMarver c rest
      (t.zero = true → exec (.tileOp c) s = .next ((u.setTile r.block t.tile ct.mzero).setAgentOp
        (.gaffer t.par) { o with ready := true }))
      ∧ (t.zero = false →
        let row := fun (i g : Nat) => if t.mods % 4 = 2 then
            let v := nth (wordsOf t.a) g 0
            chainBlock (if tileName v = 0x3FF then none else u.tile r.block (tileName v)) (tileScale v) i
          else aBlock (slice t.a (256 * i + 64 * g) 64)
        let c1 := ct.mma ((List.range 64).map fun i => (List.range 4).map (row i))
          ((List.range 62).map fun j => bBlock (slice t.b (64 * j) 64))
        let v := u.setTile r.block t.tile c1
        exec (.tileOp c) s = .next ((if t.mods / 4 % 2 = 1 then
            v.setHist (some r.block) (t.mods / 8) ((v.hist (some r.block) (t.mods / 8)).countTile c1) else v).setAgentOp
          (.gaffer t.par) { o with ready := true })))
  ∧ (∀ s0 p r o b, look p s0.pars = some r → opOf r.ops o.id = some o → o.kind = .visr → o.ready = false →
      (s0.slotOwner (parCore p) = some r.block ∨ s0.slotOwner (parCore p) = none) →
      let s := if s0.slotOwner (parCore p) = none then s0.bindSlots r.block else s0
      s.blockOf r.block = some b →
      let ml := (nth o.args 0 0).toNat
      let org := nth o.args 1 0
      let v := (tens o.args.length (o.args.drop 2)).foldl (rasterPrim (Word.bits org 15 0) (Word.bits org 31 16))
        (if ml / 4 % 2 = 1 then {} else nth b.slots (ml % 4) {})
      exec (.visrSlotAction p o.id) s0 = .next ((s.putBlock r.block { b with slots := b.slots.set (ml % 4) v }).mapOps (.gaffer p)
        fun l => setOp l { o with ready := true }))
  ∧ (∀ s d j, ((s.die d).jobs.find? fun x => x.id == j.id) = some j → j.started = false → j.fault = none → jobHeld (s.die d).jobs j = false →
      s.bankHeld d j = false → s.budgetHeld j.ctx = false → exec (.jobStart d j.id) s = .next (s.putJob d { j with started := true }))
  ∧ (∀ s d j, ((s.die d).jobs.find? fun x => x.id == j.id) = some j → s.fwIdle d = true →
    (∀ sub va, j.fault = some (sub, va) → exec (.jobComplete d j.id) s = .next (s.faultJob d j sub va))
    ∧ (∀ t gd gp, j.fault = none → j.started = true → j.performed = false → s.budgetHeld j.ctx = false →
        s.jobRun d j (jobSteps j.card - j.step) j.step j.gd j.gp = .ok (t, gd, gp) →
        exec (.jobComplete d j.id) s = .next (t.putJob d { j with performed := true, waiting := false, gd := gd, gp := gp }))
    ∧ (∀ t sub va, j.fault = none → j.started = true → j.performed = false → s.budgetHeld j.ctx = false →
        s.jobRun d j (jobSteps j.card - j.step) j.step j.gd j.gp = .bad t sub va →
        exec (.jobComplete d j.id) s = .next (t.faultJob d j sub va))
    ∧ (j.fault = none → j.started = true → j.performed = true → s.farOut d (.job j.id) = false → (j.gp = 0 ∨ j.gp < s.now d) →
      ((cardFlags j.card % 2 = 0 ∨ j.signalled = true) → exec (.jobComplete d j.id) s = .next (s.endJob d j))
      ∧ (∀ t, cardFlags j.card % 2 = 1 → j.signalled = false →
          s.fwSignal ⟨d, .job j.id⟩ j.ctx (cardToken j.card)
            { n := 1, gd := j.gd, gp := j.gp, dies := dieBit d, core := 0, multi := true } = .ok t →
          (t.farOut d (.job j.id) = false → exec (.jobComplete d j.id) s = .next (t.endJob d j))
          ∧ (t.farOut d (.job j.id) = true → exec (.jobComplete d j.id) s = .next (t.putJob d { j with signalled := true })))))
  ∧ (∀ s p m c, s.moveAt p.ctx p.va = some m → s.ctx m.ctx = some c → m.stage = .wanted → c.ckpt = none →
      (s.moveNeeded m = true ∨ c.held m.dst = false) → c.inTransit = false →
      (s.moves.filter fun x => x.stage != .wanted && ((s.ctx x.ctx).map (·.resident)) == some c.resident).length < 64 →
      (s.moveRefused c m = true → exec (.moveStart p m.dst) s = .next (s.refuseMove m))
      ∧ (∀ t pa, s.moveRefused c m = false → m.dst = c.resident → s.allocFrame m.ctx m.dst m.size false = .ok (t, pa) →
          exec (.moveStart p m.dst) s = .next (t.beginDrain m pa))
      ∧ (s.moveRefused c m = false → m.dst ≠ c.resident → exec (.moveStart p m.dst) s =
          .next ((s.request c.resident (.move m.ctx m.va) { s.mkMsg c.resident tyHomeReq m.ctx m.va with
            aux0 := BitVec.ofNat 64 m.size, aux1 := if m.dst = .amdukor then 1 else 0 }).putMove { m with stage := .asked })))

/-- The frontend admits the blocks of a launch's next cohort where they fit, reserves and preempts for a cohort that waits, brings saved
blocks back, saves a block that has stopped and settled (with free room), retries a save, takes a snapshot of a block whose waves stand at
their entries (with free room), rolls a block back after a soft error or ends its context, passes a launch whose tokens are met, and
completes a launch once its blocks are over (R98, R166, R167, R170, R322, R329, R330, R345 to R347, R363 to R365). A block that rolls back is
restored on its own core, where R365 lets it be any (DESIGN CHOICE, log entry 9); whether there is room for a record, and where a snapshot's
stands in its region, is the model's (DESIGN CHOICE, log entry 7). -/
def Obligations.SchedulingStepsComplete : Prop :=
  (∀ s c n l k im ps, s.launch n = some l → l.die = c.die → (s.firstLaunch c.die s.fitsSomewhere).map (·.id) = some n →
      s.workOf l = some (.fresh k) → s.image l.ctx l.image = some im → s.plans l (.fresh k) c.core = some ps →
      exec (.blockAdmit c n) s = .next ((ps.foldl (fun (s : State) (e : (Nat × Nat) × Nat × Plan) =>
        match (cohortBlocks l.desc k).find? fun b => b.1 == e.1 with
        | some b => s.admitBlock l im e.1 b.2 e.2.1 e.2.2
        | none => s) s).placed n ps.length))
  ∧ (∀ s n l, s.launch n = some l → s.launchOver l = true → s.fwIdle l.die = true → s.backedOut l.die l.ctx = false →
    (∀ t, l.signalled = false → s.signalCores l (if dToken l.desc = 0 then [] else l.cores) = .ok t →
        exec (.launchComplete n) s = .next (t.putLaunch { l with signalled := true }))
    ∧ (l.signalled = true → (∀ e ∈ l.cores, e.2.2 = 0 ∨ e.2.2 < s.now l.die) → exec (.launchComplete n) s = .next (s.finishLaunch l)))
  ∧ (∀ s c n l cells t, s.launch n = some l → l.die = c.die → l.reserved = [] → l.passedAt = some t → t + 50000 ≤ s.now c.die →
      s.rect l.die (cohortDim l.desc).1 (cohortDim l.desc).2 c.core = some cells →
      (s.firstLaunch c.die s.launchWaits).map (·.id) = some n → (∀ e ∈ cells, s.reservedFor l ⟨l.die, e.2⟩ = false) →
      exec (.dispatchReserve c n) s = .next (s.putLaunch { l with reserved := cells.map (·.2), reservedAt := some (s.now c.die) }))
  ∧ (∀ s c l t e, s.launches.find? (fun l => decide (l.die = c.die) && l.reserved.contains c.core) = some l → l.reservedAt = some t →
      t + 200000 ≤ s.now c.die → ((s.workOf l).any fun w => l.reserved.any fun k => (s.plans l w k).isSome) = false →
      let here := s.blocks.filter fun e => decide (e.1.die = c.die) && l.reserved.contains e.1.core
      (∀ e ∈ here, e.2.stopped = false) →
      (here.filter fun e => ((s.launch e.2.launch).any fun m => decide (m.prio < l.prio))).getLast? = some e →
      exec (.reservePreempt c) s = .next (s.stopBlock e.1 false))
  ∧ (∀ s c v l vs ps, s.saved.find? (fun x => x.id == v.id) = some v → s.launch v.blk.launch = some l → l.die = c.die →
      (s.firstLaunch c.die s.fitsSomewhere).map (·.id) = some l.id → s.workOf l = some (.back vs) → (∃ u ∈ vs, u.id = v.id) →
      s.plans l (.back vs) c.core = some ps →
      exec (.blockRestore v.id c) s = .next ((ps.foldl (fun (s : State) (e : (Nat × Nat) × Nat × Plan) =>
        match vs.find? fun u => u.blk.place == e.1 with
        | some u => s.restoreBlock u ⟨c.die, e.2.1⟩ e.2.2
        | none => s) s).placed l.id 0))
  ∧ (∀ s ref b, s.blockOf ref = some b →
    (b.stopped = false → s.mayYield ref = true → exec (.preempt ref) s = .next (s.stopBlock ref true))
    ∧ (b.stopped = true → (s.ctx b.ctx).any (·.quiesced) = false → (s.launch b.launch).any (·.cancelled) = false → (∀ e ∈ s.cohortOf ref b, s.blockSettled e.1 = true) →
        exec (.preempt ref) s = .next (if Config.hasRoom s.freeCtr then
            (s.cohortOf ref b).foldl (fun (s : State) e => s.saveBlock e.1) { s with freeCtr := s.freeCtr + 1 }
          else ((s.cohortOf ref b).foldl (fun (s : State) e => s.resumeBlock e.1) { s with freeCtr := s.freeCtr + 1 }).pushEvent ref.die
            (.retrySave ref (((s.cohortOf ref b).foldl (fun (s : State) e => s.resumeBlock e.1) { s with freeCtr := s.freeCtr + 1 }).now
              ref.die + 100000)))))
  ∧ (∀ s ref t, FwEvent.retrySave ref t ∈ (s.die ref.die).events → t ≤ s.now ref.die →
      exec (.saveRetry ref) s = .next ((s.setDie ref.die { s.die ref.die with events := (s.die ref.die).events.filter fun e =>
        !(match e with | .retrySave r u => decide (r = ref) && decide (u ≤ s.now ref.die) | _ => false) }.refill).stopBlock ref false))
  ∧ (∀ s ref b ws c, s.blockOf ref = some b → b.snapDue = some ws → s.ctx b.ctx = some c →
      (∀ e ∈ s.waves, e.1 ∈ ws → e.2.block = some ref → atCapture e.2 = true) →
      let count := fun (t : State) => ({ t with freeCtr := t.freeCtr + 1 } : State)
      let v := snapImage b (s.imageOf ref b)
      let data := snapBytes (s.snaps.find? (isSnapOf b)) b v
      let region := ((s.launch b.launch).map (·.snapva)).getD 0
      let used := (look region c.snapUsed).getD 0
      let full := (count s).noSnap ref b .snapNoroom 0
      (∀ t, s.writeSnap ref b (region + used) data = .wait t →
          exec (.snapshot ref) s = .next (if Config.hasRoom s.freeCtr then t else full))
      ∧ (∀ t sub a, s.writeSnap ref b (region + used) data = .bad t sub a →
          exec (.snapshot ref) s = .next (if Config.hasRoom s.freeCtr then (count t).noSnap ref b sub a else full))
      ∧ (∀ t c1 x, s.writeSnap ref b (region + used) data = .ok t → t.ctx b.ctx = some c1 →
        let u := (((count t).putCtx { c1 with snapUsed := put region (used + 8 + data.length) c1.snapUsed }).onBlock ref fun (x : Block) =>
          { x with irrev := false, failsSince := 0, snapNo := x.snapNo + 1
                   tiles := x.tiles.map fun (t : Tile) => { t with dirty := false } }).endCapture ref
        u.blockOf ref = some x →
          exec (.snapshot ref) s = .next (if Config.hasRoom s.freeCtr then u.keepSnap (snapImage b (u.imageOf ref x)).record else full)))
  ∧ (∀ s ref b, s.blockOf ref = some b → s.softError ref = true → (b.irrev = true ∨ 3 ≤ b.failsSince) →
      exec (.rollback ref) s = .next (s.endContext b.ctx 11))
  ∧ (∀ s ref b v l, s.blockOf ref = some b → s.softError ref = true → b.irrev = false → b.failsSince < 3 →
      s.snaps.find? (isSnapOf b) = some v → s.launch b.launch = some l →
      let t := s.askBlock ref .preempt
      (t.retired ref = false → exec (.rollback ref) s = .next t)
      ∧ (∀ p, t.retired ref = true →
        let fails := b.failsSince + 1
        let u := { t with savedCtr := t.savedCtr + 1
                          snaps := updFirst (isSnapOf b) (fun x => { x with blk := { x.blk with failsSince := fails } }) t.snaps }.clearBlock ref
        let u := u.onLife ref.die fun l => { l with rollbacks := bump ref.core 1 l.rollbacks }
        let r : Saved := { v.record with id := t.savedCtr, die := ref.die, blk := { v.record.blk with failsSince := fails } }
        u.plan l r.blk.hists.length ⟨ref.die, ref.core⟩ r.pars.length r.forms.length = some p →
        exec (.rollback ref) s = .next (u.restoreBlock r ⟨ref.die, ref.core⟩ p)))
  ∧ (∀ s n l, s.launch n = some l → l.gatesMet = false → s.fwIdle l.die = true →
      (∀ t toks, s.readGates ⟨l.die, .launch l.id⟩ l.ctx l.gates = .met t toks →
        exec (.twaitGateMet n) s = .next (t.putLaunch { l with gatesMet := true, gateToks := toks }))
      ∧ (∀ t, s.readGates ⟨l.die, .launch l.id⟩ l.ctx l.gates = .no t → exec (.twaitGateMet n) s = .next t)
      ∧ (∀ t sub va, s.readGates ⟨l.die, .launch l.id⟩ l.ctx l.gates = .bad t sub va → exec (.twaitGateMet n) s = .next (t.gateFault l sub va)))

/-! ## Steps of firmware: budgets, events, traps, profiling -/

/-- A context that has spent its budget is held and its blocks stop; at the next period it goes on, charged with what it spent over, the
whole of it if that is less than a period; a die reports its charges at each multiple of 100,000 ns (R334). A partition that is due for a
context takes a sample: the sampled wave is the next by slot in rotation, and every context with SAMPLE on that runs on the core, and whose
multiple of 2^k clocks has been passed, gets the 16 bytes in its ring (R360). -/
def Obligations.BudgetStepsComplete : Prop :=
  (∀ s n c, s.ctx n = some c → c.desc.budget ≠ 0 → c.heldBudget = false → 1000 * c.desc.budget ≤ c.charge →
      exec (.budgetExhausted n) s = .next ((s.blocks.filter fun e => e.2.ctx == n).foldl (fun s e => s.stopBlock e.1 false)
        (s.putCtx { c with heldBudget := true })))
  ∧ (∀ s n c, s.ctx n = some c → c.created + (c.periodNo + 1) * (1000 * c.desc.periodUs) ≤ s.now c.resident →
      exec (.budgetPeriodStart n) s = .next (s.putCtx { c with periodNo := c.periodNo + 1, heldBudget := false
                                                               charge := if c.heldBudget then min (c.charge - 1000 * c.desc.budget) (1000 * c.desc.periodUs) else 0 }))
  ∧ (∀ s d, (s.die d).report < s.now d / 100000 →
      exec (.budgetReport d) s = .next { s.setDie d { s.die d with report := s.now d / 100000 } with
        ctxs := s.ctxs.map fun (c : Context) => if d = .kapael then { c with charge := c.charge + c.shareK, shareK := 0 }
          else { c with charge := c.charge + c.shareA, shareA := 0 } })
  ∧ (∀ s c part, part < 8 →
      let m := s.core c
      let now := (s.die c.die).cycle.toNat
      let due := s.ctxs.filter fun x => x.dbg.sample && now / 2 ^ x.dbg.k != nth m.sampled part 0 / 2 ^ x.dbg.k
        && s.blocks.any fun e => decide (e.1.die = c.die) && e.1.core == c.core && e.2.ctx == x.num
      due ≠ [] →
      let e := ((s.onPart c part).find? fun e => decide (nth m.rotate part 0 ≤ e.1.slot)) <|> (s.onPart c part).head?
      let t := s.putCore c { m with rotate := m.rotate.set part ((e.map fun e => (e.1.slot + 1) % 16).getD (nth m.rotate part 0))
                                    sampled := m.sampled.set part now }
      exec (.profileSample c part) s = .next (due.foldl (fun (s : State) x => s.samplePut c.die x.num (s.sampleBytes x.num c part e)) t))

/-- A free firmware core takes the oldest event that can run: the packets of a doorbell's queue are read from then on, and a stopped wave
or parison is bound to its window under the queue's lock. The core then delivers the first cause of what its window is bound to: it is
recorded in the fault queue, and held for the debugger or ends its context, while a breakpoint without debug resumes; with no cause left
the window is let go (R313, R328, R339, R342, R343). That the standard handler runs in the model itself, and that FAULTHOLD acts without
ENABLE, are inferences (DEDUCED, log entry 84). -/
def Obligations.FirmwareStepsComplete : Prop :=
  (∀ s d n e, (s.fwCore d n).busy = false → n < 12 → (s.die d).events.find? s.eventRuns = some e →
      let t := s.setDie d { s.die d with events := (s.die d).events.erase e }.refill
      (∀ q, e = .doorbell q → exec (.firmwareEventTake d n) s = .next (t.onQueue (some q) fun q => { q with bell := true }))
      ∧ (e = .mgmtDoorbell → exec (.firmwareEventTake d n) s = .next (t.onQueue none fun q => { q with bell := true }))
      ∧ ((∀ q, e ≠ .doorbell q) → e ≠ .mgmtDoorbell →
        (∀ b q x y, t.trapTarget e = some (b, q, x, y) → exec (.firmwareEventTake d n) s =
          .next ((t.putFw d n { busy := true, window := b }).lockQueue (some q) true))
        ∧ (t.trapTarget e = none → exec (.firmwareEventTake d n) s = .next t)))
  ∧ (∀ s d n b c rest cx, (s.fwCore d n).busy = true → (s.fwCore d n).window = b → b ≠ .none → delivery (s.boundCauses b) = c :: rest →
      s.boundCtx b = some cx →
      let dbg := ((s.ctx cx).map (·.dbg)).getD {}
      let t := s.setBoundCauses b ((s.boundCauses b).erase c)
      (c.cause = .bkpt → dbg.enable = false → exec (.trapDeliver d n) s = .next ((t.resumeBound b).handlerEnds d n))
      ∧ ((c.cause = .step ∨ c.cause = .halt ∨ c.cause = .bkpt ∧ dbg.enable = true) → exec (.trapDeliver d n) s =
          .next (((t.faultEntry cx d 3 { c with held := true }.bytes).holdBound b).handlerEnds d n))
      ∧ (c.cause ≠ .step → c.cause ≠ .halt → c.cause ≠ .bkpt → exec (.trapDeliver d n) s =
          .next (if dbg.faultHold then ((t.faultEntry cx d 3 { c with held := true }.bytes).holdBound b).handlerEnds d n
            else ((t.faultEntry cx d 3 { c with held := false }.bytes).handlerEnds d n).endContext cx 15)))
  ∧ (∀ s d n b, (s.fwCore d n).busy = true → (s.fwCore d n).window = b → b ≠ .none →
      (delivery (s.boundCauses b) = [] ∨ s.boundCtx b = none) → exec (.trapDeliver d n) s = .next (s.handlerEnds d n))

/-- No step breaks the one canonical form of a memory: addresses that rise strictly, and no entry equal to what an unlisted address reads as
(R33, R35, R43, R44, R92). It holds of the dies' and the host's memories, the weight stores, every resident block's scratchpad, and every
scratchpad that a saved block, a snapshot, a checkpoint or a retained record holds. -/
def Obligations.EveryStepKeepsMemoriesCanonical : Prop :=
  ∀ s t, s.memoriesWf = true → step s = .next t → t.memoriesWf = true

/-! ## Queues and packets -/

/-- The registers of queues: a doorbell takes the write index and is an event of firmware; a completion index lets held records out; the
management queue is created from its descriptor, and restarted. The packets of user queues, once taken: DISPATCH updates the shadow
registers and takes a launch with the pending waits, GRAPH starts a run of a table or waits for one, TSIG signals a token at once, TWAIT
adds one of at most four gates, CKPT asks for a checkpoint, and NOPK only completes (R98, R142, R316 to R322, R324, R326). That GRAPH of a
table that is not loaded completes with BAD_DESC is an inference (DEDUCED, log entry 47); MQCTL CREATE sets both indices of the management
queue back to 0 (DESIGN CHOICE, log entry 110). -/
def Obligations.PacketsComplete : Prop :=
  (∀ s q x v, s.hostUp = true → s.kap.boot = 3 → s.queue (some q) = some x → exec (.doorbellWptr q v) s =
      .next ((s.putQueue (some q) { x with wptr := v.toNat % x.desc.rwords }).pushEvent (s.queueDie (some q)) (.doorbell q)))
  ∧ (∀ s q x v, s.hostUp = true → s.kap.boot = 3 → s.queue (some q) = some x → exec (.doorbellCrptr q v) s =
      .next ((s.putQueue (some q) { x with crptr := v.toNat }).flushHeld (some q)))
  ∧ (∀ s x v, s.hostUp = true → s.kap.boot = 3 → s.mq = some x → exec (.mqwptrWrite v) s = .next
      (({ s with mqwptr := v }.putQueue none { x with wptr := v.toNat % x.desc.rwords }).pushEvent .kapael .mgmtDoorbell))
  ∧ (∀ s x v, s.hostUp = true → s.kap.boot = 3 → s.mq = some x → exec (.mqcrptrWrite v) s = .next
      (({ s with mqcrptr := v }.putQueue none { x with crptr := v.toNat }).flushHeld none))
  ∧ (∀ s, s.hostUp = true → s.kap.boot = 3 → s.mq = none → qdescBad s.mqdesc true = false → exec .mqctlCreate s = .next
      (({ s with mq := some (newQueue (qdescOf s.mqdesc) true), mqwptr := 0, mqcrptr := 0 }.writeState none).setMqStatus 0))
  ∧ (∀ s x, s.hostUp = true → s.kap.boot = 3 → s.mq = some x → exec .mqctlReset s =
      .next (({ s with svc := none }.restart none (qdescOf s.mqdesc).seq0).setMqStatus 0))
  -- before Kapael has booted and the host link has trained, no write of the host reaches BAR0 (R385)
  ∧ (∀ s q v, (s.hostUp = false ∨ s.kap.boot ≠ 3) →
      exec (.doorbellWptr q v) s = .next s ∧ exec (.doorbellCrptr q v) s = .next s ∧ exec (.mqwptrWrite v) s = .next s
        ∧ exec (.mqcrptrWrite v) s = .next s ∧ exec .mqctlCreate s = .next s ∧ exec .mqctlReset s = .next s)
  ∧ (∀ s q p t x, Takes s q p 0x01 (decide (p.len = 1 + popcount (p.word 0)) && decide (1 ≤ p.len)) t → t.queue (some q) = some x →
      let sh := shadowed (p.word 0) x.sh (p.body.drop 1)
      exec (.dispatch q p) s = .next ((t.putQueue (some q) { x with sh := sh, twaits := [] }).takeLaunch q p.seq p.compl sh x.twaits))
  ∧ (∀ s q p t x, Takes s q p 0x02 (decide (p.len = 1)) t → t.queue (some q) = some x →
      let u := t.putQueue (some q) { x with twaits := [] }
      (x.table (p.word 0).toNat = none → exec (.graph q p) s = .next (u.complete (some q) p.seq 1 p.compl))
      ∧ (∀ g, x.table (p.word 0).toNat = some g → g.run = none → exec (.graph q p) s =
          .next ((u.startRun q g p.seq p.compl x.twaits).settleRuns q (p.word 0).toNat))
      ∧ (∀ g, x.table (p.word 0).toNat = some g → g.run ≠ none → exec (.graph q p) s = .next (u.putQueue (some q)
          { x with twaits := [], waitGraph := x.waitGraph ++ [((p.word 0).toNat, p.seq, p.compl, x.twaits)] })))
  ∧ (∀ s q p t u, Takes s q p 0x03 (decide (p.len = 3)) t →
      t.fwSignal ⟨s.queueDie (some q), .queue (some q)⟩ q.ctx (p.dword 0)
        { n := (p.word 2).toNat, gd := s.hostGd, gp := s.hostGp, dies := 3, core := 0, multi := true } = .ok u →
      exec (.tsig q p) s = .next (u.complete (some q) p.seq 0 p.compl))
  ∧ (∀ s q p t u sub va, Takes s q p 0x03 (decide (p.len = 3)) t →
      t.fwSignal ⟨s.queueDie (some q), .queue (some q)⟩ q.ctx (p.dword 0)
        { n := (p.word 2).toNat, gd := s.hostGd, gp := s.hostGp, dies := 3, core := 0, multi := true } = .bad u sub va →
      exec (.tsig q p) s = .next ((u.faultNote q.ctx (s.queueDie (some q)) 8 sub.code 0 va).complete (some q) p.seq 17 p.compl))
  ∧ (∀ s q p t x, s.queue (some q) = some x → Takes s q p 0x04 (decide (p.len = 4) && !decide (4 ≤ x.twaits.length)) t →
      exec (.twait q p) s = .next ((t.onQueue (some q) fun x =>
        { x with twaits := x.twaits ++ [(p.dword 0, p.dword 2)] }).complete (some q) p.seq 0 p.compl))
  ∧ (∀ s q p t c, Takes s q p 0x05 (p.len == 0) t → t.ctx q.ctx = some c →
      (t.ckptApplies c = false → exec (.ckpt q p) s = .next (t.complete (some q) p.seq 0 p.compl))
      ∧ (t.ckptApplies c = true → c.ckpt = none → c.mig = .none → exec (.ckpt q p) s =
          .next (t.startCkpt { c with ckptAgain := c.ckptAgain ++ [(q.queue, p.seq, p.compl)] }))
      ∧ (t.ckptApplies c = true → (c.ckpt ≠ none ∨ c.mig ≠ .none) → exec (.ckpt q p) s =
          .next (t.putCtx { c with ckptAgain := c.ckptAgain ++ [(q.queue, p.seq, p.compl)] })))
  ∧ (∀ s q p t, Takes s q p 0x07 true t → exec (.nopk q p) s = .next (t.complete (some q) p.seq 0 p.compl))

/-- Taking a packet (R317, R318, R320): only the packet that the ring holds at RPTR is taken. One out of sequence halts its queue with SEQ,
and one of another type, with reserved bits set or of the wrong length with PKT_FORMAT; otherwise RPTR passes it, CSEQ is its number, both
are owed to the state block together, and it is running, but a packet of an ended context is consumed and completes with the context's
status, which is an inference of the model (DEDUCED, log entry 49). -/
def Obligations.PacketsAreChecked : Prop :=
  ∀ (s t : State) (k : QKey) (p : Packet) (ty : Nat) (fits : Bool) (q : Queue), s.queue k = some q → s.mayTake k q p = true →
    (∀ h, s.readPacket k q = .ok (t, h) → h ≠ some p → s.takePacket k p ty fits = .off t)
    ∧ (s.readPacket k q = .ok (t, some p) →
      (p.seq ≠ q.cseq + 1 → s.takePacket k p ty fits = .off (t.haltPacket k p.seq 5))
      ∧ (p.seq = q.cseq + 1 → (p.type ≠ ty ∨ Word.bits p.hdr 15 2 ≠ 0 ∨ fits = false) →
          s.takePacket k p ty fits = .off (t.haltPacket k p.seq 4))
      ∧ (p.seq = q.cseq + 1 → p.type = ty → Word.bits p.hdr 15 2 = 0 → fits = true →
        let rptr := (q.rptr + 2 + p.len) % q.desc.rwords
        let u := (t.onQueue k fun q => { q with rptr := rptr, cseq := p.seq, running := q.running ++ [p.seq]
                                                owed := q.owed ++ [(0, bytesOf 4 rptr ++ bytesOf 4 p.seq.toNat)] }).flushHeld k
        (k = none → s.takePacket k p ty fits = .act u)
        ∧ (∀ r, k = some r →
          ((u.ctx r.ctx).bind (·.ended) = none → s.takePacket k p ty fits = .act u)
          ∧ (∀ st, (u.ctx r.ctx).bind (·.ended) = some st → s.takePacket k p ty fits = .off (u.complete k p.seq st p.compl)))))

/-! ## Management services -/

/-- The services of R323 on a live context, once their packet is taken, with a status of 0: each has its effect and completes; one that
must wait is tried again with the packet kept at the head of the ring (R26, R27, R29, R30, R115, R142, R197, R315, R317, R323, R326). Inferences
of the model (DEDUCED): QUEUE_CREATE writes the state block (log entry 56), a packet stays in the ring until its service has ended (57),
translations go at a change of ROOT (58), CTX_DESTROY waits for the context's moves and drops what its launches leave (59), and the banks of a
new context are zeroed (60). A MIRROR of 0 reserves nothing (DESIGN CHOICE, log entry 88). -/
def Obligations.ServicesComplete : Prop :=
  (∀ s p t, svcCode p = 0x01 → s.takePacket none p 0x10 ((p.len == 3) && decide (1 ≤ p.len) && Word.bits (p.word 0) 31 24 == 0) = .act t →
      let b := s.hostBytes (p.dword 1) 128
      let d := ctxDescOf b
      let reserve := if d.restart then 65536 * d.mirror else 0
      s.ctx (svcCtx p) = none → ctxDescBad b = false → reserve ≤ 65536 * d.quotaK → reserve ≤ s.freeOn .kapael →
      exec (.ctxCreate p) s = .next (({ s with
        ctxs := s.ctxs ++ [({ num := svcCtx p, desc := d, created := s.now .kapael, lastCommit := s.now .kapael, usedK := reserve } : Context)]
        kap := s.kap.proves, amd := s.amd.proves }.zeroBanks 0 d.banks).svcEnds p (p.len == 3) 0))
  ∧ (∀ s p t, svcCode p = 0x01 → s.takePacket none p 0x10 ((p.len == 3) && decide (1 ≤ p.len) && Word.bits (p.word 0) 31 24 == 0) = .act t →
      (s.ctx (svcCtx p)).isSome = true → exec (.ctxCreate p) s = .next (s.svcEnds p (p.len == 3) 8))
  ∧ (∀ s p c, Serves s p 0x02 0 c →
      let off := fun (l : Launch) => if l.ctx = c.num then l.cancel 16 else l
      let u := { s with launches := s.launches.map off }.stopAll (s.ctxBlocks c.num)
      ((∃ e ∈ u.ctxBlocks c.num, u.blockStill e.1 = false) ∨ c.mig ≠ .none ∨ (∃ m ∈ u.moves, m.ctx = c.num ∧ m.stage ≠ .wanted) → exec (.ctxDestroy p) s = .next { u with svc := some p.seq })
      ∧ ((∀ e ∈ u.ctxBlocks c.num, u.blockStill e.1 = true) → c.mig = .none → (∀ m ∈ u.moves, m.ctx = c.num → m.stage = .wanted) →
        let v := (((((u.queues.filter fun e => e.1.ctx == c.num).map fun e => e.1).foldl (fun (s : State) q => s.dropWork q 16) u).ckptPackets
          c.num c.ckptWaits 16).forgetOn .kapael c.num).forgetOn .amdukor c.num
        exec (.ctxDestroy p) s = .next ({ v with
          ctxs := v.ctxs.filter fun x => x.num != c.num, queues := v.queues.filter fun e => e.1.ctx != c.num
          saved := v.saved.filter fun x => x.blk.ctx != c.num, snaps := v.snaps.filter fun x => x.blk.ctx != c.num
          retained := v.retained.filter fun x => x.blk.ctx != c.num, moves := v.moves.filter fun m => m.ctx != c.num }.svcEnds p
            (p.len == 1) 0)))
  ∧ (∀ s p c, Serves s p 0x03 2 c →
      let b := s.hostBytes (p.dword 1) 128
      let d := ctxDescOf b
      (ctxDescBad b = true → exec (.ctxUpdate p) s = .next (s.svcEnds p (p.len == 3) 7))
      ∧ (ctxDescBad b = false → (d.root = c.desc.root ∧ d.rkey = c.desc.rkey ∨ s.ctxBusy c.num = false) →
        (c.wantReserve d ≤ c.reserve ∨ c.usedK - c.reserve + c.wantReserve d ≤ 65536 * d.quotaK ∧ c.wantReserve d ≤ s.freeOn .kapael + c.reserve) →
        let u := s.putCtx (c.update d (s.now c.resident))
        exec (.ctxUpdate p) s = .next ((if d.root = c.desc.root then u
          else (u.tlbDrop .kapael c.num 0 (2 ^ 64)).tlbDrop .amdukor c.num 0 (2 ^ 64)).svcEnds p (p.len == 3) 0))
      ∧ (ctxDescBad b = false → ¬ (d.root = c.desc.root ∧ d.rkey = c.desc.rkey) → s.ctxBusy c.num = true →
        exec (.ctxUpdate p) s = .next (s.svcEnds p (p.len == 3) 8)))
  ∧ (∀ s p c t, Serves s p 0x04 3 c →
      let r : QueueRef := ⟨c.num, (p.word 1).toNat⟩
      let d := qdescOf (s.hostBytes (p.dword 2) 64)
      (p.word 1).toNat ≤ 15 → s.queue (some r) = none → qdescBad (s.hostBytes (p.dword 2) 64) false = false →
      s.queuePages (if d.place = 0 ∨ s.docked = false then .kapael else .amdukor) c.num d = .ok t →
      let u := { t with queues := t.queues ++ [(r, newQueue d false)] }.writeState (some r)
      ((d.place = 0 ∨ ∃ e ∈ t.queues, e.1.ctx = c.num ∧ e.2.desc.place ≠ 0) →
        exec (.queueCreate p) s = .next (u.svcEnds p (p.len == 4) 0))
      ∧ (∀ x, d.place ≠ 0 → (∀ e ∈ t.queues, e.1.ctx = c.num → e.2.desc.place = 0) → (u.pairState = 2 ∨ u.pairState = 3) →
        c.resident = .kapael → c.ended = none → u.ctx c.num = some x →
        exec (.queueCreate p) s = .next { u.putCtx { x with mig := .due .amdukor } with svc := some p.seq }))
  ∧ (∀ s p c, Serves s p 0x05 2 c →
      let r : QueueRef := ⟨c.num, (p.word 1).toNat⟩
      let off := fun (l : Launch) => if l.ctx = c.num ∧ l.queue = (p.word 1).toNat then l.cancel 16 else l
      let u := { s with launches := s.launches.map off }.stopAll (s.queueBlocks r)
      (s.queue (some r) = none → exec (.queueReset p) s = .next (s.svcEnds p (p.len == 3) 1))
      ∧ (s.queue (some r) ≠ none → (∃ e ∈ u.queueBlocks r, u.blockStill e.1 = false) ∨ c.mig ≠ .none →
        exec (.queueReset p) s = .next { u with svc := some p.seq })
      ∧ (s.queue (some r) ≠ none → (∀ e ∈ u.queueBlocks r, u.blockStill e.1 = true) → c.mig = .none →
        exec (.queueReset p) s = .next ((((u.dropWork r 16).restart (some r) (p.word 2)).mirrorReset r).svcEnds p (p.len == 3) 0)))
  ∧ (∀ s p c q t h u b, Serves s p 0x06 4 c →
      let tn := (p.word 2).toNat
      let r : QueueRef := ⟨c.num, (p.word 1).toNat⟩
      let d := s.queueDie (some r)
      let k := fieldOf h 0 4
      let nodes := (List.range k).map fun i => slice b (192 * i) 192
      s.queue (some r) = some q → tn ≤ 15 → (∀ g, q.table tn = some g → g.run = none) → s.fwRead ⟨d, .queue none⟩ c.num .load (p.dword 3) 64 = .ok (t, h) →
      0 < k → k ≤ 4096 → fieldOf h 4 60 = 0 → t.fwRead ⟨d, .queue none⟩ c.num .load (p.dword 3 + 64) (192 * k) = .ok (u, b) → u.nodesCheck c d k nodes = 0 →
      exec (.graphLoad p) s = .next ((u.onQueue (some r) fun q => { q with
        tables := (q.tables.filter fun x => x.num != tn) ++ [{ num := tn, nodes := nodes.map nodeOf }] }).svcEnds p (p.len == 5) 0))
  ∧ (∀ s p c g, Serves s p 0x07 2 c →
      let r : QueueRef := ⟨c.num, (p.word 1).toNat⟩
      ((s.queue (some r)).bind fun q => q.table (p.word 2).toNat) = some g →
      (g.run ≠ none → exec (.graphUnload p) s = .next (s.svcEnds p (p.len == 3) 8))
      ∧ (g.run = none → exec (.graphUnload p) s = .next ((s.onQueue (some r) fun q =>
          { q with tables := q.tables.filter fun x => x.num != (p.word 2).toNat }).svcEnds p (p.len == 3) 0)))
  ∧ (∀ s p c t frit, Serves s p 0x08 5 c → s.readFrit c.num (p.dword 1) = .ok (t, frit) → fritHeaderOk frit = true →
      ∀ x u ps c2 id, lehr frit = .ok x → x.bytes.length ≤ (p.word 5).toNat →
      t.fwRange ⟨.kapael, .queue none⟩ c.num .fetch (p.dword 3) x.bytes.length = .ok (u, ps) →
      let v := u.homeStore ⟨.kapael, .queue none⟩ c.num ps x.bytes
      v.ctx c.num = some c2 → lowestFree (fun n => c.images.any fun (i : Image) => i.id == n) 65536 = some id →
      exec (.finalise p) s = .next ((v.putCtx { c2 with images := { id := id, va := p.dword 3, objMethod := fieldOf frit 6 1 == 1
                                                                    codew := x.codew, dataVa := p.dword 3 + x.datofs, sps := x.sps
                                                                    entries := x.entries } :: c2.images }).svcEnds p (p.len == 6) 0))
  ∧ (∀ s p c, Serves s p 0x09 4 c →
      (s.begun p = false → exec (.invalidate p) s = .next { s.shootDown .kapael c.num (p.dword 1) (p.dword 3) with svc := some p.seq })
      ∧ (s.begun p = true → s.shotDown .kapael c.num (p.dword 1) (p.dword 3) = true → s.pinChanged c (p.dword 1) (p.dword 3) = false →
        exec (.invalidate p) s = .next ((s.noteLeaves c.num (p.dword 1) (p.dword 3) (s.leavesIn c (p.dword 1) (p.dword 3))).svcEnds p
          (p.len == 5) 0)))
  ∧ (∀ s p c k e, Serves s p 0x0A 3 c → s.leafOf c (p.dword 1) = some (k, e) → p.dword 1 % 512 = 0 → leafCls e = .object →
      s.reachable (leafHome e) = true → leafMv e = false →
      let pa := leafPa e (p.dword 1)
      (∀ b ∈ (s.crucible (sliceOf (lineAt (leafHome e) pa))).batch, ∀ l slot m, b.key = .object l slot m → ¬ (l.home = leafHome e ∧ slot = pa)) →
      let u := s.touch c.num (p.dword 1) e pa
      let m := if p.word 3 = 0 then u.mem (leafHome e) else Memory.clear (u.mem (leafHome e)) (pa + 32) 256
      exec (.objClear p) s = .next ((u.setMem (leafHome e) (Memory.write m (pa + 20) (Memory.read m (pa + 20) &&& 0xFE))).svcEnds p (p.len == 4) 0))
  ∧ (∀ s p c, Serves s p 0x0B 1 c →
      ((p.word 1).toNat < 10 ∨ 1000 < (p.word 1).toNat → exec (.ckptInterval p) s = .next (s.svcEnds p (p.len == 2) 1))
      ∧ (10 ≤ (p.word 1).toNat → (p.word 1).toNat ≤ 1000 →
        exec (.ckptInterval p) s = .next ((s.putCtx { c with ckptMs := (p.word 1).toNat }).svcEnds p (p.len == 2) 0)))
  ∧ (∀ s p c t l, Serves s p 0x0D 5 c → (p.word 1).toNat ≤ 1 → (p.word 2).toNat ≤ 11 → 0 < (p.word 3).toNat → (p.word 3).toNat ≤ 256 →
      s.allocMany c.num (memberOf (p.word 1).toNat) (2 ^ (12 + 2 * (p.word 2).toNat)) (p.word 3).toNat = .ok (t, l) →
      exec (.frameAlloc p) s = .next ({ t with memH := Memory.writeN t.memH (p.dword 4) (l.flatMap (bytesOf 8)) }.svcEnds p (p.len == 6) 0))
  ∧ (∀ s p c, Serves s p 0x0E 4 c →
      let f : Frame := { die := memberOf (p.word 1).toNat, pa := p.dword 3, size := 2 ^ (12 + 2 * (p.word 2).toNat) }
      (p.word 1).toNat ≤ 1 → (p.word 2).toNat ≤ 11 →
      (f ∈ c.frames → exec (.frameFree p) s = .next ((s.freeFrame c.num f).svcEnds p (p.len == 5) 0))
      ∧ (f ∉ c.frames → exec (.frameFree p) s = .next (s.svcEnds p (p.len == 5) 1)))

/-- The DEBUG operations on a context with debug enabled (SET on any): SET takes its fields, BKSET and BKCLR change the breakpoints, HALT
asks every wave and parison to stop, RESUME lets held ones go, STEP lets the lane's split of a held wave run to its next safe point, DUMP
writes the record of a held wave or parison, LOAD puts a record back, KILL ends it (R357 to R359). LOAD keeps the wave's allotment and ENC
(DEDUCED, log entry 73), and HALT holds saved records without a fault record (DEDUCED, log entry 74). -/
def Obligations.DebugServicesComplete : Prop :=
  (∀ s p c, ServesDebug s p 1 7 c →
      let f := p.word 2
      let k := Word.bits f 7 3
      Word.bits f 31 9 = 0 → (Word.bit f 2 = true → 6 ≤ k ∧ k ≤ 20) →
      let t := s.putCtx { c with dbg := { c.dbg with
        enable := Word.bit f 0, faultHold := Word.bit f 1, sample := Word.bit f 2, k := k, trace := Word.bit f 8
        sampleVa := p.dword 3, sampleBytes := (p.word 5).toNat, traceVa := p.dword 6, traceBytes := (p.word 8).toNat, traceLost := 0 } }
      exec (.debugSet p) s = .next ({ t with waves := t.waves.map fun (e : WaveId × Wave) =>
        if e.2.ctx = c.num then (e.1, { e.2 with synced := false }) else e }.svcEnds p (p.len == 9 && Word.bits (p.word 1) 31 8 == 0) 0))
  ∧ (∀ s p c, ServesDebug s p 2 2 c → Word.bits (p.word 2) 31 20 = 0 →
      let slot := Word.bits (p.word 2) 19 16
      exec (.debugBkset p) s = .next ((s.putCtx { c with dbg := { c.dbg with breaks := (c.dbg.breaks.filter fun x => x.slot != slot)
        ++ [{ slot := slot, image := Word.bits (p.word 2) 15 0, ord := (p.word 3).toNat }] } }).svcEnds p
          (p.len == 4 && Word.bits (p.word 1) 31 8 == 0) 0))
  ∧ (∀ s p c, ServesDebug s p 3 1 c → (p.word 2).toNat ≤ 15 → exec (.debugBkclr p) s = .next ((s.putCtx { c with
      dbg := { c.dbg with breaks := c.dbg.breaks.filter fun x => x.slot != (p.word 2).toNat } }).svcEnds p
        (p.len == 3 && Word.bits (p.word 1) 31 8 == 0) 0))
  ∧ (∀ s p c, ServesDebug s p 4 0 c →
      let t := (s.waves.filter fun e => e.2.ctx == c.num).foldl (fun (s : State) e => s.haltWave e.1) s
      let u := (t.pars.filter fun e => e.2.ctx == c.num).foldl (fun (s : State) e => s.haltPar e.1) t
      exec (.debugHalt p) s = .next ({ u with saved := u.saved.map fun (v : Saved) => if v.blk.ctx = c.num then v.hold else v }.svcEnds p
        (p.len == 2 && Word.bits (p.word 1) 31 8 == 0) 0))
  ∧ (∀ s p c, ServesDebug s p 5 1 c →
      let fits := p.len == 3 && Word.bits (p.word 1) 31 8 == 0
      ((p.word 2).toNat = 0xFFFFFFFF → exec (.debugResume p) s =
          let t := (s.allHeld c.num).foldl State.releaseHeld s
          .next ({ t with saved := t.saved.map fun (v : Saved) => if v.blk.ctx = c.num then v.release else v }.svcEnds p fits 0))
      ∧ ((p.word 2).toNat ≠ 0xFFFFFFFF → s.heldBy c.num (p.word 2).toNat = none → exec (.debugResume p) s = .next (s.svcEnds p fits 1))
      ∧ (∀ h, (p.word 2).toNat ≠ 0xFFFFFFFF → s.heldBy c.num (p.word 2).toNat = some h →
          exec (.debugResume p) s = .next ((s.releaseHeld h).svcEnds p fits 0)))
  ∧ (∀ s p c id w v, ServesDebug s p 6 2 c → s.heldBy c.num (p.word 2).toNat = some (.wave id w) → s.blockStops w.block = false →
      (p.word 3).toNat ≤ 31 → w.live.getLsbD (p.word 3).toNat = true → w.helper.getLsbD (p.word 3).toNat = false →
      w.rejoinAll.focus (p.word 3).toNat = some v → exec (.debugStep p) s = .next ({ s with waves := put id { v with
        status := .running, stopWhy := []
        slots := v.slots.map fun (o : Option Split) => o.map fun (sp : Split) => { sp with precise := sp.precise && sp.deferred } } s.waves }.svcEnds p
          (p.len == 4 && Word.bits (p.word 1) 31 8 == 0) 0))
  ∧ (∀ s p c h t, ServesDebug s p 7 4 c → s.heldBy c.num (p.word 2).toNat = some h → (s.heldRecord h).length ≤ (p.word 5).toNat →
      s.fwWrite ⟨c.resident, .queue none⟩ c.num .store (p.dword 3) (s.heldRecord h) = .ok t →
      exec (.debugDump p) s = .next (t.svcEnds p (p.len == 6 && Word.bits (p.word 1) 31 8 == 0) 0))
  ∧ (∀ s p c id w t u h b im l, ServesDebug s p 8 3 c → s.heldBy c.num (p.word 2).toNat = some (.wave id w) →
      s.fwRead ⟨c.resident, .queue none⟩ c.num .load (p.dword 3) 8 = .ok (t, h) → 512 ≤ fieldOf h 4 4 → fieldOf h 4 4 ≤ 9648 →
      t.fwRead ⟨c.resident, .queue none⟩ c.num .load (p.dword 3) (fieldOf h 4 4) = .ok (u, b) → u.image c.num (fieldOf b 8 2) = some im →
      waveBad im b w.allot = false → u.placeAll c.resident c.num im ((w.load b).slots ++ (w.load b).pend.map some) = .ok l →
      exec (.debugLoad p) s = .next ({ u with waves := put id { w.load b with
        slots := l.take 4, pend := (l.drop 4).filterMap fun o => o } u.waves }.svcEnds p (p.len == 5 && Word.bits (p.word 1) 31 8 == 0) 0))
  ∧ (∀ s p c id w, ServesDebug s p 9 1 c → s.heldBy c.num (p.word 2).toNat = some (.wave id w) →
      exec (.debugKill p) s = .next ((s.endBound (.wave id)).svcEnds p (p.len == 3 && Word.bits (p.word 1) 31 8 == 0) 0))
  ∧ (∀ s p c q r, ServesDebug s p 9 1 c → s.heldBy c.num (p.word 2).toNat = some (.par q r) →
      exec (.debugKill p) s = .next ((s.endBound (.par q)).svcEnds p (p.len == 3 && Word.bits (p.word 1) 31 8 == 0) 0))

/-! ## Scan-out heads, registers -/

/-- Writing HCTL starts a head whose mode is consistent, before line 0, stops one, or reports MODE; FLIP takes what is written; at the
line after the last active one a head counts the blank, latches and raises its interrupt; a line that was fetched is composed and sent, one
that was not is reported; training, AUX and hot plug do what R394 and R398 say; a write to a register of R394 or R395 stores it (R393 to
R398). Training ends at lanes and a rate that LINKTGT allows. Which timings and modes are refused (DEDUCED, log entry 70), the form of a
pixel as it is sent (DESIGN CHOICE, log entry 71), and that stopping a head drops the signals still due (DESIGN CHOICE, log entry 71) are the
model's. -/
def Obligations.HeadStepsComplete : Prop :=
  (∀ s h v, s.hostUp = true → s.kap.boot = 3 → let x := s.head h
      let keep := BitVec.ofNat 32 (Word.bits v 3 1 * 2)
      (Word.bit v 0 = false → exec (.hctlEnable h v) s = .next (s.putHead h { x with
        hctl := keep, hstatus := x.hstatus &&& ~~~1, pins := [], latched0 := none, latched1 := none, due := [] }))
      ∧ (Word.bit v 0 = true → Word.bit x.hctl 0 = false → x.modeOk h v = true → exec (.hctlEnable h v) s = .next (s.putHead h { x with
        hctl := keep ||| 1, hstatus := x.hstatus ||| 1, vcount := 0, line := BitVec.ofNat 32 (Word.bits x.vtime0 31 16 - 1) }))
      ∧ (Word.bit v 0 = true → Word.bit x.hctl 0 = true → exec (.hctlEnable h v) s = .next (s.putHead h { x with hctl := keep ||| 1 }))
      ∧ (Word.bit v 0 = true → Word.bit x.hctl 0 = false → x.modeOk h v = false →
        exec (.hctlEnable h v) s = .next ((s.putHead h { x with hctl := keep }).headErr h 2)))
  ∧ (∀ s h v, s.hostUp = true → s.kap.boot = 3 → exec (.flip h v) s = .next (s.putHead h { s.head h with flip := (s.head h).flip ||| (v &&& 3) }))
  ∧ (∀ s h, let x := s.head h
      Word.bit x.hstatus 0 = true → x.line.toNat + 1 = Word.bits x.vtime0 15 0 →
      let t := ((s.putHead h { x with vcount := x.vcount + 1, line := BitVec.ofNat 32 (Word.bits x.vtime0 15 0) }).latch h 0).latch h 1
      let u := t.signalLatches h (t.head h).due.length
      exec (.verticalBlank h) s = .next (if Word.bit x.hirq 0 then u.headIrq else u))
  ∧ (∀ s h, let x := s.head h
      let line := (x.line.toNat + 1) % Word.bits x.vtime0 31 16
      Word.bit x.hstatus 0 = true → line < Word.bits x.vtime0 15 0 →
      let t := s.signalLatches h x.due.length
      let y := { t.head h with line := BitVec.ofNat 32 line }
      let u := ({ t with log := .line h line false :: t.log } : State).recallPins y
      exec (.lineSend h true) s = .next (u.putHead h { y with sent := (List.range (Word.bits y.htime0 15 0)).map (u.headPixel y line) })
      ∧ exec (.lineSend h false) s = .next ((({ t with log := .line h line true :: t.log } : State).putHead h y).headErr h 0))
  ∧ (∀ s h f, let x := s.head h
      let line := (x.line.toNat + 1) % Word.bits x.vtime0 31 16
      Word.bit x.hstatus 0 = true → Word.bits x.vtime0 15 0 < line →
      let t := s.signalLatches h x.due.length
      exec (.lineSend h f) s = .next (t.putHead h { t.head h with line := BitVec.ofNat 32 line }))
  ∧ (∀ s h, s.hostUp = true → s.kap.boot = 3 → exec (.linkctlTrain h) s = .next (s.putHead h { s.head h with linkctl := 1 }))
  ∧ (∀ s h ok lanes rate, (s.head h).linkctl ≠ 0 →
      let x := { s.head h with linkctl := 0 }
      let tl := Word.bits x.linktgt 2 0
      let tr := Word.bits x.linktgt 10 8
      let good := ok && trainable h tl tr && trainable h lanes rate && decide (lanes ≤ tl) && decide (rate ≤ tr) && Word.bit x.hstatus 2
      (good = true → exec (.headTrainDone h ok lanes rate) s = .next (s.putHead h (x.linked true lanes rate)))
      ∧ (good = false → exec (.headTrainDone h ok lanes rate) s = .next ((s.putHead h (x.linked false 0 0)).headErr h 3)))
  ∧ (∀ s h, s.hostUp = true → s.kap.boot = 3 → exec (.auxgo h) s = .next { s.putHead h { s.head h with auxgo := 1 } with
      log := .aux h (s.head h).auxcmd ((s.head h).auxdata.take (Word.bits (s.head h).auxcmd 27 24 + 1)) :: s.log })
  ∧ (∀ s h reply data, let x := s.head h
      x.auxgo ≠ 0 →
      let d := if Word.bit x.auxcmd 20 then data.take (Word.bits x.auxcmd 27 24 + 1) else []
      exec (.auxReply h reply data) s = .next (s.putHead h { x with
        auxgo := 0, auxstat := BitVec.ofNat 32 (reply % 4 + d.length * 2 ^ 8), auxdata := patch x.auxdata 0 d }))
  ∧ (∀ s h, let x := s.head h
      (Word.bit x.hstatus 2 = false → exec (.hpdChange h true) s = .next ((s.putHead h { x with hstatus := x.hstatus ||| 4 }).headErr h 4))
      ∧ (Word.bit x.hstatus 2 = true → exec (.hpdChange h false) s = .next ((s.putHead h
        { x.linked false 0 0 with hstatus := (x.linked false 0 0).hstatus &&& ~~~4 }).headErr h 4)))
  ∧ (∀ s ofs v, s.hostUp = true → s.kap.boot = 3 → ofs % 4 = 0 →
      (0x100 ≤ ofs → ofs < 0x140 → exec (.registerWrite ofs v) s = .next { s with mqdesc := patch s.mqdesc (ofs - 0x100) (bytesOf 4 v.toNat) })
      ∧ (0x2000 ≤ ofs → ofs < 0x4000 → exec (.registerWrite ofs v) s = .next { s with
          fwcmd := patch (s.fwcmd ++ List.replicate (8192 - s.fwcmd.length) 0) (ofs - 0x2000) (bytesOf 4 v.toNat) })
      ∧ (0x4010 ≤ ofs → ofs < 0x4020 →
        exec (.registerWrite ofs v) s = .next { s with attNonce := patch s.attNonce (ofs - 0x4010) (bytesOf 4 v.toNat) })
      ∧ (0x6000 ≤ ofs → ofs < 0x6400 → exec (.registerWrite ofs v) s =
        .next (s.putHead ((ofs - 0x6000) / 0x200) ((s.head ((ofs - 0x6000) / 0x200)).write (ofs % 0x200) v))))
  -- before Kapael has booted and the host link has trained, no write of the host reaches BAR0 (R385)
  ∧ (∀ s h ofs v, (s.hostUp = false ∨ s.kap.boot ≠ 3) → exec (.hctlEnable h v) s = .next s ∧ exec (.flip h v) s = .next s
      ∧ exec (.linkctlTrain h) s = .next s ∧ exec (.auxgo h) s = .next s ∧ exec (.registerWrite ofs v) s = .next s
      ∧ exec .fwctlRollback s = .next s ∧ exec .attctlReq s = .next s)

/-! ## Boot, pairing, undocking -/

/-- A rollback command aborts a write of its target slot; one that keeps to R389 changes slots, and one that breaks a rule is answered with
its status; attestation builds its report and is signed, or ends without a signature where the key is not there; a member powers on, its
image in its firmware reserve; the host link trains after boot, to the width and speed that both ends sustain; a cable is detected and trains, the pair authenticates
and docks with one pair time; each refresh phase advances; undocking and docking move contexts; a checkpoint falls due (R42, R80, R135, R142,
R354, R355, R385 to R392). The model's own: what Amdukor's memory holds at power-on (DEDUCED, log entry 64), status 1 for MAGIC and the die id
(DEDUCED, log entry 67), the report as it stands at the request and Config.canSign (DESIGN CHOICE, log entry 68), the slew of the clocks
(DESIGN CHOICE, log entry 102), the writing of slots, the place of the image and the recoveries of the host link (DESIGN CHOICE, log
entry 105), and keys, signatures and what the ends of the links sustain, which come from outside (DESIGN CHOICE, log entry 27). -/
def Obligations.BootAndPairStepsComplete : Prop :=
  (∀ s, s.hostUp = true → s.kap.boot = 3 → let b := s.fwcmd ++ List.replicate (8192 - s.fwcmd.length) 0
      let slot := fieldOf b 4 4
      let t := if s.kap.writing.any (fun w => (if w then 1 else 0) == slot) then { s with kap := { s.kap with writing := none } } else s
      exec .fwctlRollback s = .next (
        if Config.sigVerifies (slice b 192 7856) (b.take 192) = true ∧ fieldOf b 0 4 = 0x534B5242 ∧ fieldOf b 16 32 = (dieId .kapael).toNat then
          if fieldOf b 8 8 ≤ s.fwNonce then { t with fwctl := 0x200 }
          else if 1 < slot ∨ s.kap.slotOk .kapael (slot == 1) = false then { t with fwctl := 0x300 }
          else { t with
            fwctl := 0, fwNonce := fieldOf b 8 8, kap := { t.kap with activeB := slot == 1, tries := 0, healthy := true } }
        else { t with fwctl := 0x100 }))
  ∧ (∀ s, s.hostUp = true → s.kap.boot = 3 → Word.bit s.attctl 0 = false →
      exec .attctlReq s = .next { s with attctl := s.attctl ||| 1, report := s.reportBody, repseq := s.repseq + 1 })
  ∧ (∀ s, Word.bit s.attctl 0 = true →
      exec .attestationSigned s = .next (if Config.canSign s.repseq
        then { s with attctl := 0, sig := dieSign .kapael s.report } else { s with attctl := 0x100 }))
  ∧ (∀ s, let k := s.kap.powerOn .kapael
      exec (.powerOnReset .kapael) s = .next { State.reset with
      agenda := s.agenda, cur := s.cur, nsteps := s.nsteps, freeCtr := s.freeCtr, opCtr := s.opCtr, log := s.log
      kap := k, amd := s.amd.idle, memA := s.memA, wsA := s.wsA, memH := s.memH, hostEnds := s.hostEnds, fwNonce := s.fwNonce
      memK := if k.bootFail then [] else Memory.writeN [] (dramBytes .kapael - reserveBytes) (k.slot k.activeB).body
      attctl := if Word.bit s.attctl 0 then 0x200 else 0 })
  ∧ (∀ s, let a := s.loseLink.amd.powerOn .amdukor
      exec (.powerOnReset .amdukor) s = .next { s.loseLink with
        amd := a, wsA := []
        memA := if a.bootFail then [] else Memory.writeN [] (dramBytes .amdukor - reserveBytes) (a.slot a.activeB).body })
  ∧ (∀ s w v, s.kap.boot = 3 → s.hostEnds = (w, v) →
      (hostOk w v = false → exec .hostLinkTrain s = .next (s.onLife .kapael fun (l : Lifetime) =>
        { l with failedTrainings := more16 l.failedTrainings }))
      ∧ (hostOk w v = true →
        let t := if s.hostUp then s.onLife .kapael fun (l : Lifetime) => { l with host.retrains := more32 l.host.retrains }
          else if s.hostDownAt.any fun t => decide (s.now .kapael ≤ t + 300000) then
            s.onLife .kapael fun (l : Lifetime) => { l with host.recoveries := more32 l.host.recoveries }
          else s
        exec .hostLinkTrain s = .next { t with hostUp := true, hostWidth := w, hostSpeed := v, hostDownAt := none }))
  ∧ (∀ s, let t := if s.hostUp then s.onLife .kapael fun (l : Lifetime) => { l with host.losses := more32 l.host.losses } else s
      let u := { t with hostUp := false, hostWidth := 0, hostSpeed := 0, hostDownAt := if s.hostUp then some (t.now .kapael) else s.hostDownAt }
      exec .hostLinkDown s = .next (if s.mq.isSome then { u with svc := none }.haltStatus none 18 else u))
  -- the cable: STATE is 1 from its detection on, and 0 again after a training that fails
  ∧ (∀ s w v, s.link = .down → s.pairState = 0 → s.kap.boot = 3 →
      exec (.presenceDetect w v) s = .next { s with pairState := 1, cable := some (w, v) })
  ∧ (∀ (s : State) w v, s.cable = some (w, v) →
      ((s.amd.bootFail = true ∨ cableOk w v = false) → s.trainCable = .next ({ s with pairState := 0, cable := none }.onLives
        fun (l : Lifetime) => { l with failedTrainings := more16 l.failedTrainings }))
      ∧ (s.amd.bootFail = false → cableOk w v = true → s.amd.boot = 3 → s.trainCable = .next { s with
          cable := none, link := .l0, linkWidth := w, linkSpeed := v
          kap := { s.kap with pipe := {} }, amd := { s.amd with pipe := {} } }))
  ∧ (∀ s w v, s.link = .l0 →
      (cableOk w v = true → exec (.presenceDetect w v) s = .next ({ s with linkWidth := w, linkSpeed := v }.onLives
        fun (l : Lifetime) => { l with cable.retrains := more32 l.cable.retrains }))
      ∧ (cableOk w v = false → exec (.presenceDetect w v) s = .next s.loseLink))
  ∧ (∀ s (ids : PairIds), s.pairState = 1 → s.link = .l0 → s.amdPub = [] →
      let good := partnerOk .kapael ids.chalK ids.pubA ids.sigA && partnerOk .amdukor ids.chalA ids.pubK ids.sigK
      let t := { s with log := .signed .amdukor (dieSign .amdukor ids.chalK) :: .signed .kapael (dieSign .kapael ids.chalA) :: s.log }
      let f := s.amd.slot s.amd.activeB
      exec (.pairing ids) s = .next (if good
        then { t with amdPub := ids.pubA, amdHash := f.hash, amdSvn := f.svn, amdSlot := if s.amd.activeB then 1 else 0 }
        else t.separate.onLives fun (l : Lifetime) => { l with failedPairings := more16 l.failedPairings }))
  ∧ (∀ s k, s.docked = false → s.pairState = 1 → s.link = .l0 → s.amdPub ≠ [] →
      let t := s.kap.ptime
      let u := { s with
        pairState := 2, ptmAt := t.toNat, kap := { s.kap with beatAt := t.toNat, pipe := { s.kap.pipe with heardAt := t.toNat } }
        amd := { s.amd with ptime := t, slew := 0, slewRest := 0, beatAt := t.toNat, report := t.toNat / 100000, decay := t.toNat / 1048576
                            sweep := t.toNat / 2 ^ 25, pipe := { s.amd.pipe with heardAt := t.toNat } } }
      exec (.ptmExchange k) s = .next (u.migrateAll .amdukor fun (c : Context) =>
        c.ended.isNone && c.resident == .kapael && u.hasPlaced c.num).dockDone)
  ∧ (∀ s (k : Int), s.docked = true →
      (40 < k.natAbs → exec (.ptmExchange k) s = .next s.loseLink)
      ∧ (k.natAbs ≤ 40 → exec (.ptmExchange k) s = .next { s with ptmAt := s.now .kapael, amd := { s.amd with slew := -k, slewRest := 0 } }))
  ∧ (∀ s d, exec (.lifetimeRecordWrite d) s = .next { s.setDie d { s.die d with lifeFlash := (s.die d).life } with log := .flashed d :: s.log })
  ∧ (∀ s d, let g := (s.die d).ptime.toNat / (s.die d).phase % 8
      let t := s.setDie d { s.die d with group := g }
      let here : Flaw → Bool := fun f => match f.at_ with
        | .weight e k => e == d && k / 2 ^ 18 % 8 == g
        | _ => false
      let met := s.flaws.filter here
      let note : Flaw → LogEv := fun f => LogEv.weightError d (match f.at_ with | .weight _ k => k | _ => 0)
      (s.flaws.any here = false → exec (.refreshPhaseAdvance d) s = .next t)
      ∧ (s.flaws.any here = true → exec (.refreshPhaseAdvance d) s = .next ({ t with
          flaws := s.flaws.filterMap fun f => if !here f then some f else if f.double then some { f with logged := true } else none
          log := (met.filter fun (f : Flaw) => f.double && !f.logged).map note ++ s.log }.corrected d (met.filter fun (f : Flaw) => !f.double))))
  ∧ (∀ s d c, let x := s.die d
      let want := if 95 ≤ c then true else if c ≤ 90 then false else x.fastNext
      exec (.refreshModeChange d c) s = .next (s.setDie d { x with
        temp := c, fastNext := want, fast := if x.ptime.toNat % 65536 = 0 then want else x.fast }))
  ∧ (∀ s, s.hostUp = true → s.kap.boot = 3 → s.undockReq = false → s.pairState = 3 →
      (s.undockFits = false → exec .undock s = .next { s with pairResult := 9 })
      ∧ (s.undockFits = true → exec .undock s = .next ({ s with undockReq := true, pairState := 4 }.migrateAll .kapael fun (c : Context) =>
        c.mig == Mig.none && s.worksOn c)))
  ∧ (∀ s n c, s.ctx n = some c → exec (.dockMigration n) s = .next (s.migStep c).dockDone)
  ∧ (∀ s n c, s.ctx n = some c → c.ckpt = none → c.mig = .none → s.ckptApplies c = true → s.fwIdle c.resident = true →
      c.lastCommit + 1000000 * c.ckptMs ≤ s.now c.resident → exec (.ckptTimer n) s = .next (s.startCkpt c))

/-! ## The link and its messages -/

/-- Heartbeats, acknowledgements and header writes do what R137 and R138 say; a link that leaves L0 recovers, resends from the number read
or, without one, from its own, and is lost after the timeout; a lost link is handled as R145 says (R137 to R139, R145). -/
def Obligations.LinkStepsComplete : Prop :=
  (∀ s d, s.linkUp = true → s.docked = true → (s.die d).beatAt + 100000 ≤ s.now d →
      let t := s.setDie d { s.die d with beatAt := s.now d }
      exec (.heartbeat d) s = .next (t.setPipe (otherDie d)
        { t.pipe (otherDie d) with heartbeat := (s.die d).ptime, heardAt := t.now (otherDie d) }))
  ∧ (∀ s d, s.link = .l0 → s.docked = true → (s.pipe d).heardAt + 300000 < s.now d → exec (.heartbeatTimeout d) s = .next s.loseLink)
  ∧ (∀ s, exec .linkLost s = .next s.loseLink)
  ∧ (∀ s, s.link = .l0 ∨ s.link = .recovering → exec .linkExitL0 s = .next { s with link := .outOfL0, linkAt := s.now .kapael })
  ∧ (∀ s, s.link = .outOfL0 → s.now .kapael ≤ s.linkAt + 300000 → ∃ t, exec .linkRecovery s = .next t ∧ t.link = .recovering ∧
      t.linkAt = t.now .kapael ∧ ∀ d, (t.pipe d).resyncReg = (s.pipe (otherDie d)).e ∧ (t.pipe d).sawResync = false
        ∧ (t.die d).life.cable.recoveries = more32 (s.die d).life.cable.recoveries ∧ (t.pipe d).slots = (s.pipe d).slots
        ∧ (t.pipe d).unacked = (s.pipe d).unacked)
  ∧ (∀ s d, s.link = .recovering → (s.pipe d).sawResync = false → s.linkAt + 20000 ≤ s.now .kapael →
      exec (.resyncTimeout d) s = .next (s.setPipe d { (s.pipe d).goBack (s.pipe d).a with sawResync := true }).recovered)
  ∧ (∀ s d k, s.link = .recovering → k = (s.pipe d).resyncReg →
      exec (.resync d k) s = .next (s.setPipe d { (s.pipe d).goBack k with sawResync := true }).recovered)
  ∧ (∀ s d slot (m : Msg), s.linkUp = true →
      let q := s.pipe (fromDie d)
      let t := if q.unacked[q.written]? = some m then s.setPipe (fromDie d) { q with written := q.written + 1 } else s
      (((t.pipe d).receive slot m).2 = true → exec (.blowpipeHeaderWrite d slot m) s = .next (t.setPipe d ((t.pipe d).receive slot m).1))
      ∧ (((t.pipe d).receive slot m).2 = false →
        exec (.blowpipeHeaderWrite d slot m) s = .next { t.setPipe d ((t.pipe d).receive slot m).1 with log := .pipeLog d m.ctx m.ty.toNat m.va 0 :: t.log }))
  ∧ (∀ s d k, ¬ (((s.pipe (otherDie d)).e - (s.pipe d).a).toNat < (k - (s.pipe d).a).toNat) → exec (.ackWrite d k) s =
      let o := s.pipe (otherDie d)
      let t := if o.e = k then s.setPipe (otherDie d) { o with sinceAck := 0 } else s
      .next (t.setPipe d { (t.pipe d).acked k with ackReg := k }))
  ∧ (∀ s d, (s.pipe d).sinceAck ≠ 0 → s.linkUp = true →
      let t := s.setPipe d { s.pipe d with sinceAck := 0 }
      exec (.ackTimer d) s = .next (t.setPipe (otherDie d)
        { (t.pipe (otherDie d)).acked (s.pipe d).e with ackReg := (s.pipe d).e }))

/-- Each message of R137 that passes its checks has its effect when it is delivered: a read, a write, a bundle, a token signal and an entry
are performed at the home and answered; an answer goes to the operation that waits for it; a shootdown is answered once nothing uses
what it drops; the messages of a move, a migration and a checkpoint carry them on (R23, R98, R109, R130, R131, R134, R135, R137, R142 to
R144). What AUX0, AUX1 and the payloads hold beyond R137 is the model's (DESIGN CHOICE, log entry 11), and that PT_RD of a leaf charges its
page's counter is an inference (DEDUCED, log entry 101). -/
def Obligations.MessagesComplete : Prop :=
  (∀ s d t m leaf pa, s.deliver d tyRdReq = some (t, m) →
      t.accessCheck d m (match m.aux0.toNat / 4 % 4 with | 0 => .load | 1 => .fetch | _ => .engineRead) = .ok (leaf, pa) →
      let l := lineAt (leafHome leaf) pa
      let f := t.homeFlaw l
      let code : DWord := BitVec.ofNat 64 ((f.2.map flawStatus).getD 0)
      let busy := decide (leafCls leaf = .object) && t.slotBusy l.home pa
      (busy = true → exec (.rdReq d) s = .next s)
      ∧ (busy = false → m.aux0.toNat % 4 ≠ 2 → let r := f.1.homeRead l (otherDie d) m.ctx m.va leaf
        exec (.rdReq d) s = .next (r.1.replyMsg d m tyRdData fun (x : Msg) =>
          { x with payload := r.2.1, time := BitVec.ofNat 64 r.2.2, aux1 := code }))
      ∧ (busy = false → m.aux0.toNat % 4 = 2 → let u := f.1.atHome l (otherDie d) m.ctx m.va leaf false
        exec (.rdReq d) s = .next (u.replyMsg d m tyRdData fun (x : Msg) =>
          { x with payload := Memory.readN (u.mem l.home) (l.la * 128) 128, time := 0, aux1 := code })))
  ∧ (∀ s d t m u a op l o, s.deliver d tyRdData = some (t, m) → t.closeTag d m.tag = some (u, .read a op l) → refusedMsg m = false →
      u.agentOp a op = some o → exec (.rdData d) s = .next (u.lineBack a o l m))
  ∧ (∀ s d t m u w n va l, s.deliver d tyRdData = some (t, m) → t.closeTag d m.tag = some (u, .far w n va l) →
      exec (.rdData d) s = .next (u.keepFar d w l m))
  ∧ (∀ s d t m u a acc n va leaf l, s.deliver d tyRdData = some (t, m) → t.closeTag d m.tag = some (u, .fill a acc n va leaf l) →
      exec (.rdData d) s = .next (u.lineFilled a acc n va leaf l m))
  ∧ (∀ s d t m leaf pa, s.deliver d tyWrReq = some (t, m) →
      t.accessCheck d m (if nth m.payload 128 0 = 1 then .engineWrite else .store) = .ok (leaf, pa) →
      let l := lineAt (leafHome leaf) pa
      let busy := decide (leafCls leaf = .object) && t.slotBusy l.home pa
      let r := t.homeWrite l (otherDie d) m.ctx m.va leaf (maskedPieces (l.la * 128) (m.aux0.toNat + 2 ^ 64 * m.aux1.toNat) m.payload)
      (busy = true → exec (.wrReq d) s = .next s)
      ∧ (busy = false →
        exec (.wrReq d) s = .next (r.1.replyMsg d m tyWrAck fun (x : Msg) => { x with time := BitVec.ofNat 64 r.2.1, aux0 := BitVec.ofNat 64 r.2.2 })))
  ∧ (∀ s d t m u a op l o, s.deliver d tyWrAck = some (t, m) → t.closeTag d m.tag = some (u, .write a op l) → refusedMsg m = false →
      u.agentOp a op = some o → exec (.wrAck d) s = .next (u.setAgentOp a { o with
        reqs := o.reqs.map fun (r : LaneReq) => if r.line? == some l && r.sent then { r with done := true } else r
        gd := max o.gd m.time.toNat, gp := max o.gp m.aux0.toNat }))
  ∧ (∀ s d t m u a op va, s.deliver d tyWrAck = some (t, m) → t.closeTag d m.tag = some (u, .token a op va) →
      exec (.wrAck d) s = .next (u.signalAcked a op va (refusedMsg m)))
  ∧ (∀ s d t m u w n va k, s.deliver d tyWrAck = some (t, m) → t.closeTag d m.tag = some (u, .farWrite w n va k) →
      exec (.wrAck d) s = .next (u.jobAcked d w va m))
  ∧ (∀ s d t m leaf pa u, s.deliver d tyCombReq = some (t, m) →
      t.accessCheck d m (if (combHead m.payload).2.2 then .ocall else .atomic) = .ok (leaf, pa) →
      t.arrive { agent := .none, op := 0, die := otherDie d, core := m.aux0.toNat, ctx := m.ctx
                 key := keyOf (combHead m.payload) (leafHome leaf) pa, reqs := combReqs m leaf pa, tag := some m.tag }
        (lineAt (leafHome leaf) pa) = some u → exec (.combReq d) s = .next u)
  ∧ (∀ s d t m u a op o, s.deliver d tyCombRsp = some (t, m) → t.closeTag d m.tag = some (u, .bundle a op) → u.agentOp a op = some o →
      let far := fun (r : LaneReq) => r.sent && !r.done && (r.line?.map fun l => serverOf l.home != d).getD false
      let lanes := (o.reqs.filter far).map (·.lane)
      let rs := rspReplies m.payload lanes.length
      exec (.combRsp d) s = .next ((u.forgetLines (coreOf a) (o.reqs.filter far)).setAgentOp a { o with
        reqs := o.reqs.map fun (r : LaneReq) => if far r then (({ o with reqs := [r] } : Op).replied lanes rs 0 0).reqs.headD r else r
        gd := max o.gd m.time.toNat, gp := max o.gp m.aux0.toNat }))
  ∧ (∀ s d t m, s.deliver d tyPtRd = some (t, m) → t.entryCheck d m = none →
      let f := t.homeFlaw (lineAt (homeOf d) m.aux0.toNat)
      let e := f.1.entryAt d m.aux0.toNat
      let u := if e.getLsbD 0 = true ∧ e.getLsbD 1 = false ∧ leafHome e = homeOf d then f.1.countAccess m.ctx m.va e (otherDie d) else f.1
      exec (.ptRd d) s = .next (u.replyMsg d m tyPtData fun (x : Msg) =>
        { x with payload := bytesOf 8 e.toNat, aux1 := BitVec.ofNat 64 ((f.2.map flawStatus).getD 0) }))
  ∧ (∀ s d t m, s.deliver d tyPtCas = some (t, m) → t.entryCheck d m = none →
      let swap := (t.entryAt d m.aux0.toNat).toNat == fieldOf m.payload 0 8
      let u := if swap then t.putEntry d m.aux0.toNat (BitVec.ofNat 64 (fieldOf m.payload 8 8)) else t
      exec (.ptCas d) s = .next (u.replyMsg d m tyPtData fun (x : Msg) =>
        { x with payload := bytesOf 8 (u.entryAt d m.aux0.toNat).toNat, aux1 := if swap then 1 else 0 }))
  ∧ (∀ s d t m u n pa, s.deliver d tyPtData = some (t, m) → t.closeTag d m.tag = some (u, .entry n pa) →
      (refusedMsg m = true → exec (.ptData d) s = .next (u.refuseWalks d n pa .remoteRefused))
      ∧ (∀ sub, refusedMsg m = false → statusFlaw m.aux1.toNat = some sub → exec (.ptData d) s = .next (u.refuseWalks d n pa sub))
      ∧ (refusedMsg m = false → statusFlaw m.aux1.toNat = none → exec (.ptData d) s = .next (u.setDie d { u.die d with
          ptGot := put (n, pa) (BitVec.ofNat 64 (fieldOf m.payload 0 8)) (u.die d).ptGot })))
  ∧ (∀ s d t m c, s.deliver d tyShoot = some (t, m) → t.keyed m = some c →
      let u := t.tlbDrop d m.ctx m.va m.aux0.toNat
      exec (.shoot d) s = .next ((u.setPipe d { u.pipe d with
        shoots := (u.pipe d).shoots ++ [(m.ctx, m.va, m.aux0.toNat, m.tag)] }).answerShoots d))
  ∧ (∀ s d t m u x y z, s.deliver d tyShootAck = some (t, m) → t.closeTag d m.tag = some (u, .shoot x y z) → exec (.shootAck d) s = .next u)
  ∧ (∀ s d t m c u pa, s.deliver d tyHomeReq = some (t, m) → t.keyed m = some c → c.resident ≠ d →
      t.allocFrame m.ctx d m.aux0.toNat false = .ok (u, pa) →
      exec (.homeReq d) s = .next (u.replyMsg d m tyHomeGrant fun (x : Msg) => { x with aux0 := BitVec.ofNat 64 pa }))
  ∧ (∀ s d t m u x c, s.deliver d tyHomeGrant = some (t, m) → t.moveFor d m = some (u, x) → u.ctx x.ctx = some c →
      (u.moveBarred c x = false → exec (.homeGrant d) s = .next (u.beginDrain x m.aux0.toNat))
      ∧ (u.moveBarred c x = true → exec (.homeGrant d) s = .next
        ((u.freeFrame x.ctx { die := x.dst, pa := m.aux0.toNat, size := x.size }).refuseMove x)))
  ∧ (∀ s d t m u x, s.deliver d tyHomeDeny = some (t, m) → t.moveFor d m = some (u, x) → exec (.homeDeny d) s = .next (u.refuseMove x))
  ∧ (∀ s d t m x, s.deliver d tyHomeData = some (t, m) →
      (t.moves.find? fun x => x.ctx == m.ctx && x.va == m.va && x.stage == .streaming) = some x → x.dst = d → m.aux0.toNat < x.size →
      exec (.homeData d) s = .next (t.placePage x ((((t.ctx x.ctx).bind fun c => t.leafOf c x.va).map (·.2)).getD 0) m.aux0.toNat m.payload))
  ∧ (∀ s d t m x, s.deliver d tyHomeDone = some (t, m) →
      (t.moves.find? fun x => x.ctx == m.ctx && x.va == m.va && x.stage == .done) = some x → x.src = d →
      exec (.homeDone d) s = .next (t.finishMove x))
  ∧ (∀ s d t m c, s.deliver d tyMigData = some (t, m) → t.keyed m = some c → c.mig = .sent d → m.aux0.toNat = c.inbox.length →
      let b := c.inbox ++ m.payload
      let u := t.putCtx { c with inbox := b }
      (b.length < m.aux1.toNat → exec (.migData d) s = .next u)
      ∧ (m.aux1.toNat ≤ b.length → streamOk c b = false →
        exec (.migData d) s = .next ((u.refuseMsg d m 2 .refuseFirmware).migRefused c.num d))
      ∧ (m.aux1.toNat ≤ b.length → streamOk c b = true → exec (.migData d) s = .next (u.takeOver c.num d)))
  ∧ (∀ s t m c k, s.deliver .kapael tyCkptData = some (t, m) → t.ckptFor m m.aux1.toNat = .now c k →
      exec (.ckptData .kapael) s = .next (t.putCtx { c with ckpt := some { k with got := k.got + 1 } }))
  ∧ (∀ s t m c k, s.deliver .kapael tyCkptEnd = some (t, m) → t.ckptFor m m.aux0.toNat = .now c k → k.got = m.aux1.toNat →
      c.mirrorUse ≤ c.room → exec (.ckptEnd .kapael) s = .next (t.replyMsg .kapael m tyCkptAck id))
  ∧ (∀ s d t m u n k c x, s.deliver d tyCkptAck = some (t, m) → t.closeTag d m.tag = some (u, .ckpt n k) → u.ctx n = some c →
      c.ckpt = some x → x.num = k → x.stage = .sending → exec (.ckptAck d) s = .next (u.commitCkpt n))
  ∧ (∀ s d t m leaf pa, s.deliver d tyTokSig = some (t, m) → t.accessCheck d m .tokenWrite = .ok (leaf, pa) →
      let u := t.signalAt (otherDie d) m.ctx m.va leaf (leafHome leaf) pa (signalOf m)
      let g := u.gwct (lineAt (leafHome leaf) pa) (otherDie d)
      exec (.tokSig d) s = .next (u.replyMsg d m tyWrAck fun (x : Msg) => { x with time := BitVec.ofNat 64 g.1, aux0 := BitVec.ofNat 64 g.2 }))
end

