-- ==== Sys2Proof/Laws/Encode.lean ====
section
/-! SUPPORT. What the decoder's fields read from the words the encoder writes (R177 to R184): each field of each form comes back, one
lemma for each word. -/

namespace Sys2Proof

/-! ## Fields of words put together -/

/-- A field that lies above the lower part is a field of the upper part. -/
theorem extract_high {v w : Nat} (x : BitVec v) (y : BitVec w) (s n : Nat) (h : w ≤ s) :
    (x ++ y).extractLsb' s n = x.extractLsb' (s - w) n := by
  apply BitVec.eq_of_getLsbD_eq
  intro i hi
  simp [BitVec.getLsbD_extractLsb', BitVec.getLsbD_append, show ¬ s + i < w by omega, show s + i - w = s - w + i by omega]

/-- A field that lies in the lower part is a field of the lower part. -/
theorem extract_low {v w : Nat} (x : BitVec v) (y : BitVec w) (s n : Nat) (h : s + n ≤ w) :
    (x ++ y).extractLsb' s n = y.extractLsb' s n := by
  apply BitVec.eq_of_getLsbD_eq
  intro i hi
  simp [BitVec.getLsbD_append, hi, show s + i < w by omega]

/-- The whole is a field of itself. -/
theorem extract_all {w : Nat} (x : BitVec w) : x.extractLsb' 0 w = x := by
  apply BitVec.eq_of_getLsbD_eq
  intro i hi
  simp [hi]

/-- The one bit of a flag. -/
theorem flag_bit (b : Bool) : (flag b).getLsbD 0 = b := by cases b <;> rfl

/-- A bit above the lower part is a bit of the upper part. -/
theorem bit_high {v w : Nat} (x : BitVec v) (y : BitVec w) (i : Nat) (h : w ≤ i) : (x ++ y).getLsbD i = x.getLsbD (i - w) := by
  simp [BitVec.getLsbD_append, show ¬ i < w by omega]

/-- A bit of the lower part. -/
theorem bit_low {v w : Nat} (x : BitVec v) (y : BitVec w) (i : Nat) (h : i < w) : (x ++ y).getLsbD i = y.getLsbD i := by
  simp [BitVec.getLsbD_append, h]

/-! ## Word 0 -/

theorem opcOf_w0Bits (o : Nat) (w d a b lra lrb ml) : opcOf (w0Bits o w d a b lra lrb ml) = o % 256 := by
  simp (disch := omega) only [opcOf, w0Bits, extract_high, Nat.reduceSub, extract_all, BitVec.toNat_ofNat, Nat.reducePow]

theorem wOf_w0Bits (o : Nat) (w d a b lra lrb ml) : wOf (w0Bits o w d a b lra lrb ml) = w := by
  simp (disch := omega) only [wOf, w0Bits, bit_high, bit_low, Nat.reduceSub, flag_bit]

theorem immBit_w0Bits (o : Nat) (w d a b lra lrb) (ml : BitVec 3) : (w0Bits o w d a b lra lrb ml).getLsbD 2 = ml.getLsbD 2 := by
  simp (disch := omega) only [w0Bits, bit_low]

theorem gOf_w0Bits (o : Nat) (w d a b lra lrb ml x) :
    gOf (w0Bits o w d a b lra lrb ml) x = ⟨d, a, b, lra, lrb, ml, x.map w1Of⟩ := by
  simp (disch := omega) only [gOf, mlOf, w0Bits, extract_high, extract_low, extract_all, bit_high, bit_low, Nat.reduceSub, flag_bit]

theorem immBits (ml : BitVec 2) : ((1 : BitVec 1) ++ ml).extractLsb' 0 2 = ml ∧ ((1 : BitVec 1) ++ ml).getLsbD 2 = true := by
  revert ml; decide

theorem iOf_w0Bits (o : Nat) (w d a b lra lrb) (ml : BitVec 2) (x : Word) :
    iOf (w0Bits o w d a b lra lrb ((1 : BitVec 1) ++ ml)) x = ⟨d, a, b, lra, lrb, ml, x⟩ := by
  have h : ∀ m : BitVec 3, iOf (w0Bits o w d a b lra lrb m) x = ⟨d, a, b, lra, lrb, m.extractLsb' 0 2, x⟩ := by
    intro m
    simp (disch := omega) only [iOf, w0Bits, extract_high, extract_low, extract_all, bit_high, bit_low, Nat.reduceSub, flag_bit]
  rw [h, (immBits ml).1]

theorem opcOf_control (o : Nat) (w : Bool) (ofs : BitVec 23) : opcOf (BitVec.ofNat 8 o ++ flag w ++ ofs) = o % 256 := by
  simp (disch := omega) only [opcOf, extract_high, Nat.reduceSub, extract_all, BitVec.toNat_ofNat, Nat.reducePow]

theorem wOf_control (o : Nat) (w : Bool) (ofs : BitVec 23) : wOf (BitVec.ofNat 8 o ++ flag w ++ ofs) = w := by
  simp (disch := omega) only [wOf, bit_high, bit_low, Nat.reduceSub, flag_bit]

/-! ## Word 1 -/

theorem w1Of_w1Bits (x : W1) : w1Of (w1Bits x) = x := by
  simp (disch := omega) only [w1Of, w1Bits, extract_high, extract_low, extract_all, bit_high, bit_low, Nat.reduceSub, flag_bit]

theorem mOf_words (o : Nat) (x : MForm) : mOf (w0Bits o true x.d x.a x.b x.lra x.lrb x.ml)
    (x.ofs ++ x.gp ++ flag x.gn ++ x.la ++ x.scope ++ x.ord ++ x.space ++ x.pol) = x := by
  simp (disch := omega) only [mOf, mlOf, w0Bits, extract_high, extract_low, extract_all, bit_high, bit_low, Nat.reduceSub, flag_bit]

theorem vOf_words (o : Nat) (x : VForm) : vOf (w0Bits o true x.d x.a x.b x.lra x.lrb x.ml)
    (x.method ++ x.ofs ++ x.gp ++ flag x.gn ++ x.la ++ x.scope ++ x.ord ++ x.space ++ x.pol) = x := by
  simp (disch := omega) only [vOf, mlOf, w0Bits, extract_high, extract_low, extract_all, bit_high, bit_low, Nat.reduceSub, flag_bit]

theorem cOf_words (o : Nat) (x : CForm) :
    cOf (BitVec.ofNat 8 o ++ flag true ++ x.ofs) (x.rsv ++ x.gp ++ flag x.gn ++ x.kind ++ x.aux) = x := by
  simp (disch := omega) only [cOf, extract_high, extract_low, extract_all, bit_high, bit_low, Nat.reduceSub, flag_bit]

/-! ## Bytes -/

/-- Words come back from their bytes (R4). -/
theorem wordsOfBytes_bytes (ws : List Word) : wordsOfBytes
    (ws.flatMap fun w => [w.extractLsb' 0 8, w.extractLsb' 8 8, w.extractLsb' 16 8, w.extractLsb' 24 8]) = ws := by
  induction ws with
  | nil => rfl
  | cons w t ih =>
    simp only [List.flatMap_cons, List.cons_append, List.nil_append, wordsOfBytes, ih]
    congr 1
    apply BitVec.eq_of_getLsbD_eq
    intro i hi
    simp only [BitVec.getLsbD_append]
    simp
    split
    · simp [*]
    · split
      · simp [*, show i - 8 < 8 by omega, show 8 + (i - 8) = i by omega]
      · split
        · simp [show i - 8 - 8 < 8 by omega, show 16 + (i - 8 - 8) = i by omega]
        · simp [show i - 8 - 8 - 8 < 8 by omega, show 24 + (i - 8 - 8 - 8) = i by omega]

/-! ## The words of each form -/

theorem encode_g (i : Instr) (o : Nat) (x : GForm) (h : i.form = .g o x) :
    encode i = w0Bits o x.w1.isSome x.d x.a x.b x.lra x.lrb x.ml :: (x.w1.map w1Bits).toList := by
  unfold encode; rw [h]; cases hh : x.w1 <;> simp [hh]

theorem encode_i (i : Instr) (o : Nat) (x : IForm) (h : i.form = .i o x) :
    encode i = [w0Bits o true x.d x.a x.mh x.lra x.lrb ((1 : BitVec 1) ++ x.ml), x.imm] := by
  unfold encode; rw [h]

theorem encode_m (i : Instr) (o : Nat) (x : MForm) (h : i.form = .m o x) :
    encode i = [w0Bits o true x.d x.a x.b x.lra x.lrb x.ml,
      x.ofs ++ x.gp ++ flag x.gn ++ x.la ++ x.scope ++ x.ord ++ x.space ++ x.pol] := by
  unfold encode; rw [h]

theorem encode_v (i : Instr) (o : Nat) (x : VForm) (h : i.form = .v o x) :
    encode i = [w0Bits o true x.d x.a x.b x.lra x.lrb x.ml,
      x.method ++ x.ofs ++ x.gp ++ flag x.gn ++ x.la ++ x.scope ++ x.ord ++ x.space ++ x.pol] := by
  unfold encode; rw [h]

theorem encode_c (i : Instr) (o : Nat) (x : CForm) (h : i.form = .c o x) :
    encode i = [BitVec.ofNat 8 o ++ flag true ++ x.ofs, x.rsv ++ x.gp ++ flag x.gn ++ x.kind ++ x.aux] := by
  unfold encode; rw [h]

/-! ## Parsing -/

/-- A two-word form whose constructor is known parses to it. -/
theorem parse_two (w x : Word) (k : Word → Option Instr) (i : Instr) (hw : wOf w = true) (hk : k x = some i) :
   (if wOf w then
      match (some x : Option Word) with
      | some x => match k x with
        | some i => .ok i
        | none => .error .opcode
      | none => .error .truncated
    else .error .oneWord : Except Reject Instr) = .ok i := by rw [if_pos hw]; simp only [hk]

/-- A memory form parses to its instruction. -/
theorem parse_m (w x : Word) (i : Instr) (h1 : assigned (opcOf w) = true) (h2 : isM (opcOf w) = true) (hw : wOf w = true)
    (hc : mCtor (opcOf w) (mOf w x) = some i) : parse w (some x) = .ok i := by
  unfold parse
  rw [if_neg (by simp [h1]), if_pos h2]
  exact parse_two w x (fun x => mCtor (opcOf w) (mOf w x)) i hw hc

/-- A method form parses to its instruction. -/
theorem parse_v (w x : Word) (i : Instr) (h1 : assigned (opcOf w) = true) (h2 : isM (opcOf w) = false) (h3 : isV (opcOf w) = true)
    (hw : wOf w = true)
    (hc : vCtor (opcOf w) (vOf w x) = some i) : parse w (some x) = .ok i := by
  unfold parse
  rw [if_neg (by simp [h1]), if_neg (by simp [h2]), if_pos h3]
  exact parse_two w x (fun x => vCtor (opcOf w) (vOf w x)) i hw hc

/-- A control form parses to its instruction. -/
theorem parse_c (w x : Word) (i : Instr) (h1 : assigned (opcOf w) = true) (h2 : isM (opcOf w) = false) (h3 : isV (opcOf w) = false)
    (h4 : isC (opcOf w) = true) (hw : wOf w = true)
    (hc : cCtor (opcOf w) (cOf w x) = some i) : parse w (some x) = .ok i := by
  unfold parse
  rw [if_neg (by simp [h1]), if_neg (by simp [h2]), if_neg (by simp [h3]), if_pos h4]
  exact parse_two w x (fun x => cCtor (opcOf w) (cOf w x)) i hw hc

/-- An immediate form parses to its instruction. -/
theorem parse_i (w x : Word) (i : Instr) (h1 : assigned (opcOf w) = true) (h2 : isM (opcOf w) = false) (h3 : isV (opcOf w) = false)
    (h4 : isC (opcOf w) = false)
   (h5 : ((immCapable (opcOf w) || immOnly (opcOf w)) && w.getLsbD 2) = true) (hw : wOf w = true)
    (hc : iCtor (opcOf w) (iOf w x) = some i) : parse w (some x) = .ok i := by
  unfold parse
  rw [if_neg (by simp [h1]), if_neg (by simp [h2]), if_neg (by simp [h3]), if_neg (by simp [h4]), if_pos h5]
  exact parse_two w x (fun x => iCtor (opcOf w) (iOf w x)) i hw hc

/-- A format G word, with its second word where W says so, parses to its instruction. -/
theorem parse_g (w : Word) (x : Option Word) (i : Instr) (h1 : assigned (opcOf w) = true) (h2 : isM (opcOf w) = false)
    (h3 : isV (opcOf w) = false) (h4 : isC (opcOf w) = false)
   (h5 : ((immCapable (opcOf w) || immOnly (opcOf w)) && w.getLsbD 2) = false) (h6 : immOnly (opcOf w) = false) (hw : wOf w = x.isSome)
    (hc : gCtor (opcOf w) (gOf w x) = some i) : parse w x = .ok i := by
  unfold parse
  rw [if_neg (by simp [h1]), if_neg (by simp [h2]), if_neg (by simp [h3]), if_neg (by simp [h4]),
    if_neg (by simp only [h5]; simp), if_neg (by simp [h6])]
  cases x <;> simp only [Option.isSome] at hw <;> rw [hw] <;> simp only [hc]

/-- A word that parses to an instruction with no static fault decodes to it. -/
theorem decode_of_parse (w : Word) (r : List Word) (i : Instr) (hp : parse w r.head? = .ok i) (hs : staticCheck i = .ok i) :
    decode (w :: r) = .ok i := by
  unfold decode; simp only [hp, hs]

/-- A well-formed instruction passes the static checks. -/
theorem staticCheck_of_wordOk (i : Instr) (h : WellFormed.wordOk i = true) : staticCheck i = .ok i := by
  simp [WellFormed.wordOk] at h
  simp [staticCheck, h]

/-- The general word 0 and word 1 that an instruction of format G is written as are read back whole. -/
theorem gOf_words (o : Nat) (x : GForm) : gOf (w0Bits o x.w1.isSome x.d x.a x.b x.lra x.lrb x.ml) (x.w1.map w1Bits) = x := by
  rw [gOf_w0Bits]; cases x; rename_i w; cases w <;> simp [w1Of_w1Bits]

/-- A modifier that a form reserves is zero: bit 2 of ML, where the form's mask leaves it out (R177). -/
theorem ml2_of_wordOk (i : Instr) (o : Nat) (x : GForm) (h : i.form = .g o x) (hw : WellFormed.wordOk i = true)
    (hu : ((gUse o x).ml &&& 4) = 0) : x.ml.getLsbD 2 = false := by
  have : gReserved o x = false := by
    simp [WellFormed.wordOk, h, Form.reserved] at hw; exact hw.1.1.1.2
  have h2 : outside x.ml.toNat (gUse o x).ml = false := by
    simp [gReserved] at this
    simp [this]
  have h3 : x.ml.toNat = x.ml.toNat &&& (gUse o x).ml := by simpa [outside] using h2
  rw [show x.ml.getLsbD 2 = x.ml.toNat.testBit 2 from rfl, h3, Nat.testBit_and]
  have : (gUse o x).ml.testBit 2 = false := by
    by_contra hh
    simp at hh
    have := congrArg (fun n => n.testBit 2) hu
    simp [Nat.testBit_and, hh, show Nat.testBit 4 2 = true from rfl] at this
  simp [this]

end Sys2Proof
end

