-- ==== Sys2Proof/Laws/Lists.lean ====
section
/-! SUPPORT. What the operations on tables, lists by number and lane masks answer. -/

namespace Sys2Proof.Machine

/-! ## Tables -/

@[simp] theorem look_nil {κ α : Type} [DecidableEq κ] (k : κ) : look k ([] : List (κ × α)) = none := rfl

/-- A key's entry after it has been put. -/
@[simp] theorem look_put_self {κ α : Type} [DecidableEq κ] (k : κ) (a : α) : ∀ l : List (κ × α), look k (put k a l) = some a
  | [] => by simp [put, look]
  | (k', a') :: t => by
    unfold put; split
    · simp [look]
    · simp [look, *, look_put_self k a t]

/-- Another key's entry after a key has been put. -/
theorem look_put_ne {κ α : Type} [DecidableEq κ] {k j : κ} (a : α) (h : j ≠ k) : ∀ l : List (κ × α), look j (put k a l) = look j l
  | [] => by simp [put, look, Ne.symm h]
  | (k', a') :: t => by
    unfold put; split
    · subst_vars; simp [look, Ne.symm h]
    · simp [look, look_put_ne a h t]

/-- Another key's entry after a key has been taken out. -/
theorem look_drop_ne {κ α : Type} [DecidableEq κ] {k j : κ} (h : j ≠ k) : ∀ l : List (κ × α), look j (drop k l) = look j l
  | [] => rfl
  | (k', a') :: t => by
    have ih := look_drop_ne (α := α) h t
    simp only [drop, ne_eq, decide_not] at ih ⊢
    by_cases e : k' = k
    · subst e; simp [look, Ne.symm h, ih]
    · simp [e, look, ih]

/-- A key that has been taken out has no entry. -/
@[simp] theorem look_drop_self {κ α : Type} [DecidableEq κ] (k : κ) : ∀ l : List (κ × α), look k (drop k l) = none
  | [] => rfl
  | (k', a') :: t => by
    have ih := look_drop_self (α := α) k t
    simp only [drop, ne_eq, decide_not] at ih ⊢
    by_cases e : k' = k
    · simp [e, ih]
    · simp [e, look, ih]

/-- An entry that is found stands in the table. -/
theorem mem_of_look {κ α : Type} [DecidableEq κ] {k : κ} {a : α} : ∀ {l : List (κ × α)}, look k l = some a → (k, a) ∈ l
  | [], h => by simp at h
  | (k', a') :: t, h => by
    unfold look at h; split at h
    · simp_all
    · exact List.mem_cons_of_mem _ (mem_of_look h)

/-! ## Elements by number -/

@[simp] theorem nth_nil {α : Type} (n : Nat) (d : α) : nth ([] : List α) n d = d := by simp [nth]

@[simp] theorem nth_zero {α : Type} (a : α) (l : List α) (d : α) : nth (a :: l) 0 d = a := rfl

@[simp] theorem nth_succ {α : Type} (a : α) (l : List α) (n : Nat) (d : α) : nth (a :: l) (n + 1) d = nth l n d := rfl

/-- A number's element after it has been set. -/
theorem nth_set_self {α : Type} {l : List α} {n : Nat} (h : n < l.length) (a d : α) : nth (l.set n a) n d = a := by
  simp [nth, h]

/-- Another number's element after one has been set. -/
theorem nth_set_ne {α : Type} {n m : Nat} (h : m ≠ n) (l : List α) (a d : α) : nth (l.set n a) m d = nth l m d := by
  simp [nth, Ne.symm h]

/-- A lane's value of a list made for the lanes. -/
theorem nth_perLane {α : Type} (f : Nat → α) {l : Nat} (h : l < 32) (d : α) : nth (perLane f) l d = f l := by
  simp [nth, perLane, h]

/-- Names set to the default one by one: each listed one has it, the others keep theirs. -/
theorem nth_foldl_set {α : Type} (d : α) (ns : List Nat) : ∀ (v : List α) (n : Nat),
    nth (ns.foldl (fun v n => v.set n d) v) n d = if n ∈ ns then d else nth v n d := by
  induction ns with
  | nil => intro v n; simp
  | cons a t ih =>
    intro v n
    rw [List.foldl_cons, ih]
    by_cases h : n ∈ t
    · simp [h]
    · by_cases h2 : n = a
      · subst h2; simp [h, nth, List.getElem?_set]
        split <;> rfl
      · simp [h, h2, nth, Ne.symm h2]

/-! ## Lane masks -/

/-- The bits of the mask of the lanes below `n` that satisfy a predicate. -/
theorem getLsbD_maskTo (p : Nat → Bool) : ∀ n, n ≤ 32 → ∀ l, (maskTo p n).getLsbD l = (decide (l < n) && p l)
  | 0, _, l => by simp [maskTo]
  | n + 1, hn, l => by
    have ih := getLsbD_maskTo p n (by omega) l
    unfold maskTo
    by_cases e : l = n
    · subst e
      split <;> rename_i hp <;> simp [ih, hp, BitVec.getLsbD_twoPow]
      omega
    · have : decide (l < n + 1) = decide (l < n) := by simp; omega
      rw [this]
      split
      · rw [BitVec.getLsbD_or, ih, BitVec.getLsbD_twoPow]; simp [Ne.symm e]
      · exact ih

/-- The bits of the mask of the lanes that satisfy a predicate. -/
@[simp] theorem getLsbD_maskOf (p : Nat → Bool) (l : Nat) : (maskOf p).getLsbD l = (decide (l < 32) && p l) :=
  getLsbD_maskTo p 32 (by omega) l

/-- The lanes of a mask are those whose bit is set. -/
theorem mem_lanesOf {m : Word} {l : Nat} : l ∈ lanesOf m ↔ l < 32 ∧ m.getLsbD l = true := by simp [lanesOf]

end Sys2Proof.Machine
end

