-- ==== Sys2Proof/Laws/State.lean ====
section
/-! SUPPORT. What each update of the state leaves of every field, and what the accessors answer after it. -/

namespace Sys2Proof.Machine

/-! ## Accessors after an update -/

@[simp] theorem State.die_setDie (s : State) (d : Die) (x : DieState) : (s.setDie d x).die d = x := by cases d <;> rfl
theorem State.die_setDie_ne (s : State) {d e : Die} (x : DieState) (h : e ≠ d) : (s.setDie d x).die e = s.die e := by
  cases d <;> cases e <;> first | rfl | exact absurd rfl h
@[simp] theorem State.mem_setDie (s : State) (d : Die) (x : DieState) (h : Home) : (s.setDie d x).mem h = s.mem h := by
  cases d <;> cases h <;> rfl
@[simp] theorem State.ws_setDie (s : State) (d : Die) (x : DieState) (e : Die) : (s.setDie d x).ws e = s.ws e := by
  cases d <;> cases e <;> rfl
@[simp] theorem State.mem_setMem (s : State) (h : Home) (m : Memory) : (s.setMem h m).mem h = m := by cases h <;> rfl
theorem State.mem_setMem_ne (s : State) {h g : Home} (m : Memory) (e : g ≠ h) : (s.setMem h m).mem g = s.mem g := by
  cases h <;> cases g <;> first | rfl | exact absurd rfl e
@[simp] theorem State.die_setMem (s : State) (h : Home) (m : Memory) (d : Die) : (s.setMem h m).die d = s.die d := by
  cases h <;> cases d <;> rfl
@[simp] theorem State.ws_setMem (s : State) (h : Home) (m : Memory) (d : Die) : (s.setMem h m).ws d = s.ws d := by
  cases h <;> cases d <;> rfl
@[simp] theorem State.ws_setWs (s : State) (d : Die) (m : Memory) : (s.setWs d m).ws d = m := by cases d <;> rfl
@[simp] theorem State.mem_setWs (s : State) (d : Die) (m : Memory) (h : Home) : (s.setWs d m).mem h = s.mem h := by
  cases d <;> cases h <;> rfl
@[simp] theorem State.look_setWave (s : State) (id : WaveId) (k : Nat) (w : Wave) : look id (s.setWave (.wave id k) w).waves = some w :=
  look_put_self _ _ _
theorem State.look_setWave_ne (s : State) {id id' : WaveId} (k : Nat) (w : Wave) (h : id' ≠ id) :
    look id' (s.setWave (.wave id k) w).waves = look id' s.waves := look_put_ne _ h _
@[simp] theorem State.look_setPar (s : State) (p : ParId) (r : Parison) : look p (s.setPar p r).pars = some r := look_put_self _ _ _
theorem State.look_setPar_ne (s : State) {p q : ParId} (r : Parison) (h : q ≠ p) :
    look q (s.setPar p r).pars = look q s.pars := look_put_ne _ h _
@[simp] theorem State.blockOf_putBlock (s : State) (b : BlockRef) (x : Block) : (s.putBlock b x).blockOf b = some x :=
  look_put_self _ _ _
theorem State.blockOf_putBlock_ne (s : State) {b c : BlockRef} (x : Block) (h : c ≠ b) :
    (s.putBlock b x).blockOf c = s.blockOf c := look_put_ne _ h _
@[simp] theorem State.waveOf_setWave (s : State) (id : WaveId) (k : Nat) (w : Wave) :
    (s.setWave (.wave id k) w).waveOf (.wave id k) = some w := look_put_self _ _ _

/-! ## Counters -/

@[simp] theorem Counters.get_set_self (c : Counters) (k : Ctr) (v : BitVec 6) : (c.set k v).get k = v := by cases k <;> rfl
theorem Counters.get_set_ne (c : Counters) {k j : Ctr} (v : BitVec 6) (h : j ≠ k) : (c.set k v).get j = c.get j := by
  cases k <;> cases j <;> first | rfl | exact absurd rfl h

/-! ## Fields after a die has been replaced -/

@[simp] theorem State.setDie_agenda (s : State) (d : Die) (x : DieState) : (s.setDie d x).agenda = s.agenda := by cases d <;> rfl
@[simp] theorem State.setDie_cur (s : State) (d : Die) (x : DieState) : (s.setDie d x).cur = s.cur := by cases d <;> rfl
@[simp] theorem State.setDie_nsteps (s : State) (d : Die) (x : DieState) : (s.setDie d x).nsteps = s.nsteps := by cases d <;> rfl
@[simp] theorem State.setDie_freeCtr (s : State) (d : Die) (x : DieState) : (s.setDie d x).freeCtr = s.freeCtr := by cases d <;> rfl
@[simp] theorem State.setDie_opCtr (s : State) (d : Die) (x : DieState) : (s.setDie d x).opCtr = s.opCtr := by cases d <;> rfl
@[simp] theorem State.setDie_log (s : State) (d : Die) (x : DieState) : (s.setDie d x).log = s.log := by cases d <;> rfl
@[simp] theorem State.setDie_waves (s : State) (d : Die) (x : DieState) : (s.setDie d x).waves = s.waves := by cases d <;> rfl
@[simp] theorem State.setDie_pars (s : State) (d : Die) (x : DieState) : (s.setDie d x).pars = s.pars := by cases d <;> rfl
@[simp] theorem State.setDie_forms (s : State) (d : Die) (x : DieState) : (s.setDie d x).forms = s.forms := by cases d <;> rfl
@[simp] theorem State.setDie_blocks (s : State) (d : Die) (x : DieState) : (s.setDie d x).blocks = s.blocks := by cases d <;> rfl
@[simp] theorem State.setDie_memK (s : State) (d : Die) (x : DieState) : (s.setDie d x).memK = s.memK := by cases d <;> rfl
@[simp] theorem State.setDie_memA (s : State) (d : Die) (x : DieState) : (s.setDie d x).memA = s.memA := by cases d <;> rfl
@[simp] theorem State.setDie_memH (s : State) (d : Die) (x : DieState) : (s.setDie d x).memH = s.memH := by cases d <;> rfl
@[simp] theorem State.setDie_wsK (s : State) (d : Die) (x : DieState) : (s.setDie d x).wsK = s.wsK := by cases d <;> rfl
@[simp] theorem State.setDie_wsA (s : State) (d : Die) (x : DieState) : (s.setDie d x).wsA = s.wsA := by cases d <;> rfl
@[simp] theorem State.setDie_ctxs (s : State) (d : Die) (x : DieState) : (s.setDie d x).ctxs = s.ctxs := by cases d <;> rfl
@[simp] theorem State.setDie_queues (s : State) (d : Die) (x : DieState) : (s.setDie d x).queues = s.queues := by cases d <;> rfl
@[simp] theorem State.setDie_mq (s : State) (d : Die) (x : DieState) : (s.setDie d x).mq = s.mq := by cases d <;> rfl
@[simp] theorem State.setDie_svc (s : State) (d : Die) (x : DieState) : (s.setDie d x).svc = s.svc := by cases d <;> rfl
@[simp] theorem State.setDie_launches (s : State) (d : Die) (x : DieState) : (s.setDie d x).launches = s.launches := by cases d <;> rfl
@[simp] theorem State.setDie_saved (s : State) (d : Die) (x : DieState) : (s.setDie d x).saved = s.saved := by cases d <;> rfl
@[simp] theorem State.setDie_snaps (s : State) (d : Die) (x : DieState) : (s.setDie d x).snaps = s.snaps := by cases d <;> rfl
@[simp] theorem State.setDie_retained (s : State) (d : Die) (x : DieState) : (s.setDie d x).retained = s.retained := by cases d <;> rfl
@[simp] theorem State.setDie_moves (s : State) (d : Die) (x : DieState) : (s.setDie d x).moves = s.moves := by cases d <;> rfl
@[simp] theorem State.setDie_ticketCtr (s : State) (d : Die) (x : DieState) : (s.setDie d x).ticketCtr = s.ticketCtr := by cases d <;> rfl
@[simp] theorem State.setDie_launchCtr (s : State) (d : Die) (x : DieState) : (s.setDie d x).launchCtr = s.launchCtr := by cases d <;> rfl
@[simp] theorem State.setDie_jobCtr (s : State) (d : Die) (x : DieState) : (s.setDie d x).jobCtr = s.jobCtr := by cases d <;> rfl
@[simp] theorem State.setDie_savedCtr (s : State) (d : Die) (x : DieState) : (s.setDie d x).savedCtr = s.savedCtr := by cases d <;> rfl
@[simp] theorem State.setDie_ageCtr (s : State) (d : Die) (x : DieState) : (s.setDie d x).ageCtr = s.ageCtr := by cases d <;> rfl
@[simp] theorem State.setDie_hostGd (s : State) (d : Die) (x : DieState) : (s.setDie d x).hostGd = s.hostGd := by cases d <;> rfl
@[simp] theorem State.setDie_hostHeld (s : State) (d : Die) (x : DieState) : (s.setDie d x).hostHeld = s.hostHeld := by cases d <;> rfl
@[simp] theorem State.setDie_settling (s : State) (d : Die) (x : DieState) : (s.setDie d x).settling = s.settling := by cases d <;> rfl
@[simp] theorem State.setDie_hostWidth (s : State) (d : Die) (x : DieState) : (s.setDie d x).hostWidth = s.hostWidth := by cases d <;> rfl
@[simp] theorem State.setDie_hostSpeed (s : State) (d : Die) (x : DieState) : (s.setDie d x).hostSpeed = s.hostSpeed := by cases d <;> rfl
@[simp] theorem State.setDie_hostDownAt (s : State) (d : Die) (x : DieState) : (s.setDie d x).hostDownAt = s.hostDownAt := by cases d <;> rfl
@[simp] theorem State.setDie_hostEnds (s : State) (d : Die) (x : DieState) : (s.setDie d x).hostEnds = s.hostEnds := by cases d <;> rfl
@[simp] theorem State.setDie_cable (s : State) (d : Die) (x : DieState) : (s.setDie d x).cable = s.cable := by cases d <;> rfl
@[simp] theorem State.setDie_fwWaits (s : State) (d : Die) (x : DieState) : (s.setDie d x).fwWaits = s.fwWaits := by cases d <;> rfl
@[simp] theorem State.setDie_flaws (s : State) (d : Die) (x : DieState) : (s.setDie d x).flaws = s.flaws := by cases d <;> rfl
@[simp] theorem State.setDie_ptmAt (s : State) (d : Die) (x : DieState) : (s.setDie d x).ptmAt = s.ptmAt := by cases d <;> rfl
@[simp] theorem State.setDie_hostGp (s : State) (d : Die) (x : DieState) : (s.setDie d x).hostGp = s.hostGp := by cases d <;> rfl
@[simp] theorem State.setDie_link (s : State) (d : Die) (x : DieState) : (s.setDie d x).link = s.link := by cases d <;> rfl
@[simp] theorem State.setDie_linkAt (s : State) (d : Die) (x : DieState) : (s.setDie d x).linkAt = s.linkAt := by cases d <;> rfl
@[simp] theorem State.setDie_linkWidth (s : State) (d : Die) (x : DieState) : (s.setDie d x).linkWidth = s.linkWidth := by cases d <;> rfl
@[simp] theorem State.setDie_linkSpeed (s : State) (d : Die) (x : DieState) : (s.setDie d x).linkSpeed = s.linkSpeed := by cases d <;> rfl
@[simp] theorem State.setDie_hostUp (s : State) (d : Die) (x : DieState) : (s.setDie d x).hostUp = s.hostUp := by cases d <;> rfl
@[simp] theorem State.setDie_pairState (s : State) (d : Die) (x : DieState) : (s.setDie d x).pairState = s.pairState := by cases d <;> rfl
@[simp] theorem State.setDie_pairResult (s : State) (d : Die) (x : DieState) : (s.setDie d x).pairResult = s.pairResult := by cases d <;> rfl
@[simp] theorem State.setDie_undockReq (s : State) (d : Die) (x : DieState) : (s.setDie d x).undockReq = s.undockReq := by cases d <;> rfl
@[simp] theorem State.setDie_amdHash (s : State) (d : Die) (x : DieState) : (s.setDie d x).amdHash = s.amdHash := by cases d <;> rfl
@[simp] theorem State.setDie_amdSvn (s : State) (d : Die) (x : DieState) : (s.setDie d x).amdSvn = s.amdSvn := by cases d <;> rfl
@[simp] theorem State.setDie_amdSlot (s : State) (d : Die) (x : DieState) : (s.setDie d x).amdSlot = s.amdSlot := by cases d <;> rfl
@[simp] theorem State.setDie_amdPub (s : State) (d : Die) (x : DieState) : (s.setDie d x).amdPub = s.amdPub := by cases d <;> rfl
@[simp] theorem State.setDie_mqdesc (s : State) (d : Die) (x : DieState) : (s.setDie d x).mqdesc = s.mqdesc := by cases d <;> rfl
@[simp] theorem State.setDie_mqctl (s : State) (d : Die) (x : DieState) : (s.setDie d x).mqctl = s.mqctl := by cases d <;> rfl
@[simp] theorem State.setDie_mqstatus (s : State) (d : Die) (x : DieState) : (s.setDie d x).mqstatus = s.mqstatus := by cases d <;> rfl
@[simp] theorem State.setDie_mqwptr (s : State) (d : Die) (x : DieState) : (s.setDie d x).mqwptr = s.mqwptr := by cases d <;> rfl
@[simp] theorem State.setDie_mqcrptr (s : State) (d : Die) (x : DieState) : (s.setDie d x).mqcrptr = s.mqcrptr := by cases d <;> rfl
@[simp] theorem State.setDie_fwctl (s : State) (d : Die) (x : DieState) : (s.setDie d x).fwctl = s.fwctl := by cases d <;> rfl
@[simp] theorem State.setDie_fwcmd (s : State) (d : Die) (x : DieState) : (s.setDie d x).fwcmd = s.fwcmd := by cases d <;> rfl
@[simp] theorem State.setDie_fwNonce (s : State) (d : Die) (x : DieState) : (s.setDie d x).fwNonce = s.fwNonce := by cases d <;> rfl
@[simp] theorem State.setDie_attctl (s : State) (d : Die) (x : DieState) : (s.setDie d x).attctl = s.attctl := by cases d <;> rfl
@[simp] theorem State.setDie_attNonce (s : State) (d : Die) (x : DieState) : (s.setDie d x).attNonce = s.attNonce := by cases d <;> rfl
@[simp] theorem State.setDie_report (s : State) (d : Die) (x : DieState) : (s.setDie d x).report = s.report := by cases d <;> rfl
@[simp] theorem State.setDie_sig (s : State) (d : Die) (x : DieState) : (s.setDie d x).sig = s.sig := by cases d <;> rfl
@[simp] theorem State.setDie_repseq (s : State) (d : Die) (x : DieState) : (s.setDie d x).repseq = s.repseq := by cases d <;> rfl
@[simp] theorem State.setDie_head0 (s : State) (d : Die) (x : DieState) : (s.setDie d x).head0 = s.head0 := by cases d <;> rfl
@[simp] theorem State.setDie_head1 (s : State) (d : Die) (x : DieState) : (s.setDie d x).head1 = s.head1 := by cases d <;> rfl

/-! ## Fields after a memory has been replaced -/

@[simp] theorem State.setMem_agenda (s : State) (h : Home) (m : Memory) : (s.setMem h m).agenda = s.agenda := by cases h <;> rfl
@[simp] theorem State.setMem_cur (s : State) (h : Home) (m : Memory) : (s.setMem h m).cur = s.cur := by cases h <;> rfl
@[simp] theorem State.setMem_nsteps (s : State) (h : Home) (m : Memory) : (s.setMem h m).nsteps = s.nsteps := by cases h <;> rfl
@[simp] theorem State.setMem_freeCtr (s : State) (h : Home) (m : Memory) : (s.setMem h m).freeCtr = s.freeCtr := by cases h <;> rfl
@[simp] theorem State.setMem_opCtr (s : State) (h : Home) (m : Memory) : (s.setMem h m).opCtr = s.opCtr := by cases h <;> rfl
@[simp] theorem State.setMem_log (s : State) (h : Home) (m : Memory) : (s.setMem h m).log = s.log := by cases h <;> rfl
@[simp] theorem State.setMem_waves (s : State) (h : Home) (m : Memory) : (s.setMem h m).waves = s.waves := by cases h <;> rfl
@[simp] theorem State.setMem_pars (s : State) (h : Home) (m : Memory) : (s.setMem h m).pars = s.pars := by cases h <;> rfl
@[simp] theorem State.setMem_forms (s : State) (h : Home) (m : Memory) : (s.setMem h m).forms = s.forms := by cases h <;> rfl
@[simp] theorem State.setMem_blocks (s : State) (h : Home) (m : Memory) : (s.setMem h m).blocks = s.blocks := by cases h <;> rfl
@[simp] theorem State.setMem_kap (s : State) (h : Home) (m : Memory) : (s.setMem h m).kap = s.kap := by cases h <;> rfl
@[simp] theorem State.setMem_amd (s : State) (h : Home) (m : Memory) : (s.setMem h m).amd = s.amd := by cases h <;> rfl
@[simp] theorem State.setMem_wsK (s : State) (h : Home) (m : Memory) : (s.setMem h m).wsK = s.wsK := by cases h <;> rfl
@[simp] theorem State.setMem_wsA (s : State) (h : Home) (m : Memory) : (s.setMem h m).wsA = s.wsA := by cases h <;> rfl
@[simp] theorem State.setMem_ctxs (s : State) (h : Home) (m : Memory) : (s.setMem h m).ctxs = s.ctxs := by cases h <;> rfl
@[simp] theorem State.setMem_queues (s : State) (h : Home) (m : Memory) : (s.setMem h m).queues = s.queues := by cases h <;> rfl
@[simp] theorem State.setMem_mq (s : State) (h : Home) (m : Memory) : (s.setMem h m).mq = s.mq := by cases h <;> rfl
@[simp] theorem State.setMem_svc (s : State) (h : Home) (m : Memory) : (s.setMem h m).svc = s.svc := by cases h <;> rfl
@[simp] theorem State.setMem_launches (s : State) (h : Home) (m : Memory) : (s.setMem h m).launches = s.launches := by cases h <;> rfl
@[simp] theorem State.setMem_saved (s : State) (h : Home) (m : Memory) : (s.setMem h m).saved = s.saved := by cases h <;> rfl
@[simp] theorem State.setMem_snaps (s : State) (h : Home) (m : Memory) : (s.setMem h m).snaps = s.snaps := by cases h <;> rfl
@[simp] theorem State.setMem_retained (s : State) (h : Home) (m : Memory) : (s.setMem h m).retained = s.retained := by cases h <;> rfl
@[simp] theorem State.setMem_moves (s : State) (h : Home) (m : Memory) : (s.setMem h m).moves = s.moves := by cases h <;> rfl
@[simp] theorem State.setMem_ticketCtr (s : State) (h : Home) (m : Memory) : (s.setMem h m).ticketCtr = s.ticketCtr := by cases h <;> rfl
@[simp] theorem State.setMem_launchCtr (s : State) (h : Home) (m : Memory) : (s.setMem h m).launchCtr = s.launchCtr := by cases h <;> rfl
@[simp] theorem State.setMem_jobCtr (s : State) (h : Home) (m : Memory) : (s.setMem h m).jobCtr = s.jobCtr := by cases h <;> rfl
@[simp] theorem State.setMem_savedCtr (s : State) (h : Home) (m : Memory) : (s.setMem h m).savedCtr = s.savedCtr := by cases h <;> rfl
@[simp] theorem State.setMem_ageCtr (s : State) (h : Home) (m : Memory) : (s.setMem h m).ageCtr = s.ageCtr := by cases h <;> rfl
@[simp] theorem State.setMem_hostGd (s : State) (h : Home) (m : Memory) : (s.setMem h m).hostGd = s.hostGd := by cases h <;> rfl
@[simp] theorem State.setMem_hostHeld (s : State) (h : Home) (m : Memory) : (s.setMem h m).hostHeld = s.hostHeld := by cases h <;> rfl
@[simp] theorem State.setMem_settling (s : State) (h : Home) (m : Memory) : (s.setMem h m).settling = s.settling := by cases h <;> rfl
@[simp] theorem State.setMem_hostWidth (s : State) (h : Home) (m : Memory) : (s.setMem h m).hostWidth = s.hostWidth := by cases h <;> rfl
@[simp] theorem State.setMem_hostSpeed (s : State) (h : Home) (m : Memory) : (s.setMem h m).hostSpeed = s.hostSpeed := by cases h <;> rfl
@[simp] theorem State.setMem_hostDownAt (s : State) (h : Home) (m : Memory) : (s.setMem h m).hostDownAt = s.hostDownAt := by cases h <;> rfl
@[simp] theorem State.setMem_hostEnds (s : State) (h : Home) (m : Memory) : (s.setMem h m).hostEnds = s.hostEnds := by cases h <;> rfl
@[simp] theorem State.setMem_cable (s : State) (h : Home) (m : Memory) : (s.setMem h m).cable = s.cable := by cases h <;> rfl
@[simp] theorem State.setMem_fwWaits (s : State) (h : Home) (m : Memory) : (s.setMem h m).fwWaits = s.fwWaits := by cases h <;> rfl
@[simp] theorem State.setMem_flaws (s : State) (h : Home) (m : Memory) : (s.setMem h m).flaws = s.flaws := by cases h <;> rfl
@[simp] theorem State.setMem_ptmAt (s : State) (h : Home) (m : Memory) : (s.setMem h m).ptmAt = s.ptmAt := by cases h <;> rfl
@[simp] theorem State.setMem_hostGp (s : State) (h : Home) (m : Memory) : (s.setMem h m).hostGp = s.hostGp := by cases h <;> rfl
@[simp] theorem State.setMem_link (s : State) (h : Home) (m : Memory) : (s.setMem h m).link = s.link := by cases h <;> rfl
@[simp] theorem State.setMem_linkAt (s : State) (h : Home) (m : Memory) : (s.setMem h m).linkAt = s.linkAt := by cases h <;> rfl
@[simp] theorem State.setMem_linkWidth (s : State) (h : Home) (m : Memory) : (s.setMem h m).linkWidth = s.linkWidth := by cases h <;> rfl
@[simp] theorem State.setMem_linkSpeed (s : State) (h : Home) (m : Memory) : (s.setMem h m).linkSpeed = s.linkSpeed := by cases h <;> rfl
@[simp] theorem State.setMem_hostUp (s : State) (h : Home) (m : Memory) : (s.setMem h m).hostUp = s.hostUp := by cases h <;> rfl
@[simp] theorem State.setMem_pairState (s : State) (h : Home) (m : Memory) : (s.setMem h m).pairState = s.pairState := by cases h <;> rfl
@[simp] theorem State.setMem_pairResult (s : State) (h : Home) (m : Memory) : (s.setMem h m).pairResult = s.pairResult := by cases h <;> rfl
@[simp] theorem State.setMem_undockReq (s : State) (h : Home) (m : Memory) : (s.setMem h m).undockReq = s.undockReq := by cases h <;> rfl
@[simp] theorem State.setMem_amdHash (s : State) (h : Home) (m : Memory) : (s.setMem h m).amdHash = s.amdHash := by cases h <;> rfl
@[simp] theorem State.setMem_amdSvn (s : State) (h : Home) (m : Memory) : (s.setMem h m).amdSvn = s.amdSvn := by cases h <;> rfl
@[simp] theorem State.setMem_amdSlot (s : State) (h : Home) (m : Memory) : (s.setMem h m).amdSlot = s.amdSlot := by cases h <;> rfl
@[simp] theorem State.setMem_amdPub (s : State) (h : Home) (m : Memory) : (s.setMem h m).amdPub = s.amdPub := by cases h <;> rfl
@[simp] theorem State.setMem_mqdesc (s : State) (h : Home) (m : Memory) : (s.setMem h m).mqdesc = s.mqdesc := by cases h <;> rfl
@[simp] theorem State.setMem_mqctl (s : State) (h : Home) (m : Memory) : (s.setMem h m).mqctl = s.mqctl := by cases h <;> rfl
@[simp] theorem State.setMem_mqstatus (s : State) (h : Home) (m : Memory) : (s.setMem h m).mqstatus = s.mqstatus := by cases h <;> rfl
@[simp] theorem State.setMem_mqwptr (s : State) (h : Home) (m : Memory) : (s.setMem h m).mqwptr = s.mqwptr := by cases h <;> rfl
@[simp] theorem State.setMem_mqcrptr (s : State) (h : Home) (m : Memory) : (s.setMem h m).mqcrptr = s.mqcrptr := by cases h <;> rfl
@[simp] theorem State.setMem_fwctl (s : State) (h : Home) (m : Memory) : (s.setMem h m).fwctl = s.fwctl := by cases h <;> rfl
@[simp] theorem State.setMem_fwcmd (s : State) (h : Home) (m : Memory) : (s.setMem h m).fwcmd = s.fwcmd := by cases h <;> rfl
@[simp] theorem State.setMem_fwNonce (s : State) (h : Home) (m : Memory) : (s.setMem h m).fwNonce = s.fwNonce := by cases h <;> rfl
@[simp] theorem State.setMem_attctl (s : State) (h : Home) (m : Memory) : (s.setMem h m).attctl = s.attctl := by cases h <;> rfl
@[simp] theorem State.setMem_attNonce (s : State) (h : Home) (m : Memory) : (s.setMem h m).attNonce = s.attNonce := by cases h <;> rfl
@[simp] theorem State.setMem_report (s : State) (h : Home) (m : Memory) : (s.setMem h m).report = s.report := by cases h <;> rfl
@[simp] theorem State.setMem_sig (s : State) (h : Home) (m : Memory) : (s.setMem h m).sig = s.sig := by cases h <;> rfl
@[simp] theorem State.setMem_repseq (s : State) (h : Home) (m : Memory) : (s.setMem h m).repseq = s.repseq := by cases h <;> rfl
@[simp] theorem State.setMem_head0 (s : State) (h : Home) (m : Memory) : (s.setMem h m).head0 = s.head0 := by cases h <;> rfl
@[simp] theorem State.setMem_head1 (s : State) (h : Home) (m : Memory) : (s.setMem h m).head1 = s.head1 := by cases h <;> rfl

/-! ## Fields after a parison has been replaced -/

@[simp] theorem State.setPar_agenda (s : State) (p : ParId) (r : Parison) : (s.setPar p r).agenda = s.agenda := rfl
@[simp] theorem State.setPar_cur (s : State) (p : ParId) (r : Parison) : (s.setPar p r).cur = s.cur := rfl
@[simp] theorem State.setPar_nsteps (s : State) (p : ParId) (r : Parison) : (s.setPar p r).nsteps = s.nsteps := rfl
@[simp] theorem State.setPar_freeCtr (s : State) (p : ParId) (r : Parison) : (s.setPar p r).freeCtr = s.freeCtr := rfl
@[simp] theorem State.setPar_opCtr (s : State) (p : ParId) (r : Parison) : (s.setPar p r).opCtr = s.opCtr := rfl
@[simp] theorem State.setPar_log (s : State) (p : ParId) (r : Parison) : (s.setPar p r).log = s.log := rfl
@[simp] theorem State.setPar_waves (s : State) (p : ParId) (r : Parison) : (s.setPar p r).waves = s.waves := rfl
@[simp] theorem State.setPar_forms (s : State) (p : ParId) (r : Parison) : (s.setPar p r).forms = s.forms := rfl
@[simp] theorem State.setPar_blocks (s : State) (p : ParId) (r : Parison) : (s.setPar p r).blocks = s.blocks := rfl
@[simp] theorem State.setPar_kap (s : State) (p : ParId) (r : Parison) : (s.setPar p r).kap = s.kap := rfl
@[simp] theorem State.setPar_amd (s : State) (p : ParId) (r : Parison) : (s.setPar p r).amd = s.amd := rfl
@[simp] theorem State.setPar_memK (s : State) (p : ParId) (r : Parison) : (s.setPar p r).memK = s.memK := rfl
@[simp] theorem State.setPar_memA (s : State) (p : ParId) (r : Parison) : (s.setPar p r).memA = s.memA := rfl
@[simp] theorem State.setPar_memH (s : State) (p : ParId) (r : Parison) : (s.setPar p r).memH = s.memH := rfl
@[simp] theorem State.setPar_wsK (s : State) (p : ParId) (r : Parison) : (s.setPar p r).wsK = s.wsK := rfl
@[simp] theorem State.setPar_wsA (s : State) (p : ParId) (r : Parison) : (s.setPar p r).wsA = s.wsA := rfl
@[simp] theorem State.setPar_ctxs (s : State) (p : ParId) (r : Parison) : (s.setPar p r).ctxs = s.ctxs := rfl
@[simp] theorem State.setPar_queues (s : State) (p : ParId) (r : Parison) : (s.setPar p r).queues = s.queues := rfl
@[simp] theorem State.setPar_mq (s : State) (p : ParId) (r : Parison) : (s.setPar p r).mq = s.mq := rfl
@[simp] theorem State.setPar_svc (s : State) (p : ParId) (r : Parison) : (s.setPar p r).svc = s.svc := rfl
@[simp] theorem State.setPar_launches (s : State) (p : ParId) (r : Parison) : (s.setPar p r).launches = s.launches := rfl
@[simp] theorem State.setPar_saved (s : State) (p : ParId) (r : Parison) : (s.setPar p r).saved = s.saved := rfl
@[simp] theorem State.setPar_snaps (s : State) (p : ParId) (r : Parison) : (s.setPar p r).snaps = s.snaps := rfl
@[simp] theorem State.setPar_retained (s : State) (p : ParId) (r : Parison) : (s.setPar p r).retained = s.retained := rfl
@[simp] theorem State.setPar_moves (s : State) (p : ParId) (r : Parison) : (s.setPar p r).moves = s.moves := rfl
@[simp] theorem State.setPar_ticketCtr (s : State) (p : ParId) (r : Parison) : (s.setPar p r).ticketCtr = s.ticketCtr := rfl
@[simp] theorem State.setPar_launchCtr (s : State) (p : ParId) (r : Parison) : (s.setPar p r).launchCtr = s.launchCtr := rfl
@[simp] theorem State.setPar_jobCtr (s : State) (p : ParId) (r : Parison) : (s.setPar p r).jobCtr = s.jobCtr := rfl
@[simp] theorem State.setPar_savedCtr (s : State) (p : ParId) (r : Parison) : (s.setPar p r).savedCtr = s.savedCtr := rfl
@[simp] theorem State.setPar_ageCtr (s : State) (p : ParId) (r : Parison) : (s.setPar p r).ageCtr = s.ageCtr := rfl
@[simp] theorem State.setPar_hostGd (s : State) (p : ParId) (r : Parison) : (s.setPar p r).hostGd = s.hostGd := rfl
@[simp] theorem State.setPar_hostHeld (s : State) (p : ParId) (r : Parison) : (s.setPar p r).hostHeld = s.hostHeld := rfl
@[simp] theorem State.setPar_settling (s : State) (p : ParId) (r : Parison) : (s.setPar p r).settling = s.settling := rfl
@[simp] theorem State.setPar_hostWidth (s : State) (p : ParId) (r : Parison) : (s.setPar p r).hostWidth = s.hostWidth := rfl
@[simp] theorem State.setPar_hostSpeed (s : State) (p : ParId) (r : Parison) : (s.setPar p r).hostSpeed = s.hostSpeed := rfl
@[simp] theorem State.setPar_hostDownAt (s : State) (p : ParId) (r : Parison) : (s.setPar p r).hostDownAt = s.hostDownAt := rfl
@[simp] theorem State.setPar_hostEnds (s : State) (p : ParId) (r : Parison) : (s.setPar p r).hostEnds = s.hostEnds := rfl
@[simp] theorem State.setPar_cable (s : State) (p : ParId) (r : Parison) : (s.setPar p r).cable = s.cable := rfl
@[simp] theorem State.setPar_fwWaits (s : State) (p : ParId) (r : Parison) : (s.setPar p r).fwWaits = s.fwWaits := rfl
@[simp] theorem State.setPar_flaws (s : State) (p : ParId) (r : Parison) : (s.setPar p r).flaws = s.flaws := rfl
@[simp] theorem State.setPar_ptmAt (s : State) (p : ParId) (r : Parison) : (s.setPar p r).ptmAt = s.ptmAt := rfl
@[simp] theorem State.setPar_hostGp (s : State) (p : ParId) (r : Parison) : (s.setPar p r).hostGp = s.hostGp := rfl
@[simp] theorem State.setPar_link (s : State) (p : ParId) (r : Parison) : (s.setPar p r).link = s.link := rfl
@[simp] theorem State.setPar_linkAt (s : State) (p : ParId) (r : Parison) : (s.setPar p r).linkAt = s.linkAt := rfl
@[simp] theorem State.setPar_linkWidth (s : State) (p : ParId) (r : Parison) : (s.setPar p r).linkWidth = s.linkWidth := rfl
@[simp] theorem State.setPar_linkSpeed (s : State) (p : ParId) (r : Parison) : (s.setPar p r).linkSpeed = s.linkSpeed := rfl
@[simp] theorem State.setPar_hostUp (s : State) (p : ParId) (r : Parison) : (s.setPar p r).hostUp = s.hostUp := rfl
@[simp] theorem State.setPar_pairState (s : State) (p : ParId) (r : Parison) : (s.setPar p r).pairState = s.pairState := rfl
@[simp] theorem State.setPar_pairResult (s : State) (p : ParId) (r : Parison) : (s.setPar p r).pairResult = s.pairResult := rfl
@[simp] theorem State.setPar_undockReq (s : State) (p : ParId) (r : Parison) : (s.setPar p r).undockReq = s.undockReq := rfl
@[simp] theorem State.setPar_amdHash (s : State) (p : ParId) (r : Parison) : (s.setPar p r).amdHash = s.amdHash := rfl
@[simp] theorem State.setPar_amdSvn (s : State) (p : ParId) (r : Parison) : (s.setPar p r).amdSvn = s.amdSvn := rfl
@[simp] theorem State.setPar_amdSlot (s : State) (p : ParId) (r : Parison) : (s.setPar p r).amdSlot = s.amdSlot := rfl
@[simp] theorem State.setPar_amdPub (s : State) (p : ParId) (r : Parison) : (s.setPar p r).amdPub = s.amdPub := rfl
@[simp] theorem State.setPar_mqdesc (s : State) (p : ParId) (r : Parison) : (s.setPar p r).mqdesc = s.mqdesc := rfl
@[simp] theorem State.setPar_mqctl (s : State) (p : ParId) (r : Parison) : (s.setPar p r).mqctl = s.mqctl := rfl
@[simp] theorem State.setPar_mqstatus (s : State) (p : ParId) (r : Parison) : (s.setPar p r).mqstatus = s.mqstatus := rfl
@[simp] theorem State.setPar_mqwptr (s : State) (p : ParId) (r : Parison) : (s.setPar p r).mqwptr = s.mqwptr := rfl
@[simp] theorem State.setPar_mqcrptr (s : State) (p : ParId) (r : Parison) : (s.setPar p r).mqcrptr = s.mqcrptr := rfl
@[simp] theorem State.setPar_fwctl (s : State) (p : ParId) (r : Parison) : (s.setPar p r).fwctl = s.fwctl := rfl
@[simp] theorem State.setPar_fwcmd (s : State) (p : ParId) (r : Parison) : (s.setPar p r).fwcmd = s.fwcmd := rfl
@[simp] theorem State.setPar_fwNonce (s : State) (p : ParId) (r : Parison) : (s.setPar p r).fwNonce = s.fwNonce := rfl
@[simp] theorem State.setPar_attctl (s : State) (p : ParId) (r : Parison) : (s.setPar p r).attctl = s.attctl := rfl
@[simp] theorem State.setPar_attNonce (s : State) (p : ParId) (r : Parison) : (s.setPar p r).attNonce = s.attNonce := rfl
@[simp] theorem State.setPar_report (s : State) (p : ParId) (r : Parison) : (s.setPar p r).report = s.report := rfl
@[simp] theorem State.setPar_sig (s : State) (p : ParId) (r : Parison) : (s.setPar p r).sig = s.sig := rfl
@[simp] theorem State.setPar_repseq (s : State) (p : ParId) (r : Parison) : (s.setPar p r).repseq = s.repseq := rfl
@[simp] theorem State.setPar_head0 (s : State) (p : ParId) (r : Parison) : (s.setPar p r).head0 = s.head0 := rfl
@[simp] theorem State.setPar_head1 (s : State) (p : ParId) (r : Parison) : (s.setPar p r).head1 = s.head1 := rfl

/-! ## Fields after a block has been replaced -/

@[simp] theorem State.putBlock_agenda (s : State) (b : BlockRef) (x : Block) : (s.putBlock b x).agenda = s.agenda := rfl
@[simp] theorem State.putBlock_cur (s : State) (b : BlockRef) (x : Block) : (s.putBlock b x).cur = s.cur := rfl
@[simp] theorem State.putBlock_nsteps (s : State) (b : BlockRef) (x : Block) : (s.putBlock b x).nsteps = s.nsteps := rfl
@[simp] theorem State.putBlock_freeCtr (s : State) (b : BlockRef) (x : Block) : (s.putBlock b x).freeCtr = s.freeCtr := rfl
@[simp] theorem State.putBlock_opCtr (s : State) (b : BlockRef) (x : Block) : (s.putBlock b x).opCtr = s.opCtr := rfl
@[simp] theorem State.putBlock_log (s : State) (b : BlockRef) (x : Block) : (s.putBlock b x).log = s.log := rfl
@[simp] theorem State.putBlock_waves (s : State) (b : BlockRef) (x : Block) : (s.putBlock b x).waves = s.waves := rfl
@[simp] theorem State.putBlock_pars (s : State) (b : BlockRef) (x : Block) : (s.putBlock b x).pars = s.pars := rfl
@[simp] theorem State.putBlock_forms (s : State) (b : BlockRef) (x : Block) : (s.putBlock b x).forms = s.forms := rfl
@[simp] theorem State.putBlock_kap (s : State) (b : BlockRef) (x : Block) : (s.putBlock b x).kap = s.kap := rfl
@[simp] theorem State.putBlock_amd (s : State) (b : BlockRef) (x : Block) : (s.putBlock b x).amd = s.amd := rfl
@[simp] theorem State.putBlock_memK (s : State) (b : BlockRef) (x : Block) : (s.putBlock b x).memK = s.memK := rfl
@[simp] theorem State.putBlock_memA (s : State) (b : BlockRef) (x : Block) : (s.putBlock b x).memA = s.memA := rfl
@[simp] theorem State.putBlock_memH (s : State) (b : BlockRef) (x : Block) : (s.putBlock b x).memH = s.memH := rfl
@[simp] theorem State.putBlock_wsK (s : State) (b : BlockRef) (x : Block) : (s.putBlock b x).wsK = s.wsK := rfl
@[simp] theorem State.putBlock_wsA (s : State) (b : BlockRef) (x : Block) : (s.putBlock b x).wsA = s.wsA := rfl
@[simp] theorem State.putBlock_ctxs (s : State) (b : BlockRef) (x : Block) : (s.putBlock b x).ctxs = s.ctxs := rfl
@[simp] theorem State.putBlock_queues (s : State) (b : BlockRef) (x : Block) : (s.putBlock b x).queues = s.queues := rfl
@[simp] theorem State.putBlock_mq (s : State) (b : BlockRef) (x : Block) : (s.putBlock b x).mq = s.mq := rfl
@[simp] theorem State.putBlock_svc (s : State) (b : BlockRef) (x : Block) : (s.putBlock b x).svc = s.svc := rfl
@[simp] theorem State.putBlock_launches (s : State) (b : BlockRef) (x : Block) : (s.putBlock b x).launches = s.launches := rfl
@[simp] theorem State.putBlock_saved (s : State) (b : BlockRef) (x : Block) : (s.putBlock b x).saved = s.saved := rfl
@[simp] theorem State.putBlock_snaps (s : State) (b : BlockRef) (x : Block) : (s.putBlock b x).snaps = s.snaps := rfl
@[simp] theorem State.putBlock_retained (s : State) (b : BlockRef) (x : Block) : (s.putBlock b x).retained = s.retained := rfl
@[simp] theorem State.putBlock_moves (s : State) (b : BlockRef) (x : Block) : (s.putBlock b x).moves = s.moves := rfl
@[simp] theorem State.putBlock_ticketCtr (s : State) (b : BlockRef) (x : Block) : (s.putBlock b x).ticketCtr = s.ticketCtr := rfl
@[simp] theorem State.putBlock_launchCtr (s : State) (b : BlockRef) (x : Block) : (s.putBlock b x).launchCtr = s.launchCtr := rfl
@[simp] theorem State.putBlock_jobCtr (s : State) (b : BlockRef) (x : Block) : (s.putBlock b x).jobCtr = s.jobCtr := rfl
@[simp] theorem State.putBlock_savedCtr (s : State) (b : BlockRef) (x : Block) : (s.putBlock b x).savedCtr = s.savedCtr := rfl
@[simp] theorem State.putBlock_ageCtr (s : State) (b : BlockRef) (x : Block) : (s.putBlock b x).ageCtr = s.ageCtr := rfl
@[simp] theorem State.putBlock_hostGd (s : State) (b : BlockRef) (x : Block) : (s.putBlock b x).hostGd = s.hostGd := rfl
@[simp] theorem State.putBlock_hostHeld (s : State) (b : BlockRef) (x : Block) : (s.putBlock b x).hostHeld = s.hostHeld := rfl
@[simp] theorem State.putBlock_settling (s : State) (b : BlockRef) (x : Block) : (s.putBlock b x).settling = s.settling := rfl
@[simp] theorem State.putBlock_hostWidth (s : State) (b : BlockRef) (x : Block) : (s.putBlock b x).hostWidth = s.hostWidth := rfl
@[simp] theorem State.putBlock_hostSpeed (s : State) (b : BlockRef) (x : Block) : (s.putBlock b x).hostSpeed = s.hostSpeed := rfl
@[simp] theorem State.putBlock_hostDownAt (s : State) (b : BlockRef) (x : Block) : (s.putBlock b x).hostDownAt = s.hostDownAt := rfl
@[simp] theorem State.putBlock_hostEnds (s : State) (b : BlockRef) (x : Block) : (s.putBlock b x).hostEnds = s.hostEnds := rfl
@[simp] theorem State.putBlock_cable (s : State) (b : BlockRef) (x : Block) : (s.putBlock b x).cable = s.cable := rfl
@[simp] theorem State.putBlock_fwWaits (s : State) (b : BlockRef) (x : Block) : (s.putBlock b x).fwWaits = s.fwWaits := rfl
@[simp] theorem State.putBlock_flaws (s : State) (b : BlockRef) (x : Block) : (s.putBlock b x).flaws = s.flaws := rfl
@[simp] theorem State.putBlock_ptmAt (s : State) (b : BlockRef) (x : Block) : (s.putBlock b x).ptmAt = s.ptmAt := rfl
@[simp] theorem State.putBlock_hostGp (s : State) (b : BlockRef) (x : Block) : (s.putBlock b x).hostGp = s.hostGp := rfl
@[simp] theorem State.putBlock_link (s : State) (b : BlockRef) (x : Block) : (s.putBlock b x).link = s.link := rfl
@[simp] theorem State.putBlock_linkAt (s : State) (b : BlockRef) (x : Block) : (s.putBlock b x).linkAt = s.linkAt := rfl
@[simp] theorem State.putBlock_linkWidth (s : State) (b : BlockRef) (x : Block) : (s.putBlock b x).linkWidth = s.linkWidth := rfl
@[simp] theorem State.putBlock_linkSpeed (s : State) (b : BlockRef) (x : Block) : (s.putBlock b x).linkSpeed = s.linkSpeed := rfl
@[simp] theorem State.putBlock_hostUp (s : State) (b : BlockRef) (x : Block) : (s.putBlock b x).hostUp = s.hostUp := rfl
@[simp] theorem State.putBlock_pairState (s : State) (b : BlockRef) (x : Block) : (s.putBlock b x).pairState = s.pairState := rfl
@[simp] theorem State.putBlock_pairResult (s : State) (b : BlockRef) (x : Block) : (s.putBlock b x).pairResult = s.pairResult := rfl
@[simp] theorem State.putBlock_undockReq (s : State) (b : BlockRef) (x : Block) : (s.putBlock b x).undockReq = s.undockReq := rfl
@[simp] theorem State.putBlock_amdHash (s : State) (b : BlockRef) (x : Block) : (s.putBlock b x).amdHash = s.amdHash := rfl
@[simp] theorem State.putBlock_amdSvn (s : State) (b : BlockRef) (x : Block) : (s.putBlock b x).amdSvn = s.amdSvn := rfl
@[simp] theorem State.putBlock_amdSlot (s : State) (b : BlockRef) (x : Block) : (s.putBlock b x).amdSlot = s.amdSlot := rfl
@[simp] theorem State.putBlock_amdPub (s : State) (b : BlockRef) (x : Block) : (s.putBlock b x).amdPub = s.amdPub := rfl
@[simp] theorem State.putBlock_mqdesc (s : State) (b : BlockRef) (x : Block) : (s.putBlock b x).mqdesc = s.mqdesc := rfl
@[simp] theorem State.putBlock_mqctl (s : State) (b : BlockRef) (x : Block) : (s.putBlock b x).mqctl = s.mqctl := rfl
@[simp] theorem State.putBlock_mqstatus (s : State) (b : BlockRef) (x : Block) : (s.putBlock b x).mqstatus = s.mqstatus := rfl
@[simp] theorem State.putBlock_mqwptr (s : State) (b : BlockRef) (x : Block) : (s.putBlock b x).mqwptr = s.mqwptr := rfl
@[simp] theorem State.putBlock_mqcrptr (s : State) (b : BlockRef) (x : Block) : (s.putBlock b x).mqcrptr = s.mqcrptr := rfl
@[simp] theorem State.putBlock_fwctl (s : State) (b : BlockRef) (x : Block) : (s.putBlock b x).fwctl = s.fwctl := rfl
@[simp] theorem State.putBlock_fwcmd (s : State) (b : BlockRef) (x : Block) : (s.putBlock b x).fwcmd = s.fwcmd := rfl
@[simp] theorem State.putBlock_fwNonce (s : State) (b : BlockRef) (x : Block) : (s.putBlock b x).fwNonce = s.fwNonce := rfl
@[simp] theorem State.putBlock_attctl (s : State) (b : BlockRef) (x : Block) : (s.putBlock b x).attctl = s.attctl := rfl
@[simp] theorem State.putBlock_attNonce (s : State) (b : BlockRef) (x : Block) : (s.putBlock b x).attNonce = s.attNonce := rfl
@[simp] theorem State.putBlock_report (s : State) (b : BlockRef) (x : Block) : (s.putBlock b x).report = s.report := rfl
@[simp] theorem State.putBlock_sig (s : State) (b : BlockRef) (x : Block) : (s.putBlock b x).sig = s.sig := rfl
@[simp] theorem State.putBlock_repseq (s : State) (b : BlockRef) (x : Block) : (s.putBlock b x).repseq = s.repseq := rfl
@[simp] theorem State.putBlock_head0 (s : State) (b : BlockRef) (x : Block) : (s.putBlock b x).head0 = s.head0 := rfl
@[simp] theorem State.putBlock_head1 (s : State) (b : BlockRef) (x : Block) : (s.putBlock b x).head1 = s.head1 := rfl

/-! ## Fields after a context has been replaced -/

@[simp] theorem State.putCtx_agenda (s : State) (c : Context) : (s.putCtx c).agenda = s.agenda := rfl
@[simp] theorem State.putCtx_cur (s : State) (c : Context) : (s.putCtx c).cur = s.cur := rfl
@[simp] theorem State.putCtx_nsteps (s : State) (c : Context) : (s.putCtx c).nsteps = s.nsteps := rfl
@[simp] theorem State.putCtx_freeCtr (s : State) (c : Context) : (s.putCtx c).freeCtr = s.freeCtr := rfl
@[simp] theorem State.putCtx_opCtr (s : State) (c : Context) : (s.putCtx c).opCtr = s.opCtr := rfl
@[simp] theorem State.putCtx_log (s : State) (c : Context) : (s.putCtx c).log = s.log := rfl
@[simp] theorem State.putCtx_waves (s : State) (c : Context) : (s.putCtx c).waves = s.waves := rfl
@[simp] theorem State.putCtx_pars (s : State) (c : Context) : (s.putCtx c).pars = s.pars := rfl
@[simp] theorem State.putCtx_forms (s : State) (c : Context) : (s.putCtx c).forms = s.forms := rfl
@[simp] theorem State.putCtx_blocks (s : State) (c : Context) : (s.putCtx c).blocks = s.blocks := rfl
@[simp] theorem State.putCtx_kap (s : State) (c : Context) : (s.putCtx c).kap = s.kap := rfl
@[simp] theorem State.putCtx_amd (s : State) (c : Context) : (s.putCtx c).amd = s.amd := rfl
@[simp] theorem State.putCtx_memK (s : State) (c : Context) : (s.putCtx c).memK = s.memK := rfl
@[simp] theorem State.putCtx_memA (s : State) (c : Context) : (s.putCtx c).memA = s.memA := rfl
@[simp] theorem State.putCtx_memH (s : State) (c : Context) : (s.putCtx c).memH = s.memH := rfl
@[simp] theorem State.putCtx_wsK (s : State) (c : Context) : (s.putCtx c).wsK = s.wsK := rfl
@[simp] theorem State.putCtx_wsA (s : State) (c : Context) : (s.putCtx c).wsA = s.wsA := rfl
@[simp] theorem State.putCtx_queues (s : State) (c : Context) : (s.putCtx c).queues = s.queues := rfl
@[simp] theorem State.putCtx_mq (s : State) (c : Context) : (s.putCtx c).mq = s.mq := rfl
@[simp] theorem State.putCtx_svc (s : State) (c : Context) : (s.putCtx c).svc = s.svc := rfl
@[simp] theorem State.putCtx_launches (s : State) (c : Context) : (s.putCtx c).launches = s.launches := rfl
@[simp] theorem State.putCtx_saved (s : State) (c : Context) : (s.putCtx c).saved = s.saved := rfl
@[simp] theorem State.putCtx_snaps (s : State) (c : Context) : (s.putCtx c).snaps = s.snaps := rfl
@[simp] theorem State.putCtx_retained (s : State) (c : Context) : (s.putCtx c).retained = s.retained := rfl
@[simp] theorem State.putCtx_moves (s : State) (c : Context) : (s.putCtx c).moves = s.moves := rfl
@[simp] theorem State.putCtx_ticketCtr (s : State) (c : Context) : (s.putCtx c).ticketCtr = s.ticketCtr := rfl
@[simp] theorem State.putCtx_launchCtr (s : State) (c : Context) : (s.putCtx c).launchCtr = s.launchCtr := rfl
@[simp] theorem State.putCtx_jobCtr (s : State) (c : Context) : (s.putCtx c).jobCtr = s.jobCtr := rfl
@[simp] theorem State.putCtx_savedCtr (s : State) (c : Context) : (s.putCtx c).savedCtr = s.savedCtr := rfl
@[simp] theorem State.putCtx_ageCtr (s : State) (c : Context) : (s.putCtx c).ageCtr = s.ageCtr := rfl
@[simp] theorem State.putCtx_hostGd (s : State) (c : Context) : (s.putCtx c).hostGd = s.hostGd := rfl
@[simp] theorem State.putCtx_hostHeld (s : State) (c : Context) : (s.putCtx c).hostHeld = s.hostHeld := rfl
@[simp] theorem State.putCtx_settling (s : State) (c : Context) : (s.putCtx c).settling = s.settling := rfl
@[simp] theorem State.putCtx_hostWidth (s : State) (c : Context) : (s.putCtx c).hostWidth = s.hostWidth := rfl
@[simp] theorem State.putCtx_hostSpeed (s : State) (c : Context) : (s.putCtx c).hostSpeed = s.hostSpeed := rfl
@[simp] theorem State.putCtx_hostDownAt (s : State) (c : Context) : (s.putCtx c).hostDownAt = s.hostDownAt := rfl
@[simp] theorem State.putCtx_hostEnds (s : State) (c : Context) : (s.putCtx c).hostEnds = s.hostEnds := rfl
@[simp] theorem State.putCtx_cable (s : State) (c : Context) : (s.putCtx c).cable = s.cable := rfl
@[simp] theorem State.putCtx_fwWaits (s : State) (c : Context) : (s.putCtx c).fwWaits = s.fwWaits := rfl
@[simp] theorem State.putCtx_flaws (s : State) (c : Context) : (s.putCtx c).flaws = s.flaws := rfl
@[simp] theorem State.putCtx_ptmAt (s : State) (c : Context) : (s.putCtx c).ptmAt = s.ptmAt := rfl
@[simp] theorem State.putCtx_hostGp (s : State) (c : Context) : (s.putCtx c).hostGp = s.hostGp := rfl
@[simp] theorem State.putCtx_link (s : State) (c : Context) : (s.putCtx c).link = s.link := rfl
@[simp] theorem State.putCtx_linkAt (s : State) (c : Context) : (s.putCtx c).linkAt = s.linkAt := rfl
@[simp] theorem State.putCtx_linkWidth (s : State) (c : Context) : (s.putCtx c).linkWidth = s.linkWidth := rfl
@[simp] theorem State.putCtx_linkSpeed (s : State) (c : Context) : (s.putCtx c).linkSpeed = s.linkSpeed := rfl
@[simp] theorem State.putCtx_hostUp (s : State) (c : Context) : (s.putCtx c).hostUp = s.hostUp := rfl
@[simp] theorem State.putCtx_pairState (s : State) (c : Context) : (s.putCtx c).pairState = s.pairState := rfl
@[simp] theorem State.putCtx_pairResult (s : State) (c : Context) : (s.putCtx c).pairResult = s.pairResult := rfl
@[simp] theorem State.putCtx_undockReq (s : State) (c : Context) : (s.putCtx c).undockReq = s.undockReq := rfl
@[simp] theorem State.putCtx_amdHash (s : State) (c : Context) : (s.putCtx c).amdHash = s.amdHash := rfl
@[simp] theorem State.putCtx_amdSvn (s : State) (c : Context) : (s.putCtx c).amdSvn = s.amdSvn := rfl
@[simp] theorem State.putCtx_amdSlot (s : State) (c : Context) : (s.putCtx c).amdSlot = s.amdSlot := rfl
@[simp] theorem State.putCtx_amdPub (s : State) (c : Context) : (s.putCtx c).amdPub = s.amdPub := rfl
@[simp] theorem State.putCtx_mqdesc (s : State) (c : Context) : (s.putCtx c).mqdesc = s.mqdesc := rfl
@[simp] theorem State.putCtx_mqctl (s : State) (c : Context) : (s.putCtx c).mqctl = s.mqctl := rfl
@[simp] theorem State.putCtx_mqstatus (s : State) (c : Context) : (s.putCtx c).mqstatus = s.mqstatus := rfl
@[simp] theorem State.putCtx_mqwptr (s : State) (c : Context) : (s.putCtx c).mqwptr = s.mqwptr := rfl
@[simp] theorem State.putCtx_mqcrptr (s : State) (c : Context) : (s.putCtx c).mqcrptr = s.mqcrptr := rfl
@[simp] theorem State.putCtx_fwctl (s : State) (c : Context) : (s.putCtx c).fwctl = s.fwctl := rfl
@[simp] theorem State.putCtx_fwcmd (s : State) (c : Context) : (s.putCtx c).fwcmd = s.fwcmd := rfl
@[simp] theorem State.putCtx_fwNonce (s : State) (c : Context) : (s.putCtx c).fwNonce = s.fwNonce := rfl
@[simp] theorem State.putCtx_attctl (s : State) (c : Context) : (s.putCtx c).attctl = s.attctl := rfl
@[simp] theorem State.putCtx_attNonce (s : State) (c : Context) : (s.putCtx c).attNonce = s.attNonce := rfl
@[simp] theorem State.putCtx_report (s : State) (c : Context) : (s.putCtx c).report = s.report := rfl
@[simp] theorem State.putCtx_sig (s : State) (c : Context) : (s.putCtx c).sig = s.sig := rfl
@[simp] theorem State.putCtx_repseq (s : State) (c : Context) : (s.putCtx c).repseq = s.repseq := rfl
@[simp] theorem State.putCtx_head0 (s : State) (c : Context) : (s.putCtx c).head0 = s.head0 := rfl
@[simp] theorem State.putCtx_head1 (s : State) (c : Context) : (s.putCtx c).head1 = s.head1 := rfl

/-! ## Fields after a wave of a core has been replaced -/

@[simp] theorem State.setWave_agenda (s : State) (id : WaveId) (k : Nat) (w : Wave) : (s.setWave (.wave id k) w).agenda = s.agenda := rfl
@[simp] theorem State.setWave_cur (s : State) (id : WaveId) (k : Nat) (w : Wave) : (s.setWave (.wave id k) w).cur = s.cur := rfl
@[simp] theorem State.setWave_nsteps (s : State) (id : WaveId) (k : Nat) (w : Wave) : (s.setWave (.wave id k) w).nsteps = s.nsteps := rfl
@[simp] theorem State.setWave_freeCtr (s : State) (id : WaveId) (k : Nat) (w : Wave) : (s.setWave (.wave id k) w).freeCtr = s.freeCtr := rfl
@[simp] theorem State.setWave_opCtr (s : State) (id : WaveId) (k : Nat) (w : Wave) : (s.setWave (.wave id k) w).opCtr = s.opCtr := rfl
@[simp] theorem State.setWave_log (s : State) (id : WaveId) (k : Nat) (w : Wave) : (s.setWave (.wave id k) w).log = s.log := rfl
@[simp] theorem State.setWave_pars (s : State) (id : WaveId) (k : Nat) (w : Wave) : (s.setWave (.wave id k) w).pars = s.pars := rfl
@[simp] theorem State.setWave_forms (s : State) (id : WaveId) (k : Nat) (w : Wave) : (s.setWave (.wave id k) w).forms = s.forms := rfl
@[simp] theorem State.setWave_blocks (s : State) (id : WaveId) (k : Nat) (w : Wave) : (s.setWave (.wave id k) w).blocks = s.blocks := rfl
@[simp] theorem State.setWave_kap (s : State) (id : WaveId) (k : Nat) (w : Wave) : (s.setWave (.wave id k) w).kap = s.kap := rfl
@[simp] theorem State.setWave_amd (s : State) (id : WaveId) (k : Nat) (w : Wave) : (s.setWave (.wave id k) w).amd = s.amd := rfl
@[simp] theorem State.setWave_memK (s : State) (id : WaveId) (k : Nat) (w : Wave) : (s.setWave (.wave id k) w).memK = s.memK := rfl
@[simp] theorem State.setWave_memA (s : State) (id : WaveId) (k : Nat) (w : Wave) : (s.setWave (.wave id k) w).memA = s.memA := rfl
@[simp] theorem State.setWave_memH (s : State) (id : WaveId) (k : Nat) (w : Wave) : (s.setWave (.wave id k) w).memH = s.memH := rfl
@[simp] theorem State.setWave_wsK (s : State) (id : WaveId) (k : Nat) (w : Wave) : (s.setWave (.wave id k) w).wsK = s.wsK := rfl
@[simp] theorem State.setWave_wsA (s : State) (id : WaveId) (k : Nat) (w : Wave) : (s.setWave (.wave id k) w).wsA = s.wsA := rfl
@[simp] theorem State.setWave_ctxs (s : State) (id : WaveId) (k : Nat) (w : Wave) : (s.setWave (.wave id k) w).ctxs = s.ctxs := rfl
@[simp] theorem State.setWave_queues (s : State) (id : WaveId) (k : Nat) (w : Wave) : (s.setWave (.wave id k) w).queues = s.queues := rfl
@[simp] theorem State.setWave_mq (s : State) (id : WaveId) (k : Nat) (w : Wave) : (s.setWave (.wave id k) w).mq = s.mq := rfl
@[simp] theorem State.setWave_svc (s : State) (id : WaveId) (k : Nat) (w : Wave) : (s.setWave (.wave id k) w).svc = s.svc := rfl
@[simp] theorem State.setWave_launches (s : State) (id : WaveId) (k : Nat) (w : Wave) : (s.setWave (.wave id k) w).launches = s.launches := rfl
@[simp] theorem State.setWave_saved (s : State) (id : WaveId) (k : Nat) (w : Wave) : (s.setWave (.wave id k) w).saved = s.saved := rfl
@[simp] theorem State.setWave_snaps (s : State) (id : WaveId) (k : Nat) (w : Wave) : (s.setWave (.wave id k) w).snaps = s.snaps := rfl
@[simp] theorem State.setWave_retained (s : State) (id : WaveId) (k : Nat) (w : Wave) : (s.setWave (.wave id k) w).retained = s.retained := rfl
@[simp] theorem State.setWave_moves (s : State) (id : WaveId) (k : Nat) (w : Wave) : (s.setWave (.wave id k) w).moves = s.moves := rfl
@[simp] theorem State.setWave_ticketCtr (s : State) (id : WaveId) (k : Nat) (w : Wave) : (s.setWave (.wave id k) w).ticketCtr = s.ticketCtr := rfl
@[simp] theorem State.setWave_launchCtr (s : State) (id : WaveId) (k : Nat) (w : Wave) : (s.setWave (.wave id k) w).launchCtr = s.launchCtr := rfl
@[simp] theorem State.setWave_jobCtr (s : State) (id : WaveId) (k : Nat) (w : Wave) : (s.setWave (.wave id k) w).jobCtr = s.jobCtr := rfl
@[simp] theorem State.setWave_savedCtr (s : State) (id : WaveId) (k : Nat) (w : Wave) : (s.setWave (.wave id k) w).savedCtr = s.savedCtr := rfl
@[simp] theorem State.setWave_ageCtr (s : State) (id : WaveId) (k : Nat) (w : Wave) : (s.setWave (.wave id k) w).ageCtr = s.ageCtr := rfl
@[simp] theorem State.setWave_hostGd (s : State) (id : WaveId) (k : Nat) (w : Wave) : (s.setWave (.wave id k) w).hostGd = s.hostGd := rfl
@[simp] theorem State.setWave_hostHeld (s : State) (id : WaveId) (k : Nat) (w : Wave) : (s.setWave (.wave id k) w).hostHeld = s.hostHeld := rfl
@[simp] theorem State.setWave_settling (s : State) (id : WaveId) (k : Nat) (w : Wave) : (s.setWave (.wave id k) w).settling = s.settling := rfl
@[simp] theorem State.setWave_hostWidth (s : State) (id : WaveId) (k : Nat) (w : Wave) : (s.setWave (.wave id k) w).hostWidth = s.hostWidth := rfl
@[simp] theorem State.setWave_hostSpeed (s : State) (id : WaveId) (k : Nat) (w : Wave) : (s.setWave (.wave id k) w).hostSpeed = s.hostSpeed := rfl
@[simp] theorem State.setWave_hostDownAt (s : State) (id : WaveId) (k : Nat) (w : Wave) : (s.setWave (.wave id k) w).hostDownAt = s.hostDownAt := rfl
@[simp] theorem State.setWave_hostEnds (s : State) (id : WaveId) (k : Nat) (w : Wave) : (s.setWave (.wave id k) w).hostEnds = s.hostEnds := rfl
@[simp] theorem State.setWave_cable (s : State) (id : WaveId) (k : Nat) (w : Wave) : (s.setWave (.wave id k) w).cable = s.cable := rfl
@[simp] theorem State.setWave_fwWaits (s : State) (id : WaveId) (k : Nat) (w : Wave) : (s.setWave (.wave id k) w).fwWaits = s.fwWaits := rfl
@[simp] theorem State.setWave_flaws (s : State) (id : WaveId) (k : Nat) (w : Wave) : (s.setWave (.wave id k) w).flaws = s.flaws := rfl
@[simp] theorem State.setWave_ptmAt (s : State) (id : WaveId) (k : Nat) (w : Wave) : (s.setWave (.wave id k) w).ptmAt = s.ptmAt := rfl
@[simp] theorem State.setWave_hostGp (s : State) (id : WaveId) (k : Nat) (w : Wave) : (s.setWave (.wave id k) w).hostGp = s.hostGp := rfl
@[simp] theorem State.setWave_link (s : State) (id : WaveId) (k : Nat) (w : Wave) : (s.setWave (.wave id k) w).link = s.link := rfl
@[simp] theorem State.setWave_linkAt (s : State) (id : WaveId) (k : Nat) (w : Wave) : (s.setWave (.wave id k) w).linkAt = s.linkAt := rfl
@[simp] theorem State.setWave_linkWidth (s : State) (id : WaveId) (k : Nat) (w : Wave) : (s.setWave (.wave id k) w).linkWidth = s.linkWidth := rfl
@[simp] theorem State.setWave_linkSpeed (s : State) (id : WaveId) (k : Nat) (w : Wave) : (s.setWave (.wave id k) w).linkSpeed = s.linkSpeed := rfl
@[simp] theorem State.setWave_hostUp (s : State) (id : WaveId) (k : Nat) (w : Wave) : (s.setWave (.wave id k) w).hostUp = s.hostUp := rfl
@[simp] theorem State.setWave_pairState (s : State) (id : WaveId) (k : Nat) (w : Wave) : (s.setWave (.wave id k) w).pairState = s.pairState := rfl
@[simp] theorem State.setWave_pairResult (s : State) (id : WaveId) (k : Nat) (w : Wave) : (s.setWave (.wave id k) w).pairResult = s.pairResult := rfl
@[simp] theorem State.setWave_undockReq (s : State) (id : WaveId) (k : Nat) (w : Wave) : (s.setWave (.wave id k) w).undockReq = s.undockReq := rfl
@[simp] theorem State.setWave_amdHash (s : State) (id : WaveId) (k : Nat) (w : Wave) : (s.setWave (.wave id k) w).amdHash = s.amdHash := rfl
@[simp] theorem State.setWave_amdSvn (s : State) (id : WaveId) (k : Nat) (w : Wave) : (s.setWave (.wave id k) w).amdSvn = s.amdSvn := rfl
@[simp] theorem State.setWave_amdSlot (s : State) (id : WaveId) (k : Nat) (w : Wave) : (s.setWave (.wave id k) w).amdSlot = s.amdSlot := rfl
@[simp] theorem State.setWave_amdPub (s : State) (id : WaveId) (k : Nat) (w : Wave) : (s.setWave (.wave id k) w).amdPub = s.amdPub := rfl
@[simp] theorem State.setWave_mqdesc (s : State) (id : WaveId) (k : Nat) (w : Wave) : (s.setWave (.wave id k) w).mqdesc = s.mqdesc := rfl
@[simp] theorem State.setWave_mqctl (s : State) (id : WaveId) (k : Nat) (w : Wave) : (s.setWave (.wave id k) w).mqctl = s.mqctl := rfl
@[simp] theorem State.setWave_mqstatus (s : State) (id : WaveId) (k : Nat) (w : Wave) : (s.setWave (.wave id k) w).mqstatus = s.mqstatus := rfl
@[simp] theorem State.setWave_mqwptr (s : State) (id : WaveId) (k : Nat) (w : Wave) : (s.setWave (.wave id k) w).mqwptr = s.mqwptr := rfl
@[simp] theorem State.setWave_mqcrptr (s : State) (id : WaveId) (k : Nat) (w : Wave) : (s.setWave (.wave id k) w).mqcrptr = s.mqcrptr := rfl
@[simp] theorem State.setWave_fwctl (s : State) (id : WaveId) (k : Nat) (w : Wave) : (s.setWave (.wave id k) w).fwctl = s.fwctl := rfl
@[simp] theorem State.setWave_fwcmd (s : State) (id : WaveId) (k : Nat) (w : Wave) : (s.setWave (.wave id k) w).fwcmd = s.fwcmd := rfl
@[simp] theorem State.setWave_fwNonce (s : State) (id : WaveId) (k : Nat) (w : Wave) : (s.setWave (.wave id k) w).fwNonce = s.fwNonce := rfl
@[simp] theorem State.setWave_attctl (s : State) (id : WaveId) (k : Nat) (w : Wave) : (s.setWave (.wave id k) w).attctl = s.attctl := rfl
@[simp] theorem State.setWave_attNonce (s : State) (id : WaveId) (k : Nat) (w : Wave) : (s.setWave (.wave id k) w).attNonce = s.attNonce := rfl
@[simp] theorem State.setWave_report (s : State) (id : WaveId) (k : Nat) (w : Wave) : (s.setWave (.wave id k) w).report = s.report := rfl
@[simp] theorem State.setWave_sig (s : State) (id : WaveId) (k : Nat) (w : Wave) : (s.setWave (.wave id k) w).sig = s.sig := rfl
@[simp] theorem State.setWave_repseq (s : State) (id : WaveId) (k : Nat) (w : Wave) : (s.setWave (.wave id k) w).repseq = s.repseq := rfl
@[simp] theorem State.setWave_head0 (s : State) (id : WaveId) (k : Nat) (w : Wave) : (s.setWave (.wave id k) w).head0 = s.head0 := rfl
@[simp] theorem State.setWave_head1 (s : State) (id : WaveId) (k : Nat) (w : Wave) : (s.setWave (.wave id k) w).head1 = s.head1 := rfl

end Sys2Proof.Machine
end

