-- ==== Sys2Proof/Laws/Lanes.lean ====
section
/-! SUPPORT. What writing, releasing and computing lanes leaves of a wave. -/

namespace Sys2Proof.Machine

/-! ## Names -/

/-- What a name holds in a lane depends on nothing of the wave but its live lanes, its items and what the name is bound to. -/
theorem Wave.lane_congr {w v : Wave} (ff : List (Nat × Aff)) {n m : Nat} (l : Nat) (hl : v.live = w.live) (hi : v.item = w.item)
    (hm : nth v.vmap m .undef = nth w.vmap n .undef) : v.lane ff m l = w.lane ff n l := by
  unfold Wave.lane; rw [hl, hm, hi]

/-- A name written in some lanes holds there what was written, and in the other live lanes what it held. -/
theorem Wave.lane_write_self (w : Wave) (ff : List (Nat × Aff)) {n : Nat} (m : Word) (f : Nat → Word) {l : Nat} (hn : n < w.vmap.length)
    (hl : l < 32) (hv : w.live.getLsbD l = true) :
    (w.write ff n m f).lane ff n l = if m.getLsbD l then f l else w.lane ff n l := by
  unfold Wave.write
  by_cases h0 : m = 0
  · simp [h0]
  · rw [if_neg h0]
    unfold Wave.lane
    rw [if_neg (by simp [hv])]
    simp only [nth_set_self hn, nth_perLane _ hl]

/-- Another name holds what it held. -/
theorem Wave.lane_write_ne (w : Wave) (ff : List (Nat × Aff)) {n k : Nat} (m : Word) (f : Nat → Word) (l : Nat) (h : k ≠ n) :
    (w.write ff n m f).lane ff k l = w.lane ff k l := by
  unfold Wave.write
  split
  · rfl
  · exact Wave.lane_congr ff l rfl rfl (nth_set_ne h _ _ _)

/-- A write of a name changes nothing of a wave but its rename map. -/
theorem Wave.write_rest (w : Wave) (ff : List (Nat × Aff)) (n : Nat) (m : Word) (f : Nat → Word) :
    ({ w.write ff n m f with vmap := w.vmap } : Wave) = w := by
  unfold Wave.write; split <;> rfl

/-- A write keeps the length of the rename map. -/
@[simp] theorem Wave.length_vmap_write (w : Wave) (ff : List (Nat × Aff)) (n : Nat) (m : Word) (f : Nat → Word) :
    (w.write ff n m f).vmap.length = w.vmap.length := by
  unfold Wave.write; split <;> simp

/-- A released name is UNDEF, and the others are bound as before. -/
theorem Wave.vmap_release (w : Wave) (ns : List Nat) (n : Nat) :
    nth (w.release ns).vmap n .undef = if n ∈ ns then .undef else nth w.vmap n .undef := nth_foldl_set _ _ _ _

/-- Names that are not released hold what they held. -/
theorem Wave.lane_release_ne (w : Wave) (ff : List (Nat × Aff)) {ns : List Nat} {n : Nat} (l : Nat) (h : n ∉ ns) :
    (w.release ns).lane ff n l = w.lane ff n l :=
  Wave.lane_congr ff l rfl rfl (by rw [Wave.vmap_release, if_neg h])

/-- A release keeps the length of the rename map. -/
@[simp] theorem Wave.length_vmap_release (w : Wave) (ns : List Nat) : (w.release ns).vmap.length = w.vmap.length := by
  have : ∀ (ns : List Nat) (v : List VBind), (ns.foldl (fun v n => v.set n VBind.undef) v).length = v.length := by
    intro ns; induction ns with
    | nil => intro v; rfl
    | cons a t ih => intro v; rw [List.foldl_cons, ih]; simp
  exact this ns w.vmap

/-! ## Destinations -/

/-- Writing the destinations changes nothing of a wave but its rename map, whose length it keeps. -/
theorem Wave.writeDst_rest (ff : List (Nat × Aff)) (m : Word) (out : List LaneOut) : ∀ (ns : List Nat) (k : Nat) (w : Wave),
    ∃ v, w.writeDst ff m out ns k = { w with vmap := v } ∧ v.length = w.vmap.length := by
  intro ns
  induction ns with
  | nil => intro k w; exact ⟨w.vmap, rfl, rfl⟩
  | cons n t ih =>
    intro k w
    unfold Wave.writeDst
    dsimp only
    obtain ⟨v, h, hv⟩ := ih (k + 1) (w.write ff n (maskOf fun l => m.getLsbD l && decide (k < (nth out l {}).words.length))
      fun l => nth (nth out l {}).words k 0)
    refine ⟨v, h.trans ?_, hv.trans (by simp)⟩
    unfold Wave.write; split <;> rfl

/-- A name that is no destination holds what it held. -/
theorem Wave.lane_writeDst_ne (ff : List (Nat × Aff)) (m : Word) (out : List LaneOut) : ∀ (ns : List Nat) (k : Nat) (w : Wave) (n l : Nat),
    n ∉ ns → (w.writeDst ff m out ns k).lane ff n l = w.lane ff n l := by
  intro ns
  induction ns with
  | nil => intros; rfl
  | cons a t ih =>
    intro k w n l h
    unfold Wave.writeDst
    dsimp only
    rw [ih _ _ _ _ (by simp_all), Wave.lane_write_ne _ _ _ _ _ (by simp_all)]

/-- The `j`-th destination holds, in the lanes written that have such a word, that word, and elsewhere what it held. -/
theorem Wave.lane_writeDst (ff : List (Nat × Aff)) (m : Word) (out : List LaneOut) : ∀ (ns : List Nat) (k : Nat) (w : Wave) (j n l : Nat),
    ns.Nodup → ns[j]? = some n → n < w.vmap.length → l < 32 → w.live.getLsbD l = true →
    (w.writeDst ff m out ns k).lane ff n l =
      if m.getLsbD l && decide (k + j < (nth out l {}).words.length) then nth (nth out l {}).words (k + j) 0 else w.lane ff n l := by
  intro ns
  induction ns with
  | nil => intro k w j n l _ h; simp at h
  | cons a t ih =>
    intro k w j n l hd hj hn hl hv
    unfold Wave.writeDst
    dsimp only
    obtain ⟨ha, ht⟩ := List.nodup_cons.1 hd
    cases j with
    | zero =>
      obtain rfl : a = n := by simpa using hj
      rw [Wave.lane_writeDst_ne _ _ _ _ _ _ _ _ ha, Wave.lane_write_self _ _ _ _ hn hl hv]
      simp only [getLsbD_maskOf, hl, decide_true, Bool.true_and, Nat.add_zero]
    | succ j =>
      have hj' : t[j]? = some n := by simpa using hj
      have hne : n ≠ a := by rintro rfl; exact ha (List.mem_of_getElem? hj')
      rw [ih _ _ j n l ht hj' (by simpa using hn) hl (by unfold Wave.write; split <;> exact hv),
        Wave.lane_write_ne _ _ _ _ _ hne]
      simp only [show k + 1 + j = k + (j + 1) by omega]

/-! ## Predicates -/

/-- A predicate written in some lanes holds there what was written, and elsewhere what it held. -/
theorem Wave.preds_writePred_self (w : Wave) {n : Nat} (m : Word) (f : Nat → Bool) {l : Nat} (hn : n < w.preds.length) (hl : l < 32) :
    (nth (w.writePred n m f).preds n 0).getLsbD l = if m.getLsbD l then f l else (nth w.preds n 0).getLsbD l := by
  unfold Wave.writePred
  simp only [nth_set_self hn, getLsbD_maskOf, hl, decide_true, Bool.true_and]

/-- Another predicate is as it was. -/
theorem Wave.preds_writePred_ne (w : Wave) {n k : Nat} (m : Word) (f : Nat → Bool) (h : k ≠ n) :
    nth (w.writePred n m f).preds k 0 = nth w.preds k 0 := nth_set_ne h _ _ _

/-- Writing predicates changes nothing else of a wave. -/
theorem Wave.writePreds_rest (m : Word) (out : List LaneOut) : ∀ (ns : List Nat) (w : Wave),
    ∃ p, w.writePreds m out ns = { w with preds := p } ∧ p.length = w.preds.length := by
  intro ns
  induction ns with
  | nil => intro w; exact ⟨w.preds, rfl, rfl⟩
  | cons n t ih =>
    intro w
    unfold Wave.writePreds
    dsimp only
    obtain ⟨p, h, hp⟩ := ih (w.writePred n (maskOf fun l => m.getLsbD l && (look n (nth out l {}).preds).isSome)
      fun l => (look n (nth out l {}).preds).getD false)
    exact ⟨p, h, hp.trans (by simp [Wave.writePred])⟩

/-- A predicate that is not written is as it was. -/
theorem Wave.preds_writePreds_ne (m : Word) (out : List LaneOut) : ∀ (ns : List Nat) (w : Wave) (n : Nat), n ∉ ns →
    nth (w.writePreds m out ns).preds n 0 = nth w.preds n 0 := by
  intro ns
  induction ns with
  | nil => intros; rfl
  | cons a t ih =>
    intro w n h
    unfold Wave.writePreds
    dsimp only
    rw [ih _ _ (by simp_all), Wave.preds_writePred_ne _ _ _ (by simp_all)]

/-- A predicate that is written holds, in the lanes that write it, what they write, and elsewhere what it held. -/
theorem Wave.preds_writePreds (m : Word) (out : List LaneOut) : ∀ (ns : List Nat) (w : Wave) (n l : Nat), n < w.preds.length → l < 32 →
    n ∈ ns → (nth (w.writePreds m out ns).preds n 0).getLsbD l =
      ((if m.getLsbD l then look n (nth out l {}).preds else none).getD ((nth w.preds n 0).getLsbD l)) := by
  intro ns
  induction ns with
  | nil => intro w n l _ _ h; simp at h
  | cons a t ih =>
    intro w n l hn hl h
    unfold Wave.writePreds
    dsimp only
    by_cases ht : n ∈ t
    · rw [ih _ n l (by simpa [Wave.writePred] using hn) hl ht]
      by_cases e : n = a
      · subst e
        rw [Wave.preds_writePred_self _ _ _ hn hl, getLsbD_maskOf]
        cases m.getLsbD l <;> cases look n (nth out l {}).preds <;> simp only [hl] <;> rfl
      · rw [Wave.preds_writePred_ne _ _ _ e]
    · obtain rfl : n = a := by simp_all
      rw [Wave.preds_writePreds_ne _ _ _ _ _ ht, Wave.preds_writePred_self _ _ _ hn hl, getLsbD_maskOf]
      cases m.getLsbD l <;> cases look n (nth out l {}).preds <;> simp only [hl] <;> rfl

/-- A predicate that some lane writes is among those written. -/
theorem mem_predsWritten {m : Word} {out : List LaneOut} {n l : Nat} (hl : l < 32) (hm : m.getLsbD l = true)
    (h : (look n (nth out l {}).preds).isSome = true) : n ∈ predsWritten m out := by
  obtain ⟨b, hb⟩ := Option.isSome_iff_exists.1 h
  have hd : ∀ (l : List Nat) (x : Nat), x ∈ l → x ∈ dedup l := by
    intro l; induction l with
    | nil => intro x h; exact h
    | cons a t ih =>
      intro x hx
      unfold dedup
      by_cases e : x = a
      · simp [e]
      · simp [e, ih x (by simp_all)]
  apply hd
  simp only [List.mem_flatMap, List.mem_map]
  exact ⟨l, mem_lanesOf.2 ⟨hl, hm⟩, (n, b), mem_of_look hb, rfl⟩

/-! ## The result of a vector instruction -/

/-- Each lane's outputs. -/
theorem nth_outputs (w : Wave) (ff : List (Nat × Aff)) (f : Form) (fn : VFn) (ex : Word) {l : Nat} (hl : l < 32) :
    nth (outputs w ff f fn ex) l {} =
      if ex.getLsbD l then fn (fun k => nth (perLane fun l => w.operands ff f l) k {}) ex (ex &&& ~~~w.helper) l else {} := by
  unfold outputs; rw [nth_perLane _ hl]

/-- A vector instruction changes nothing of its wave but the rename map and the predicates. -/
theorem vecResult_rest (w : Wave) (ff : List (Nat × Aff)) (f : Form) (fn : VFn) (ex : Word) :
    ∃ v p, vecResult w ff f fn ex = { w with vmap := v, preds := p } ∧ v.length = w.vmap.length ∧ p.length = w.preds.length := by
  unfold vecResult
  dsimp only
  obtain ⟨v, h1, hv⟩ := Wave.writeDst_rest ff ex (outputs w ff f fn ex) f.vwrites 0 (w.release f.lastReads)
  rw [h1]
  obtain ⟨p, h2, hp⟩ := Wave.writePreds_rest ex (outputs w ff f fn ex) (predsWritten ex (outputs w ff f fn ex))
    { w.release f.lastReads with vmap := v }
  exact ⟨v, p, h2, hv.trans (by simp), hp⟩

/-- The rename map of a vector instruction's result reads as after its destinations have been written. -/
theorem vecResult_lane (w : Wave) (ff : List (Nat × Aff)) (f : Form) (fn : VFn) (ex : Word) (n l : Nat) :
    (vecResult w ff f fn ex).lane ff n l = ((w.release f.lastReads).writeDst ff ex (outputs w ff f fn ex) f.vwrites 0).lane ff n l := by
  unfold vecResult
  dsimp only
  obtain ⟨p, h2, _⟩ := Wave.writePreds_rest ex (outputs w ff f fn ex) (predsWritten ex (outputs w ff f fn ex))
    ((w.release f.lastReads).writeDst ff ex (outputs w ff f fn ex) f.vwrites 0)
  rw [h2]; rfl

/-- The predicates of a vector instruction's result. -/
theorem vecResult_preds (w : Wave) (ff : List (Nat × Aff)) (f : Form) (fn : VFn) (ex : Word) {n l : Nat} (hn : n < w.preds.length)
    (hl : l < 32) : (nth (vecResult w ff f fn ex).preds n 0).getLsbD l =
      ((if ex.getLsbD l then look n (nth (outputs w ff f fn ex) l {}).preds else none).getD ((nth w.preds n 0).getLsbD l)) := by
  unfold vecResult
  dsimp only
  obtain ⟨v, h1, _⟩ := Wave.writeDst_rest ff ex (outputs w ff f fn ex) f.vwrites 0 (w.release f.lastReads)
  rw [h1]
  by_cases hm : n ∈ predsWritten ex (outputs w ff f fn ex)
  · exact Wave.preds_writePreds _ _ _ _ _ _ hn hl hm
  · rw [Wave.preds_writePreds_ne _ _ _ _ _ hm]
    cases hx : ex.getLsbD l with
    | false => rfl
    | true =>
      cases ho : look n (nth (outputs w ff f fn ex) l {}).preds with
      | none => rfl
      | some b => exact absurd (mem_predsWritten hl hx (by simp [ho])) hm

end Sys2Proof.Machine
end

