-- ==== Sys2Proof/Laws/Memory.lean ====
section
/-! SUPPORT. Memory: a read after a write, and that every memory operation keeps the one canonical form. -/

namespace Sys2Proof.Machine

/-! ## The canonical form -/

/-- A memory whose addresses rise above a bound also stands above any lower one. -/
theorem Memory.wfFrom_mono {m : Memory} {lo lo' : Option Nat} (h : Memory.wfFrom lo m = true)
    (hl : ∀ l', lo' = some l' → ∃ l, lo = some l ∧ l' ≤ l) : Memory.wfFrom lo' m = true := by
  cases m with
  | nil => rfl
  | cons c t =>
    obtain ⟨k, x⟩ := c
    unfold Memory.wfFrom at h ⊢
    cases lo' with
    | none => simp at h ⊢; exact ⟨h.1.2, h.2⟩
    | some l' =>
      obtain ⟨l, rfl, hle⟩ := hl l' rfl
      simp at h ⊢
      exact ⟨⟨by omega, h.1.2⟩, h.2⟩

/-- Every address of a canonical memory above a bound is above it. -/
theorem Memory.lt_of_wfFrom {m : Memory} : ∀ {l : Nat}, Memory.wfFrom (some l) m = true → ∀ c ∈ m, l < c.1 := by
  induction m with
  | nil => simp
  | cons c t ih =>
    intro l h c' hc'
    obtain ⟨k, x⟩ := c
    unfold Memory.wfFrom at h
    simp at h
    rcases List.mem_cons.1 hc' with rfl | hc'
    · exact h.1.1
    · have := ih h.2 c' hc'; omega

/-- Taking cells out of a canonical memory leaves it canonical. -/
theorem Memory.wfFrom_filter {m : Memory} (p : Host.Cell → Bool) : ∀ {lo : Option Nat}, Memory.wfFrom lo m = true →
    Memory.wfFrom lo (m.filter p) = true := by
  induction m with
  | nil => intros; rfl
  | cons c t ih =>
    intro lo h
    obtain ⟨k, x⟩ := c
    unfold Memory.wfFrom at h
    rw [Bool.and_eq_true, Bool.and_eq_true] at h
    by_cases hp : p (k, x) = true
    · rw [List.filter_cons_of_pos hp]
      unfold Memory.wfFrom
      rw [Bool.and_eq_true, Bool.and_eq_true]
      exact ⟨h.1, ih h.2⟩
    · rw [List.filter_cons_of_neg (by simpa using hp)]
      apply ih
      apply Memory.wfFrom_mono h.2
      rintro l' rfl
      refine ⟨k, rfl, ?_⟩
      have := h.1.1
      simp at this; omega

/-- A cell put in its place keeps the canonical form, above any bound that it keeps to. -/
theorem Memory.wfFrom_insert {m : Memory} {a : Nat} {b : Byte} (hb : b ≠ Memory.fill) : ∀ {lo : Option Nat},
    Memory.wfFrom lo m = true → (∀ c ∈ m, c.1 ≠ a) → (∀ l, lo = some l → l < a) → Memory.wfFrom lo (m.insert a b) = true := by
  induction m with
  | nil => intro lo _ _ hl; unfold Memory.insert Memory.wfFrom; cases lo <;> simp_all [Memory.wfFrom]
  | cons c t ih =>
    intro lo h hm hl
    obtain ⟨k, x⟩ := c
    unfold Memory.insert
    split
    · rename_i hlt
      have h' := h
      unfold Memory.wfFrom at h'
      simp only [Bool.and_eq_true, decide_eq_true_eq] at h'
      unfold Memory.wfFrom
      simp only [Bool.and_eq_true, decide_eq_true_eq]
      refine ⟨⟨?_, hb⟩, ?_⟩
      · cases lo with
        | none => rfl
        | some l => simpa using hl l rfl
      · unfold Memory.wfFrom
        simp only [Bool.and_eq_true, decide_eq_true_eq]
        exact ⟨⟨hlt, h'.1.2⟩, h'.2⟩
    · rename_i hlt
      have hne : k ≠ a := hm (k, x) (by simp)
      unfold Memory.wfFrom at h ⊢
      simp only [Bool.and_eq_true, decide_eq_true_eq] at h ⊢
      refine ⟨h.1, ih h.2 (fun c hc => hm c (by simp [hc])) ?_⟩
      rintro l h2; cases h2; omega

/-- A write keeps the canonical form. -/
theorem Memory.wf_write {m : Memory} (h : m.wf = true) (a : Nat) (b : Byte) : (Memory.write m a b).wf = true := by
  unfold Memory.write
  have hf : Memory.wfFrom none (m.filter fun c => c.1 != a) = true := Memory.wfFrom_filter _ h
  dsimp only
  split
  · exact hf
  · exact Memory.wfFrom_insert ‹_› hf (fun c hc => by simpa using (List.mem_filter.1 hc).2) (by simp)

/-- A write of several bytes keeps the canonical form. -/
theorem Memory.wf_writeN (bs : List Byte) : ∀ {m : Memory} (a : Nat), m.wf = true → (Memory.writeN m a bs).wf = true := by
  induction bs with
  | nil => intro m a h; exact h
  | cons b t ih => intro m a h; exact ih _ (Memory.wf_write h _ _)

/-- Clearing keeps the canonical form. -/
theorem Memory.wf_clear {m : Memory} (h : m.wf = true) (a n : Nat) : (Memory.clear m a n).wf = true :=
  Memory.wfFrom_filter _ h

/-- A copy of cells keeps the canonical form. -/
theorem Memory.wf_copyIn (cs : List Host.Cell) (a b : Nat) : ∀ {m : Memory}, m.wf = true → (Memory.copyIn m cs a b).wf = true := by
  induction cs with
  | nil => intro m h; exact h
  | cons c t ih => intro m h; exact ih (Memory.wf_write h _ _)

/-! ## Reading what was written -/

/-- A cell found among those that remain after an address is taken out. -/
theorem Memory.look_filter_ne {m : Memory} {a x : Nat} (h : x ≠ a) : look x (m.filter fun c => c.1 != a) = look x m := by
  induction m with
  | nil => rfl
  | cons c t ih =>
    obtain ⟨k, v⟩ := c
    by_cases e : k = a
    · subst e; simp [look, Ne.symm h, ih]
    · simp [e, look, ih]

/-- An address that was taken out is not found. -/
theorem Memory.look_filter_self (m : Memory) (a : Nat) : look a (m.filter fun c => c.1 != a) = none := by
  induction m with
  | nil => rfl
  | cons c t ih =>
    obtain ⟨k, v⟩ := c
    by_cases e : k = a
    · simp [e, ih]
    · simp [e, look, ih]

/-- A cell put in its place is found, where its address was not listed. -/
theorem Memory.look_insert_self {m : Memory} {a : Nat} (b : Byte) (h : look a m = none) : look a (m.insert a b) = some b := by
  induction m with
  | nil => simp [Memory.insert, look]
  | cons c t ih =>
    obtain ⟨k, v⟩ := c
    by_cases e : k = a
    · simp [look, e] at h
    · have h' : look a t = none := by simpa [look, e] using h
      unfold Memory.insert; split
      · simp [look]
      · simp [look, e, ih h']

/-- Another address is found as before. -/
theorem Memory.look_insert_ne {m : Memory} {a x : Nat} (b : Byte) (h : x ≠ a) : look x (m.insert a b) = look x m := by
  induction m with
  | nil => simp [Memory.insert, look, Ne.symm h]
  | cons c t ih =>
    obtain ⟨k, v⟩ := c
    unfold Memory.insert; split
    · simp [look, Ne.symm h]
    · simp [look, ih]

/-- A written byte is read back. -/
@[simp] theorem Memory.read_write_self (m : Memory) (a : Nat) (b : Byte) : Memory.read (Memory.write m a b) a = b := by
  unfold Memory.read Memory.write
  dsimp only
  split
  · rw [Memory.look_filter_self]; simp_all
  · rw [Memory.look_insert_self b (Memory.look_filter_self m a)]; rfl

/-- A write leaves every other byte. -/
theorem Memory.read_write_ne (m : Memory) {a x : Nat} (b : Byte) (h : x ≠ a) :
    Memory.read (Memory.write m a b) x = Memory.read m x := by
  unfold Memory.read Memory.write
  dsimp only
  split
  · rw [Memory.look_filter_ne h]
  · rw [Memory.look_insert_ne b h, Memory.look_filter_ne h]

/-- A write of several bytes leaves every byte outside them. -/
theorem Memory.read_writeN_out (bs : List Byte) : ∀ (m : Memory) (a x : Nat), x < a ∨ a + bs.length ≤ x →
    Memory.read (Memory.writeN m a bs) x = Memory.read m x := by
  induction bs with
  | nil => intros; rfl
  | cons b t ih =>
    intro m a x h
    rw [List.length_cons] at h
    show Memory.read (Memory.writeN (Memory.write m a b) (a + 1) t) x = _
    rw [ih _ _ _ (by omega), Memory.read_write_ne _ _ (by omega)]

/-- Each of several bytes written is read back. -/
theorem Memory.read_writeN_in (bs : List Byte) : ∀ (m : Memory) (a k : Nat), k < bs.length →
    Memory.read (Memory.writeN m a bs) (a + k) = nth bs k 0 := by
  induction bs with
  | nil => intro m a k h; simp at h
  | cons b t ih =>
    intro m a k h
    show Memory.read (Memory.writeN (Memory.write m a b) (a + 1) t) (a + k) = _
    cases k with
    | zero => rw [Memory.read_writeN_out _ _ _ _ (by omega)]; simp
    | succ k => rw [show a + (k + 1) = (a + 1) + k by omega, ih _ _ _ (by simpa using h)]; rfl

/-- A cleared region reads as the unlisted byte, and everything else as before. -/
theorem Memory.read_clear (m : Memory) (a n x : Nat) :
    Memory.read (Memory.clear m a n) x = if a ≤ x ∧ x < a + n then Memory.fill else Memory.read m x := by
  unfold Memory.read Memory.clear
  induction m with
  | nil => simp
  | cons c t ih =>
    obtain ⟨k, v⟩ := c
    by_cases hk : a ≤ k ∧ k < a + n
    · have : (!(decide (a ≤ (k, v).1) && decide ((k, v).1 < a + n))) = false := by simp [hk.1, hk.2]
      rw [List.filter_cons_of_neg (by simp [hk.1, hk.2]), ih]
      split
      · rfl
      · have : k ≠ x := by rintro rfl; contradiction
        simp [look, this]
    · rw [List.filter_cons_of_pos (by simp; omega)]
      by_cases e : k = x
      · subst e; simp [look, hk]
      · simp only [look, e, if_false]; exact ih

end Sys2Proof.Machine
end

