-- ==== Sys2Proof/Laws/Run.lean ====
section
/-! SUPPORT. What the shared running of an instruction does: once its gate is open it is its effect. -/

namespace Sys2Proof.Machine

/-- A wave's instruction whose gate is open answers its effect, in the state in which a combiner's step has been counted. -/
theorem runInstr_wave {s : State} {i : Instr} {a : AgentId} {w : Wave} {sp : Split} (h : Runs s i a w sp) (e : Effect) :
    runInstr i.form e s = .next (e.wave (s.counted a w sp) a w sp) := by
  obtain ⟨hc, ha, hg, hl, hf⟩ := h
  have hon : (s.countStep (.wave a w sp)).2 = true := by
    cases a <;> simp only [State.countStep]
    rename_i r
    have : ¬ 256 ≤ (s.crucible r).steps := by simpa [State.stepsLeft] using hl
    simp [this]
  simp [runInstr, State.actor, hc, ha, hg, hon, State.counted, State.softAt, hf]

/-- A parison's instruction whose gate is open answers its effect. -/
theorem runInstr_par {s : State} {i : Instr} {p : ParId} {r : Parison} (h : RunsPar s i p r) (e : Effect) :
    runInstr i.form e s = .next (e.par s p r) := by
  obtain ⟨hc, hp, hg, hf⟩ := h
  simp [runInstr, State.actor, State.actorOf, hc, hp, hg, State.countStep, State.softAt, hf]

/-- A wave that is no combiner's is not counted. -/
theorem counted_wave (s : State) (id : WaveId) (k : Nat) (w : Wave) (sp : Split) : s.counted (.wave id k) w sp = s := rfl

/-- A firmware wave is not counted. -/
theorem counted_firmware (s : State) (d : Die) (n : Nat) (w : Wave) (sp : Split) : s.counted (.firmware d n) w sp = s := rfl

/-- An instruction whose meaning is the running of two effects completes with the one of its actor. -/
theorem waveEffect_of {i : Instr} {e : Effect} (h : ∀ s, exec i s = runInstr i.form e s) : WaveEffect i e.wave :=
  fun s _ _ _ hr => (h s).trans (runInstr_wave hr e)

@[inherit_doc waveEffect_of]
theorem parEffect_of {i : Instr} {e : Effect} (h : ∀ s, exec i s = runInstr i.form e s) : ParEffect i e.par :=
  fun s _ _ hr => (h s).trans (runInstr_par hr e)

/-- A vector instruction completes by its lanes or by its forms. -/
theorem vecEffect_of {i : Instr} {rule : FormRule} {fn : VFn} (h : ∀ s, exec i s = runVec i.form rule fn s) :
    VecEffect i rule fn :=
  ⟨waveEffect_of (e := { wave := vecWave i.form fn, par := vecPar i.form rule fn }) h,
   parEffect_of (e := { wave := vecWave i.form fn, par := vecPar i.form rule fn }) h⟩

/-- An instruction that a check traps raises ILLEGAL with the subcause of the first check it fails (R190). -/
theorem runInstr_trap {s : State} {f : Form} {x : Actor} {sub : Sub} (ha : s.actor = some x) (hg : gate x f = .trap sub)
    (hs : sub ≠ .lookahead) (e : Effect) : runInstr f e s = .next (s.raise x .illegal sub) := by
  simp [runInstr, ha, hg, hs]

/-- An instruction that a check stalls changes nothing but the stall reason of its split or parison. -/
theorem runInstr_stall {s : State} {f : Form} {x : Actor} {why : Stall} (ha : s.actor = some x) (hg : gate x f = .stall why)
    (e : Effect) : runInstr f e s = .next (s.stalled x why) := by
  simp [runInstr, ha, hg]

end Sys2Proof.Machine
end

