-- ==== Sys2Proof/Laws/Ops.lean ====
section
/-! SUPPORT. What the shared operations around accesses, services and retirements answer. -/

namespace Sys2Proof.Machine

/-! ## Accesses -/

/-- An access that may be made is made in the state after its release. -/
theorem inOrder_may {s : State} {x : Actor} {ord : Ord} {scope : Nat} {go : State → State} (h : s.mayAccess x ord scope) :
    s.inOrder x ord scope go = go (s.released x ord scope) := by
  obtain ⟨h1, h2⟩ := h
  unfold State.inOrder State.released
  rw [h1]
  by_cases h : ord = .release ∨ ord = .acqRel
  · simp [h, h2 h]
  · simp [h]

/-- A relaxed access that nothing holds is made at once. -/
theorem inOrder_relaxed {s : State} {x : Actor} {scope : Nat} {go : State → State} (h : x.ordered = none) :
    s.inOrder x .relaxed scope go = go s := by
  rw [inOrder_may ⟨h, by simp⟩]; simp [State.released]

/-- An access whose lanes all land is made with the places they land at. -/
theorem waveAccess_lands {f : Form} {acc : Access} {space align : Nat} {eas : List (Nat × Nat)} {go : State → List (Nat × Nat × Place × DWord) → State}
    {s : State} {a : AgentId} {w : Wave} {sp : Split} {l : List (Nat × Nat × Place × DWord)} (h : Lands s a w acc space align eas l) :
    waveAccess f acc space align eas go s a w sp = go s l := by
  obtain ⟨h1, h2, h3⟩ := h
  unfold waveAccess
  rw [h1]
  simp only []
  rw [if_neg, if_pos (by simp [h3])]
  simpa using h2

/-! ## Services -/

/-- A packet is taken only where its words fit its type. -/
theorem fits_of_taken {s t : State} {k : QKey} {p : Packet} {ty : Nat} {fits : Bool} (h : s.takePacket k p ty fits = .act t) :
    fits = true := by
  unfold State.takePacket at h
  split at h
  · cases h
  · split at h
    · cases h
    · split at h
      · cases h
      · cases h
      · split at h
        · cases h
        · split at h
          · cases h
          · split at h
            · cases h
            · rename_i hc; simp at hc; exact hc.2

/-- A service that is taken answers what its act answers. -/
theorem service_taken {s t : State} {p : Packet} {fits : Bool}
    (h : s.takePacket none p 0x10 (fits && decide (1 ≤ p.len) && Word.bits (p.word 0) 31 24 == 0) = .act t) (act : State → SvcRes) :
    s.service p fits act = match act s with
      | .done t st => .next (t.svcEnds p fits st)
      | .wait t => .next { t with svc := some p.seq } := by
  have hf := fits_of_taken h
  have hf' : fits = true := by cases fits <;> simp_all
  unfold State.service
  dsimp only
  rw [h, hf, hf']
  try rfl

/-- A management service that is taken answers what its act answers: it ends with a status, or waits. -/
theorem ctxService_serves {s : State} {p : Packet} {code args : Nat} {c : Context} (h : Serves s p code args c)
    (act : State → Context → SvcRes) : s.ctxService p code args act = match act s c with
      | .done t st => .next (t.svcEnds p (p.len == 1 + args) st)
      | .wait t => .next { t with svc := some p.seq } := by
  obtain ⟨h1, h2, h3, t, h4⟩ := h
  unfold State.ctxService
  rw [if_neg (by simp [h1]), service_taken h4]
  simp only [h2]

/-- A DEBUG operation that is taken answers what its act answers. -/
theorem debugService_serves {s : State} {p : Packet} {op args : Nat} {c : Context} (h : ServesDebug s p op args c)
    (act : State → Context → SvcRes) : s.debugService p op args act = match act s c with
      | .done t st => .next (t.svcEnds p (p.len == 2 + args && Word.bits (p.word 1) 31 8 == 0) st)
      | .wait t => .next { t with svc := some p.seq } := by
  obtain ⟨h1, h2, h3, h4, h5, h6, t, h7⟩ := h
  have hd : (op != 1 && !c.dbg.enable) = false := by
    by_cases e : op = 1
    · simp [e]
    · simp [h4 e]
  unfold State.debugService
  rw [if_neg (by simp [h1, h2]), service_taken h7]
  simp only [h3, hd]
  rfl

/-! ## Retirement (R173) -/

/-- The counter of an operation that retires loses 1. -/
theorem Counters.get_down_self {c : Counters} {k : Ctr} (h : c.get k ≠ 0) : (c.down k).get k = c.get k - 1 := by
  unfold Counters.down; rw [if_neg h, Counters.get_set_self]

/-- The other counters keep their values. -/
theorem Counters.get_down_ne (c : Counters) {k j : Ctr} (h : j ≠ k) : (c.down k).get j = c.get j := by
  unfold Counters.down; split
  · rfl
  · exact Counters.get_set_ne c _ h

/-- Operations without one: those of other ids. -/
theorem mem_delOp {ops : List Op} {id : Nat} {q : Op} : q ∈ delOp ops id ↔ q ∈ ops ∧ q.id ≠ id := by simp [delOp]

/-- The retirement of a wave's operation. -/
theorem State.retire_wave {s : State} {id : WaveId} {k : Nat} {w : Wave} {o : Op} {c : Ctr} (h : look id s.waves = some w) (ho : o.ctr = some c) :
    s.retire (.wave id k) o = s.setWave (.wave id k)
      { w with ops := delOp w.ops o.id, ctr := w.ctr.down c, gwd := max w.gwd o.gd, gwp := max w.gwp o.gp } := by
  unfold State.retire
  simp [State.waveOf, h, ho]

end Sys2Proof.Machine
end

