-- ==== Sys2Proof/Laws/Soft.lean ====
section
/-! SUPPORT. Where no soft error stands anywhere, the checks of the memories and datapaths leave the state and find nothing. -/

namespace Sys2Proof.Machine

/-- A check of places finds nothing. -/
@[simp] theorem meets_none {s : State} (h : s.flaws = []) (d : Die) (p : FlawAt → Bool) : s.meets d p = (s, false) := by
  simp [State.meets, h]

/-- A write has nothing to heal. -/
@[simp] theorem heals_none {s : State} (h : s.flaws = []) (p : FlawAt → Bool) : s.heals p = s := by simp [State.heals, h]

/-- An instruction meets no soft error. -/
@[simp] theorem softAt_none {s : State} (h : s.flaws = []) (a : AgentId) (f : Form) : s.softAt a f = (s, none) := by simp [State.softAt, h]

/-- A method batch meets none. -/
@[simp] theorem engineFlaw_none {s : State} (h : s.flaws = []) (r : SliceRef) : s.engineFlaw r = (s, none) := by
  simp [State.engineFlaw, h]

/-- A line read at its home meets none. -/
@[simp] theorem lineFlaw_none {s : State} (h : s.flaws = []) (l : LineRef) (dirty : Bool) : s.lineFlaw l dirty = (s, none) := by
  simp [State.lineFlaw, h]

@[inherit_doc lineFlaw_none, simp] theorem homeFlaw_none {s : State} (h : s.flaws = []) (l : LineRef) : s.homeFlaw l = (s, none) :=
  lineFlaw_none h l _

/-- A place read by a core meets none. -/
@[simp] theorem placeFlaw_none {s : State} (h : s.flaws = []) (c : CoreRef) (n : Nat) (p : Place) : s.placeFlaw c n p = (s, none) := by
  cases p <;> simp [State.placeFlaw, h]

@[inherit_doc placeFlaw_none, simp] theorem readFlaw_none {s : State} (h : s.flaws = []) (c : CoreRef) (n : Nat) (p : Place) :
    s.readFlaw c n p = (s, none) := by simp [State.readFlaw, h]

/-- The lanes of an access meet none. -/
@[simp] theorem laneFlaws_none {s : State} (h : s.flaws = []) (c : CoreRef) (n : Nat) (l : List (Nat × Nat × Place × DWord)) :
    s.laneFlaws c n l = (s, []) := by
  induction l with
  | nil => rfl
  | cons e t ih => simp [State.laneFlaws, h, ih]

/-- A built-in batch meets none. -/
@[simp] theorem lineError_none {s : State} (h : s.flaws = []) (r : SliceRef) (l : LineRef) : s.lineError r l = (s, none) := by
  simp [State.lineError, h]

end Sys2Proof.Machine
end

