-- ==== Sys2Proof/Tests/Slice0.lean ====
section
/-! SUPPORT. Tests on small states with results from the specification's own tables and examples, an ill-formed term for each check, and for
each statement with hypotheses a state and operands that meet them. -/

namespace Sys2Proof.Tests

set_option Elab.async false

open Sys2Proof.Machine

/-! ## Helpers -/

/-- A one-word instruction of format G. -/
def g1 (d a b ml : Nat) : GForm :=
  { d := .ofNat 6 d, a := .ofNat 6 a, b := .ofNat 6 b, lra := false, lrb := false, ml := .ofNat 3 ml, w1 := none }

/-- A two-word instruction of format G under the guard `gp`, with C and MH. -/
def g2 (d a b ml c mh : Nat) (gp : Nat := 24) : GForm :=
  { g1 d a b ml with w1 := some { c := .ofNat 6 c, lrc := false, gp := .ofNat 5 gp, gn := false, la := 0, xa := 0, xb := 0, xc := 0, mh := .ofNat 6 mh } }

/-- An immediate form. -/
def gi (d a mh ml : Nat) (imm : Word) : IForm :=
  { d := .ofNat 6 d, a := .ofNat 6 a, mh := .ofNat 6 mh, lra := false, lrb := false, ml := .ofNat 2 ml, imm := imm }

/-- A memory form under the guard `gp`. -/
def mf (d a b ml ofs : Nat) (space ord scope pol : Nat := 0) (gp : Nat := 24) : MForm :=
  { d := .ofNat 6 d, a := .ofNat 6 a, b := .ofNat 6 b, lra := false, lrb := false, ml := .ofNat 3 ml, ofs := .ofNat 12 ofs, gp := .ofNat 5 gp, gn := false
    la := 0, scope := .ofNat 3 scope, ord := .ofNat 2 ord, space := .ofNat 2 space, pol := .ofNat 3 pol }

/-- A method form. -/
def vf (d a b ml method : Nat) (gp : Nat := 24) : VForm :=
  { d := .ofNat 6 d, a := .ofNat 6 a, b := .ofNat 6 b, lra := false, lrb := false, ml := .ofNat 3 ml, method := .ofNat 4 method, ofs := 0, gp := .ofNat 5 gp
    gn := false, la := 0, scope := 0, ord := 0, space := 0, pol := 0 }

/-- A control form. -/
def cf (ofs kind aux : Nat) (gp : Nat := 24) : CForm :=
  { ofs := .ofNat 23 ofs, rsv := 0, gp := .ofNat 5 gp, gn := false, kind := .ofNat 3 kind, aux := .ofNat 16 aux }

/-- The part right after reset with an instruction placed and its agent to run it. -/
def st (i : Instr) : State := { State.reset.placeWords (encode i) with cur := placeAgent (encode i), agenda := [] }

/-- The parison that the tests run. -/
def par0 : ParId := ⟨.kapael, 0, 0⟩

/-- The wave that the tests run. -/
def wave0 : WaveId := ⟨.kapael, 0, 0, 0⟩

/-- The block of the tests. -/
def ref0 : BlockRef := ⟨.kapael, 0, 0⟩

/-- A form-mode parison of a block of one item that stands at an instruction. -/
def parAt (i : Instr) : Parison := { block := ref0, box := ⟨0, 0, 0, 0, 0, 0⟩, pos := placePos (encode i) }

/-- The same instruction placed for a form-mode parison. -/
def stp (i : Instr) (f : Parison → Parison := id) : State :=
  { State.reset.placeImage (encode i) with pars := [(par0, f (parAt i))], cur := .gaffer par0 }

/-- The state with its placed wave changed. -/
def onWave (f : Wave → Wave) (s : State) : State := { s with waves := s.waves.map fun e => (e.1, f e.2) }

/-- Whether a gate is open. -/
def isGo : Gate → Bool
  | .go => true
  | _ => false

/-- Whether the state's current agent runs an instruction in a wave of which a condition holds. -/
def wit (s : State) (i : Instr) (c : AgentId → Wave → Split → Bool := fun _ _ _ => true) : Bool :=
  match s.actorOf s.cur with
  | some (.wave a w sp) => decide (a = s.cur) && isGo (gate (.wave a w sp) i.form) && s.stepsLeft a && s.flaws.isEmpty && c a w sp
  | _ => false

/-- Whether the gaffer runs an instruction for the parison of the tests, of which a condition holds. -/
def witP (s : State) (i : Instr) (c : Parison → Bool := fun _ => true) : Bool :=
  match look par0 s.pars with
  | some r => decide (s.cur = .gaffer par0) && isGo (gate (.par par0 r) i.form) && s.flaws.isEmpty && c r
  | _ => false

/-- What `wit` shows: hypotheses of a statement about a wave are met. -/
theorem runs_of_wit {s : State} {i : Instr} {c : AgentId → Wave → Split → Bool} (h : wit s i c = true) :
    ∃ w sp, Runs s i s.cur w sp ∧ c s.cur w sp = true := by
  unfold wit at h
  split at h
  · rename_i a w sp ha
    simp only [Bool.and_eq_true, decide_eq_true_eq] at h
    obtain ⟨⟨⟨⟨rfl, hg⟩, hs⟩, hf⟩, hc⟩ := h
    refine ⟨w, sp, ⟨rfl, ha, ?_, hs, by simpa using hf⟩, hc⟩
    cases hq : gate (.wave s.cur w sp) i.form <;> simp_all [isGo]
  · cases h

/-- What `witP` shows. -/
theorem runsPar_of_witP {s : State} {i : Instr} {c : Parison → Bool} (h : witP s i c = true) :
    ∃ r, RunsPar s i par0 r ∧ c r = true := by
  unfold witP at h
  split at h
  · rename_i r hr
    simp only [Bool.and_eq_true, decide_eq_true_eq] at h
    obtain ⟨⟨⟨hcur, hg⟩, hf⟩, hc⟩ := h
    refine ⟨r, ⟨hcur, hr, ?_, by simpa using hf⟩, hc⟩
    cases hq : gate (.par par0 r) i.form <;> simp_all [isGo]
  · cases h

/-! ## Every vector instruction runs in a wave and for a parison -/

/-- Instructions of format G with no operand of their own kind. -/
def plainG : List (GForm → Instr) :=
  [.nop, .iadd, .isub, .imul, .imulh, .imad, .iaddc, .isubb, .imin, .imax, .iabs, .sel, .imadw, .rng, .and, .or, .xor, .not, .logt,
   .shl, .shr, .sar, .funl, .bfe, .bfi, .popc, .clz, .brev, .mov, .icmp, .fcmp, .plogt, .ppack, .punpk, .fkind, .lxch, .qxch, .qdd,
   .vote, .ballot, .matchLanes, .lfold, .scan, .xset, .fadd, .fmul, .ffma, .fmin, .fmax, .frnd, .frcp, .frsq, .fsqrt, .fex2, .flg2,
   .fsin, .fcos, .hadd2, .hmul2, .hfma2, .hmin2, .hmax2, .vdot2, .vdot4, .cvt, .pack2, .qhist, .qscale, .qclr, .qpack, .qdeq]

/-- Those of the immediate form. -/
def plainI : List (IForm → Instr) :=
  [.iaddImm, .isubImm, .imulImm, .imulhImm, .iminImm, .imaxImm, .rngImm, .andImm, .orImm, .xorImm, .shlImm, .shrImm, .sarImm, .movi,
   .icmpImm, .fcmpImm, .faddImm, .fmulImm, .fminImm, .fmaxImm]

/-- Operand fields that between them fit every instruction of format G. -/
def someG : List GForm :=
  [g1 2 2 4 0, g1 2 2 0 0, g1 0 0 0 0, g1 0 2 0 0, g1 2 0 0 0, g1 0 2 4 0, g2 2 2 4 0 6 0, g2 2 2 4 0 6 24, g2 2 2 4 0 0 24, g2 2 2 4 0 1 0, g2 2 2 0 0 0 0]

/-- IntegerInstructionsComplete, LogicInstructionsComplete, FloatInstructionsComplete, LaneInstructionsComplete, BranchesComplete (NOP) and
HistogramInstructionsComplete, VectorResults, VectorFrame, FormMode: each of their instructions is well formed and runs with some operands, in a wave and for a parison. -/
theorem witness_vector : (plainG.all fun f => someG.any fun x => (f x).wf && wit (st (f x)) (f x) && witP (stp (f x)) (f x)) = true := by
  decide +kernel

@[inherit_doc witness_vector]
theorem witness_vector_imm : (plainI.all fun f => [gi 2 2 0 0 5, gi 2 0 0 0 5].any fun x =>
    (f x).wf && wit (st (f x)) (f x) && witP (stp (f x)) (f x)) = true := by decide +kernel

/-! ## Control transfers and traps -/

/-- A register of 32 lanes. -/
def reg (n : Nat) (v : Nat → Word) (w : Wave) : Wave := { w with vmap := w.vmap.set n (.phys ((List.range 32).map v)) }

/-- A predicate register of a wave. -/
def pred (n : Nat) (v : Word) (w : Wave) : Wave := { w with preds := w.preds.set n v }

/-- The state with the two pages of data at hand in the TLB of Kapael: 0x20000 COHERENT and 0x21000 COHERENT with BLK, 0x22000 OBJECT, all
with R, W, A and D (R19); and with the block of the tests. -/
def withData (s : State) : State :=
  let leaf := fun (cls blk : Nat) (va : Nat) => (BitVec.ofNat 64 (1 + cls * 2 ^ 6 + 2 ^ 8 + 2 ^ 9 + blk * 2 ^ 11 + 2 ^ 16 + 2 ^ 17 + va / 4096 * 2 ^ 20) : DWord)
  let e := fun (va cls blk : Nat) => ({ core := none, ctx := 0, base := va, size := 4096, leaf := leaf cls blk va, entryPa := 0 } : TlbEntry)
  { s with
    kap := { s.kap with ptime := 1000, tlb := [e 0x20000 2 0, e 0x21000 2 1, e 0x22000 3 0] ++ s.kap.tlb }
    blocks := [(ref0, { launch := 0, ctx := 0, queue := 0, bindex := 0, ngran := 1, gmap := [0], tiles := [{ phys := 0 }], hists := [{}, {}] })]
    waves := s.waves.map fun e => (e.1, { e.2 with block := some ref0 }) }

/-- The executing lanes of a wave for an instruction. -/
def exOf (w : Wave) (sp : Split) (i : Instr) : Word := w.exec sp i.form

/-- BranchesComplete, DivergingBranchesTrap: BRA and CALL with no lane, with every lane, with one of 32, of kind .DIV and of kind .U, a BRA of a
combiner wave whose lanes differ, and for a parison each kind of guard. -/
theorem witness_branches :
    ([Instr.bra, Instr.call].all fun c =>
        wit (st (c (cf 0 1 0 0))) (c (cf 0 1 0 0)) (fun _ w sp => exOf w sp (c (cf 0 1 0 0)) == 0)
        && wit (st (c (cf 0 1 0))) (c (cf 0 1 0)) (fun _ w sp => exOf w sp (c (cf 0 1 0)) != 0 && exOf w sp (c (cf 0 1 0)) == sp.act)
        && [0, 1].all fun k =>
          let i := c (cf 0 k 0 0);
          wit (onWave (pred 0 1) (st i)) i fun _ w sp => exOf w sp i != 0 && exOf w sp i != sp.act) = true
    ∧ (let i : Instr := .bra (cf 0 0 0 0);
      let s := ({ st i with cur := .combiner ⟨.kapael, 0⟩ } : State).putCrucible ⟨.kapael, 0⟩ { slice := 0, running := true, wave := pred 0 1 (placeWave (encode i)) };
      wit s i fun a w sp => decide (a = .combiner ⟨.kapael, 0⟩) && exOf w sp i != 0 && exOf w sp i != sp.act) = true
    ∧ (let i : Instr := .bra (cf 0 1 0 0);
      witP (stp i) i (fun r => r.guard i.form == some false)
      && witP (stp i fun r => { r with pmap := r.pmap.set 0 (.uni true) }) i (fun r => r.guard i.form == some true)
      && witP (stp i fun r => { r with pmap := r.pmap.set 0 (.range 0 0 3) }) i (fun r => r.guard i.form == none)) = true := by
  decide +kernel

/-- OrdinalBranchesComplete, DivergingBranchesTrap: BRX, CALLX and RET to ordinal 0, with lanes that differ, to ordinals that differ, and to one the
image lacks; and the ordinal of the clause that follows. -/
theorem witness_ordinals :
    ([Instr.brx (g1 0 2 0 0), .callx (g1 4 2 0 0), .ret (g1 0 2 0 0)].all fun i =>
      let s := st i;
      let at_ := fun (s : State) (a : AgentId) (w : Wave) l => (w.operands (s.formFile (coreOf a)) i.form l).a0;
      wit s i (fun a w sp => lowest (exOf w sp i) == some 0 && exOf w sp i == sp.act && (at_ s a w 0).toNat == 0
        && ((s.image w.ctx w.image).bind fun im => headerOf im 0).isSome)
      && (let s := onWave (reg 2 fun l => BitVec.ofNat 32 (l / 31)) s;
        wit s i fun a w sp => lowest (exOf w sp i) == some 0 && at_ s a w 31 != at_ s a w 0)
      && (let s := onWave (reg 2 fun _ => 1) s;
        wit s i fun a w sp => exOf w sp i == sp.act && ((s.image w.ctx w.image).bind fun im => headerOf im (at_ s a w 0).toNat).isNone)) = true
    ∧ ([Instr.brx, .callx, .ret].all fun c => someG.any fun x =>
        let y : GForm := { x with w1 := some { ((g2 0 0 0 0 0 0 0).w1.getD { c := 0, lrc := false, gp := 0, gn := false, la := 0, xa := 0, xb := 0, xc := 0, mh := 0 }) with gp := 0 } };
        [false, true].all fun diverge => wit (onWave (pred 0 (if diverge then 1 else 0)) (st (c y))) (c y) fun _ w sp =>
          if diverge then exOf w sp (c y) == 1 && sp.act != 1 else exOf w sp (c y) == 0) = true
    ∧ (let im : Image := { id := 0, va := 0, codew := 9, dataVa := 0, sps := [⟨0, 0, 0, 0, 0⟩, ⟨5, 0, 0, 0, 0⟩], entries := [] };
      let s : State := { State.reset with ctxs := [{ num := 0, desc := {}, images := [im] }] };
      let p : Pos := { hdr := 4 };
      p.clauseEnd = 5 ∧ s.link? 0 0 p = 1) := by
  decide +kernel

/-- A wave whose split has join record 0 of an id. -/
def joined (id : Nat) (w : Wave) : Wave :=
  { w with
    joins := w.joins.set 0 (some { id := id, rejoin := 0xFFFFFFFF, arrived := 0, encl := none })
    slots := w.slots.map fun o => o.map fun (sp : Split) => { sp with inner := some 0 } }

/-- JoinsExitsAndYieldComplete: a JOIN with no record, with one of another id and with one of its own; EXIT, KILL and REFORM run; YIELD in each
mode at and above its bound, with and without another wave of the partition that is ready. -/
theorem witness_joins :
    (let i : Instr := .join (cf 0 0 7);
      wit (st i) i (fun _ _ sp => sp.inner.isNone) && wit (onWave (joined 6) (st i)) i && wit (onWave (joined 7) (st i)) i (fun _ w sp =>
        (sp.inner.bind fun n => nth w.joins n none).any fun j => j.id == 7)) = true
    ∧ ([Instr.exit (g1 0 0 0 0), .kill (g1 0 0 0 0), .reform (g1 0 0 0 0)].all fun i => i.wf && wit (st i) i && witP (stp i) i) = true
    ∧ (let i : Instr := .yield (g1 0 0 0 0);
      i.wf && wit (st i) i (fun _ _ _ => ((st i).rivals wave0).isEmpty) && witP (stp i) i
      && (let s := { st i with waves := (st i).waves ++ [(⟨.kapael, 0, 0, 1⟩, placeWave (encode i))] };
        wit s i fun _ _ _ => !(s.rivals wave0).isEmpty)) = true
    ∧ ([1, 2].all fun m =>
      let i : Instr := .yield (g1 0 0 3 m);
      i.wf && [3, 4].all fun n =>
        wit (onWave (fun w => { w with ctr := { w.ctr with enc := .ofNat 6 n, obc := .ofNat 6 n } }) (st i)) i
        && (n == 4 || witP (stp i fun r => { r with ctr := { r.ctr with enc := .ofNat 6 n, obc := .ofNat 6 n } }) i)) = true := by
  decide +kernel

/-- TrapInstructionsTrap: TRAP and BKPT with no lane and with lanes, BKPT with debug off and on; TRAP of a parison with its guard true and false. -/
theorem witness_traps :
    ([Instr.trap, .bkpt].all fun c => [0, 24].all fun gp =>
      let i := c (g2 0 2 3 0 0 0 gp);
      let dbg := fun (s : State) on => { s with ctxs := s.ctxs.map fun c => { c with dbg := { c.dbg with enable := on } } };
      i.wf && [false, true].all fun on => wit (dbg (st i) on) i fun _ w sp =>
        (dbg (st i) on).debugOn w.ctx == on && (exOf w sp i == (if gp == 0 then 0 else 0xFFFFFFFF)) && w.ops.isEmpty) = true
    ∧ ([0, 24].all fun gp => let i : Instr := .trap (g2 0 2 3 0 0 0 gp); witP (stp i) i fun r => r.guard i.form == some (gp == 24)) = true := by
  decide +kernel

/-- TrapStopsWave: a wave of the image with a second split inside a clause of the region of ordinal 0. -/
theorem witness_trapStops :
    (let i : Instr := .iadd (g1 3 1 2 0);
      let s := onWave (fun w => w.setSlot 2 (some { pos := { inside := true, pc := 3 }, act := 1 })) (st i);
      match s.waveOf (.wave wave0 0) with
      | some w => (nth w.slots 0 none).isSome && ((s.image w.ctx w.image).bind fun im => headerOf im 0).isSome
          && (nth w.slots 2 none).any (fun q => !committed w.ops 2 && q.parked.isNone && !q.precise && q.pos.inside)
      | none => false) = true := by
  decide +kernel

/-- VectorFrame: IADD and AND of a parison whose sources are forms, uniform for AND, with results that find form slots. -/
theorem witness_formFrame :
    ([(Instr.iadd (g1 6 2 4 0), 1), (.and (g1 6 2 4 0), 0)].all fun (e : Instr × Word) =>
      let i := e.1;
      let s := { stp i fun r => { r with nmap := (r.nmap.set 2 (some 1)).set 4 (some 2) } with
        forms := [(⟨.kapael, 0⟩, [(1, ⟨3, e.2, 0, 0⟩), (2, ⟨7, 0, 0, 0⟩)])] };
      i.wf && witP s i fun r => r.guard i.form == some true && match r.operands (s.formFile (parCore par0)) i.form with
        | some x => (if e.2 = 0 then x.uni && (s.finishForm par0 r i.form [Aff.ofWord 3] []).isSome
          else match addForm with
            | .stays g => (g x).any fun ws => (s.finishForm par0 r i.form ws []).isSome
            | _ => false)
        | none => false) = true := by
  decide +kernel

/-- JoinsExitsAndYieldComplete: an EXIT of helper lanes alone. -/
theorem witness_helperExit :
    (let i : Instr := .exit (g2 0 0 0 0 0 0 0);
      wit (onWave (fun w => pred 0 2 { w with helper := 2 }) (st i)) i fun _ w sp =>
        exOf w sp i == 2 && exOf w sp i &&& ~~~w.helper == 0) = true := by
  decide +kernel

/-! ## Memory -/

/-- The tests' wave with A = v2:v3 at an address of the low 4 GiB. -/
def at23 (va : Nat) (w : Wave) : Wave := reg 3 (fun _ => 0) (reg 2 (fun _ => BitVec.ofNat 32 va) w)

/-- Whether every lane lands at a place with no atomic out on the line. -/
def lands (s : State) (a : AgentId) (w : Wave) (acc : Access) (space n : Nat) (eas : List (Nat × Nat))
    (k : List (Nat × Nat × Place × DWord) → Bool := fun _ => true) : Bool :=
  match s.locateLanes a w.ctx w.block acc space n eas with
  | .places l => l.all (fun e => !atomicOut w.ops e.1 e.2.2.1) && k l
  | _ => false

/-- The addresses of a wave's access. -/
def easOf (s : State) (a : AgentId) (w : Wave) (sp : Split) (i : Instr) (space : Nat) (ofs : Int) (n : Nat) : List (Nat × Nat) :=
  w.addrs (s.formFile (coreOf a)) i.form space ofs n (exOf w sp i &&& ~~~w.helper)

/-- LoadsIssue, StoresIssue: a load and a store of 4 bytes at a COHERENT page and at core store, relaxed and, with nothing before them, of
release order; a block load and a block store; a parison for which they blow. -/
theorem witness_accesses :
    ([(false, 0, 0x20000, 0), (true, 0, 0x2007C, 0), (false, 0, 0x20000, 1), (true, 0, 0x20000, 2), (false, 1, 0, 0), (true, 1, 124, 0)].all fun (e : Bool × Nat × Nat × Nat) =>
      let x := mf (if e.1 then 0 else 4) 2 (if e.1 then 6 else 0) 4 0 e.2.1 e.2.2.2 1;
      let i : Instr := if e.1 then .st x else .ld x;
      let s := onWave (at23 e.2.2.1) (withData (st i));
      i.wf && witP (stp i) i && wit s i fun a w sp =>
        (Actor.wave a w sp).ordered.isNone && (e.2.2.2 != 2 || s.fenceMet (.wave a w sp) 1)
        && lands (s.released (.wave a w sp) (ordOf x.ord.toNat) 1) a w (if e.1 then .store else .load) e.2.1 4 (easOf s a w sp i e.2.1 0 4) fun l =>
          !l.isEmpty && l.all fun q => s.storeHeld (coreOf a) q.2.2.1 q.2.2.2 == false && s.privAway (coreOf a) q == false) = true
    ∧ ([false, true].all fun store =>
      let x := mf (if store then 0 else 4) 2 (if store then 6 else 0) 0 0;
      let i : Instr := if store then .stblk x else .ldblk x;
      let s := onWave (at23 0x21000) (withData (st i));
      i.wf && witP (stp i) i && wit s i fun a w sp =>
        (Actor.wave a w sp).ordered.isNone && lands s a w (if store then .blkStore else .blkLoad) 0 64 (easOf s a w sp i 0 0 64) fun l =>
          !l.isEmpty && (!store || (packBlock fun k => (w.operands (s.formFile (coreOf a)) i.form k).b0).isSome
            && l.all fun q => s.storeHeld (coreOf a) q.2.2.1 q.2.2.2 == false && s.privAway (coreOf a) q == false)) = true
    ∧ ([0, 24].all fun gp =>
      let x := mf 4 2 0 4 0 (gp := gp);
      let i : Instr := .uld x;
      let s := withData (stp i fun r => { r with sreg := r.sreg.set 2 0x20000 });
      i.wf && witP s i fun r => (Actor.par par0 r).ordered.isNone && r.guard i.form == some (gp == 24)
        && match s.locateLanes (.gaffer par0) r.ctx (some r.block) .load 0 4 [(0, effAddr 0 (r.sregs i.form.use.a i.form.fields.2.1) 0 4)] with
          | .places l => l.length == 1
          | _ => false) = true := by
  decide +kernel

/-- FaultingAccessesTrap: an access at an odd address, and one at a page that no translation is at hand for. -/
theorem witness_faults :
    ([(false, 0x20001), (true, 0x20001), (false, 0x90000), (true, 0x90000)].all fun e =>
      let x := mf (if e.1 then 0 else 4) 2 (if e.1 then 6 else 0) 4 0;
      let i : Instr := if e.1 then .st x else .ld x;
      let s := onWave (at23 e.2) (withData (st i));
      wit s i fun a w sp => (Actor.wave a w sp).ordered.isNone
        && match s.locateLanes a w.ctx w.block (if e.1 then .store else .load) 0 4 (easOf s a w sp i 0 0 4) with
          | .bad l => e.2 == 0x20001 && l.length == 32
          | .miss l => e.2 == 0x90000 && l.length == 32
          | _ => false) = true := by
  decide +kernel

/-- StoresWriteTheirBytes: two lanes at one offset of core store; a last byte of a line. -/
theorem witness_coreStores :
    (let s := withData State.reset;
      let l : List (Nat × Nat × Place × DWord) := [(0, 8, .scratch ref0 8, 0), (1, 8, .scratch ref0 8, 0)];
      let t := (s.storeReqs ⟨.kapael, 0⟩ 0 0 (fun l => [BitVec.ofNat 8 (l + 1), 0xAA]) l).1;
      t.scratchRead ref0 8 1 = [2] ∧ t.scratchRead ref0 10 1 = [0])
    ∧ (let s := withData State.reset;
      let l : LineRef := ⟨.kapael, 4⟩;
      leafCls 0 ≠ .object ∧ (let t := (s.homeWrite l .kapael 0 0 0 [(639, [5])]).1;
        Memory.read (t.mem .kapael) 639 = 5 ∧ Memory.read (t.mem .kapael) 638 = 0)) := by
  decide +kernel

/-- CacheInstructionsComplete: PREF and CCTL of one line and of all; FENCE met, not met while a store is out, and with no lane; and the same for
a parison with a uniform address. -/
theorem witness_cache :
    ([(Instr.pref (mf 0 2 0 4 0), Access.pref, 4), (.cctl (mf 0 2 0 0 0), .cctl, 1), (.cctl (mf 0 0 0 2 0), .cctl, 0)].all fun e =>
      let i := e.1;
      let s := onWave (at23 0x20000) (withData (st i));
      i.wf && wit s i (fun a w sp => (Actor.wave a w sp).ordered.isNone && (e.2.2 == 0 || lands s a w e.2.1 0 e.2.2
        (easOf s a w sp i 0 0 (if e.2.2 == 1 then 128 else 4)) fun l => !l.isEmpty))
      && (let s := { withData (stp i fun r => { r with nmap := (r.nmap.set 2 (some 1)).set 3 (some 2) }) with
            forms := [(⟨.kapael, 0⟩, [(1, ⟨0x20000, 0, 0, 0⟩), (2, ⟨0, 0, 0, 0⟩)])] };
        witP s i fun r => r.guard i.form == some true && r.ctr.get .stc != 63 && (e.2.2 == 0 ||
          match r.uniAddr (s.formFile (parCore par0)) i.form 0 (if e.2.2 == 1 then 128 else 4) with
          | some ea => (match s.locateLanes (.gaffer par0) r.ctx (some r.block) e.2.1 0 e.2.2 [(0, ea)] with
            | .places l => l.length == 1
            | _ => false)
          | none => false))) = true
    ∧ ([(24, false), (24, true), (0, false)].all fun (e : Nat × Bool) =>
      let i : Instr := .fence (mf 0 0 0 0 0 (scope := 2) (gp := e.1));
      let out : List Op := if e.2 then [{ id := 0, kind := .store, ctr := some .stc, reqs := [{ lane := 0, va := 0, place := .mem .kapael 0, size := 4 }] }] else [];
      let s := onWave (fun w => { w with ops := out, ctr := { w.ctr with stc := if e.2 then 1 else 0 } }) (withData (st i));
      i.wf && wit s i (fun a w sp => (exOf w sp i == 0) == (e.1 == 0) && s.fenceMet (.wave a w sp) 2 == !e.2)
      && (e.2 || witP (withData (stp i)) i fun r => r.guard i.form == some (e.1 == 24) && (withData (stp i)).fenceMet (.par par0 r) 2)) = true := by
  decide +kernel

/-- IssueCounts, Retirement: a counter at 0 and at 62 may rise, one at 1 may fall. -/
theorem witness_counters :
    (({} : Counters).get .ldc ≠ 63 ∧ ({ stc := 62 } : Counters).get .stc ≠ 63 ∧ ({ enc := 1 } : Counters).get .enc ≠ 0) ∧
    (look wave0 (st (.nop (g1 0 0 0 0))).waves).isSome = true := by decide +kernel

/-! ## Atomics and objects -/

/-- AtomicsIssue: ATOM and RED of 4 bytes at a line and at core store, OCALL at a slot of 512 bytes, of every lane and of none. -/
theorem witness_atomics :
    ([0, 24].all fun gp => ([(false, 0, 0x20000), (true, 0, 0x2007C), (false, 1, 8), (true, 1, 8)].all fun (e : Bool × Nat × Nat) =>
      let x := { vf (if e.1 then 0 else 4) 2 6 0 0 gp with space := .ofNat 2 e.2.1 };
      let i : Instr := if e.1 then .red x else .atom x;
      let s := onWave (at23 e.2.2) (withData (st i));
      i.wf && witP (stp i) i && wit s i fun a w sp => (Actor.wave a w sp).ordered.isNone
        && lands s a w .atomic e.2.1 4 (easOf s a w sp i e.2.1 0 4) fun l => (l.isEmpty == (gp == 0))
          && l.all fun q => s.storeHeld (coreOf a) q.2.2.1 q.2.2.2 == false && s.privAway (coreOf a) q == false)
      && (let i : Instr := .ocall (vf 8 2 4 0 1 gp);
        let s := onWave (at23 0x22200) (withData (st i));
        i.wf && witP (stp i) i && wit s i fun a w sp => (Actor.wave a w sp).ordered.isNone
          && (easOf s a w sp i 0 0 1).all (fun e => e.2 % 512 == 0)
          && lands s a w .ocall 0 512 (easOf s a w sp i 0 0 1) fun l => l.isEmpty == (gp == 0))) = true := by
  decide +kernel

/-- CombinerInstructionsComplete: OLD and OST inside the staging copy and past its end, REPLY, OEND, and the 257th instruction. -/
theorem witness_combiner :
    ([(Instr.old (mf 4 2 0 4 1), true), (.ost (mf 0 2 4 4 1), true), (.old (mf 4 2 0 4 2), false)].all fun e =>
      let s := (st e.1).putCrucible ⟨.kapael, 0⟩ { (st e.1).crucible ⟨.kapael, 0⟩ with stage := List.replicate 8 0 };
      e.1.wf && wit s e.1 fun a w sp => exOf w sp e.1 != 0 && (lanesOf (exOf w sp e.1)).all fun l =>
        (stageOfs (s.crucible ⟨.kapael, 0⟩).stage (w.operands ((s.counted a w sp).formFile ⟨.kapael, 0⟩) e.1.form l).a0 (if e.2 then 1 else 2) 4).isSome
          == e.2) = true
    ∧ ([Instr.reply (g1 0 2 0 0), .oend (g1 0 0 0 0)].all fun i => i.wf && wit (st i) i
      && (let s := (st i).putCrucible ⟨.kapael, 0⟩ { (st i).crucible ⟨.kapael, 0⟩ with steps := 256 };
        match s.actorOf s.cur with
        | some (.wave a w sp) => isGo (gate (.wave a w sp) i.form) && decide (256 ≤ (s.crucible ⟨.kapael, 0⟩).steps)
        | _ => false)) = true := by
  decide +kernel

/-! ## Histograms -/

/-- HistogramInstructionsComplete: QHIST, QSCALE and QCLR of a unit that the block has and of one that it has not; QCLR with a lowest lane and with none, QDEQ of each kind of scale lane, and QHIST and QCLR of a parison with
each guard and with uniform and other sources. -/
theorem witness_histograms :
    ([0, 24].all fun gp => let i : Instr := .qclr (g2 0 1 4 0 0 0 gp); i.wf && wit (withData (st i)) i fun _ w sp => (lowest (exOf w sp i)).isSome == (gp == 24)) = true
    ∧ ([Instr.qhist (g2 1 2 0 0 0 0), .qscale (g2 4 1 6 0 0 0), .qclr (g2 0 1 4 0 0 0)].all fun i =>
      [true, false].all fun here =>
        let s := if here then withData (st i) else st i;
        let q := withData (stp i);
        i.wf && wit s i (fun a w sp => decide (1 < (s.counted a w sp).histCount w.block) == here)
        && witP q i (fun r => decide (1 < q.histCount (some r.block)) && !q.histBusy par0 r 1)
        && witP (stp i) i (fun r => (stp i).histCount (some r.block) == 0)) = true
    ∧ ([7, 8].all fun n =>
      let i : Instr := .qdeq (g2 4 2 0 0 0 0);
      let s := onWave (reg 2 fun _ => BitVec.ofNat 32 n) (withData (st i));
      i.wf && witP (stp i) i && wit s i fun a w sp => exOf w sp i != 0 && ((w.operands (s.formFile (coreOf a)) i.form 31).a0.toNat % 256 < 8) == (n == 7)) = true
    ∧ ([Instr.qhist (g2 1 2 0 0 0 0 0), .qclr (g2 0 1 2 0 0 0 0)].all fun i => [0, 1, 2, 3].all fun (k : Nat) =>
      let b : PBind := if k = 0 then .uni false else if k = 1 then .range 0 0 3 else .uni true;
      let s := { withData (stp i fun r => { r with pmap := r.pmap.set 0 b, nmap := r.nmap.set 2 (some 1) }) with
        forms := [(⟨.kapael, 0⟩, [(1, ⟨5, if k = 3 then 1 else 0, 0, 0⟩)])] };
      i.wf && witP s i fun r => r.guard i.form == (if k = 0 then some false else if k = 1 then none else some true)
        && (k < 2 || (r.operands (s.formFile (parCore par0)) i.form).any fun f => f.uni == (k == 2))) = true := by
  decide +kernel

/-! ## Barriers, waits and tokens -/

/-- BarriersComplete, BarrierArrival: each barrier instruction with no lane and with every lane at an object of core store, arriving below the
expected count and completing it; BARW on the phase that is open, on the one before and on an older one. -/
theorem witness_barriers :
    ([Instr.bara, .barw, .bars].all fun c => [0, 24].all fun gp =>
      let i := c (g2 4 2 6 0 0 0 gp);
      let s := onWave (reg 2 fun _ => 16) (withData (st i));
      i.wf && wit s i fun a w sp => (Actor.wave a w sp).ordered.isNone && (exOf w sp i == 0) == (gp == 0)
        && s.fenceMet (.wave a w sp) (barScope false 16) && (s.barObj ref0 16).rsv == 0
        && match s.locateLanes a w.ctx w.block .load 1 16 [(0, (w.operands (s.formFile (coreOf a)) i.form 0).a0.toNat)] with
          | .places [(0, 16, .scratch r 16, _)] => decide (r = ref0)
          | _ => false) = true
    ∧ ([32, 33, 0].all fun n =>
      let s := (withData State.reset).scratchWrite ref0 16 (bytesOf 16 (n * 2 ^ 16));
      match s.arriveBar ref0 16 (.wave wave0 0) false 32 0 none with
      | .ok (t, tok) => tok == 0 && ((t.barObj ref0 16).phase == 1) == (n != 33)
      | .error _ => false) = true := by
  decide +kernel

/-- The example of R274's section: an object with 40 expected arrivals, phase 5 and POPC, after an arrival of 24 lanes with payload 10, and
after a second one of 16 with payload 16. -/
theorem test_barrier_example :
    (let s := (withData State.reset).scratchWrite ref0 0x40 (bytesOf 16 0x0000030500280000);
      match s.arriveBar ref0 0x40 (.wave wave0 0) false 24 10 none with
      | .ok (t, tok) => tok == 5 && t.scratchRead ref0 0x40 12 == bytesOf 12 0x0000000A0000030500280018
          && match t.arriveBar ref0 0x40 (.gaffer par0) false 16 16 none with
            | .ok (u, tok) => tok == 5 && u.scratchRead ref0 0x40 16 == bytesOf 16 0x0000001A000000000000030600280000
            | .error _ => false
      | .error _ => false) = true := by
  decide +kernel

/-- WaitsComplete: WAITV on core store, QWAIT and QSIG on a COHERENT page, with no lane and with every lane; a signal of a token by a first
producer, and by one of another core. -/
theorem witness_waits :
    ([0, 24].all fun gp =>
      ([(Instr.waitv (g2 4 2 6 1 0 0 gp), Access.load, 1, 4, 8), (.qwait (g2 4 2 6 0 0 0 gp), .tokenRead, 0, 32, 0x20020)].all
        fun (e : Instr × Access × Nat × Nat × Nat) =>
        let s := onWave (at23 e.2.2.2.2) (withData (st e.1));
        e.1.wf && witP (stp e.1) e.1 && wit s e.1 fun a w sp => (Actor.wave a w sp).ordered.isNone && (exOf w sp e.1 == 0) == (gp == 0)
          && lands s a w e.2.1 e.2.2.1 e.2.2.2.1 (easOf s a w sp e.1 e.2.2.1 0 1) fun l => l.isEmpty == (gp == 0))
      && (let i : Instr := .qsig (g2 0 2 6 0 0 0 gp);
        let s := onWave (at23 0x20020) (withData (st i));
        i.wf && wit s i fun a w sp => w.ops.isEmpty && (Actor.wave a w sp).ordered.isNone && match s.locateLanes a w.ctx w.block .tokenWrite 0 32 (easOf s a w sp i 0 0 1) with
          | .places l => l.isEmpty == (gp == 0)
          | _ => false)) = true
    ∧ (let t : Token := { count := 0, gd := 0, gp := 0, place := 0 };
      let u := t.signal { n := 2 ^ 64 - 1, gd := 5, gp := 7, dies := 1, core := 255, multi := false };
      let v := u.signal { n := 2, gd := 3, gp := 9, dies := 1, core := 3, multi := false };
      u.count = 2 ^ 64 - 1 ∧ u.place / 4 % 2 = 0 ∧ v.count = 1 ∧ v.gd = 5 ∧ v.gp = 9 ∧ v.place / 4 % 2 = 1 ∧ v.place / 16 % 256 = 255) := by
  decide +kernel

/-! ## Tiles -/

/-- A parison that stands at an instruction with uniform registers set and under a guard predicate. -/
def stu (i : Instr) (regs : List (Nat × Word)) (g : PBind := .uni true) : State :=
  withData (stp i fun r => { r with sreg := regs.foldl (fun m e => m.set e.1 e.2) r.sreg, pmap := r.pmap.set 0 g })

/-- TileInstructionsComplete: MZERO and MTILE of tile 0 and of a name out of range, under each guard; MMA of fp blocks in core store; MDRAIN with
and without lanes. -/
theorem witness_tiles :
    ([PBind.uni false, .uni true].all fun g => [Instr.mzero (g2 4 0 0 0 0 0 0), .mtile (g2 6 4 0 0 0 0 0)].all fun i => [0, 1].all fun (n : Nat) =>
      let s := stu i [(4, BitVec.ofNat 32 n)] g;
      i.wf && witP s i fun r => r.guard i.form == some (decide (g = .uni true)) && tileBad false (s.tileCount r.block) (BitVec.ofNat 32 n) == (n == 1)
        && (n == 1 || (s.tile r.block (tileName 0)).isSome) && (s.tileStall par0 r false).isNone) = true
    ∧ ([PBind.uni false, .uni true].all fun g =>
      let i : Instr := .mma (g2 4 2 6 0 0 0 0);
      let s := stu i [(2, 0x10000), (6, 0x10000)] g;
      i.wf && witP s i fun r => r.guard i.form == some (decide (g = .uni true)) && !tileBad false (s.tileCount r.block) 0
        && (s.tileStall par0 r false).isNone) = true
    ∧ ([0, 24].all fun gp =>
      let i : Instr := .mdrain (g2 4 2 0 0 0 0 gp);
      let s := withData (st i);
      i.wf && witP (stp i) i && wit s i fun a w sp => (Actor.wave a w sp).ordered.isNone && (exOf w sp i == 0) == (gp == 0)
        && tileName 0 < (w.block.map s.tileCount).getD 0) = true := by
  decide +kernel

/-- TileInstructionsComplete: an MMA of a chained tile with a B operand in core store that can be fetched and is well formed. -/
theorem witness_mma :
    (let i : Instr := .mma (g2 8 4 12 2 0 1);
      let s := stu i [];
      i.wf && witP s i fun r => (s.tileStall par0 r false).isNone && !tileBad false (s.tileCount r.block) (nth r.sreg 8 0)
        && ((r.sregs i.form.use.a 4).all fun v => !tileBad true (s.tileCount r.block) v)
        && match s.fetchBlocks par0 r 1 0 62 with
          | .ok _ bb => (badBlock 1 bb).isNone
          | _ => false) = true := by
  decide +kernel

/-! ## Jobs, traversal, sampling and visibility -/

/-- JobInstructionsComplete: JOB at an aligned card and at a misaligned one, with and without lanes, and under each guard; JSTAT. -/
theorem witness_jobs :
    ([0x20080, 0x20081].all fun (va : Nat) => [PBind.uni false, .uni true].all fun g =>
      let i : Instr := .jobGaffer (g2 0 2 0 1 0 0 0);
      let s := stu i [(2, BitVec.ofNat 32 va)] g;
      i.wf && witP s i fun r => (r.guard i.form == some (decide (g = .uni true))) && ((pairOf (r.sregs .s2 2)).toNat == va)
        && (va == 0x20081 || (s.fenceMet (.par par0 r) 2 && (Actor.par par0 r).ordered.isNone
          && match s.locateLanes (.gaffer par0) r.ctx (some r.block) .load 0 1 [(0, va), (0, va + 64)] with
            | .places ((_, _, .mem h pa, leaf) :: _) => !s.lineBusy (parCore par0) s.opCtr (lineAt h pa) && !s.away (parCore par0) (lineAt h pa)
                && (look par0 ((s.released (.par par0 r) .release 2).loadLine (parCore par0) (lineAt h pa) r.ctx va leaf).1.pars).isSome
            | _ => false))) = true
    ∧ ([0x20080, 0x20081].all fun (va : Nat) => [0, 24].all fun gp =>
      let i : Instr := .jobWave (g2 0 2 0 0 0 0 gp);
      let s := onWave (at23 va) (withData (st i));
      i.wf && witP (stp i) i && wit s i fun a w sp => (exOf w sp i == 0) == (gp == 0) && (lowest (if gp == 0 then sp.act else exOf w sp i)) == some 0
        && (va == 0x20081 || (s.fenceMet (.wave a w sp) 2 && match s.locateLanes a w.ctx w.block .load 0 1 [(0, va), (0, va + 64)] with
            | .places ((_, _, .mem h pa, _) :: _) => !s.lineBusy (coreOf a) s.opCtr (lineAt h pa)
            | _ => false))) = true
    ∧ (let i : Instr := .jstatGaffer (g1 4 0 0 1);
      let j : Instr := .jstatWave (g1 4 0 0 0);
      i.wf && j.wf && witP (stp i) i (fun r => r.guard i.form == some true) && wit (st j) j && witP (stp j) j) = true := by
  decide +kernel

/-- The state with bytes in Kapael's DRAM. -/
def withBytes (pa : Nat) (b : List Byte) (s : State) : State := { s with memK := Memory.writeN s.memK pa b }

/-- TextureInstructionsComplete: a TRACE whose structure is one empty node, with one lane. -/
theorem witness_traces :
    (let i : Instr := .trace (g2 16 8 2 0 4 0 0);
      let s := onWave (pred 0 1) (onWave (at23 0x20000) (withBytes 0x20000 (bytesOf 32 (0x20081 + 0x20000 * 2 ^ 64 + 0x21000 * 2 ^ 128)) (withData (st i))));
      i.wf && witP (stp i) i && wit s i fun a w sp => (Actor.wave a w sp).ordered.isNone && exOf w sp i == 1
        && match s.texRead (.wave a w sp) 0x20000 2 with
          | (u, .ok b) => (bvhOf b).any fun d =>
              let r := texLanes (traceLane i.form (.wave a w sp) w d) u (lanesOf 1);
              r.misses.isEmpty && !r.busy && r.bads.isEmpty && r.results.length == 1
          | _ => false) = true := by
  decide +kernel

/-- TextureInstructionsComplete: a SAMPLE of a surface of one texel, with one lane. -/
theorem witness_samples :(let i : Instr := .sample (g2 16 8 2 0 0 0 0);
      let s := onWave (pred 0 1) (onWave (at23 0x20000) (withBytes 0x20000 (bytesOf 32 (0x20100 + 0x1000100010001 * 2 ^ 64 - 2 ^ 112 + 256 * 2 ^ 128 - 0x100000000 * 2 ^ 64 + 2 ^ 96)) (withData (st i))));
      i.wf && witP (stp i) i && wit s i fun a w sp => (Actor.wave a w sp).ordered.isNone && exOf w sp i == 1
        && match s.texRead (.wave a w sp) 0x20000 2 with
          | (u, .ok b) => (texDescOf b).any fun d =>
              let r := texLanes (sampleLane i.form (.wave a w sp) w d) u (lanesOf 1);
              r.misses.isEmpty && !r.busy && r.bads.isEmpty && r.results.length == 1
          | _ => false) = true := by
  decide +kernel

/-- TextureInstructionsComplete: PIDLD. -/
theorem witness_ids :(let i : Instr := .pidld (g2 4 2 0 0 0 0); i.wf && wit (withData (st i)) i && witP (stp i) i) = true := by
  decide +kernel

/-- TextureInstructionsComplete: VISR of a list of one primitive, under each guard. -/
theorem witness_visibility :([PBind.uni false, .uni true].all fun g =>
      let i : Instr := .visr (g2 0 2 4 0 5 0 0);
      let s := stu i [(2, 0x20000), (4, 1)] g;
      i.wf && witP s i fun r => r.guard i.form == some (decide (g = .uni true)) && (s.slotOwner (parCore par0)).isNone
        && (Actor.par par0 r).ordered.isNone && match (s.bindSlots r.block).primList (.par par0 r) 0x20000 1 with
          | (_, .ok ws) => ws.length == 10
          | _ => false) = true := by
  decide +kernel

/-- The uniform instructions of format G and of the immediate form. -/
def uniG : List (GForm → Instr) := [.umov, .uadd, .usub, .umul, .umad, .ushl, .ushr, .uand, .uor, .uxor, .ucmp, .usel]
@[inherit_doc uniG]
def uniI : List (IForm → Instr) := [.umovi, .uaddImm, .usubImm, .umulImm, .ushlImm, .ushrImm, .uandImm, .uorImm, .uxorImm, .ucmpImm]

/-- Whether the gaffer stands at an instruction for the parison of the tests, no check before GUARD stopping it, and a condition holds. -/
def witU (s : State) (i : Instr) (c : Parison → Bool := fun _ => true) : Bool :=
  match look par0 s.pars with
  | some r => decide (s.cur = .gaffer par0) && (Actor.par par0 r).held.isNone && hdrCls r.pos.hdr == 6
      && (rawCheck (.par par0 r) i.form.opc i.form.ml i.form.len).isNone && !i.form.oneWord && !i.form.reserved && i.form.pats == (0, 0, 0) && c r
  | none => false

/-- UniformArithmeticCompletes: an instruction of each format under a range predicate as guard, and USEL by one. -/
theorem witness_uniGuards :
    ([Instr.uadd (g2 4 2 6 0 0 0 0), .visr (g2 0 2 4 0 5 0 0), .uld (mf 4 2 0 4 0 (gp := 0))].all fun i =>
      i.wf && witU (stu i [] (.range 0 0 3)) i fun r => r.guard i.form == none) = true
    ∧ (let i : Instr := .usel (g2 4 2 6 0 3 0 24);
      let s := stu i [];
      let s := { s with pars := s.pars.map fun e => (e.1, { e.2 with pmap := e.2.pmap.set 3 (.range 1 0 5) }) };
      i.wf && witU s i fun r => i.form.fields.2.2.2 == 3 && nth r.pmap i.form.fields.2.2.2 (.uni false) == .range 1 0 5) = true := by
  decide +kernel

/-- UniformArithmeticCompletes, UniformFrame, UniformControlCompletes (UBRA): every uniform instruction under a guard that is true and false; UBRA
under a range too. -/
theorem witness_uniform :
    (uniG.all fun f => [g2 4 2 6 0 0 0 0, g2 4 2 6 0 3 0 0, g2 4 2 0 0 0 0 0].any fun x => [PBind.uni true, .uni false].all fun g =>
      (f x).wf && witP (stu (f x) [] g) (f x) fun r =>
        r.guard (f x).form == (match g with | .uni b => some b | _ => none) && (nth r.pmap (f x).form.fields.2.2.2 (.uni false) == .uni false || (f x).form.fields.2.2.2 == 0)) = true
    ∧ (uniI.all fun f => [gi 4 2 0 0 5, gi 4 0 0 0 5].any fun x => (f x).wf && witP (stu (f x) []) (f x) fun r => r.guard (f x).form == some true) = true
    ∧ ([PBind.uni true, .uni false, .range 0 0 3].all fun g => let i : Instr := .ubra (cf 0 0 0 0); i.wf && witP (stu i [] g) i fun r =>
        r.guard i.form == (match g with | .uni b => some b | _ => none)) = true := by
  decide +kernel

/-- UniformControlCompletes: ULAUNCH of a node that its table has, under each guard with nothing for its waves to catch up with, of a table that
is absent, and of a node beyond those of its table. -/
theorem witness_ulaunch :
    ([PBind.uni true, .uni false].all fun g =>
      let i : Instr := .ulaunch (g2 0 4 0 0 0 0 0);
      let q : QueueRef := ⟨0, 0⟩;
      let t : GTable := { num := 1, nodes := [{ desc := [], initPred := 0, succ := [] }] };
      let s := { stu i [(4, 0x10000)] g with queues := [(q, { tables := [t] })] };
      i.wf && witP s i (fun r => r.guard i.form == some (decide (g = .uni true)) && s.queueOfBlock (some r.block) == 0 && s.caughtUp par0 r && s.parGwp par0 r == 0
        && (s.table q 1).any fun t => decide (0 < t.nodes.length))
      && witP (stu i [(4, 0x10000)] g) i (fun _ => ((stu i [(4, 0x10000)] g).table q 1).isNone)
      && (let s := { stu i [(4, 0x10001)] g with queues := [(q, { tables := [t] })] };
        witP s i fun _ => (s.table q 1).any fun t => decide (t.nodes.length ≤ 1))) = true := by
  decide +kernel

/-- SpecialRegisterInstructionsComplete: CSRR in a wave, in a combiner wave and for a parison, of a register of lanes; CSRW with one lane, with
none, and for a parison with a uniform source. -/
theorem witness_csr :
    (let i : Instr := .csrr (g1 2 0 11 0);
      let j : Instr := .csrr (g1 2 0 4 0);
      i.wf && j.wf && wit (withData (st i)) i && witP (stp i) i (fun r => ((stp i).csrForms (parCore par0) ((stp i).blockOf r.block) r.role 11).isSome)
      && witP (stp j) j
      && wit ((({ st i with cur := .combiner ⟨.kapael, 0⟩ } : State)).putCrucible ⟨.kapael, 0⟩ { slice := 0, running := true, wave := placeWave (encode i) }) i) = true
    ∧ ([0, 24].all fun gp => let i : Instr := .csrw (g2 0 2 32 0 0 0 gp); i.wf && wit (withData (st i)) i fun _ w sp => (lowest (exOf w sp i)).isSome == (gp == 24)) = true
    ∧ (let i : Instr := .csrw (g1 0 2 32 0);
      let s := { stp i fun r => { r with nmap := r.nmap.set 2 (some 1) } with forms := [(⟨.kapael, 0⟩, [(1, ⟨5, 0, 0, 0⟩)])] };
      witP s i fun r => r.guard i.form == some true && (r.operands (s.formFile (parCore par0)) i.form).any fun f => f.uni) = true := by
  decide +kernel

/-- FirmwareInstructionsComplete: WINRD and WINWR with a window that is unbound, bound to a wave and bound to a parison, with and without lanes; TRET
with an action below 3 and with 3. -/
theorem witness_window :
    ([Instr.winrd, .winwr].all fun c => [0, 24].all fun gp => [Bound.none, .wave wave0, .par par0].all fun b =>
      let i := c (if (c (g1 4 2 0 0)).wf && !(c (g1 0 2 4 0)).wf then g2 4 2 0 0 0 0 gp else g2 0 2 4 0 0 0 gp);
      let s := { (st i).putFw .kapael 0 { (st i).fwCore .kapael 0 with window := b } with waves := [(wave0, {})], pars := [(par0, parAt i)] };
      i.wf && wit s i fun a w sp => decide (a = .firmware .kapael 0) && (lowest (exOf w sp i)).isSome == (gp == 24)
        && windowOk (Word.bits (w.operands (s.formFile ⟨.kapael, 0⟩) i.form 0).a0 7 0) 0) = true
    ∧ ([0, 2, 3].all fun n =>
      let i : Instr := .tret (g1 0 2 4 0);
      let s := (st i).putFw .kapael 0 { (st i).fwCore .kapael 0 with wave := reg 2 (fun _ => BitVec.ofNat 32 n) ((st i).fwCore .kapael 0).wave };
      i.wf && wit s i fun _ w sp => lowest (exOf w sp i) == some 0 && (Word.bits (w.operands (s.formFile ⟨.kapael, 0⟩) i.form 0).a0 1 0 == n)) = true := by
  decide +kernel

/-! ## Decoding: the specification's own words -/

/-- LD and ST (R181), STBLK (R259), FENCE.PAIR (R264), ATOM.ADD (R265), OCALL.M1 (R268). -/
theorem test_decode_memory :
    decode [0x80881004, 0x002C0120] = .ok (.ld { mf 4 2 0 4 2 0 1 2 with ofs := 2 })
    ∧ decode [0x83801080, 0x001C0000] = .ok (.stblk (mf 0 2 4 0 1))
    ∧ decode [0x86800000, 0x000C0180] = .ok (.fence (mf 0 0 0 0 0 0 0 3))
    ∧ decode [0x908A10C0, 0x001C0000] = .ok (.atom { vf 5 2 6 0 0 with ofs := 1 })
    ∧ decode [0x92901080, 0x100C0000] = .ok (.ocall (vf 8 2 4 0 1)) := by decide +kernel

/-- BARW (R273), and a waiting form. -/
theorem test_decode_sync : decode [0xA1941900, 0x01800022] = .ok (.barw (g2 10 3 8 0 0 0x22)) := by decide +kernel

/-- LOGT (R218), ICMP.LT with an immediate (R221), EXIT, JOIN 1. -/
theorem test_decode_control_logic :
    decode [0x24880840, 0x0D800036] = .ok (.logt (g2 4 1 2 0 3 0x36))
    ∧ decode [0x30800844, 0x00000006] = .ok (.icmpImm (gi 0 1 2 0 6))
    ∧ decode [0x07000000] = .ok (.exit (g1 0 0 0 0))
    ∧ decode [0x06800000, 0x01800001] = .ok (.join (cf 0 0 1)) := by decide +kernel

/-- FRCP (R237), VDOT2 (R241), CVT.S32.F32.RZ (R243), QHIST (R247). -/
theorem test_decode_float :
    decode [0x56861000, 0x01800000] = .ok (.frcp (g2 3 2 0 0 0 0))
    ∧ decode [0x65880840, 0x0D800000] = .ok (.vdot2 (g2 4 1 2 0 3 0))
    ∧ decode [0x700408A1] = .ok (.cvt (g1 2 1 5 1))
    ∧ decode [0x72042800] = .ok (.qhist (g1 2 5 0 0)) := by decide +kernel

/-- UCMP.LT (R293), UBRA (R294), MMA (R297), JOB of both files (R303), TRACE (R308), CSRR (R312). -/
theorem test_decode_engines :
    decode [0xDB862844, 0x00000040] = .ok (.ucmpImm (gi 3 5 2 0 0x40))
    ∧ decode [0xDDFFFFFA, 0x00300000] = .ok (.ubra (cf 0x7FFFFA 0 0 3))
    ∧ decode [0xB0906086, 0x01800007] = .ok (.mma (g2 8 12 4 6 0 7))
    ∧ decode [0xB4003001] = .ok (.jobGaffer (g1 0 6 0 1)) ∧ decode [0xB4003000] = .ok (.jobWave (g1 0 6 0 0))
    ∧ decode [0xC0A04040, 0x19800000] = .ok (.trace (g2 16 8 2 0 6 0))
    ∧ decode [0xE0040160] = .ok (.csrr (g1 2 0 11 0)) := by decide +kernel

/-- A control form in one word (R178), an opcode that the map leaves free (R191), a field that must be zero (R178), a guard above 24 (R179). -/
theorem test_decode_refuses :
    decode [0x01000000] = .error .oneWord ∧ decode [0x0D000000] = .error .opcode ∧ decode [0x23040820] = .error .reserved
    ∧ decode [0x10860850, 0x01900000] = .error .guard ∧ decode [0x10860850] = .error .truncated := by decide +kernel

/-! ## An ill-formed term for each check -/

/-- The agents and structures that do not exist (R3, R27, R33, R38, R46, R47, R136, R148, R315). -/
theorem test_illFormed_names :
    [Instr.tileOp ⟨.kapael, 12⟩, .tileOp ⟨.amdukor, 48⟩, .registerFill ⟨.kapael, 0, 8, 0⟩ 0, .registerFill ⟨.kapael, 0, 0, 16⟩ 0,
      .registerFill ⟨.kapael, 0, 0, 0⟩ 16, .parisonMerge ⟨.kapael, 0, 64⟩, .preempt ⟨.amdukor, 0, 128⟩, .formBatch ⟨.kapael, 8⟩,
      .loadReply (.wave ⟨.kapael, 0, 0, 0⟩ 4) 0, .loadReply (.firmware .kapael 12) 0, .budgetExhausted 256, .lineRecall ⟨.kapael, 2 ^ 41⟩,
      .moveStart ⟨0, 2 ^ 64⟩ .kapael, .pageWalk ⟨.wave ⟨.kapael, 12, 0, 0⟩ 0, 0, 0, .load⟩, .hostAccess ⟨256, 0, []⟩, .doorbellWptr ⟨0, 16⟩ 0, .flip 2 0,
      .firmwareEventTake .kapael 12, .profileSample ⟨.kapael, 0⟩ 8].all (fun i => !i.wf) = true := by decide +kernel

/-- A message longer than 8,128 bytes and one of a slot past the ring (R136). -/
theorem test_illFormed_message :
    (let m : Msg := { seq := 0, ack := 0, ty := 0, ctx := 0, rkey := 0, tag := 0, va := 0, aux0 := 0, aux1 := 0, time := 0, payload := [] };
      !(Instr.blowpipeHeaderWrite .kapael 4096 m).wf && !(Instr.blowpipeHeaderWrite .kapael 0 { m with payload := List.replicate 8129 0 }).wf
      && (Instr.blowpipeHeaderWrite .kapael 4095 { m with payload := List.replicate 8128 0 }).wf) = true := by decide +kernel

/-- Words: an instruction that needs two (R178), a reserved field, a bad guard (R179), an odd pair (R185), a pattern on an operand that is no vector
register (R187), JOB and JSTAT of the other file (R174). -/
theorem test_illFormed_words :
    [Instr.imad (g1 3 1 2 0), .not (g1 2 2 2 0), .iadd (g2 3 1 2 0 0 0 25), .ld (mf 5 3 0 5 0), .movi (gi 3 1 0 0 0),
      .qclr { g2 0 1 4 0 0 0 with w1 := some { c := 0, lrc := false, gp := 24, gn := false, la := 0, xa := 1, xb := 0, xc := 0, mh := 0 } },
      .jobWave (g1 0 6 0 1), .jobGaffer (g1 0 6 0 0), .jstatWave (g1 4 0 0 1), .jstatGaffer (g1 4 0 0 0)].all (fun i => !i.wf) = true := by decide +kernel

/-! ## Results from the specification's tables -/

/-- The table of R237's section. -/
theorem test_fpFunctions :
    [ofF (frcpOf (f32 0x40400000)), ofF (frcpOf (f32 1)), ofF (frsqOf (f32 0x40800000)), ofF (fsqrtOf (f32 0x40000000)), ofF (fex2Of (f32 0x3F000000)),
      ofF (fex2Of (f32 0xC3150000)), ofF (fex2Of (f32 0x43000000)), ofF (flg2Of (f32 1))]
    = [0x3EAAAAAB, 0x7F800000, 0x3F000000, 0x3FB504F3, 0x3FB504F3, 1, 0x7F800000, 0xC3150000] := by decide +kernel

/-- VDOT4.ZB of R242's section, and the two VDOT2 sums. -/
theorem test_dots :
    vdot4Of false true 0x04FD02FF 0x281E140A 100 = 200
    ∧ ofF (sumF fF32 .rn [(elem fBF16 false 0xC0003FC0 0).mul (elem fBF16 false 0x3E804080 0), (elem fBF16 false 0xC0003FC0 1).mul (elem fBF16 false 0x3E804080 1),
        f32 0x3F800000]) = 0x40D00000
    ∧ ofF (sumF fF32 .rn [(elem fBF16 false 0x3F803F80 0).mul (elem fBF16 false 0xBF803F80 0), (elem fBF16 false 0x3F803F80 1).mul (elem fBF16 false 0xBF803F80 1),
        f32 0x30800000]) = 0x30800000 := by decide +kernel

/-- CVT.S32.F32.RZ of 2.7 is 2, and in round-to-nearest of 2.7, of a large negative number and of a NaN (R244). -/
theorem test_cvt :
    cvtOf (g1 2 1 5 1) { lane := 0, a := [0x402CCCCD] } = [2] ∧ cvtOf (g1 2 1 5 0) { lane := 0, a := [0x402CCCCD] } = [3]
    ∧ cvtOf (g1 2 1 5 0) { lane := 0, a := [0xD01502F9] } = [0x80000000] ∧ cvtOf (g1 2 1 5 0) { lane := 0, a := [0x7FC00000] } = [0] := by decide +kernel

/-- BFE of the example of R220, unsigned and signed; PACK2.F16 of 1.0 and −2.5 (R245). -/
theorem test_fields :
    bfeOf false 0x00000B40 0x00000406 = 13 ∧ bfeOf true 0x00000B40 0x00000406 = -3
    ∧ pack2Of 0 false .rn 0x3F800000 0xC0200000 0 = 0xC1003C00 := by decide +kernel

/-! ## Steps of the part: a context with tables, queues and packets -/

/-- A pointer entry to the next table (R21), and the leaf of 16 GiB from address 0 on, COHERENT with R, W, A and D (R19). -/
def tablePtr (pa : Nat) : List Byte := bytesOf 8 (3 + 2 ^ 20 * (pa / 4096))
@[inherit_doc tablePtr] def bigLeaf : List Byte := bytesOf 8 (1 + 11 * 4 + 2 * 2 ^ 6 + 2 ^ 8 + 2 ^ 9 + 2 ^ 14 + 2 ^ 16 + 2 ^ 17)

/-- That leaf in a TLB. -/
def bigEntry : TlbEntry :=
  { core := none, ctx := 0, base := 0, size := 2 ^ 34, leaf := BitVec.ofNat 64 (1 + 11 * 4 + 2 * 2 ^ 6 + 2 ^ 8 + 2 ^ 9 + 2 ^ 14 + 2 ^ 16 + 2 ^ 17), entryPa := 0x104000 }

/-- A context of number 0 with debug enabled. -/
def ctx0 : Context := { num := 0, desc := { root := 0x100000, moveth := 1 }, dbg := { enable := true } }

/-- The part with boot done, that context and its tables, a user queue 0 and the management queue. -/
def base : State :=
  let m := [(0x100000, tablePtr 0x101000), (0x101000, tablePtr 0x102000), (0x102000, tablePtr 0x103000), (0x103000, tablePtr 0x104000),
    (0x104000, bigLeaf)].foldl (fun m e => Memory.writeN m e.1 e.2) []
  { State.reset with
    memK := m, ctxs := [ctx0], hostUp := true, kap := { State.reset.kap with ptime := 1000000000, boot := 3 }
    queues := [(⟨0, 0⟩, { newQueue { stateVa := 0x300000, ring := 0x310000, rwords := 256, cring := 0x320000, centries := 16 } false with bell := true })]
    mq := some { newQueue { ring := 0x10000, rwords := 256, cring := 0x20000, centries := 16 } true with bell := true } }

/-- A packet: type, body, number. -/
def pkt (ty : Nat) (body : List Word) (seq : Word := 0) : Packet := { hdr := BitVec.ofNat 32 (ty * 2 ^ 24 + body.length * 2 ^ 16 + 1), seq := seq, body := body }

/-- The state with a packet written at the start of a ring, and its doorbell taken. -/
def ringed (k : QKey) (p : Packet) (s : State) : State :=
  let b := bytesOfWords (p.hdr :: p.seq :: p.body)
  let s := s.onQueue k fun q => { q with wptr := 2 + p.body.length }
  match k with
  | some _ => { s with memK := Memory.writeN s.memK 0x310000 b }
  | none => { s with memH := Memory.writeN s.memH 0x10000 b }

/-- Whether taking a packet comes to its act, of which a condition holds. -/
def took (t : Taken) (c : State → Bool := fun _ => true) : Bool :=
  match t with
  | .act s => c s
  | .off _ => false

/-- Whether a firmware access is made, and a condition holds of what it brings. -/
def okAnd {α : Type} (r : FwRes α) (c : α → Bool := fun _ => true) : Bool :=
  match r with
  | .ok x => c x
  | _ => false

/-- The state with its user queue changed, and with its context changed. -/
def onQ (f : Queue → Queue) (s : State) : State := { s with queues := s.queues.map fun e => (e.1, f e.2) }
@[inherit_doc onQ] def onC (f : Context → Context) (s : State) : State := { s with ctxs := s.ctxs.map f }

/-- The user queue of the tests. -/
def q0 : QueueRef := ⟨0, 0⟩

/-- PacketsComplete: each packet taken; a GRAPH of no table, of an idle one and of one that runs; a TSIG whose token can be
signalled; a TWAIT as the fourth; a CKPT of a context that is restartable and of one that is not, with a checkpoint under way and without;
and NOPK. -/
theorem witness_packets :
    (let one := fun (s : State) (p : Packet) (ty : Nat) (fits : Bool) (c : State → Bool) => took ((ringed (some q0) p s).takePacket (some q0) p ty fits) c;
      one base (pkt 1 [1, 0]) 0x01 (decide ((pkt 1 [1, 0]).len = 1 + popcount 1) && decide (1 ≤ (pkt 1 [1, 0]).len)) (fun t => (t.queue (some q0)).isSome)
      && [[], [{ num := 2, nodes := [] }], [{ num := 2, nodes := [], run := some (0, true) }]].all (fun (g : List GTable) =>
        one (onQ (fun q => { q with tables := g }) base) (pkt 2 [2]) 0x02 (decide ((pkt 2 [2]).len = 1))
          fun t => ((t.queue (some q0)).bind fun q => q.table 2) == g.head?)
      && [0x200000, 0x200001].all (fun (va : Nat) => one base (pkt 3 [BitVec.ofNat 32 va, 0, 1]) 0x03 (decide ((pkt 3 [0, 0, 1]).len = 3)) (fun t =>
        match t.fwSignal ⟨base.queueDie (some q0), .queue (some q0)⟩ 0 va { n := 1, gd := 0, gp := 0, dies := 3, core := 0, multi := true } with
        | .ok _ => va == 0x200000
        | .bad _ _ _ => va == 0x200001
        | .wait _ => false))
      && one (onQ (fun q => { q with twaits := [(0, 0), (0, 0), (0, 0)] }) base) (pkt 4 [0x200000, 0, 1, 0]) 0x04
        (decide ((pkt 4 [0, 0, 1, 0]).len = 4) && !decide (4 ≤ 3)) (fun _ => true)
      && (let s := onC (fun c => { c with desc := { c.desc with restart := true }, resident := .amdukor })
              { base with pairState := 3, memA := base.memK, kap := { base.kap with tlb := [bigEntry] } };
        [none, some { num := 1 }].all fun (k : Option Checkpoint) =>
          one (onC (fun c => { c with ckpt := k }) s) (pkt 5 []) 0x05 true fun t =>
            (t.ctx 0).any fun c => t.ckptApplies c && c.mig == Mig.none && c.ckpt.isSome == k.isSome)
      && one base (pkt 5 []) 0x05 true (fun t => (t.ctx 0).any fun c => !t.ckptApplies c)
      && one base (pkt 7 [1, 2]) 0x07 true (fun _ => true)) = true := by
  decide +kernel

/-- PacketsAreChecked: the packet that a ring holds and another; packets in and out of sequence, of another type and with reserved bits; and one of a
context that has ended. -/
theorem witness_checks :
    ([(pkt 7 [1] 0, true), (pkt 7 [] 5, true), ({ pkt 7 [] with hdr := 0x07000004 }, true), (pkt 5 [], false)].all fun (e : Packet × Bool) =>
      let s := ringed (some q0) e.1 base;
      (s.queue (some q0)).any fun q => s.mayTake (some q0) q e.1 && match s.readPacket (some q0) q with
        | .ok (t, h) => h == some e.1 && h != some (pkt 6 []) && ((t.ctx 0).bind (·.ended)).isNone && (q.cseq + 1 == 0)
            && ((e.1.seq == 5) || (e.1.type == 7) == e.2)
        | _ => false) = true
    ∧ (let s := ringed (some q0) (pkt 7 []) (onC (fun c => { c with ended := some 11 }) base);
      (s.queue (some q0)).any fun q => s.mayTake (some q0) q (pkt 7 []) && match s.readPacket (some q0) q with
        | .ok (t, some _) => ((t.ctx 0).bind (·.ended)) == some 11
        | _ => false) = true
    ∧ (let s := ringed none (pkt 0x10 [1]) base;
      s.mq.any fun q => s.mayTake none q (pkt 0x10 [1]) && match s.readPacket none q with
        | .ok (_, h) => h == some (pkt 0x10 [1])
        | _ => false) = true := by
  decide +kernel

/-- PacketsComplete: the registers of queues, and MQDESC of a good management queue where none exists; and the part before its host link
has trained. -/
theorem witness_registers :
    (base.hostUp && base.kap.boot == 3 && (base.queue (some q0)).isSome && base.mq.isSome && !State.reset.hostUp
      && (let d := List.replicate 9 0 ++ [1] ++ List.replicate 14 0 ++ [16] ++ List.replicate 39 (0 : Byte);
        ({ base with mq := none, mqdesc := d } : State).mq.isNone && !qdescBad d true)) = true := by
  decide +kernel

/-- An image with one entry at word 0, and a launch descriptor of one block of 32 items for it. -/
def im0 : Image := { id := 0, va := 0x400000, codew := 2, dataVa := 0x401000, sps := [{ wofs := 0, fwofs := 0, vlive := 0, slive := 0, plive := 0 }]
                     entries := [{ wofs := 0, maxv := 4 }] }
@[inherit_doc im0] def desc0 : List Word := [0x400000, 0, 1, 1, 1, 0x01010020, 0, 0, 0, 0x0108] ++ List.replicate 22 0

/-- Whether a management packet in the ring is taken, is a service with so many arguments, and names a live context, and a condition holds of
the state and the context. -/
def serves (s : State) (p : Packet) (code args : Nat) (c : State → Context → Bool := fun _ _ => true) : Bool :=
  let s := ringed none p s
  svcCode p == code && (s.ctx (svcCtx p)).any (c s) && p.len == 1 + args
    && took (s.takePacket none p 0x10 ((p.len == 1 + args) && decide (1 ≤ p.len) && Word.bits (p.word 0) 31 24 == 0))

/-- A management packet of context 0. -/
def svcPkt (code : Nat) (args : List Word) : Packet := pkt 0x10 (BitVec.ofNat 32 code :: args)

/-- ServicesComplete: CTX_CREATE of a new and of a live number; CTX_DESTROY with a block that has stopped and with one that has not; CTX_UPDATE of a
bad descriptor, of a good one, and of one with another root while nothing of the context runs and while something does. -/
theorem witness_services :
    ([0, 1].all (fun (n : Nat) => let p := pkt 0x10 [BitVec.ofNat 32 (n * 0x10000 + 1), 0, 0];
        let s := ringed none p base;
        took (s.takePacket none p 0x10 ((p.len == 3) && decide (1 ≤ p.len) && Word.bits (p.word 0) 31 24 == 0)) && svcCode p == 1
          && (s.ctx (svcCtx p)).isNone == (n == 1) && !ctxDescBad (s.hostBytes (p.dword 1) 128) && decide (0 ≤ s.freeOn .kapael))
      && [WStatus.running, .ended].all (fun w =>
        let w0 : Wave := { block := some ref0, status := w, slots := [some { act := 1 }, none, none, none],
                           ops := if w = .running then [{ id := 0, kind := .store, ctr := some .stc }] else [] };
        serves { base with blocks := [(ref0, { launch := 0, ctx := 0, queue := 0, bindex := 0 })], waves := [(wave0, w0)] }
          (svcPkt 0x02 []) 0x02 0 fun s c => c.mig == Mig.none && s.moves.isEmpty
            && (let u := s.stopAll (s.ctxBlocks 0); (u.ctxBlocks 0).any fun e => (u.blockStill e.1 == (w == .ended))))
      && [0, 1].all (fun (n : Nat) =>
        let s := { base with memH := Memory.writeN [] 0 (bytesOf 8 (0x100000 + 0x100000 * n)) ++ [⟨200, 1⟩] };
        let good := fun (s : State) (c : Context) => let d := ctxDescOf (s.hostBytes 0 128);
          (d.root == c.desc.root) == (n == 0) && d.rkey == c.desc.rkey && decide (c.wantReserve d ≤ c.reserve) && !ctxDescBad (s.hostBytes 0 128);
        serves s (svcPkt 0x03 [0, 0]) 0x03 2 (fun s c => good s c && !s.ctxBusy c.num)
          && serves { s with waves := [(wave0, {})] } (svcPkt 0x03 [0, 0]) 0x03 2 (fun s c => good s c && s.ctxBusy c.num))
      && serves { base with memH := [⟨200, 1⟩] } (svcPkt 0x03 [100, 0]) 0x03 2 (fun s _ => ctxDescBad (s.hostBytes 100 128))) = true := by
  decide +kernel

/-- ServicesComplete: QUEUE_CREATE of a queue that stays on Kapael, and of the first that follows its context to Amdukor, which the context then
moves to; QUEUE_RESET of a queue with work that has stopped and with work that has not, and of none. -/
theorem witness_queues :
    ([0, 1].all (fun (n : Nat) =>
        let s := { base with pairState := if n = 0 then 0 else 2, amd := { base.amd with tlb := [bigEntry] }
                             memH := Memory.writeN [] 0 (bytesOf 8 0x500000 ++ bytesOf 4 256 ++ bytesOf 4 0 ++ bytesOf 8 0x501000 ++ bytesOf 4 16
                               ++ bytesOf 1 n ++ bytesOf 3 0 ++ bytesOf 8 0x502000) };
        serves s (svcPkt 0x04 [1, 0, 0]) 0x04 3 fun s c =>
          let d := qdescOf (s.hostBytes 0 64);
          (s.queue (some ⟨0, 1⟩)).isNone && !qdescBad (s.hostBytes 0 64) false && d.place == n && c.resident == .kapael && c.ended.isNone
            && (match s.queuePages (if d.place = 0 ∨ s.docked = false then .kapael else .amdukor) 0 d with
              | .ok t => t.queues.all (fun e => e.2.desc.place == 0)
                  && (let u : State := ({ t with queues := t.queues ++ [(⟨0, 1⟩, newQueue d false)] } : State).writeState (some (⟨0, 1⟩ : QueueRef));
                    (u.ctx 0).isSome && (n == 0 || u.pairState == 2))
              | _ => false))
      && [WStatus.running, .ended].all (fun w =>
        let w0 : Wave := { block := some ref0, status := w, slots := [some { act := 1 }, none, none, none],
                           ops := if w = .running then [{ id := 0, kind := .store, ctr := some .stc }] else [] };
        serves { base with blocks := [(ref0, { launch := 0, ctx := 0, queue := 0, bindex := 0 })], waves := [(wave0, w0)] }
          (svcPkt 0x05 [0, 7]) 0x05 2 fun s c => c.mig == Mig.none && (s.queue (some q0)).isSome
            && (let u := s.stopAll (s.queueBlocks q0); (u.queueBlocks q0).any fun e => (u.blockStill e.1 == (w == .ended))))
      && serves base (svcPkt 0x05 [1, 7]) 0x05 2 (fun s _ => (s.queue (some ⟨0, 1⟩)).isNone)) = true := by
  decide +kernel

/-- ServicesComplete: GRAPH_LOAD of a table of one node, GRAPH_UNLOAD of a table that runs and of one that does not, INVALIDATE as it begins and as it
ends, OBJ_CLEAR, CKPT_INTERVAL on both sides of its bounds, FRAME_ALLOC and FRAME_FREE. -/
theorem witness_services2 :
    ((let b := bytesOf 64 1 ++ bytesOfWords desc0 ++ bytesOf 64 0;
        serves (onC (fun c => { c with images := [im0] }) { base with memK := Memory.writeN base.memK 0x600000 b })
          (svcPkt 0x06 [0, 2, 0x600000, 0]) 0x06 4 (fun s c => (s.queue (some q0)).any (fun q => (q.table 2).isNone) && match s.fwRead ⟨.kapael, .queue none⟩ 0 .load 0x600000 64 with
          | .ok (t, h) => fieldOf h 0 4 == 1 && fieldOf h 4 60 == 0 && (match t.fwRead ⟨.kapael, .queue none⟩ 0 .load 0x600040 192 with
            | .ok (u, b) => u.nodesCheck c .kapael 1 [slice b 0 192] == 0
            | _ => false)
          | _ => false))
      && [none, some (0, true)].all (fun (r : Option (Word × Bool)) =>
        serves (onQ (fun q => { q with tables := [{ num := 2, nodes := [], run := r }] }) base) (svcPkt 0x07 [0, 2]) 0x07 2 fun s _ =>
          ((s.queue (some q0)).bind fun q => q.table 2).any fun g => g.run == r)
      && [none, some 0].all (fun (v : Option Word) =>
        let p := svcPkt 0x09 [0, 0, 0x1000, 0];
        serves { base with svc := v } p 0x09 4 fun s c => !s.pinChanged c 0 0x1000 && s.begun p == v.isSome && s.shotDown .kapael 0 0 0x1000)
      && serves { base with memK := Memory.writeN base.memK (0x104000 + 8 * 64) (bytesOf 8 (1 + 8 * 4 + 3 * 2 ^ 6 + 2 ^ 8 + 2 ^ 9)) }
        (svcPkt 0x0A [0x1000, 4, 1]) 0x0A 3 (fun s c => (s.leafOf c 0x400001000).any fun e => leafCls e.2 == .object && s.reachable (leafHome e.2)
          && !leafMv e.2 && (s.crucible (sliceOf (lineAt (leafHome e.2) (leafPa e.2 0x400001000)))).batch.isEmpty)
      && [9, 10, 1000, 1001].all (fun (n : Nat) => serves base (svcPkt 0x0B [BitVec.ofNat 32 n]) 0x0B 1)
      && serves (onC (fun c => { c with desc := { c.desc with quotaK := 1000 } }) base) (svcPkt 0x0D [0, 0, 2, 0, 0]) 0x0D 5 (fun s _ =>
        match s.allocMany 0 .kapael 4096 2 with
          | .ok (_, l) => l.length == 2
          | _ => false)
      && [[], [({ die := .kapael, pa := 0x2000, size := 4096 } : Frame)]].all (fun l =>
        serves (onC (fun c => { c with frames := l }) base) (svcPkt 0x0E [0, 0, 0x2000, 0]) 0x0E 4
          fun _ c => c.frames.contains { die := .kapael, pa := 0x2000, size := 4096 } == !l.isEmpty)) = true := by
  decide +kernel

/-- A frit image of one word, EXIT, with a region and an entry at it (R194 to R196). -/
def frit0 : List Byte :=
  bytesOf 4 0x54495246 ++ bytesOf 4 1 ++ List.replicate 16 0 ++ bytesOf 4 1 ++ bytesOf 4 1 ++ bytesOf 4 1 ++ bytesOf 4 0 ++ List.replicate 24 0
    ++ bytesOf 4 0x07000000 ++ List.replicate 24 0 ++ List.replicate 48 0 ++ List.replicate 52 (0 : Byte)

/-- ServicesComplete: FINALISE of a frit image of one word to a page that admits it. -/
theorem witness_finalise :
    (let s := { base with memK := Memory.writeN (Memory.writeN base.memK (0x104000 + 8 * 64) (bytesOf 8 (1 + 8 * 4 + 2 ^ 6 + 2 ^ 8 + 2 ^ 10))) 0x600000 frit0 };
      serves s (svcPkt 0x08 [0x600000, 0, 0x1000, 4, 0x1000]) 0x08 5 fun s _ => (match s.readFrit 0 0x600000 with
        | .ok (t, f) => fritHeaderOk f && (match lehr f with
          | .ok x => decide (x.bytes.length ≤ 0x1000) && okAnd (t.fwRange ⟨.kapael, .queue none⟩ 0 .fetch 0x400001000 x.bytes.length) fun e =>
              ((e.1.homeStore ⟨.kapael, .queue none⟩ 0 e.2 x.bytes).ctx 0).isSome
          | _ => false)
        | _ => false)
        && lowestFree (fun n => ctx0.images.any fun (i : Image) => i.id == n) 65536 == some 0) = true := by
  decide +kernel

/-! ## Steps of the part: DEBUG, firmware, heads, boot, link -/

/-- Whether a DEBUG packet in the ring of an operation with so many arguments is taken, and names a live context that admits it, and a condition
holds of the state. -/
def servesDbg (s : State) (p : Packet) (op args : Nat) (c : State → Bool := fun _ => true) : Bool :=
  let s := ringed none p s
  svcCode p == 0x0C && debugOp p == op && (s.ctx (svcCtx p)).any (fun c => op == 1 || c.dbg.enable) && p.len == 2 + args
    && Word.bits (p.word 1) 31 8 == 0 && c s
    && took (s.takePacket none p 0x10 ((p.len == 2 + args && Word.bits (p.word 1) 31 8 == 0) && decide (1 ≤ p.len) && Word.bits (p.word 0) 31 24 == 0))

/-- A DEBUG packet of context 0. -/
def dbgPkt (op : Nat) (args : List Word) : Packet := svcPkt 0x0C (BitVec.ofNat 32 op :: args)

/-- The base state with a held wave of 8 registers whose split has lanes 0 and 1, and a held parison. -/
def heldState : State :=
  { onC (fun c => { c with images := [im0] }) base with
    waves := [(wave0, { allot := 8, status := .held, live := 3, slots := [some { act := 3, pos := { ord := 0 } }, none, none, none] })]
    pars := [(par0, { block := ref0, box := ⟨0, 0, 0, 0, 0, 0⟩, status := .held })] }

/-- The two operations of DEBUG that act on a record, LOAD of what DUMP has written. -/
def loads (s : State) : Bool :=
  match s.heldBy 0 0 with
  | some h => decide ((s.heldRecord h).length ≤ 0x1000) && okAnd (s.fwWrite ⟨.kapael, .queue none⟩ 0 .store 0x600000 (s.heldRecord h)) fun s =>
      servesDbg s (dbgPkt 8 [0, 0x600000, 0]) 8 3 fun s => match s.fwRead ⟨.kapael, .queue none⟩ 0 .load 0x600000 8 with
        | .ok (t, h) => decide (512 ≤ fieldOf h 4 4) && decide (fieldOf h 4 4 ≤ 9648) && (match t.fwRead ⟨.kapael, .queue none⟩ 0 .load 0x600000 (fieldOf h 4 4) with
          | .ok (u, b) => (u.image 0 (fieldOf b 8 2)).any fun im => u.waves.all fun e => !waveBad im b e.2.allot
              && okAnd (u.placeAll .kapael 0 im ((e.2.load b).slots ++ (e.2.load b).pend.map some))
          | _ => false)
        | _ => false
  | none => false

/-- DebugServicesComplete: every operation, with a held wave and a held parison for those that name one, RESUME of everything and of an id that nothing
is held under; LOAD reads the record that DUMP writes. -/
theorem witness_debug :
    ([servesDbg base (dbgPkt 1 [0x35, 0, 0, 0, 0, 0, 0]) 1 7, Word.bits (0x35 : Word) 31 9 == 0, Word.bits (0x35 : Word) 7 3 == 6,
      servesDbg base (dbgPkt 2 [0x30000, 0]) 2 2, servesDbg base (dbgPkt 3 [3]) 3 1, servesDbg base (dbgPkt 4 []) 4 0,
      servesDbg heldState (dbgPkt 5 [0]) 5 1 (fun s => (s.heldBy 0 0).isSome), servesDbg heldState (dbgPkt 5 [1]) 5 1 (fun s => (s.heldBy 0 1).isNone),
      servesDbg heldState (dbgPkt 5 [0xFFFFFFFF]) 5 1,
      servesDbg heldState (dbgPkt 6 [0, 0]) 6 2 (fun s => (s.heldBy 0 0).isSome && !s.blockStops none
        && s.waves.all fun e => e.2.live.getLsbD 0 && !e.2.helper.getLsbD 0 && (e.2.rejoinAll.focus 0).isSome),
      servesDbg heldState (dbgPkt 7 [0, 0x600000, 0, 0x1000]) 7 4 (fun s => match s.heldBy 0 0 with
        | some h => decide ((s.heldRecord h).length ≤ 0x1000) && okAnd (s.fwWrite ⟨.kapael, .queue none⟩ 0 .store 0x600000 (s.heldRecord h))
        | none => false),
      loads heldState,
      servesDbg heldState (dbgPkt 9 [0]) 9 1 (fun s => match s.heldBy 0 0 with | some (.wave _ _) => true | _ => false),
      servesDbg heldState (dbgPkt 9 [0x80000000]) 9 1 (fun s => match s.heldBy 0 0x80000000 with | some (.par _ _) => true | _ => false)].all id) = true := by
  decide +kernel

/-- A stopped wave with a cause, whose handler's window is bound to it. -/
def handled (c : Cause) (on hold : Bool) : State :=
  let s := onC (fun x => { x with dbg := { enable := on, faultHold := hold } }) base
  { s.putFw .kapael 0 { busy := true, window := .wave wave0 } with waves := [(wave0, { status := .stopped, causes := [{ cause := c, sub := .none }] })] }

/-- BudgetStepsComplete: a budget that is spent, a period that is over, and reports that are due on either die. -/
theorem witness_budgets :
    ([(let s := onC (fun c => { c with desc := { c.desc with budget := 1 }, charge := 1000 }) base;
        (s.ctx 0).any fun c => c.desc.budget != 0 && !c.heldBudget && decide (1000 * c.desc.budget ≤ c.charge)
          && decide (c.created + (c.periodNo + 1) * (1000 * c.desc.periodUs) ≤ s.now .kapael)),
      decide ((base.die .kapael).report < base.now .kapael / 100000),
      (let s := { base with amd := { base.amd with ptime := 1000000 } };
        decide ((s.die .amdukor).report < s.now .amdukor / 100000))].all id) = true := by
  decide +kernel

/-- FirmwareStepsComplete: events of either queue, of a stopped wave and of one that is stopped no more; causes of each treatment; and a window whose
wave has no cause left. -/
theorem witness_firmware :
    ([[FwEvent.doorbell q0, .mgmtDoorbell, .trap wave0 0 0, .trap ⟨.kapael, 0, 0, 1⟩ 0 0].all (fun e =>
        let s := { base with kap := { base.kap with events := [e] }, waves := [(wave0, { status := .stopped, causes := [{ cause := .illegal, sub := .none }] })] };
        let t := s.setDie .kapael { s.die .kapael with events := (s.die .kapael).events.erase e }.refill;
        !(s.fwCore .kapael 0).busy && (s.die .kapael).events.find? s.eventRuns == some e
          && (t.trapTarget e).isSome == (e == .trap wave0 0 0)),
      [Cause.bkpt, .step, .halt, .illegal].all (fun c => [false, true].all fun on => [false, true].all fun hold =>
        let s := handled c on hold;
        (s.fwCore .kapael 0).busy && (s.fwCore .kapael 0).window == .wave wave0 && !(delivery (s.boundCauses (.wave wave0))).isEmpty
          && s.boundCtx (.wave wave0) == some 0 && ((s.ctx 0).map (·.dbg)).any fun d => d.enable == on && d.faultHold == hold),
      (let s := { handled .bkpt false false with waves := [(wave0, { status := .stopped })] };
        (s.fwCore .kapael 0).busy && (s.fwCore .kapael 0).window == .wave wave0 && (delivery (s.boundCauses (.wave wave0))).isEmpty)].all id) = true := by
  decide +kernel

/-- BudgetStepsComplete: a partition that is due a sample. -/
theorem witness_profile :
    (let s0 := onC (fun x => { x with dbg := { sample := true, k := 6, sampleVa := 0x600000 } }) base;
      let s := { s0 with kap := { s0.kap with cycle := 100 }, blocks := [(ref0, { launch := 0, ctx := 0, queue := 0, bindex := 0 })] };
      let c : CoreRef := ⟨.kapael, 0⟩;
      let now := (s.die c.die).cycle.toNat;
      (s.ctxs.filter fun x => x.dbg.sample && now / 2 ^ x.dbg.k != nth (s.core c).sampled 0 0 / 2 ^ x.dbg.k
        && s.blocks.any fun e => decide (e.1.die = c.die) && e.1.core == c.core && e.2.ctx == x.num).length == 1) = true := by
  decide +kernel

/-- HeadStepsComplete: a mode that is consistent and one that is not, the last active line and a line before it, training, AUX and hot plug on either
side of their conditions, and offsets at the bounds of each range of registers. -/
theorem witness_heads :
    (let x : Head := { hstatus := 0x147, htime0 := 0x08980780, htime1 := 0x080407D8, vtime0 := 0x04650438, vtime1 := 0x0441043C, pclk := 148500, line := 0x437 };
      [x.modeOk 0 1, !x.modeOk 0 0xD, Word.bit x.hstatus 0, x.line.toNat + 1 == Word.bits x.vtime0 15 0,
        (let y := { x with line := 0x464 };
          decide ((y.line.toNat + 1) % Word.bits y.vtime0 31 16 < Word.bits y.vtime0 15 0)),
        (let y := { x with line := 0x440 };
          decide (Word.bits y.vtime0 15 0 < (y.line.toNat + 1) % Word.bits y.vtime0 31 16)),
        Word.bit ({ x with hctl := 1 } : Head).hctl 0,
        base.hostUp && base.kap.boot == 3, !State.reset.hostUp, trainable 0 4 3 && decide (4 ≤ Word.bits (0x304 : Word) 2 0) && decide (3 ≤ Word.bits (0x304 : Word) 10 8), trainable 1 2 6, !trainable 0 3 0, Word.bit x.hstatus 2, !Word.bit ({} : Head).hstatus 2, !Word.bit ({} : Head).hctl 0,
        ({ x with linkctl := 1 } : Head).linkctl != 0, ({ x with auxgo := 1 } : Head).auxgo != 0,
        [0x100, 0x13C, 0x2000, 0x3FFC, 0x4010, 0x401C, 0x6000, 0x63FC].all fun (n : Nat) => n % 4 == 0].all id) = true := by
  decide +kernel

/-- The pair docked, with the base context. -/
def docked0 : State := { base with pairState := 3, link := .l0, amd := { base.amd with boot := 3, ptime := 1000000000 } }

/-- BootAndPairStepsComplete: attestation asked for and under way, training of the host link to a width and speed and to none, after it has gone down and
not; a cable that comes, that trains and that fails to; a pairing; the exchange of time; refresh with errors of either kind in the group and
without; an undocking that fits and one that does not; migration and a checkpoint's interval. -/
theorem witness_boot :
    ([base.hostUp, !Word.bit base.attctl 0, Word.bit ({ base with attctl := 1 } : State).attctl 0, base.kap.boot == 3,
      hostOk 4 64 && !hostOk 3 64 && !hostOk 4 5, hostOk base.hostEnds.1 base.hostEnds.2, !(let s := { base with hostEnds := (3, 64) }; hostOk s.hostEnds.1 s.hostEnds.2), (let s := { base with hostUp := false, hostDownAt := some 999900000 };
        s.hostDownAt.any fun t => decide (s.now .kapael ≤ t + 300000)), !State.reset.hostUp,
      decide (base.link = .down), base.pairState == 0,
      (let s := { base with pairState := 1, cable := some (4, 64), amd := { base.amd with boot := 3 } };
        s.cable == some (4, 64) && !s.amd.bootFail && cableOk 4 64 && s.amd.boot == 3 && !cableOk 1 64),
      (let s := { base with pairState := 1, link := .l0 };
        decide (s.amdPub = [])),
      (let s := { base with pairState := 1, link := .l0, amdPub := [1] };
        !s.docked && s.amdPub != []),
      [none, some false, some true].all (fun w => ({ base with kap := { base.kap with writing := w } } : State).kap.writing.any
        (fun w => (if w then 1 else 0) == 1) == (w == some true)),
      docked0.docked, decide (docked0.link = .l0), docked0.fwIdle .amdukor,
      [false, true].all (fun double =>
        let f : Flaw := { at_ := .weight .kapael 0, double := double };
        let g := (base.die .kapael).ptime.toNat / (base.die .kapael).phase % 8;
        [0, 1].all fun k => ({ base with flaws := [{ f with at_ := .weight .kapael ((g + k) % 8 * 2 ^ 18) }] } : State).flaws.any (fun f => match f.at_ with
          | .weight e k => e == .kapael && k / 2 ^ 18 % 8 == g
          | _ => false) == (k == 0)),
      !docked0.undockReq, docked0.undockFits, !(onC (fun c => { c with resident := .amdukor, desc := { c.desc with quotaK := 0 }, usedA := 2 ^ 40 }) docked0).undockFits,
      (docked0.ctx 0).isSome,
      (let s := onC (fun c => { c with resident := .amdukor, desc := { c.desc with restart := true } }) docked0;
        (s.ctx 0).any fun c => c.ckpt.isNone && c.mig == Mig.none && s.ckptApplies c && decide (c.lastCommit + 1000000 * c.ckptMs ≤ s.now c.resident))].all id)
      = true := by
  decide +kernel

/-- R388, R389: a slot that is written is made active and not yet healthy; a command for it aborts the write, and one for the other slot does not. -/
theorem test_slot_written :
    ((match execSlotBegin .kapael true base with
      | .next s => (match execSlotDone .kapael { bytes := List.replicate 4 0 ++ [7] } s with
        | .next t => t.kap.activeB && !t.kap.healthy && t.kap.tries == 0 && t.kap.slotB.svn == 7 && t.kap.slotA.svn == 0
        | _ => false) && (s.abortWrite 1).kap.writing == none && (s.abortWrite 0).kap.writing == some true
      | _ => false)) = true := by
  decide +kernel

/-- R392: counts saturate. -/
theorem test_counts_saturate : more32 4294967295 = 4294967295 ∧ more16 65535 = 65535 ∧ more16 65534 = 65535 := by decide +kernel

/-- LinkStepsComplete: a heartbeat that is due and one that is missing, each state of the link, a RESYNC that comes and one that does not, a header that is
expected and one that is out of place, and a delivery that is not yet acknowledged. -/
theorem witness_link :
    ([docked0.linkUp, decide ((docked0.die .kapael).beatAt + 100000 ≤ docked0.now .kapael), decide ((docked0.pipe .kapael).heardAt + 300000 < docked0.now .kapael),
      (let s := { docked0 with link := .outOfL0, linkAt := docked0.now .kapael };
        decide (s.now .kapael ≤ s.linkAt + 300000)),
      (let s := { docked0 with link := .recovering };
        !(s.pipe .kapael).sawResync && decide (s.linkAt + 20000 ≤ s.now .kapael)),
      (let m := docked0.mkMsg .amdukor tyRdReq 0 0;
        ((docked0.pipe .kapael).receive 0 m).2 && !((docked0.pipe .kapael).receive 1 m).2),
      (let s := docked0.setPipe .kapael { sinceAck := 1 };
        (s.pipe .kapael).sinceAck != 0 && s.linkUp && !decide (((s.pipe .amdukor).e - (s.pipe .kapael).a).toNat < ((0 : BitVec 16) - (s.pipe .kapael).a).toNat))].all id) = true := by
  decide +kernel

/-! ## Steps of the part: messages -/

/-- The docked pair with a message of a type, from the other member, that a die delivers next; the pages of the context stand on Kapael. -/
def inbox (d : Die) (ty va : Nat) (f : Msg → Msg := id) (s : State := docked0) : State :=
  let m := f (s.mkMsg (otherDie d) ty 0 va)
  s.setPipe d { s.pipe d with slots := [(0, slotPut (slotPut [] 64 m.payload) 0 (headerOfMsg m))] }

/-- Whether a message of a type is delivered, of which a condition holds. -/
def comes (s : State) (d : Die) (ty : Nat) (c : State → Msg → Bool := fun _ _ => true) : Bool :=
  match s.deliver d ty with
  | some (t, m) => c t m
  | none => false

/-- Whether a message passes the checks of R140 for an access. -/
def passes (t : State) (d : Die) (m : Msg) (acc : Access) : Bool :=
  match t.accessCheck d m acc with
  | .ok _ => true
  | _ => false

/-- A state in which a wave's load of lane 0 waits, and one with an open request under tag 0. -/
def loading (k : OpKind := .load 0) : State :=
  { docked0 with waves := [(wave0, { ops := [{ id := 0, kind := k, ctr := some .ldc, vdst := [4], mask := 1, reqs := [{ lane := 0, va := 0x200000, place := .mem .kapael 0x200000, leaf := BitVec.ofNat 64 (natOf bigLeaf), size := 4 }] }] })] }
@[inherit_doc loading] def opened (q : ReqFor) (d : Die) (s : State) : State := s.setPipe d { s.pipe d with open_ := [(0, q)] }

/-- The wave's split of the tests, and the line it loads from. -/
def agent0 : AgentId := .wave wave0 0
@[inherit_doc agent0] def line0 : LineRef := lineAt .kapael 0x200000

/-- MessagesComplete: reads, writes, bundles, entries and token signals with their answers. -/
theorem witness_messages :
    ([comes (inbox .kapael tyRdReq 0x200000) .kapael tyRdReq (fun t m => passes t .kapael m .load && m.aux0.toNat % 4 != 2
          && !(decide (leafCls (BitVec.ofNat 64 (natOf bigLeaf)) = .object) && t.slotBusy .kapael 0x200000)),
      [(2, Access.load), (8, .engineRead)].all (fun (e : DWord × Access) => comes (inbox .kapael tyRdReq 0x200000 fun m => { m with aux0 := e.1 }) .kapael tyRdReq
        fun t m => passes t .kapael m e.2),
      [tyRdReq, tyWrReq].all (fun ty =>
        let b : Bundle := { agent := agent0, op := 0, die := .kapael, core := 0, ctx := 0, key := .object line0 0x200000 1, reqs := [] };
        let s := ({ docked0 with memK := Memory.writeN docked0.memK 0x104000 (bytesOf 8 (natOf bigLeaf + 2 ^ 6)) } : State).putCrucible (sliceOf line0)
          { slice := (sliceOf line0).slice, batch := [b] };
        comes (inbox .kapael ty 0x200000 (fun m => { m with aux0 := 8 }) s) .kapael ty fun t m => match t.accessCheck .kapael m (if ty = tyRdReq then .engineRead else .engineWrite) with
          | .ok (leaf, pa) => leafCls leaf == .object && t.slotBusy (leafHome leaf) pa
          | _ => false),
      comes (inbox .kapael tyRdData 0x200000 id (opened (.far (.job 0) 0 0x200000 line0) .kapael docked0)) .kapael tyRdData (fun t m =>
        (t.closeTag .kapael m.tag).any fun e => e.2 == .far (.job 0) 0 0x200000 line0),
      comes (inbox .kapael tyRdData 0x200000 id (opened (.fill agent0 .load 0 0x200000 0 line0) .kapael docked0)) .kapael tyRdData (fun t m =>
        (t.closeTag .kapael m.tag).any fun e => e.2 == .fill agent0 .load 0 0x200000 0 line0),
      comes (inbox .kapael tyWrAck 0x200000 id (opened (.farWrite (.job 0) 0 0x200000 0) .kapael docked0)) .kapael tyWrAck (fun t m =>
        (t.closeTag .kapael m.tag).any fun e => e.2 == .farWrite (.job 0) 0 0x200000 0),
      comes (inbox .kapael tyWrAck 0x200000 id (opened (.token agent0 0 0x200000) .kapael docked0)) .kapael tyWrAck (fun t m =>
        (t.closeTag .kapael m.tag).any fun e => e.2 == .token agent0 0 0x200000),
      comes (inbox .kapael tyRdData 0x200000 id (opened (.read agent0 0 line0) .kapael (loading))) .kapael tyRdData (fun t m =>
        (t.closeTag .kapael m.tag).any fun e => e.2 == .read agent0 0 line0 && !refusedMsg m && (e.1.agentOp agent0 0).isSome),
      comes (inbox .kapael tyWrReq 0x200000) .kapael tyWrReq (fun t m => passes t .kapael m .store),
      comes (inbox .kapael tyWrAck 0x200000 id (opened (.write agent0 0 line0) .kapael (loading .store))) .kapael tyWrAck (fun t m =>
        (t.closeTag .kapael m.tag).any fun e => e.2 == .write agent0 0 line0 && !refusedMsg m && (e.1.agentOp agent0 0).isSome),
      comes (inbox .kapael tyCombReq 0x200000 fun m => { m with payload := [0, 0, 0, 0] }) .kapael tyCombReq (fun t m =>
        passes t .kapael m .atomic && !(combHead m.payload).2.2
          && (t.arrive { agent := .none, op := 0, die := .amdukor, core := 0, ctx := 0, key := .line line0 0 false, reqs := [], tag := some 0 } line0).isSome),
      comes (inbox .kapael tyCombRsp 0x200000 id (opened (.bundle agent0 0) .kapael (loading (.atomic 0 false false)))) .kapael tyCombRsp (fun t m =>
        (t.closeTag .kapael m.tag).any fun e => e.2 == .bundle agent0 0 && (e.1.agentOp agent0 0).isSome),
      [tyPtRd, tyPtCas].all (fun ty => comes (inbox .kapael ty 0 fun m => { m with aux0 := 0x100000 }) .kapael ty
        (fun t m => (t.entryCheck .kapael m).isNone)),
      [0, refusedBit].all (fun x => comes (inbox .amdukor tyPtData 0 (fun m => { m with aux1 := x }) (opened (.entry 0 0x100000) .amdukor docked0)) .amdukor tyPtData
        (fun t m => (t.closeTag .amdukor m.tag).any fun e => e.2 == .entry 0 0x100000 && refusedMsg m == (x == refusedBit))),
      comes (inbox .kapael tyTokSig 0x200000) .kapael tyTokSig (fun t m => passes t .kapael m .tokenWrite)].all id) = true := by
  decide +kernel

/-- A move of the page at 0x200000 at a stage. -/
def moving (src dst : Die) (st : MoveStage) (s : State := docked0) : State :=
  { s with moves := [{ ctx := 0, va := 0x200000, size := 4096, src := src, dst := dst, stage := st, oldPa := 0x200000, newPa := 0x300000 }] }

/-- The bytes of a migration's stream with no block. -/
def stream0 : List Byte := bytesOf 4 0x0104 ++ bytesOf 4 160 ++ List.replicate 152 0

/-- MessagesComplete: shootdowns, moves, migrations and checkpoints. -/
theorem witness_messages2 :
    ([comes (inbox .amdukor tyShoot 0x200000) .amdukor tyShoot (fun t m => (t.keyed m).isSome),
      comes (inbox .kapael tyShootAck 0 id (opened (.shoot 0 0x200000 4096) .kapael docked0)) .kapael tyShootAck (fun t m =>
        (t.closeTag .kapael m.tag).any fun e => e.2 == .shoot 0 0x200000 4096),
      comes (inbox .amdukor tyHomeReq 0x200000 (fun m => { m with aux0 := 4096 }) (onC (fun c => { c with desc := { c.desc with quotaA := 100 } }) docked0))
        .amdukor tyHomeReq (fun t m => (t.keyed m).any (fun c => c.resident != .amdukor) && match t.allocFrame 0 .amdukor m.aux0.toNat false with
          | .ok _ => true
          | _ => false),
      [tyHomeGrant, tyHomeDeny].all (fun ty => [true, false].all fun barred =>
        let s := moving .kapael .amdukor .asked;
        let s := if barred then s.putHead 0 { s.head 0 with pins := [{ plane := 0, ctx := 0, va := 0x200000, size := 4096, leaf := BitVec.ofNat 64 (natOf bigLeaf) }] } else onC (fun c => { c with desc := { c.desc with moveth := 0 } }) s;
        comes (inbox .kapael ty 0x200000 id (opened (.move 0 0x200000) .kapael s)) .kapael ty
          (fun t m => (t.moveFor .kapael m).any fun e => (e.1.ctx 0).any fun c => e.1.moveBarred c e.2 == barred)),
      comes (inbox .amdukor tyHomeData 0x200000 id (moving .kapael .amdukor .streaming)) .amdukor tyHomeData (fun t m =>
        (t.moves.find? fun x => x.ctx == m.ctx && x.va == m.va && x.stage == .streaming).any fun x => x.dst == .amdukor && decide (m.aux0.toNat < x.size)),
      comes (inbox .kapael tyHomeDone 0x200000 id (moving .kapael .amdukor .done)) .kapael tyHomeDone (fun t m =>
        (t.moves.find? fun x => x.ctx == m.ctx && x.va == m.va && x.stage == .done).any fun x => x.src == .kapael),
      [160, 161].all (fun (n : DWord) => comes (inbox .amdukor tyMigData 0 (fun m => { m with aux1 := n, payload := stream0 })
          (onC (fun c => { c with mig := .sent .amdukor }) docked0)) .amdukor tyMigData (fun t m => (t.keyed m).any fun c => c.mig == .sent .amdukor
            && m.aux0.toNat == c.inbox.length && decide (m.aux1.toNat ≤ (c.inbox ++ m.payload).length) == (n == 160) && streamOk c (c.inbox ++ m.payload))),
      [(tyCkptData, (0 : DWord), (1 : DWord)), (tyCkptEnd, 1, 0)].all (fun e =>
        comes (inbox .kapael e.1 0 (fun m => { m with aux0 := e.2.1, aux1 := e.2.2 }) (onC (fun c => { c with nextCkpt := 2, ckpt := some { num := 1, stage := .sending } }) docked0))
          .kapael e.1 (fun t m => match t.ckptFor m 1 with
            | .now c k => k.got == 0 && decide (c.mirrorUse ≤ c.room)
            | _ => false)),
      comes (inbox .amdukor tyCkptAck 0 id (opened (.ckpt 0 1) .amdukor (onC (fun c => { c with nextCkpt := 2, ckpt := some { num := 1, stage := .sending } }) docked0)))
        .amdukor tyCkptAck (fun t m => (t.closeTag .amdukor m.tag).any fun e => e.2 == .ckpt 0 1 && (e.1.ctx 0).any fun c => c.ckpt.any fun x =>
          x.num == 1 && x.stage == .sending)].all id) = true := by
  decide +kernel

/-! ## Steps of the part: clauses, replies, homes -/

/-- A NOP placed, its wave's split at the clause header, the header changed; the wave has a parison of the tests. -/
def atHeader (h : Word → Word := id) (f : Wave → Wave := id) : State :=
  let s := st (.nop (g1 0 0 0 0))
  let w0 := (placeClause (encode (.nop (g1 0 0 0 0)))).headD 0
  onWave (fun w => f { w with par := some par0, slots := w.slots.map fun o => o.map fun sp => { sp with pos := { sp.pos with inside := false, pc := 0 } } })
    { s with memK := Memory.writeN s.memK placePa (bytesOf 4 (h w0).toNat), pars := [(par0, { parAt (.nop (g1 0 0 0 0)) with pos := {} })] }

/-- Whether a wave's split stands at a header, of which a condition holds. -/
def reaches (s : State) (c : Wave → Split → Word → Bool) : Bool :=
  match s.actorOf agent0 with
  | some (.wave a w sp) => canReach w sp && match s.fetchWord (.wave a w sp) sp.pos.hofs with
    | .word h => hdrOk h && c w sp h
    | _ => false
  | _ => false

/-- ClauseStepsComplete: headers whose waits are met and are not, that are safe points and are not, for a split and for a parison; decisions that are
there, that are not and that are for another clause; siblings that merge, and ones that differ; a pending walk; a fence that is met. -/
theorem witness_clauses :
    ([reaches (atHeader) (fun w sp h => hdrCls h != 6 && hdrMet w.ctr h && (match (atHeader).atEntry agent0 w sp h with
        | .on _ _ => true
        | _ => false)),
      reaches (atHeader fun h => h &&& ~~~0x100) (fun w _ h => hdrCls h != 6 && hdrMet w.ctr h && !hdrSp h),
      reaches (atHeader (fun h => h ||| 0x200) fun w => { w with ctr := { w.ctr with ldc := 1 } }) (fun w _ h => hdrCls h != 6 && !hdrMet w.ctr h),
      (let s := atHeader fun h => h &&& ~~~0x100;
        (look par0 s.pars).any fun r => r.mode == .form && r.status == .running && r.wait == .none && !r.pos.inside && r.due.isNone
          && match s.fetchWord (.par par0 r) r.pos.hofs with
            | .word h => hdrOk h && hdrCls h != 6 && !hdrSp h && hdrMet r.ctr h
            | _ => false),
      [none, some 0, some 9].all (fun (d : Option Nat) =>
        let s0 := atHeader fun h => h ||| 0x60;
        let s := { s0 with pars := s0.pars.map fun e => (e.1, { e.2 with
          queue := match d with
            | some n => [{ wofs := n, outcome := none, next := 2, sregs := [], forms := [] }]
            | none => []
          pushed := if d.isSome then 1 else 0 }) };
        reaches s fun w sp h => hdrCls h == 6 && w.par == some par0 && (match s.atEntry agent0 w sp h with
          | .on _ _ => true
          | _ => false) && (look par0 s.pars).any fun r => (r.nextFor w).map (·.wofs) == d && sp.pos.hofs == 0),
      (let r : Parison := { block := ref0, box := ⟨0, 31, 0, 0, 0, 0⟩, mode := .waitJoin, cuts := [(1, 0)] };
        let t : Parison := { r with box := ⟨32, 63, 0, 0, 0, 0⟩ };
        r.box.abut t.box == some 0 && r.values [] == t.values [] && r.sreg == t.sreg && r.pos.pc == t.pos.pc && t.joinId == r.joinId && r.ctr.clear
          && ((r.pmap.zip t.pmap).foldr (fun e acc => match mergePred 0 r.box t.box e.1 e.2, acc with
            | some x, some l => some (x :: l)
            | _, _ => none) (some [])).isSome),
      (let r : Parison := { block := ref0, box := ⟨0, 31, 0, 0, 0, 0⟩, mode := .waitJoin, cuts := [(1, 0)] };
        let t : Parison := { r with box := ⟨32, 63, 0, 0, 0, 0⟩, sreg := r.sreg.set 2 7, cuts := [(0, 0)] };
        let s := { base with pars := [(par0, r), ({ par0 with entry := 1 }, t)] };
        (look par0 s.pars).any (fun x => x.mode == .waitJoin && x.cuts == [(1, 0)]) && (look { par0 with entry := 1 } s.pars).any fun y =>
          y.mode == .waitJoin && y.joinId == r.joinId && y.pos.pc == r.pos.pc && r.sreg != y.sreg),
      (let q := walkReq agent0 0 0x200000 .load;
        look q ((base.wantWalk q).die .kapael).walks == some .pending && (base.wantWalk q).hasWalker q && base.flaws.isEmpty),
      (let s0 := atHeader id fun w => { w with slots := w.slots.map fun o => o.map fun sp => { sp with wait := .fence 3 0 } };
        let s := { s0 with kap := { s0.kap with ptime := 1000 } };
        s.waves.all fun e => (nth e.2.slots 0 none).any fun sp => sp.wait == .fence 3 0 && s.fenceMet (.wave agent0 e.2 sp) 3),
      (let r : Parison := { parAt (.nop (g1 0 0 0 0)) with wait := .fence 3 0 };
        base.fenceMet (.par par0 r) 3)].all id) = true := by
  decide +kernel

/-- An operation of the tests whose request is done. -/
def doneOp (k : OpKind) (c : Ctr) (data : List Byte := [1, 0, 0, 0]) (args : List Word := [2]) (status : Nat := 1) : Op :=
  { id := 0, kind := k, ctr := some c, vdst := [4], mask := 1, args := args
    reqs := [{ lane := 0, va := 0x200000, place := .mem .kapael 0x200000, size := 4, data := data, status := status, done := true }] }

/-- The base state with a wave that has an operation. -/
def withOp (o : Op) (s : State := base) : State := { s with waves := [(wave0, { block := some ref0, ops := [o] })] }

/-- RepliesComplete, Retirement: each kind of operation with its work done and oldest on its counter; a block of a reserved format and an atomic that was
refused; a wait that is satisfied and one that is not; an MDRAIN of a tile. -/
theorem witness_replies :
    ([(let o := doneOp (.load 0) .ldc;
        o.kind.isLoad && o.allDone && oldest [o] o && o.badFmt.isEmpty && o.flawed.isEmpty && (doneOp (.load 0) .ldc [9] [7]).flawed.isEmpty && (opOf [o] 0).isSome && !(doneOp (.load 0) .ldc [9] [7]).badFmt.isEmpty),
      (let o := doneOp .uld .ldc;
        o.allDone && oldest [o] o && !o.reqs.isEmpty && o.flawed.isEmpty),
      [OpKind.store, .cctl 0, .atomic 0 false false, .ocall 1, .trace, .sample, .pidld].all (fun k => let o := doneOp k .stc;
        o.allDone && (withOp o).mayRetire agent0 o && (withOp o).agentOp agent0 0 == some o && ((withOp o).waveOf agent0).isSome && o.flawed.isEmpty),
      [OpKind.load 0, .atomic 0 false false].all (fun k => let o0 := doneOp k .ldc;
        let o := { o0 with reqs := o0.reqs.map fun r => { r with status := 4, flaw := some Sub.remoteRefused } };
        !o.flawed.isEmpty && o.allDone && oldest [o] o && (withOp o).mayRetire agent0 o),
      (let o : Op := { doneOp (.mdrain true) .ldc with reqs := [] };
        let s := { withOp o with blocks := [(ref0, { launch := 0, ctx := 0, queue := 0, bindex := 0, tiles := [{ phys := 0 }] })] };
        !o.ready && s.flaws.isEmpty && ((some ref0).bind fun r => s.tile r (tileName 0)).isSome),
      [(0 : Word), 1].all (fun v =>
        let q : LaneReq := { lane := 0, va := 0x200000, place := .mem .kapael 0x200000, leaf := BitVec.ofNat 64 (natOf bigLeaf), size := 4, arg := [v] };
        let o : Op := { doneOp .waitv .ldc with ctr := none, vdst := [4], args := [v, 0, 0, 0], reqs := [q] };
        let wq := walkReq agent0 0 0x200000 .load;
        let s := ((withOp o).wantWalk wq).doWalk wq;
        let r := s.rereadLanes agent0 0 o o.reqs;
        (s.rereadFaults agent0 0 o).isEmpty && ({ o with reqs := r.2 } : Op).flawed.isEmpty && (r.2.all (·.done) == (v == 0))),
      (let o := doneOp .store .stc;
        ({ ops := [o], ctr := { stc := 1 } } : Wave).ctr.get .stc != 0 && o.ctr == some .stc)].all id) = true := by
  decide +kernel

/-- An operation whose request has yet to be made. -/
def newOp (k : OpKind) : Op := { doneOp k .ldc [1, 2, 3, 4] with reqs := [{ lane := 0, va := 0x200000, place := .mem .kapael 0x200000, leaf := BitVec.ofNat 64 (natOf bigLeaf), size := 4 }] }

/-- HomeStepsComplete, LeasesBindWrites: a load and a store at a home of the core's die and a load at the other's, ownership that may be granted, a bundle
that arrives, piles of either kind, a batch that may be performed, and counters that are due. -/
theorem witness_homes :
    ([[OpKind.load 0, .store].all (fun k => let o := newOp k;
        o.next.any fun e => !(withOp o).lineBusy ⟨.kapael, 0⟩ 0 e.2 && serverOf e.2.home == .kapael && (withOp o).flaws.isEmpty),
      (let o : Op := { newOp (.load 0) with reqs := [{ lane := 0, va := 0x200000, place := .mem .amdukor 0x200000, size := 4 }] };
        o.next.any fun e => serverOf e.2.home == .amdukor && ((withOp o).l1Get ⟨.kapael, 0⟩ e.2).isNone),
      (let g : Grant := { core := 0, ctx := 0, va := 0x200000, leaf := BitVec.ofNat 64 (natOf bigLeaf) };
        let s := base.putTag line0 fun t => { t with grantTo := some g };
        (s.tag line0).grantTo == some g && (s.tag line0).owner.isNone && decide ((s.tag line0).leK < s.now .kapael) && decide ((s.tag line0).leA < s.now .kapael)
          && !s.piled line0 && serverOf line0.home == .kapael),
      (let o := newOp (.atomic 0 false false);
        o.kind.method.any fun m => o.next.any fun e => (e.1.key? m).any fun k => !(withOp o).lineBusy ⟨.kapael, 0⟩ 0 e.2
          && !bundleBefore ((withOp o).agentOps agent0) 0 e.2 && serverOf e.2.home == .kapael && !((withOp o).l1Get ⟨.kapael, 0⟩ e.2).any (·.owned)
          && ((withOp o).arrive { agent := agent0, op := 0, die := .kapael, core := 0, ctx := 0, key := k, reqs := [] } e.2).isSome),
      [BatchKey.line line0 0 false, .object line0 0x200000 1].all (fun k =>
        let b : Bundle := { agent := agent0, op := 0, die := .kapael, core := 0, ctx := 0, key := k, reqs := [] };
        let s := base.putCrucible ⟨.kapael, 0⟩ { slice := 0, pile := [b] };
        (s.crucible ⟨.kapael, 0⟩).batch.isEmpty && !(s.crucible ⟨.kapael, 0⟩).pile.isEmpty
          && !((base.putCrucible ⟨.kapael, 0⟩ { slice := 0, batch := [b] }).crucible ⟨.kapael, 0⟩).batch.isEmpty),
      decide ((base.die .kapael).sweep < base.now .kapael / 2 ^ 25), decide ((base.die .kapael).decay < base.now .kapael / 1048576),
      [lineAt .host 0x1000, line0].all (fun l =>
        let b : Bundle := { agent := agent0, op := 0, die := .kapael, core := 0, ctx := 0, key := .line l 1 false, reqs := [] };
        let s := base.putCrucible ⟨.kapael, 0⟩ { slice := 0, batch := [b] };
        !(s.crucible ⟨.kapael, 0⟩).running && (s.crucible ⟨.kapael, 0⟩).half.isNone && twoStep l 1 == (l.home == .host)),
      leafCls (BitVec.ofNat 64 (natOf bigLeaf)) == .coherent].all id) = true := by
  decide +kernel

/-- HomeStepsComplete: a read and a write of the host at Kapael, a write held by a batch of an object slot, and one to a page on the move. -/
theorem witness_hostAccess :
    (let at_ := fun (s : State) (acc : Access) (n : Nat) => s.fwPieces (fun va => ⟨s.hostSide 0 va acc, .host 0x200000⟩) 0 acc 2 0x200000 n;
      let one := fun (s : State) (n : Nat) (r : FwRes (State × List (Home × Nat × DWord × Nat × Nat))) (busy : Bool) => match r with
        | .ok (_, ps) => ps.map (fun p => (p.1, p.2.1, p.2.2.2)) == [(.kapael, 0x200000, 0x200000, n)] && ([Die.kapael, .amdukor].any fun d => s.slotsBusy d ps) == busy
        | _ => false;
      let b : Bundle := { agent := agent0, op := 0, die := .kapael, core := 0, ctx := 0, key := .object line0 0x200000 1, reqs := [] };
      let objLeaf := bytesOf 8 (natOf bigLeaf + 2 ^ 6);
      let held := ({ base with memK := Memory.writeN base.memK 0x104000 objLeaf } : State).putCrucible (sliceOf line0) { slice := (sliceOf line0).slice, batch := [b] };
      let mv := { base with memK := Memory.writeN base.memK 0x104000 (bytesOf 8 (natOf bigLeaf + 2 ^ 15)) };
      [one base 1 (at_ base .pref 1) false, one base 4 (at_ base .engineWrite 4) false, one held 4 (at_ held .engineWrite 4) true,
        match at_ mv .engineWrite 4 with
        | .wait _ => true
        | _ => false].all id) = true := by
  decide +kernel

/-! ## Steps of the part: engines, moves, scheduling -/

/-- A FILL card of four bytes at 0x200000, its flags given (R304), and a job with it. -/
def fillJob (flags : Byte) (f : Job → Job := id) : Job :=
  f { id := 0, ctx := 0, seq := 0, cardVa := 0x300000, card := [2, 0, flags, 0] ++ bytesOf 4 4 ++ bytesOf 8 0x200040 ++ bytesOf 8 0x200000 ++ List.replicate 40 0 ++ bytesOf 8 0x200000 ++ bytesOf 4 4
        ++ [2] ++ List.replicate 51 0
      issuer := .gaffer par0, launch := 0, opId := 0, ticket := 0 }

/-- A state in which a die has the job. -/
def withJob (j : Job) : State := { base with kap := { base.kap with jobs := [j] } }

/-- A move that is wanted of the page at 0x200000, of a context that may hold so much on Amdukor. -/
def wanted (quota : Nat) (res : Die := .kapael) : State :=
  onC (fun c => { c with resident := res, desc := { c.desc with quotaA := quota } })
    { docked0 with memA := base.memK, moves := [{ ctx := 0, va := 0x200000, size := 4096, src := .kapael, dst := .amdukor, stage := .wanted, oldPa := 0x200000 }] }

/-- EngineStepsComplete: MZERO and MMA tile ops; VISR with the core's slots bound and free; a job that may start; jobs that have a fault, perform,
end, and signal; and moves that are refused, begin at once and are asked for. -/
theorem witness_engines :
    ([[true, false].all (fun z =>
        let r : Parison := { parAt (.nop (g1 0 0 0 0)) with ops := [doneOp .store .mxc] };
        let s := ({ base with pars := [(par0, r)], blocks := [(ref0, { launch := 0, ctx := 0, queue := 0, bindex := 0, tiles := [{ phys := 0 }] })] } : State).setMarver
          ⟨.kapael, 0⟩ [{ par := par0, op := 0, zero := z, tile := 0, a := [], b := [] }];
        s.flaws.isEmpty && (s.marver ⟨.kapael, 0⟩).length == 1 && (s.tile ref0 0).isSome && (opOf r.ops 0).isSome),
      [[], [({} : VSlot)]].all (fun vs =>
        let r : Parison := { parAt (.nop (g1 0 0 0 0)) with ops := [{ doneOp .visr .txc with ready := false }] };
        let s := { base with pars := [(par0, r)], blocks := [(ref0, { launch := 0, ctx := 0, queue := 0, bindex := 0, slots := vs })] };
        (s.slotOwner (parCore par0) == some r.block || s.slotOwner (parCore par0) == none) && (s.blockOf r.block).isSome),
      (let j := fillJob 0;
        let s := withJob j;
        j.started == false && j.fault.isNone && !jobHeld (s.die .kapael).jobs j && !s.bankHeld .kapael j && !s.budgetHeld j.ctx && s.fwIdle .kapael),
      (let j := fillJob 0 fun j => { j with started := true };
        match (withJob j).jobRun .kapael j (jobSteps j.card - j.step) j.step j.gd j.gp with
        | .ok _ => true
        | _ => false),
      (let j := fillJob 0 fun j => { j with started := true, card := j.card.set 18 0x30 };
        let s := withJob j;
        match s.jobRun .kapael j (jobSteps j.card - j.step) j.step j.gd j.gp with
        | .bad _ _ _ => true
        | _ => false),
      [(0 : Byte), 1].all (fun flags =>
        let j := fillJob flags fun j => { j with started := true, performed := true };
        let s := withJob j;
        (j.gp == 0) && !s.farOut .kapael (.job j.id) && cardFlags j.card % 2 == flags.toNat
          && okAnd (s.fwSignal ⟨.kapael, .job j.id⟩ j.ctx (cardToken j.card) { n := 1, gd := j.gd, gp := j.gp, dies := dieBit .kapael, core := 0, multi := true })
            fun t => !t.farOut .kapael (.job j.id)),
      (let j := fillJob 1 fun j => { j with started := true, performed := true };
        let s := { docked0 with memK := Memory.writeN docked0.memK 0x104000 (bytesOf 8 (natOf bigLeaf + 2 ^ 12)), kap := { docked0.kap with jobs := [j] } };
        okAnd (s.fwSignal ⟨.kapael, .job j.id⟩ j.ctx (cardToken j.card) { n := 1, gd := j.gd, gp := j.gp, dies := dieBit .kapael, core := 0, multi := true })
          fun t => t.farOut .kapael (.job j.id)),
      [(0, Die.kapael), (100, .amdukor), (100, .kapael)].all (fun e =>
        let s := wanted e.1 e.2;
        (s.moveAt 0 0x200000).any fun m => (s.ctx m.ctx).any fun c => c.ckpt.isNone && !c.held m.dst && !c.inTransit
          && s.moveRefused c m == (e.1 == 0) && (e.1 == 0 || (decide (m.dst = c.resident) == (e.2 == .amdukor)))
          && (match s.allocFrame m.ctx m.dst m.size false with
            | .ok _ => true
            | _ => e.1 == 0))].all id) = true := by
  decide +kernel

/-- A launch of one block of one item, and the state with it and its image. -/
def launch0 : Launch :=
  { id := 0, ctx := 0, queue := 0, seq := 1, compl := true, barrier := false, desc := [0, 0, 1, 1, 1, 0x01010001, 0, 0, 0, 0x108] ++ List.replicate 22 0
    image := 0, die := .kapael, prio := 0, ticket := 0, gatesMet := true }
@[inherit_doc launch0] def launched (f : Launch → Launch := id) (s : State := base) : State :=
  onC (fun c => { c with images := [{ id := 0, va := 0x400000, codew := 2, dataVa := 0x400100, sps := [{ wofs := 0, fwofs := 0, vlive := 0, slive := 0, plive := 0 }], entries := [{ wofs := 0 }] }] })
    { s with launches := [f launch0] }

/-- The block of the launch, and what is kept of it when it is saved. -/
def blk0 : Block := { launch := 0, ctx := 0, queue := 0, bindex := 0 }
@[inherit_doc blk0] def saved0 : Saved := { id := 0, die := .kapael, blk := blk0, pars := [], waves := [], forms := [] }

/-- SchedulingStepsComplete: a launch with a block to admit and one with a saved block; one that is over, signalled or not; one to reserve for; a block of
lower priority to pre-empt; blocks that may yield, that have settled and that are tried again; a snapshot due; a soft error of each treatment; and gates that
are met, are not, and fault. -/
theorem witness_scheduling :
    ([(let s := launched;
        (s.firstLaunch .kapael s.fitsSomewhere).map (·.id) == some 0 && (s.launch 0).any fun l => s.workOf l == some (.fresh 0) && (s.image l.ctx l.image).isSome
          && (s.plans l (.fresh 0) 0).isSome),
      (let s := { launched with saved := [saved0] };
        (s.firstLaunch .kapael s.fitsSomewhere).map (·.id) == some 0 && (s.launch 0).any fun l => s.workOf l == some (.back [saved0])
          && (s.plans l (.back [saved0]) 0).isSome),
      [false, true].all (fun done =>
        let s := launched fun l => { l with ended := 1, nextB := 1, signalled := done };
        s.fwIdle .kapael && (s.launch 0).any fun l => s.launchOver l && l.signalled == done
          && !s.backedOut l.die l.ctx && okAnd (s.signalCores l (if dToken l.desc = 0 then [] else l.cores))),
      (let s := launched fun l => { l with passedAt := some 0 };
        (s.firstLaunch .kapael s.launchWaits).map (·.id) == some 0 && (s.launch 0).any fun l => l.reserved.isEmpty && decide (50000 ≤ s.now .kapael)
          && (s.rect l.die (cohortDim l.desc).1 (cohortDim l.desc).2 0).any fun cells => cells.all fun e => !s.reservedFor l ⟨l.die, e.2⟩),
      (let big := fun (l : Launch) => { l with prio := 2, reserved := [0], reservedAt := some 0, desc := l.desc.set 6 57 };
        let s0 := launched big;
        let s := { s0 with launches := s0.launches ++ [{ launch0 with id := 1, prio := 1 }], blocks := [(ref0, { blk0 with launch := 1 })] };
        (s.launches.find? fun l => decide (l.die = .kapael) && l.reserved.contains 0).any fun l =>
          ((s.workOf l).any fun w => l.reserved.any fun k => (s.plans l w k).isSome) == false
            && (s.blocks.any fun e => !e.2.stopped && (s.launch e.2.launch).any fun m => decide (m.prio < l.prio))),
      (let s0 := launched;
        let s := { s0 with blocks := [(ref0, blk0)] };
        s.mayYield ref0 && (let t := { s with blocks := [(ref0, { blk0 with stopped := true })] };
          (t.cohortOf ref0 { blk0 with stopped := true }).all fun e => t.blockSettled e.1)),
      (let s := { base with kap := { base.kap with events := [.retrySave ref0 1000] } };
        (s.die .kapael).events.contains (.retrySave ref0 1000) && decide (1000 ≤ s.now .kapael)),
      [(0x600000, true), (2 ^ 40, false)].all (fun (e : Nat × Bool) =>
        let b := { blk0 with snapDue := some [] };
        let s0 := launched fun l => { l with snapva := e.1 };
        let s := { s0 with blocks := [(ref0, b)] };
        (s.blockOf ref0).any (fun x => x.snapDue == some []) && (s.ctx 0).isSome
          && match s.writeSnap ref0 b (((s.launch b.launch).map (·.snapva)).getD 0) (snapBytes none b (snapImage b (s.imageOf ref0 b))) with
            | .ok t => e.2 && (t.ctx 0).isSome && (t.blockOf ref0).isSome
            | .bad _ _ _ => !e.2
            | .wait _ => false),
      [(true, 0), (false, 3), (false, 0)].all (fun e =>
        let b := { blk0 with irrev := e.1, failsSince := e.2 };
        let w : Wave := { block := some ref0, status := .stopped, causes := [{ cause := .pipeline, sub := .residue }] };
        let s0 := launched;
        let s := { s0 with blocks := [(ref0, b)], waves := [(wave0, w)], snaps := [saved0] };
        s.softError ref0 && (s.launch 0).any fun l => ((s.snaps.find? (isSnapOf b)).isSome
          && (let t := s.askBlock ref0 .preempt; t.retired ref0 && ((t.clearBlock ref0).plan l 0 ⟨.kapael, 0⟩ 0 0).isSome))),
      [(0x200000, 0, 0), (0x200000, 1, 1), (0x200001, 0, 2)].all (fun (e : Nat × Nat × Nat) =>
        let s := launched fun l => { l with gatesMet := false, gates := [(e.1, e.2.1)] };
        s.fwIdle .kapael && (s.launch 0).any fun l => !l.gatesMet && (match s.readGates ⟨l.die, .launch l.id⟩ l.ctx l.gates with
          | .met _ _ => e.2.2 == 0
          | .no _ => e.2.2 == 1
          | .bad _ _ _ => e.2.2 == 2))].all id) = true := by
  decide +kernel

/-! ## The machine -/

/-- Whether a step of an agent of the state runs the instruction that stands at its position. -/
def stepsOne (s : State) (a : AgentId) (i : Instr) : Bool :=
  let u := match a with
    | .wave id k => if s.runBegins id k then s.beginRun id k else s
    | .gaffer p => s.putCore (parCore p) { s.core (parCore p) with lastPar := p.entry }
    | _ => s
  let v := { u with cur := a }.unwalk a
  !s.kap.bootFail && s.mayIssue a && !u.walkWaits a && (v.actorOf a).any fun x => x.held.isNone && match v.fetchWord x x.pos.pc with
    | .word w => (rawCheck x (opcOf w) (mlOf w).toNat (if wOf w then 2 else 1)).isNone && (match decode [w] with
      | .ok j => j == i
      | _ => false)
    | _ => false

/-- StepRunsDecodedInstruction: a wave and a gaffer at a NOP; FailedBootHalts: a boot that failed; EveryStepLeavesWalksAwaited, EveryStepKeepsMemoriesCanonical:
a step to a next state, from a state with canonical memories. -/
theorem witness_step :
    (let i : Instr := .nop (g1 0 0 0 0);
      [stepsOne { st i with agenda := [] } (st i).cur i, stepsOne (stp i) (.gaffer par0) i,
        ((st i).actorOf (st i).cur).any (fun x => ((st i).image x.ctx x.image).any fun im => match (st i).translate x.agent x.ctx (im.va + 128) .fetch with
          | .hit leaf _ => serverOf (leafHome leaf) == x.core.die
          | _ => false),
        ({ base with kap := { base.kap with bootFail := true } } : State).kap.bootFail && base.agenda.head? != some (.event (.powerOnReset .kapael)),
        base.memoriesWf,
        (match Machine.step { base with agenda := [.event (.counterDecay .kapael)] } with
          | .next _ => true
          | _ => false)].all id) = true := by
  decide +kernel

/-- DecodeOfEncode, FormMode, VectorFrame, VectorResults, LanesAndOperands: an instruction that is well formed; the sum, difference, product and shift
of a varying form and a uniform one; the names of a destination that differ; the classes of names and patterns. -/
theorem witness_forms :
    (let i : Instr := .iadd (g1 2 4 6 0);
      let f : FormIn := { a := [⟨1, 2, 3, 4⟩], b := [⟨5, 0, 0, 0⟩], c := [⟨6, 1, 0, 0⟩], pa := false, pb := false, pc := false };
      [i.wf && decide (i.form ≠ .step) && decide i.form.vwrites.Nodup, f.a.length == 1 && f.b.length == 1 && f.c.length == 1 && (aff0 f.b).uni,
        [VBind.undef, .phys [7], .form 0].all fun n =>
          let w : Wave := { live := 1, vmap := [n] };
          w.live.getLsbD 0 && !w.live.getLsbD 1 && nth w.vmap 0 .undef == n && (look 0 [(0, (⟨1, 2, 3, 4⟩ : Aff))]).isSome].all id) = true := by
  decide +kernel

end Sys2Proof.Tests
end

/-! The built-in methods (R113): what each leaves for words of any width, which codes are reserved, and one request of a batch. -/

namespace Sys2Proof.Machine

/-! ## The new value of each method -/

/-- The signed reading of a bit vector's number is the bit vector's own. -/
theorem intOfBits_toNat {w : Nat} (x : BitVec w) : intOfBits w false x.toNat = x.toInt := by
  cases w with
  | zero => rw [BitVec.eq_nil x]; rfl
  | succ k =>
    have hmod : (x.toNat : Int) % 2 ^ (k + 1) = x.toNat := mod_cast Nat.mod_eq_of_lt x.isLt
    have hhalf : (x.toNat : Int) < 2 ^ k ↔ 2 * x.toNat < 2 ^ (k + 1) := by
      rw [Nat.pow_succ', Nat.mul_lt_mul_left (by decide)]; norm_cast
    simp [intOfBits, fitInt, hmod, hhalf, BitVec.toInt_eq_toNat_cond]

/-- A number that is some bit vector's own, held in that width again. -/
theorem ofNat_of_eq_toNat {w n : Nat} {x : BitVec w} (h : n = x.toNat) : BitVec.ofNat w n = x := by simp [h]

section
variable {w : Nat} {w64 : Bool} (old a : BitVec w) (b : Nat)

theorem methodNew_add (hw : (if w64 then 64 else 32) = w) : methodNew 0x0 w64 old.toNat a.toNat b = (old + a).toNat := by
  simp [methodNew, hw]

theorem methodNew_fadd (old a : Word) : methodNew 0x1 w64 old.toNat a.toNat b = (addRn old a).toNat := by
  simp [methodNew]

theorem methodNew_minS (hw : (if w64 then 64 else 32) = w) :
    methodNew 0x2 w64 old.toNat a.toNat b = (if a.slt old then a else old).toNat := by
  simp only [methodNew, hw, intOfBits_toNat, BitVec.slt_iff_toInt_lt, apply_ite BitVec.toNat]

theorem methodNew_minZ : methodNew 0x3 w64 old.toNat a.toNat b = (if a.ult old then a else old).toNat := by
  simp only [methodNew, BitVec.ult_iff_lt, BitVec.lt_def]
  split <;> omega

theorem methodNew_maxS (hw : (if w64 then 64 else 32) = w) :
    methodNew 0x4 w64 old.toNat a.toNat b = (if old.slt a then a else old).toNat := by
  simp only [methodNew, hw, intOfBits_toNat, BitVec.slt_iff_toInt_lt, apply_ite BitVec.toNat]

theorem methodNew_maxZ : methodNew 0x5 w64 old.toNat a.toNat b = (if old.ult a then a else old).toNat := by
  simp only [methodNew, BitVec.ult_iff_lt, BitVec.lt_def]
  split <;> omega

theorem methodNew_and : methodNew 0x6 w64 old.toNat a.toNat b = (old &&& a).toNat := (BitVec.toNat_and ..).symm

theorem methodNew_or : methodNew 0x7 w64 old.toNat a.toNat b = (old ||| a).toNat := (BitVec.toNat_or ..).symm

theorem methodNew_xor : methodNew 0x8 w64 old.toNat a.toNat b = (old ^^^ a).toNat := (BitVec.toNat_xor ..).symm

theorem methodNew_exch : methodNew 0x9 w64 old.toNat a.toNat b = a.toNat := rfl

theorem methodNew_cas (b : BitVec w) : methodNew 0xA w64 old.toNat a.toNat b.toNat = (if old = b then a else old).toNat := by
  simp only [methodNew, BitVec.toNat_inj, apply_ite BitVec.toNat]

/-- INC does not wrap: below `a` there is room for one more. -/
theorem methodNew_inc (old a : Word) :
    methodNew 0xB w64 old.toNat a.toNat b = (if a.ule old then 0 else old + 1).toNat := by
  simp only [methodNew, BitVec.ule_iff_le, BitVec.le_def]
  split
  · rfl
  · bv_omega

/-- DEC does not wrap: a zero is replaced by `a`. -/
theorem methodNew_dec (old a : Word) :
    methodNew 0xC w64 old.toNat a.toNat b = (if old = 0 ∨ a.ult old then a else old - 1).toNat := by
  have hzero : old.toNat = 0 ↔ old = 0 := BitVec.toNat_inj (y := 0)
  simp only [methodNew, Bool.or_eq_true, decide_eq_true_eq, hzero, BitVec.ult_iff_lt, BitVec.lt_def]
  split
  · rfl
  · bv_omega

end

/-! ## Reserved codes -/

/-- A code above those of the table, or a method of 32 bits alone at a width of 64, is reserved in ATOM and in RED (R182). -/
theorem vReserved_of_method {opc : Nat} (x : VForm) (ho : opc = 0x90 ∨ opc = 0x91)
    (h : 0xD ≤ x.method.toNat ∨ method32 x.method.toNat = true ∧ x.ml.toNat % 2 = 1) : vReserved opc x = true := by
  have hm : (decide (x.method.toNat ≤ 0xC) && (!method32 x.method.toNat || x.ml.toNat % 2 == 0)) = false := by
    rcases h with hcode | ⟨hwidth, hml⟩
    · simp; omega
    · simp [hwidth, hml]
  rcases ho with rfl | rfl <;> simp [vReserved, hm]

/-! ## A batch -/

/-- The first request of a batch is applied to the memory, the rest to what it leaves. -/
theorem applyAll_cons (m : Nat) (w64 : Bool) (addr : BReq → Nat) (mem : Memory) (r : BReq) (t : List BReq) :
    applyAll m w64 addr mem (r :: t) =
      let bs := methodBytes m w64 r.args (Memory.readN mem (addr r) (if w64 then 8 else 4))
      let rest := applyAll m w64 addr (Memory.writeN mem (addr r) bs.1) t
      (rest.1, (1, bs.2) :: rest.2) := rfl

/-- Settles O28: each new value by its method's lemma, the codes by the check of R182, a batch by its first request. -/
theorem builtInMethods : Obligations.BuiltInMethods := by
  unfold Obligations.BuiltInMethods
  refine ⟨fun old a b => ?words, fun old a b => ?dwords, fun x h => ?reserved, fun _ _ _ _ => rfl, fun m w64 addr mem r t => ?batch⟩
  case words =>
    exact ⟨ofNat_of_eq_toNat (methodNew_add (hw := rfl) ..), ofNat_of_eq_toNat (methodNew_fadd ..),
      ofNat_of_eq_toNat (methodNew_minS (hw := rfl) ..), ofNat_of_eq_toNat (methodNew_minZ ..),
      ofNat_of_eq_toNat (methodNew_maxS (hw := rfl) ..), ofNat_of_eq_toNat (methodNew_maxZ ..),
      ofNat_of_eq_toNat (methodNew_and ..), ofNat_of_eq_toNat (methodNew_or ..), ofNat_of_eq_toNat (methodNew_xor ..),
      ofNat_of_eq_toNat (methodNew_exch ..), ofNat_of_eq_toNat (methodNew_cas ..), ofNat_of_eq_toNat (methodNew_inc ..),
      ofNat_of_eq_toNat (methodNew_dec ..)⟩
  case dwords =>
    exact ⟨ofNat_of_eq_toNat (methodNew_add (hw := rfl) ..), ofNat_of_eq_toNat (methodNew_minS (hw := rfl) ..),
      ofNat_of_eq_toNat (methodNew_minZ ..), ofNat_of_eq_toNat (methodNew_maxS (hw := rfl) ..),
      ofNat_of_eq_toNat (methodNew_maxZ ..), ofNat_of_eq_toNat (methodNew_and ..), ofNat_of_eq_toNat (methodNew_or ..),
      ofNat_of_eq_toNat (methodNew_xor ..), ofNat_of_eq_toNat (methodNew_exch ..), ofNat_of_eq_toNat (methodNew_cas ..)⟩
  case reserved =>
    have hcode : 0xD ≤ x.method.toNat ∨ method32 x.method.toNat = true ∧ x.ml.toNat % 2 = 1 := by
      rcases h with habove | ⟨hml, hmethod⟩
      · exact .inl habove
      · exact .inr ⟨by rcases hmethod with e | e | e <;> rw [e] <;> rfl, hml⟩
    exact ⟨vReserved_of_method x (.inl rfl) hcode, vReserved_of_method x (.inr rfl) hcode⟩
  case batch => exact applyAll_cons m w64 addr mem r t

end Sys2Proof.Machine

/-! Vector instructions per lane (R218 to R223, R227 to R232, R251): the model's words and predicates are those the statements write. -/

namespace Sys2Proof.Machine

/-! ## Shifts, reversal and the funnel (R218, R219) -/

theorem shlOf_eq (a b : Word) : shlOf a b = a <<< b.toNat := by
  unfold shlOf
  split
  next h => exact (BitVec.shiftLeft_eq_zero h).symm
  next => rfl

theorem shrOf_eq (a b : Word) : shrOf a b = a >>> b.toNat := by
  unfold shrOf
  split
  next h => exact (BitVec.ushiftRight_eq_zero h).symm
  next => rfl

/-- A distance past 32 fills with the sign as 32 does. -/
theorem sarOf_eq (a b : Word) : sarOf a b = a.sshiftRight b.toNat := by
  unfold sarOf
  rcases Nat.le_total b.toNat 32 with h | h
  · rw [Nat.min_eq_left h]
  · rw [Nat.min_eq_right h]
    ext l hl
    have hpast : ¬ b.toNat + l < 32 := by omega
    simp [BitVec.getElem_sshiftRight, hpast]

theorem bitwise_reverse (a : Word) : (bitwise fun k => a.getLsbD (31 - k)) = a.reverse := by
  apply BitVec.eq_of_getLsbD_eq
  intro l hl
  rw [bitwise, getLsbD_maskOf, BitVec.getLsbD_reverse, BitVec.getMsbD]

theorem getLsbD_pair (hi lo : Word) (l : Nat) :
    (Word.pair hi lo).getLsbD l = if l < 32 then lo.getLsbD l else hi.getLsbD (l - 32) := BitVec.getLsbD_append

/-- A pair moved left by a word leaves its low word on top. -/
theorem hiOf_pair_shiftLeft_32 (a b : Word) : Word.hiOf (Word.pair a b <<< 32) = b := by
  apply BitVec.eq_of_getLsbD_eq
  intro l hl
  have htop : 32 + l < 64 := by omega
  rw [Word.hiOf, BitVec.getLsbD_extractLsb', BitVec.getLsbD_shiftLeft, Nat.add_sub_cancel_left, getLsbD_pair, if_pos hl]
  simp [hl, htop]

/-- A pair moved right by a word leaves its high word at the bottom. -/
theorem loOf_pair_shiftRight_32 (b a : Word) : Word.loOf (Word.pair b a >>> 32) = b := by
  apply BitVec.eq_of_getLsbD_eq
  intro l hl
  simp [Word.loOf, getLsbD_pair, hl]

/-- From 32 on, a saturated FUNL gives B in both directions. -/
theorem funlOf_saturated {c : Word} (h : 32 ≤ c.toNat) (left : Bool) (a b : Word) : funlOf left true a b c = b := by
  cases left
  · simp [funlOf, h, loOf_pair_shiftRight_32]
  · simp [funlOf, h, hiOf_pair_shiftLeft_32]

/-! ## Lane exchange (R227) -/

theorem lxchLane_up (b : Word) (l : Nat) : lxchLane 2 b l = if 31 < l + b.toNat then l else l + b.toNat := by
  simp only [lxchLane, ← not_lt, ite_not]

/-! ## Predicates of the gaffer map (R153, R223) -/

/-- The value of a predicate of the gaffer map, where all items share one. -/
def PBind.value : PBind → Option Bool
  | .uni v => some v
  | .range _ _ _ => none

/-- Whether a predicate of the gaffer map is a range. -/
def PBind.varies : PBind → Bool
  | .uni _ => false
  | .range _ _ _ => true

theorem any_isNone_value (m : List PBind) : (m.map PBind.value).any (·.isNone) = m.any PBind.varies := by
  rw [List.any_map]
  congr 1
  funext b
  cases b <;> rfl

/-- A name beyond the map is taken as uniform and false. -/
theorem getD_nth_value (m : List PBind) (i : Nat) :
    (nth (m.map PBind.value) i none).getD false = decide (nth m i (.uni false) = .uni true) := by
  have hmap : nth (m.map PBind.value) i none = (m[i]?.map PBind.value).getD none := by simp [nth]
  rw [hmap, nth, List.getD_eq_getElem?_getD]
  rcases m[i]? with _ | (v | _)
  · simp
  · simp [PBind.value]
  · simp [PBind.value]

/-! ## Operands that an instruction fixes -/

/-- Source B of an immediate form is the immediate in every lane (R180). -/
theorem operands_b0_of_imm {f : Form} {v : Word} (h : f.imm = some v) (w : Wave) (ff : List (Nat × Aff)) (l : Nat) :
    (w.operands ff f l).b0 = v := by simp [Wave.operands, LaneIn.b0, h]

/-- In a wave, only what a computation gives for a lane's operands counts. -/
theorem vecWave_each_congr {f : Form} {g g' : LaneIn → LaneOut}
    (h : ∀ (w : Wave) ff l, g (w.operands ff f l) = g' (w.operands ff f l)) : vecWave f (each g) = vecWave f (each g') := by
  have hout (w : Wave) ff ex : outputs w ff f (each g) ex = outputs w ff f (each g') ex := by
    unfold outputs
    refine List.map_congr_left fun l hl => ?_
    simp only [each, nth_perLane _ (List.mem_range.mp hl), h]
  funext s a w sp
  simp only [vecWave, vecResult, hout]

/-- In form mode, a result that stays a form is not computed by lanes. -/
theorem vecPar_stays_congr (f : Form) (g : FormIn → Option (List Aff)) (fn fn' : VFn) :
    vecPar f (.stays g) fn = vecPar f (.stays g) fn' := by
  funext s p r
  unfold vecPar
  rcases r.guard f with _ | _ | _ <;> rfl

/-! ## Instructions with two effects of their own -/

/-- An instruction completes with the effect of its actor, in waves and in form mode. -/
theorem effects_of {i : Instr} {wave : State → AgentId → Wave → Split → State} {par : State → ParId → Parison → State}
    (h : ∀ s, exec i s = runInstr i.form { wave := wave, par := par } s) : WaveEffect i wave ∧ ParEffect i par :=
  ⟨waveEffect_of h, parEffect_of h⟩

/-- MOVI gives its immediate in every lane, and stays a form whatever the lanes (R218). -/
theorem vecEffect_movi (x : IForm) : VecEffect (.movi x) (.stays fun i => some i.b) (each1 fun _ => x.imm) := by
  have hrun : VecEffect (.movi x) (.stays fun i => some i.b) (each1 fun i => i.b0) := vecEffect_of fun _ => rfl
  have himm : vecWave (Instr.form (.movi x)) (each1 fun i => i.b0) = vecWave (Instr.form (.movi x)) (each1 fun _ => x.imm) :=
    vecWave_each_congr fun w ff l => congrArg (fun v => ({ words := [v] } : LaneOut)) (operands_b0_of_imm rfl w ff l)
  exact ⟨himm ▸ hrun.1, vecPar_stays_congr _ _ _ _ ▸ hrun.2⟩

/-- PPACK in form mode: a range predicate blows the parison unless the guard is UNI-false (R223). -/
theorem parEffect_ppack (x : GForm) : ParEffect (.ppack x) fun s p r =>
    if r.guard (Instr.form (.ppack x)) ≠ some false ∧ r.pmap.any PBind.varies = true then s.blow p r else
      vecPar (Instr.form (.ppack x)) .uniform (each1 fun _ => bitwise fun i => decide (nth r.pmap i (.uni false) = .uni true)) s p r := by
  intro s p r hr
  have hrun : exec (.ppack x) s = .next (
      if r.guard (Instr.form (.ppack x)) != some false && (r.pmap.map PBind.value).any (·.isNone) then s.blow p r
      else vecPar (Instr.form (.ppack x)) .uniform
        (each1 fun _ => bitwise fun i => (nth (r.pmap.map PBind.value) i none).getD false) s p r) := runInstr_par hr _
  simp only [hrun, any_isNone_value, getD_nth_value, Bool.and_eq_true, bne_iff_ne]

/-! ## The statements -/

/-- Settles O8: each instruction runs its lanes by its own arm; the shifts, BREV, MOVI, PPACK and FUNL by what their words are. -/
theorem logicInstructionsComplete : Obligations.LogicInstructionsComplete := by
  unfold Obligations.LogicInstructionsComplete
  refine ⟨?and, ?andImm, ?or, ?orImm, ?xor, ?xorImm, ?not, ?logt, ?shl, ?shlImm, ?shr, ?shrImm, ?sar, ?sarImm, ?funl, ?bfe, ?bfi,
    ?popc, ?clz, ?brev, ?mov, vecEffect_movi, ?icmp, ?icmpImm, ?plogt, ?ppackWave, parEffect_ppack, ?punpk, fun sat a b c => ?funnel⟩
  case and | andImm | or | orImm | xor | xorImm | not | logt | funl | bfe | bfi | popc | clz | mov | plogt | punpk =>
    exact fun _ => vecEffect_of fun _ => rfl
  case icmp | icmpImm => exact fun _ => effects_of fun _ => rfl
  case ppackWave => exact fun _ => (effects_of fun _ => rfl).1
  case shl | shlImm => simp only [← shlOf_eq]; exact fun _ => vecEffect_of fun _ => rfl
  case shr | shrImm => simp only [← shrOf_eq]; exact fun _ => vecEffect_of fun _ => rfl
  case sar | sarImm => simp only [← sarOf_eq]; exact fun _ => vecEffect_of fun _ => rfl
  case brev => simp only [← bitwise_reverse]; exact fun _ => vecEffect_of fun _ => rfl
  case funnel =>
    have hlow5 : (c.extractLsb' 0 5).toNat = c.toNat % 32 := by simp
    rw [hlow5]
    exact ⟨rfl, rfl, fun hsat hc => by subst hsat; exact ⟨funlOf_saturated hc true a b, funlOf_saturated hc false a b⟩⟩

/-- Settles O10: each instruction runs its lanes by its own arm and blows a parison, XSET by its two effects; LXCH's lanes by its four modes. -/
theorem laneInstructionsComplete : Obligations.LaneInstructionsComplete := by
  unfold Obligations.LaneInstructionsComplete
  refine ⟨?lxch, ?qxch, ?qdd, ?vote, ?ballot, ?matchLanes, ?lfold, ?scan, ?qpack, ?xsetWave, ?xsetPar,
    fun b l => ⟨rfl, rfl, lxchLane_up b l, rfl⟩, fun _ _ => ⟨rfl, rfl, rfl, rfl⟩⟩
  case lxch | qxch | qdd | vote | ballot | matchLanes | lfold | scan | qpack => exact fun _ => vecEffect_of fun _ => rfl
  case xsetWave => exact fun _ => (effects_of fun _ => rfl).1
  case xsetPar => exact fun _ => (effects_of fun _ => rfl).2

end Sys2Proof.Machine

/-! Histogram units and QDEQ (R71, R72, R247 to R250, R252, R297): what an instruction on a unit does once the block has the unit and
the unit is free, the outcomes of a unit's update in form mode, and the bin and the count of a value. -/

namespace Sys2Proof.Machine

/-! ## An instruction on a unit (R250, R297) -/

section
variable {i : Instr} {u : Nat} {e : Effect} {s : State}

/-- In a wave, an instruction on a unit that the block has is its effect. -/
theorem exec_onHist_wave {a : AgentId} {w : Wave} {sp : Split} (hi : ∀ s, exec i s = runInstr i.form (onHist u e) s)
    (hr : Runs s i a w sp) (hu : u < (s.counted a w sp).histCount w.block) :
    exec i s = .next (e.wave (s.counted a w sp) a w sp) := by
  simp only [hi, runInstr_wave hr, onHist, if_neg (Nat.not_le.mpr hu)]

/-- For a parison, an instruction on a unit that the block has is its effect once no queued tile op counts into the unit. -/
theorem exec_onHist_par {p : ParId} {r : Parison} (hi : ∀ s, exec i s = runInstr i.form (onHist u e) s) (hr : RunsPar s i p r)
    (hu : u < s.histCount (some r.block)) (hfree : s.histBusy p r u = false) : exec i s = .next (e.par s p r) := by
  simp only [hi, runInstr_par hr, onHist, Nat.not_le.mpr hu, hfree, if_false, Bool.false_eq_true]

/-- A unit that the block does not have raises NAME in a wave. -/
theorem exec_onHist_wave_name {a : AgentId} {w : Wave} {sp : Split} (hi : ∀ s, exec i s = runInstr i.form (onHist u e) s)
    (hr : Runs s i a w sp) (hu : (s.counted a w sp).histCount w.block ≤ u) :
    exec i s = .next ((s.counted a w sp).raise (.wave a w sp) .illegal .name) := by
  simp only [hi, runInstr_wave hr, onHist, if_pos hu]

/-- A unit that the block does not have raises NAME for a parison. -/
theorem exec_onHist_par_name {p : ParId} {r : Parison} (hi : ∀ s, exec i s = runInstr i.form (onHist u e) s) (hr : RunsPar s i p r)
    (hu : s.histCount (some r.block) ≤ u) : exec i s = .next (s.raise (.par p r) .illegal .name) := by
  simp only [hi, runInstr_par hr, onHist, if_pos hu]

end

/-- QHIST works on unit D, QSCALE and QCLR on unit A. -/
theorem exec_eq_onHist {i : Instr} {u : Nat} (h : (∃ x, i = .qhist x ∧ u = x.d.toNat) ∨ ∃ x, (i = .qscale x ∨ i = .qclr x) ∧ u = x.a.toNat) :
    ∃ e, ∀ s, exec i s = runInstr i.form (onHist u e) s := by
  obtain ⟨x, rfl, rfl⟩ | ⟨x, rfl | rfl, rfl⟩ := h
  · exact ⟨_, fun _ => rfl⟩
  · exact ⟨_, fun _ => rfl⟩
  · exact ⟨_, fun _ => rfl⟩

/-! ## A unit's update in form mode (R247, R248) -/

/-- A unit of the parison's block replaced once by what uniform sources make of it. -/
def unitPar (f : Form) (u : Nat) (new : Hist → Parison → FormIn → Hist) (s : State) (p : ParId) (r : Parison) : State :=
  match r.guard f with
  | some false => s.setPar p (r.issued f)
  | none => s.blow p r
  | some true => match r.operands (s.formFile (parCore p)) f with
    | some i => if i.uni then (s.setHist (some r.block) u (new (s.hist (some r.block) u) r i)).setPar p (r.issued f) else s.blow p r
    | none => s.blow p r

section
variable {f : Form} {u : Nat} {new : Hist → Parison → FormIn → Hist} {s : State} {p : ParId} {r : Parison} {i : FormIn}

theorem unitPar_guard_false (hg : r.guard f = some false) : unitPar f u new s p r = s.setPar p (r.issued f) := by
  simp only [unitPar, hg]

theorem unitPar_guard_range (hg : r.guard f = none) : unitPar f u new s p r = s.blow p r := by
  simp only [unitPar, hg]

theorem unitPar_not_uniform (hg : r.guard f = some true) (ho : r.operands (s.formFile (parCore p)) f = some i) (hu : i.uni = false) :
    unitPar f u new s p r = s.blow p r := by
  simp [unitPar, hg, ho, hu]

theorem unitPar_uniform (hg : r.guard f = some true) (ho : r.operands (s.formFile (parCore p)) f = some i) (hu : i.uni = true) :
    unitPar f u new s p r = (s.setHist (some r.block) u (new (s.hist (some r.block) u) r i)).setPar p (r.issued f) := by
  simp [unitPar, hg, ho, hu]

end

/-- What QHIST (`hist`) or QCLR makes of a unit in form mode: a count of every item of the box, or the cleared unit with its base. -/
def unitAfter (hist : Bool) (h : Hist) (r : Parison) (i : FormIn) : Hist :=
  if hist then h.count i.lane.a0 r.box.count else clearedHist i.lane.b0

/-- QHIST and QCLR update their unit in form mode. -/
theorem exec_unitPar {i : Instr} {u : Nat} {hist : Bool} {s : State} {p : ParId} {r : Parison}
    (h : ∃ x, i = .qhist x ∧ u = x.d.toNat ∧ hist = true ∨ i = .qclr x ∧ u = x.a.toNat ∧ hist = false)
    (hr : RunsPar s i p r) (hu : u < s.histCount (some r.block)) (hfree : s.histBusy p r u = false) :
    exec i s = .next (unitPar i.form u (unitAfter hist) s p r) := by
  obtain ⟨x, ⟨rfl, rfl, rfl⟩ | ⟨rfl, rfl, rfl⟩⟩ := h
  · exact exec_onHist_par (fun _ => rfl) hr hu hfree
  · exact exec_onHist_par (fun _ => rfl) hr hu hfree

/-! ## QCLR and QDEQ in a wave (R248, R252) -/

/-- QCLR in a wave: the lowest executing lane, where there is one, clears the unit and gives its base. -/
def qclrWave (x : GForm) (s : State) (a : AgentId) (w : Wave) (sp : Split) : State :=
  let f := Instr.form (.qclr x)
  let t := match lowest (w.exec sp f) with
    | some l => s.setHist w.block x.a.toNat (clearedHist (w.operands (s.formFile (coreOf a)) f l).b0)
    | none => s
  t.finishWave a (w.release f.lastReads) sp f

theorem exec_qclr_wave {x : GForm} {s : State} {a : AgentId} {w : Wave} {sp : Split} (hr : Runs s (.qclr x) a w sp)
    (hu : x.a.toNat < (s.counted a w sp).histCount w.block) : exec (.qclr x) s = .next (qclrWave x (s.counted a w sp) a w sp) :=
  exec_onHist_wave (fun _ => rfl) hr hu

theorem lowest_zero : lowest 0 = none := by decide

/-- The lanes of QDEQ: each converts its element by the header that lane 31 holds. -/
def qdeqLanes (x : GForm) : VFn := fun inp _ _ l => { words := [qdeqOf (modeOf x.ml.toNat) (gMh x % 8) (inp 31).a0 (inp l).a0 l] }

/-- QDEQ in a wave traps on a reserved format where a lane executes, and runs its lanes otherwise. -/
theorem waveEffect_qdeq (x : GForm) : WaveEffect (.qdeq x) fun s a w sp =>
    let f := Instr.form (.qdeq x)
    if w.exec sp f != 0 && decide (8 ≤ (w.operands (s.formFile (coreOf a)) f 31).a0.toNat % 256) then
      s.trap (.wave a w sp) [(Actor.wave a w sp).record .format .blkFormat (w.exec sp f) 0 0] none
    else vecWave f (qdeqLanes x) s a w sp :=
  (effects_of (i := .qdeq x) (par := vecPar (Instr.form (.qdeq x)) .blows (qdeqLanes x)) fun _ => rfl).1

/-! ## The bin of a value and its count (R71, R72) -/

/-- Every value has one of the 32 bins. -/
theorem histBin_lt (base : Int) (x : Word) : histBin base x < 32 := by
  unfold histBin
  split
  · omega
  · omega
  · dsimp only
    split_ifs <;> omega

/-- Zeros of both signs go to bin 0. -/
theorem histBin_zero (base : Int) {x : Word} (h : x = 0 ∨ x = 0x80000000) : histBin base x = 0 := by
  obtain ⟨neg, e, hv⟩ : ∃ neg e, f32 x = .fin neg 0 e := by
    rcases h with rfl | rfl
    · exact ⟨_, _, rfl⟩
    · exact ⟨_, _, rfl⟩
  simp [histBin, hv]

/-- In a format with infinities, a code whose exponent field is all ones is an infinity or a NaN (R53). -/
theorem decodeF_of_exponent_ones {f : Fmt} {c : Nat} (hinf : f.inf = true)
    (hexp : c % 2 ^ f.width % 2 ^ (f.width - 1) / 2 ^ f.fb = 2 ^ f.eb - 1) : decodeF f c = .nan ∨ ∃ neg, decodeF f c = .inf neg := by
  simp only [decodeF, hinf, hexp, decide_true, Bool.and_self, if_true]
  split
  next => exact .inr ⟨_, rfl⟩
  next => exact .inl rfl

/-- Infinities and NaNs go to bin 31. -/
theorem histBin_nonfinite (base : Int) {x : Word} (h : x.extractLsb' 23 8 = 0xFF) : histBin base x = 31 := by
  have hfield : x.toNat / 2 ^ 23 % 256 = 255 := by
    simpa [BitVec.extractLsb'_toNat, Nat.shiftRight_eq_div_pow] using congrArg BitVec.toNat h
  have hexp : x.toNat % 2 ^ 32 % 2 ^ 31 / 2 ^ 23 = 255 := by omega
  rcases decodeF_of_exponent_ones (f := fF32) rfl hexp with hv | ⟨neg, hv⟩
  · simp [histBin, f32, hv]
  · simp [histBin, f32, hv]

theorem toNat_satAdd (w : Word) (n : Nat) : (satAdd w n).toNat = min (w.toNat + n) (2 ^ 32 - 1) := by
  rw [satAdd, BitVec.toNat_ofNat]
  omega

section
variable {h : Hist} (x : Word) (n : Nat)

theorem Hist.base_count : (h.count x n).base = h.base := rfl

theorem Hist.length_bins_count : (h.count x n).bins.length = h.bins.length := List.length_set

/-- The value's own bin counts on. -/
theorem Hist.bin_count_self (hlen : h.bins.length = 32) :
    nth (h.count x n).bins (histBin h.exp x) 0 = satAdd (nth h.bins (histBin h.exp x) 0) n :=
  nth_set_self (hlen ▸ histBin_lt h.exp x) _ _

/-- Every other bin keeps its count. -/
theorem Hist.bin_count_ne {c : Nat} (hc : c ≠ histBin h.exp x) : nth (h.count x n).bins c 0 = nth h.bins c 0 :=
  nth_set_ne hc _ _ _

end

/-! ## The statement -/

/-- Settles O30: a unit's instructions by what `onHist` admits, their updates in form mode by the outcomes of `unitPar`, QDEQ by its two
effects, and the count by the bin of its value. -/
theorem histogramInstructionsComplete : Obligations.HistogramInstructionsComplete := by
  unfold Obligations.HistogramInstructionsComplete
  refine ⟨⟨fun x s a w sp hr hu => exec_onHist_wave (fun _ => rfl) hr hu, fun x s a w sp hr hu => exec_onHist_wave (fun _ => rfl) hr hu,
    fun x s p r hr hu hfree => exec_onHist_par (fun _ => rfl) hr hu hfree, fun i u hi => ?name, fun x s a w sp hr hu => ?qclr,
    fun x s a w sp hr => ?qdeq, fun x => (effects_of fun _ => rfl).2, fun i u hist hi s p r hr hu hfree => ?form⟩, fun h x n hlen => ?count⟩
  case name =>
    obtain ⟨e, he⟩ := exec_eq_onHist hi
    exact ⟨fun s a w sp hr hu => exec_onHist_wave_name he hr hu, fun s p r hr hu => exec_onHist_par_name he hr hu⟩
  case qclr =>
    refine ⟨fun hnone => ?_, fun l hl => ?_⟩
    · simp only [exec_qclr_wave hr hu, qclrWave, hnone, lowest_zero]
    · simp only [exec_qclr_wave hr hu, qclrWave, hl, clearedHist]
  case qdeq =>
    have hrun := waveEffect_qdeq x s a w sp hr
    refine ⟨fun hpass => hrun.trans (congrArg _ (if_neg ?_)), fun hex hfmt => hrun.trans (congrArg _ (if_pos ?_))⟩
    · simpa [or_iff_not_imp_left] using hpass
    · simpa using ⟨hex, hfmt⟩
  case form =>
    have hrun := exec_unitPar hi hr hu hfree
    refine ⟨fun hg => ?_, fun hg => ?_, fun f hg ho hf => ?_, fun f hg ho hf => ?_⟩
    · rw [hrun, unitPar_guard_false hg]
    · rw [hrun, unitPar_guard_range hg]
    · rw [hrun, unitPar_not_uniform hg ho hf]
    · simp only [hrun, unitPar_uniform hg ho hf, unitAfter, clearedHist]
  case count =>
    exact ⟨histBin_lt h.exp x, Hist.base_count x n, (Hist.length_bins_count x n).trans hlen,
      Hist.bin_count_self x n hlen ▸ toNat_satAdd _ n, fun c hc => Hist.bin_count_ne x n hc, histBin_zero h.exp, histBin_nonfinite h.exp⟩

end Sys2Proof.Machine

/-! Decoding after encoding (R177 to R184): each form's words parse to the instruction of the opcode map. -/

namespace Sys2Proof

/-- The instruction of the opcode map for a form (R191); JOB and JSTAT take theirs from ML[0]. -/
def Form.ctor : Form → Option Instr
  | .g o x => gCtor o x
  | .i o x => iCtor o x
  | .m o x => mCtor o x
  | .v o x => vCtor o x
  | .c o x => cCtor o x
  | .step => none

/-- Whether the opcode of a form is read as this form. A format G instruction whose opcode has an immediate form too uses no modifier
bit 2, which tells the two apart (R180). -/
def Form.mapped : Form → Bool
  | .g o x => assigned o && !isM o && !isV o && !isC o && !immOnly o && (!immCapable o || decide ((gUse o x).ml < 4))
  | .i o _ => assigned o && !isM o && !isV o && !isC o && (immCapable o || immOnly o)
  | .m o _ => assigned o && isM o
  | .v o _ => assigned o && !isM o && isV o
  | .c o _ => assigned o && !isM o && !isV o && isC o
  | .step => true

theorem mapped_form (i : Instr) : i.form.mapped = true := by cases i <;> rfl

/-- An opcode fits its field. -/
theorem mod_of_assigned {o : Nat} (h : assigned o = true) : o % 256 = o := by
  refine Nat.mod_eq_of_lt ?_
  simp [assigned] at h
  omega

/-- JOB and JSTAT ask for more than the checks of their words, the others do not. -/
theorem wordOk_of_wf {i : Instr} (h : i.wf = true) (hs : i.form ≠ .step) : WellFormed.wordOk i = true := by
  cases i
  case jobGaffer | jobWave | jstatGaffer | jstatWave => exact (Bool.and_eq_true_iff.mp h).1
  all_goals simp_all only [Instr.wf, Instr.form, ne_eq, not_true_eq_false]

/-- The opcode map gives a well-formed instruction back. -/
theorem ctor_form {i : Instr} (h : i.wf = true) (hs : i.form ≠ .step) : i.form.ctor = some i := by
  suffices hc : i.form.ctor = if i.form = .step then none else some i from hc.trans (if_neg hs)
  cases i
  case jobGaffer x | jstatGaffer x =>
    have hml : x.ml.getLsbD 0 = true := (Bool.and_eq_true_iff.mp h).2
    simp only [Instr.form, Form.ctor, gCtor, hml, if_true, reduceCtorEq, if_false]
  case jobWave x | jstatWave x =>
    have hml : x.ml.getLsbD 0 = false := by simpa using (Bool.and_eq_true_iff.mp h).2
    simp only [Instr.form, Form.ctor, gCtor, hml, Bool.false_eq_true, if_false, reduceCtorEq]
  all_goals rfl

section
variable {i : Instr} {o : Nat} (hc : i.form.ctor = some i)
include hc

/-- Words of format G: bit 2 of ML, which would make an immediate form of them, is zero where the opcode has one. -/
theorem parse_encode_g {x : GForm} (hf : i.form = .g o x) (hok : WellFormed.wordOk i = true) :
    parse (w0Bits o x.w1.isSome x.d x.a x.b x.lra x.lrb x.ml) (x.w1.map w1Bits) = .ok i := by
  have hm := mapped_form i
  simp only [hf, Form.mapped, Bool.and_eq_true, Bool.or_eq_true, Bool.not_eq_true', decide_eq_true_eq] at hm
  obtain ⟨⟨⟨⟨⟨ha, hM⟩, hV⟩, hC⟩, hI⟩, himm⟩ := hm
  have hbit : ((immCapable o || immOnly o) && x.ml.getLsbD 2) = false := by
    rcases himm with hno | hlt
    · rw [hno, hI, Bool.or_self, Bool.false_and]
    · have hmask : (gUse o x).ml &&& 4 = 0 := by
        generalize (gUse o x).ml = m at hlt ⊢
        interval_cases m <;> rfl
      rw [ml2_of_wordOk i o x hf hok hmask, Bool.and_false]
  have hopc := opcOf_w0Bits o x.w1.isSome x.d x.a x.b x.lra x.lrb x.ml
  rw [mod_of_assigned ha] at hopc
  exact parse_g _ _ i (by rwa [hopc]) (by rwa [hopc]) (by rwa [hopc]) (by rwa [hopc]) (by rw [hopc, immBit_w0Bits]; exact hbit) (by rwa [hopc])
    (by rw [wOf_w0Bits, Option.isSome_map]) (by rw [hopc, gOf_words]; simpa only [hf, Form.ctor] using hc)

theorem parse_encode_i {x : IForm} (hf : i.form = .i o x) :
    parse (w0Bits o true x.d x.a x.mh x.lra x.lrb ((1 : BitVec 1) ++ x.ml)) (some x.imm) = .ok i := by
  have hm := mapped_form i
  simp only [hf, Form.mapped, Bool.and_eq_true, Bool.not_eq_true'] at hm
  obtain ⟨⟨⟨⟨ha, hM⟩, hV⟩, hC⟩, hI⟩ := hm
  have hopc := opcOf_w0Bits o true x.d x.a x.mh x.lra x.lrb ((1 : BitVec 1) ++ x.ml)
  rw [mod_of_assigned ha] at hopc
  exact parse_i _ _ i (by rwa [hopc]) (by rwa [hopc]) (by rwa [hopc]) (by rwa [hopc])
    (by rw [hopc, hI, immBit_w0Bits, (immBits x.ml).2, Bool.and_self]) (wOf_w0Bits ..) (by rw [hopc, iOf_w0Bits]; simpa only [hf, Form.ctor] using hc)

theorem parse_encode_m {x : MForm} (hf : i.form = .m o x) :
    parse (w0Bits o true x.d x.a x.b x.lra x.lrb x.ml)
      (some (x.ofs ++ x.gp ++ flag x.gn ++ x.la ++ x.scope ++ x.ord ++ x.space ++ x.pol)) = .ok i := by
  have hm := mapped_form i
  simp only [hf, Form.mapped, Bool.and_eq_true] at hm
  obtain ⟨ha, hM⟩ := hm
  have hopc := opcOf_w0Bits o true x.d x.a x.b x.lra x.lrb x.ml
  rw [mod_of_assigned ha] at hopc
  exact parse_m _ _ i (by rwa [hopc]) (by rwa [hopc]) (wOf_w0Bits ..) (by rw [hopc, mOf_words]; simpa only [hf, Form.ctor] using hc)

theorem parse_encode_v {x : VForm} (hf : i.form = .v o x) :
    parse (w0Bits o true x.d x.a x.b x.lra x.lrb x.ml)
      (some (x.method ++ x.ofs ++ x.gp ++ flag x.gn ++ x.la ++ x.scope ++ x.ord ++ x.space ++ x.pol)) = .ok i := by
  have hm := mapped_form i
  simp only [hf, Form.mapped, Bool.and_eq_true, Bool.not_eq_true'] at hm
  obtain ⟨⟨ha, hM⟩, hV⟩ := hm
  have hopc := opcOf_w0Bits o true x.d x.a x.b x.lra x.lrb x.ml
  rw [mod_of_assigned ha] at hopc
  exact parse_v _ _ i (by rwa [hopc]) (by rwa [hopc]) (by rwa [hopc]) (wOf_w0Bits ..) (by rw [hopc, vOf_words]; simpa only [hf, Form.ctor] using hc)

theorem parse_encode_c {x : CForm} (hf : i.form = .c o x) :
    parse (BitVec.ofNat 8 o ++ flag true ++ x.ofs) (some (x.rsv ++ x.gp ++ flag x.gn ++ x.kind ++ x.aux)) = .ok i := by
  have hm := mapped_form i
  simp only [hf, Form.mapped, Bool.and_eq_true, Bool.not_eq_true'] at hm
  obtain ⟨⟨⟨ha, hM⟩, hV⟩, hC⟩ := hm
  have hopc := opcOf_control o true x.ofs
  rw [mod_of_assigned ha] at hopc
  exact parse_c _ _ i (by rwa [hopc]) (by rwa [hopc]) (by rwa [hopc]) (by rwa [hopc]) (wOf_control ..)
    (by rw [hopc, cOf_words]; simpa only [hf, Form.ctor] using hc)

end

theorem decode_encode {i : Instr} (h : i.wf = true) (hs : i.form ≠ .step) : decode (encode i) = .ok i := by
  have hok := wordOk_of_wf h hs
  have hc := ctor_form h hs
  have hstatic := staticCheck_of_wordOk i hok
  cases hf : i.form with
  | g o x => rw [encode_g i o x hf]; exact decode_of_parse _ _ i (by simpa using parse_encode_g hc hf hok) hstatic
  | i o x => rw [encode_i i o x hf]; exact decode_of_parse _ _ i (parse_encode_i hc hf) hstatic
  | m o x => rw [encode_m i o x hf]; exact decode_of_parse _ _ i (parse_encode_m hc hf) hstatic
  | v o x => rw [encode_v i o x hf]; exact decode_of_parse _ _ i (parse_encode_v hc hf) hstatic
  | c o x => rw [encode_c i o x hf]; exact decode_of_parse _ _ i (parse_encode_c hc hf) hstatic
  | step => exact absurd hf hs

/-- Settles O1: each form's words parse to what the opcode map gives for it, which the static checks pass. -/
theorem decodeOfEncode : Obligations.DecodeOfEncode := by
  unfold Obligations.DecodeOfEncode
  intro i h hs
  have hd := decode_encode h hs
  exact ⟨hd, by rw [decodeBytes, encodeBytes, wordsOfBytes_bytes]; exact hd⟩

end Sys2Proof

/-! Walk faults (R22, R24): the end of a step forgets those that nothing awaits, and what comes after takes no awaiting away. -/

namespace Sys2Proof.Machine

/-- Two states with the same waves, parisons, combiner waves and firmware waves, and the same walks. -/
structure SameWalkers (s t : State) : Prop where
  waves : t.waves = s.waves
  pars : t.pars = s.pars
  crucibles (d : Die) : (t.die d).crucibles = (s.die d).crucibles
  fw (d : Die) : (t.die d).fw = (s.die d).fw
  walks (d : Die) : (t.die d).walks = (s.die d).walks

namespace SameWalkers

theorem refl (s : State) : SameWalkers s s := ⟨rfl, rfl, fun _ => rfl, fun _ => rfl, fun _ => rfl⟩

theorem trans {s t u : State} (h : SameWalkers s t) (g : SameWalkers t u) : SameWalkers s u :=
  ⟨g.waves.trans h.waves, g.pars.trans h.pars, fun d => (g.crucibles d).trans (h.crucibles d), fun d => (g.fw d).trans (h.fw d),
    fun d => (g.walks d).trans (h.walks d)⟩

/-- A die that is replaced by one with the same combiner waves, firmware waves and walks. -/
theorem setDie {s : State} {d : Die} {x : DieState} (hc : x.crucibles = (s.die d).crucibles) (hf : x.fw = (s.die d).fw)
    (hw : x.walks = (s.die d).walks) : SameWalkers s (s.setDie d x) := by
  refine ⟨State.setDie_waves s d x, State.setDie_pars s d x, fun e => ?_, fun e => ?_, fun e => ?_⟩ <;>
  · by_cases he : e = d
    · subst he; rw [State.die_setDie]; assumption
    · rw [State.die_setDie_ne s x he]

/-- The waves and operations of agents are found among what is the same. -/
theorem waveOf {s t : State} (h : SameWalkers s t) (a : AgentId) : t.waveOf a = s.waveOf a := by
  cases a with
  | none | gaffer => rfl
  | wave w _ => exact congrArg (look w) h.waves
  | combiner r =>
    have hc : t.crucible r = s.crucible r := by simp only [State.crucible, h.crucibles]
    simp only [State.waveOf, hc]
  | firmware d n =>
    have hf : t.fwCore d n = s.fwCore d n := by simp only [State.fwCore, h.fw]
    simp only [State.waveOf, hf]

theorem agentOps {s t : State} (h : SameWalkers s t) (a : AgentId) : t.agentOps a = s.agentOps a := by
  cases a <;> simp only [State.agentOps, h.waveOf, h.pars]

theorem actorOf {s t : State} (h : SameWalkers s t) (a : AgentId) : t.actorOf a = s.actorOf a := by
  cases a <;> simp only [State.actorOf, h.waveOf, h.pars]

theorem walkAwaited {s t : State} (h : SameWalkers s t) (q : WalkReq) : t.walkAwaited q = s.walkAwaited q := by
  simp only [State.walkAwaited, h.agentOps, h.actorOf]

theorem walksAwaited {s t : State} (h : SameWalkers s t) : t.walksAwaited = s.walksAwaited := by
  simp only [State.walksAwaited, h.walks, h.walkAwaited]

end SameWalkers

/-! ## What the end of a step keeps -/

theorem sameWalkers_setPipe (s : State) (d : Die) (p : PipeEnd) : SameWalkers s (s.setPipe d p) := .setDie rfl rfl rfl

theorem sameWalkers_purgeFar (s : State) (d : Die) : SameWalkers s (s.purgeFar d) := by
  unfold State.purgeFar
  dsimp only
  split
  next => exact .refl s
  next => exact sameWalkers_setPipe s d _

theorem sameWalkers_beat (s : State) (d : Die) : SameWalkers s (s.beat d) := by
  unfold State.beat
  dsimp only
  split
  next => exact .refl s
  next => exact SameWalkers.trans (.setDie (x := { s.die d with beatAt := s.now d }) rfl rfl rfl) (sameWalkers_setPipe _ (otherDie d) _)

theorem sameWalkers_ptmAgain (s : State) : SameWalkers s s.ptmAgain := by
  unfold State.ptmAgain
  split
  next => exact ⟨rfl, rfl, fun d => by cases d <;> rfl, fun d => by cases d <;> rfl, fun d => by cases d <;> rfl⟩
  next => exact .refl s

/-- A die whose refresh mode or access counters change with the time keeps its waves and walks. -/
theorem DieState.passed_walkers (x : DieState) (old : Nat) :
    (x.passed old).crucibles = x.crucibles ∧ (x.passed old).fw = x.fw ∧ (x.passed old).walks = x.walks := by
  unfold DieState.passed
  split <;> exact ⟨rfl, rfl, rfl⟩

@[inherit_doc DieState.passed_walkers]
theorem DieState.decayed_walkers (x : DieState) :
    x.decayed.crucibles = x.crucibles ∧ x.decayed.fw = x.fw ∧ x.decayed.walks = x.walks := by
  unfold DieState.decayed
  dsimp only
  split <;> exact ⟨rfl, rfl, rfl⟩

theorem sameWalkers_tick (s : State) : SameWalkers s s.tick := by
  unfold State.tick
  refine SameWalkers.trans (t := _) ?_ (((sameWalkers_beat _ .kapael).trans (sameWalkers_beat _ .amdukor)).trans (sameWalkers_ptmAgain _))
  refine ⟨rfl, rfl, fun d => ?_, fun d => ?_, fun d => ?_⟩
  all_goals cases d <;> simp only [State.die, DieState.decayed_walkers, DieState.passed_walkers]

/-! ## The purge -/

/-- A table of walks in which a fault stays only where something awaits it. -/
def State.awaitedOnly (s : State) (l : List (WalkReq × WalkSt)) : Prop :=
  ∀ e ∈ l, ∀ sub level, e.2 = .fault sub level → s.walkAwaited e.1 = true

theorem walksAwaited_iff (s : State) : s.walksAwaited = true ↔ ∀ d, s.awaitedOnly (s.die d).walks := by
  have hdies (p : Die → Prop) : (∀ d ∈ [Die.kapael, Die.amdukor], p d) ↔ ∀ d, p d := by
    constructor
    · intro h d; cases d <;> simp_all
    · exact fun h d _ => h d
  simp only [State.walksAwaited, List.all_eq_true, State.awaitedOnly, hdies]
  refine forall_congr' fun d => forall₂_congr fun e _ => ?_
  cases e.2 <;> simp

/-- What awaits a walk is the same whatever walks there are. -/
theorem walkAwaited_purgeWalks (s : State) (q : WalkReq) : s.purgeWalks.walkAwaited q = s.walkAwaited q := by
  have hwave (a : AgentId) : s.purgeWalks.waveOf a = s.waveOf a := by
    cases a with
    | combiner r =>
      have hc : s.purgeWalks.crucible r = s.crucible r := by unfold State.crucible; cases r.die <;> rfl
      simp only [State.waveOf, hc]
    | firmware d n => cases d <;> rfl
    | none | wave | gaffer => rfl
  have hops (a : AgentId) : s.purgeWalks.agentOps a = s.agentOps a := by
    cases a with
    | gaffer => rfl
    | none | wave | combiner | firmware => simp only [State.agentOps, hwave]
  have hactor (a : AgentId) : s.purgeWalks.actorOf a = s.actorOf a := by
    cases a with
    | gaffer => rfl
    | none | wave | combiner | firmware => simp only [State.actorOf, hwave]
  simp only [State.walkAwaited, hops, hactor]

theorem walksAwaited_purgeWalks (s : State) : s.purgeWalks.walksAwaited = true := by
  rw [walksAwaited_iff]
  intro d e he sub level hfault
  rw [walkAwaited_purgeWalks]
  cases d <;> simpa [hfault] using (List.mem_filter.mp he).2

theorem walksAwaited_tidy (s : State) : s.tidy.walksAwaited = true := by
  unfold State.tidy
  rw [(sameWalkers_purgeFar _ .amdukor).walksAwaited, (sameWalkers_purgeFar _ .kapael).walksAwaited]
  exact walksAwaited_purgeWalks _

/-! ## Every step -/

/-- What goes on after a step's answer is its state with what is over cleared away and with time. -/
theorem afterStep_eq_next {o : Out} {t : State} (h : afterStep o = .next t) : ∃ u, o = .next u ∧ u.tidy.tick = t := by
  cases o with
  | next u => exact ⟨u, rfl, Host.Outcome.next.inj h⟩
  | fault | refused => nomatch h

/-- A step that goes on is a move of the agenda or the part's own, with what is over cleared away and with time. -/
theorem step_eq_next {s t : State} (h : Machine.step s = .next t) :
    ∃ u : State, u.tidy.tick = t ∧ ((∃ m l, s.agenda = m :: l ∧ ({ s with agenda := l } : State).move m = .next u)
      ∨ s.agenda = [] ∧ s.ownStep = .next u) := by
  unfold Machine.step at h
  split at h
  next m l hm =>
    obtain ⟨u, hu, ht⟩ := afterStep_eq_next h
    exact ⟨u, ht, .inl ⟨m, l, hm, hu⟩⟩
  next hm =>
    obtain ⟨u, hu, ht⟩ := afterStep_eq_next h
    exact ⟨u, ht, .inr ⟨hm, hu⟩⟩

/-- Settles O6: the purge at a step's end leaves only faults that are awaited, and what follows it changes neither walks nor waits. -/
theorem everyStepLeavesWalksAwaited : Obligations.EveryStepLeavesWalksAwaited := by
  unfold Obligations.EveryStepLeavesWalksAwaited
  intro s t h
  obtain ⟨u, ht, -⟩ := step_eq_next h
  rw [← ht, (sameWalkers_tick _).walksAwaited]
  exact walksAwaited_tidy u

end Sys2Proof.Machine

/-! Integer and floating-point instructions (R215, R216, R221, R224, R236 to R245). -/

namespace Sys2Proof.Machine

/-! ## Carries and borrows (R215) -/

theorem ofBool_toNat (c : Bool) : BitVec.ofNat 32 c.toNat = if c then (1 : Word) else 0 := by cases c <;> rfl

theorem addCarry_eq (a b : Word) (c : Bool) :
    addCarry a b c = (a + b + (if c then 1 else 0), decide (2 ^ 32 ≤ a.toNat + b.toNat + c.toNat)) := by
  have hsum : BitVec.ofNat 32 (a.toNat + b.toNat + c.toNat) = a + b + if c then 1 else 0 := by
    rw [← ofBool_toNat, BitVec.ofNat_add, BitVec.ofNat_add, BitVec.ofNat_toNat, BitVec.ofNat_toNat, BitVec.setWidth_eq, BitVec.setWidth_eq]
  rw [addCarry, hsum]

theorem subBorrow_eq (a b : Word) (c : Bool) :
    subBorrow a b c = (a - b - (if c then 1 else 0), decide (a.toNat < b.toNat + c.toNat)) := by
  have hdiff : BitVec.ofInt 32 ((a.toNat : Int) - b.toNat - c.toNat) = a - b - if c then 1 else 0 := by
    rw [← ofBool_toNat, Int.sub_eq_add_neg, Int.sub_eq_add_neg, BitVec.ofInt_add, BitVec.ofInt_add, BitVec.ofInt_neg, BitVec.ofInt_neg, BitVec.ofInt_natCast, BitVec.ofInt_natCast, BitVec.ofInt_natCast,
      BitVec.ofNat_toNat, BitVec.ofNat_toNat, BitVec.setWidth_eq, BitVec.setWidth_eq, sub_eq_add_neg, sub_eq_add_neg]
  have hborrow : ((a.toNat : Int) - b.toNat - c.toNat < 0) ↔ a.toNat < b.toNat + c.toNat := by omega
  rw [subBorrow, hdiff, decide_eq_decide.mpr hborrow]

/-- Settles O7: each instruction runs its lanes by its own arm; the carry and the borrow by what their words are. -/
theorem integerInstructionsComplete : Obligations.IntegerInstructionsComplete := by
  unfold Obligations.IntegerInstructionsComplete
  refine ⟨?iadd, ?iaddImm, ?isub, ?isubImm, ?imul, ?imulImm, ?imulh, ?imulhImm, ?imad, ?iaddc, ?isubb, ?imin, ?iminImm, ?imax, ?imaxImm,
    ?iabs, ?sel, ?imadw, ?rng, ?rngImm⟩
  case iaddc =>
    intro x
    have hrun : VecEffect (.iaddc x) .uniform (each fun i => withCarry (gMh x) (addCarry i.a0 i.b0 i.pc)) := vecEffect_of fun _ => rfl
    simpa only [withCarry, addCarry_eq] using hrun
  case isubb =>
    intro x
    have hrun : VecEffect (.isubb x) .uniform (each fun i => withCarry (gMh x) (subBorrow i.a0 i.b0 i.pc)) := vecEffect_of fun _ => rfl
    simpa only [withCarry, subBorrow_eq] using hrun
  all_goals exact fun _ => vecEffect_of fun _ => rfl

/-! ## Floating point -/

/-- A long-latency function holds its result in flight in a wave, and is computed as any other instruction in form mode (R237). -/
theorem fpEffects_of {i : Instr} {g : FV → Nat} (h : ∀ s, exec i s = runFp i.form g s) :
    WaveEffect i (fpWave i.form g) ∧ ParEffect i (vecPar i.form .uniform (each1 fun i => ofF (g (f32 i.a0)))) :=
  effects_of h

/-- Results written change nothing of a wave but its rename map, whose length it keeps. -/
theorem Wave.writeResults_rest (ff : List (Nat × Aff)) (o : Op) : ∀ (ns : List Nat) (k : Nat) (w : Wave),
    ∃ v, w.writeResults ff o ns k = { w with vmap := v } ∧ v.length = w.vmap.length := by
  intro ns
  induction ns with
  | nil => exact fun k w => ⟨w.vmap, rfl, rfl⟩
  | cons n t ih =>
    intro k w
    unfold Wave.writeResults
    dsimp only
    obtain ⟨v, hv, hlen⟩ := ih (k + 1) (w.write ff n
      (maskOf fun l => w.alive.getLsbD l && (look l o.results).any fun ws => decide (k < ws.length))
      fun l => nth ((look l o.results).getD []) k 0)
    refine ⟨v, hv.trans ?_, hlen.trans (by simp)⟩
    unfold Wave.write
    split <;> rfl

@[simp] theorem Wave.writeResults_ops (w : Wave) (ff : List (Nat × Aff)) (o : Op) (ns : List Nat) (k : Nat) :
    (w.writeResults ff o ns k).ops = w.ops := by
  obtain ⟨v, hv, -⟩ := Wave.writeResults_rest ff o ns k w
  rw [hv]

theorem exec_fpFunctionResult {s : State} {a : AgentId} {op : Nat} {w : Wave} {o : Op} (hw : s.waveOf a = some w)
    (ho : opOf w.ops op = some o) (hk : o.kind = .fpFunction) : exec (.fpFunctionResult a op) s =
      .next (s.setWave a { w.writeResults (s.formFile (coreOf a)) o o.vdst 0 with ops := delOp w.ops op }) := by
  show execFpFunctionResult a op s = _
  simp only [execFpFunctionResult, hw, ho, hk, OpKind.isFp, if_true, Wave.writeResults_ops]

/-- Settles O9: each instruction runs its lanes by its own arm, a long-latency function by its two effects, the reply by the operation. -/
theorem floatInstructionsComplete : Obligations.FloatInstructionsComplete := by
  unfold Obligations.FloatInstructionsComplete
  refine ⟨?lanes, fun _ => fpEffects_of fun _ => rfl, fun _ => fpEffects_of fun _ => rfl, fun _ => fpEffects_of fun _ => rfl,
    fun _ => fpEffects_of fun _ => rfl, fun _ => fpEffects_of fun _ => rfl, fun _ => fpEffects_of fun _ => rfl,
    fun _ => fpEffects_of fun _ => rfl, fun _ _ _ _ _ => exec_fpFunctionResult⟩
  refine ⟨?fcmp, ?fcmpImm, ?fkind, ?fadd, ?faddImm, ?fmul, ?fmulImm, ?ffma, ?fmin, ?fminImm, ?fmax, ?fmaxImm, ?frnd, ?hadd2, ?hmul2,
    ?hfma2, ?hmin2, ?hmax2, ?vdot2, ?vdot4, ?cvt, ?pack2⟩
  all_goals exact fun _ => vecEffect_of fun _ => rfl

end Sys2Proof.Machine

/-! Vector instructions in a wave (R157, R187, R201): how lanes and patterns read, what is written and what is left. -/

namespace Sys2Proof.Machine

/-! ## Lanes and patterns -/

section
variable {w : Wave} {ff : List (Nat × Aff)} {n l : Nat}

theorem Wave.lane_of_not_live (h : w.live.getLsbD l = false) : w.lane ff n l = 0 := by simp [Wave.lane, h]

theorem Wave.lane_of_undef (hm : nth w.vmap n .undef = .undef) : w.lane ff n l = 0 := by simp [Wave.lane, hm]

theorem Wave.lane_of_phys {v : List Word} (h : w.live.getLsbD l = true) (hm : nth w.vmap n .undef = .phys v) :
    w.lane ff n l = nth v l 0 := by simp [Wave.lane, h, hm]

theorem Wave.lane_of_form {k : Nat} {f : Aff} (h : w.live.getLsbD l = true) (hm : nth w.vmap n .undef = .form k)
    (hk : look k ff = some f) : w.lane ff n l = f.at (w.item l).1 (w.item l).2.1 (w.item l).2.2 := by
  simp [Wave.lane, h, hm, hk]

end

/-- A lane executes when it is active and its guard is true; guard 24 is true in every lane (R179, R201). -/
theorem Wave.getLsbD_exec (w : Wave) (sp : Split) (f : Form) {l : Nat} (hl : l < 32) :
    (w.exec sp f).getLsbD l =
      (sp.act.getLsbD l && (decide (f.guard.1 = 24) || ((nth w.preds f.guard.1 0).getLsbD l != f.guard.2.1))) := by
  unfold Wave.exec
  dsimp only
  by_cases h24 : f.guard.1 = 24
  · simp [h24]
  · cases f.guard.2.1 <;> simp [h24, hl]

/-- The kind and the number of a pattern register are its fields (R187). -/
theorem srcLane_fields (kind : BitVec 2) (p : BitVec 5) (l : Nat) : srcLane ((0 : BitVec 1) ++ kind ++ p) l =
    if kind = 0 then (l + p.toNat) % 32 else if kind = 1 then p.toNat else if kind = 2 then l ^^^ p.toNat
    else l ^^^ (2 ^ p.toNat - 1) := by
  have hp : ((0 : BitVec 1) ++ kind ++ p).extractLsb' 0 5 = p := by
    rw [extract_low _ _ 0 5 (by omega), extract_all]
  have hk : ((0 : BitVec 1) ++ kind ++ p).extractLsb' 5 2 = kind := by
    rw [extract_high _ _ 5 2 (by omega), extract_low _ _ 0 2 (by omega), extract_all]
  have hall : ∀ kind : BitVec 2, kind = 0 ∨ kind = 1 ∨ kind = 2 ∨ kind = 3 := by decide
  simp only [srcLane, hp, hk]
  rcases hall kind with rfl | rfl | rfl | rfl <;> rfl

/-- MIR within a block of at most 32 lanes stays within the wave. -/
theorem xor_pred_pow_lt {l p : Nat} (hl : l < 32) (hp : p ≤ 5) : l ^^^ (2 ^ p - 1) < 32 := by
  refine Nat.xor_lt_two_pow (n := 5) hl ?_
  have := Nat.pow_le_pow_right (n := 2) (by decide) hp
  omega

/-- Settles O11: a name by what it is bound to, the executing lanes by their guard, a pattern by its fields. -/
theorem lanesAndOperands : Obligations.LanesAndOperands := by
  unfold Obligations.LanesAndOperands
  refine ⟨⟨fun w ff n l => ⟨Wave.lane_of_not_live, fun h => ⟨Wave.lane_of_undef, fun v => Wave.lane_of_phys h,
    fun k b x y z => Wave.lane_of_form h⟩⟩, fun w sp f l => Wave.getLsbD_exec w sp f⟩, fun p l hl => ?_⟩
  simp only [srcLane_fields]
  exact ⟨rfl, rfl, rfl, fun hp => ⟨rfl, xor_pred_pow_lt hl hp⟩⟩

/-! ## What a vector instruction writes -/

/-- In a wave of a partition a vector instruction completes with its lanes' results. -/
theorem exec_vec_wave {i : Instr} {rule : FormRule} {fn : VFn} (he : VecEffect i rule fn) {s : State} {id : WaveId} {k : Nat} {w : Wave}
    {sp : Split} (hr : Runs s i (.wave id k) w sp) :
    exec i s = .next (s.finishWave (.wave id k) (vecResult w (s.formFile ⟨id.die, id.core⟩) i.form fn (w.exec sp i.form)) sp i.form) :=
  he.1 s (.wave id k) w sp hr

/-- A wave that has issued stands in the table, changed in the slot of its split alone. -/
theorem look_finishWave (s : State) (id : WaveId) (k : Nat) (w : Wave) (sp : Split) (f : Form) :
    look id (s.finishWave (.wave id k) w sp f).waves =
      some (w.setSlot k (some { sp.issued f with freed := sp.freed ++ s.freedBy (.wave id k) f })) := State.look_setWave ..

/-- Settles O12: the destinations as they are written after the last reads, the predicates as the lanes give them. -/
theorem vectorResults : Obligations.VectorResults := by
  unfold Obligations.VectorResults
  intro i rule fn he s id k w sp hr hdup
  refine ⟨_, _, exec_vec_wave he hr, look_finishWave .., fun j n l hj hn hl hlive => ?_, fun n l hn hl => vecResult_preds _ _ _ _ _ hn hl,
    fun l hl => nth_outputs _ _ _ _ _ hl⟩
  refine (vecResult_lane w _ i.form fn _ n l).trans ?_
  have hn' : n < (w.release i.form.lastReads).vmap.length := by simpa using hn
  have hlive' : (w.release i.form.lastReads).live.getLsbD l = true := hlive
  rw [Wave.lane_writeDst _ _ _ _ _ _ j n l hdup hj hn' hl hlive', Nat.zero_add]

/-! ## What a vector instruction leaves alone in a wave -/

/-- The agent's split stands in a slot that the wave has. -/
theorem slot_of_runs {s : State} {i : Instr} {id : WaveId} {k : Nat} {w : Wave} {sp : Split} (hr : Runs s i (.wave id k) w sp) :
    k < w.slots.length := by
  obtain ⟨-, ha, -⟩ := hr
  simp only [State.actorOf, slotOf] at ha
  by_contra hk
  split at ha
  next v _ =>
    split at ha
    next q hq =>
      obtain ⟨rfl, rfl⟩ : v = w ∧ q = sp := by simpa using ha
      simp [nth, List.getElem?_eq_none (Nat.not_lt.mp hk)] at hq
    next => cases ha
  next => cases ha

theorem mem_of_mem_dedup {α : Type} [DecidableEq α] {x : α} : ∀ {l : List α}, x ∈ dedup l → x ∈ l
  | [], h => h
  | a :: t, h => by
    rcases List.mem_cons.mp h with rfl | ht
    · exact List.mem_cons_self
    · exact List.mem_cons_of_mem _ (mem_of_mem_dedup (List.mem_filter.mp ht).1)

theorem look_ne_none_of_mem {κ α : Type} [DecidableEq κ] {k : κ} : ∀ {l : List (κ × α)}, k ∈ l.map (·.1) → look k l ≠ none
  | [], h => by simp at h
  | (k', a) :: t, h => by
    unfold look
    split
    next => simp
    next hne => exact look_ne_none_of_mem (by simpa [Ne.symm hne] using h)

/-- A predicate that no lane gives is as it was. -/
theorem vecResult_preds_of_none (w : Wave) (ff : List (Nat × Aff)) (f : Form) (fn : VFn) (ex : Word) {n : Nat}
    (h : ∀ l, look n (nth (outputs w ff f fn ex) l {}).preds = none) : nth (vecResult w ff f fn ex).preds n 0 = nth w.preds n 0 := by
  have hn : n ∉ predsWritten ex (outputs w ff f fn ex) := by
    intro hmem
    obtain ⟨l, -, hl⟩ := List.mem_flatMap.mp (mem_of_mem_dedup hmem)
    exact look_ne_none_of_mem hl (h l)
  unfold vecResult
  dsimp only
  rw [Wave.preds_writePreds_ne _ _ _ _ _ hn]
  obtain ⟨v, hv, -⟩ := Wave.writeDst_rest ff ex (outputs w ff f fn ex) f.vwrites 0 (w.release f.lastReads)
  rw [hv]
  rfl

theorem onlyWave_finishWave (s : State) (id : WaveId) (k : Nat) (w : Wave) (sp : Split) (f : Form) :
    OnlyWave s (s.finishWave (.wave id k) w sp f) id := ⟨rfl, fun _ h => State.look_setWave_ne _ _ _ h⟩

theorem sameMemory_of_onlyWave {s t : State} {id : WaveId} (h : OnlyWave s t id) : SameMemory s t := by
  rw [← h.1]
  exact ⟨fun h _ => by cases h <;> rfl, fun d _ => by cases d <;> rfl, rfl⟩

/-- The frame of a vector instruction in a wave (R171, R186, R201, R337). -/
theorem vec_frame_wave {i : Instr} {rule : FormRule} {fn : VFn} (he : VecEffect i rule fn) {s : State} {id : WaveId} {k : Nat} {w : Wave}
    {sp : Split} (hr : Runs s i (.wave id k) w sp) : ∃ t w', exec i s = .next t ∧ OnlyWave s t id ∧ SameMemory s t ∧ look id t.waves = some w'
      ∧ ({ w' with vmap := w.vmap, preds := w.preds, slots := w.slots } : Wave) = w
      ∧ (∀ n l, n ∉ i.form.vwrites → n ∉ i.form.lastReads →
          w'.lane (s.formFile ⟨id.die, id.core⟩) n l = w.lane (s.formFile ⟨id.die, id.core⟩) n l)
      ∧ (∀ n, (∀ l, look n (nth (outputs w (s.formFile ⟨id.die, id.core⟩) i.form fn (w.exec sp i.form)) l {}).preds = none) →
          nth w'.preds n 0 = nth w.preds n 0)
      ∧ (∀ j, j ≠ k → nth w'.slots j none = nth w.slots j none)
      ∧ nth w'.slots k none = some
          { sp with pos := sp.pos.advance i.form.len, ahead := tickLook sp.ahead, stall := .issued
                    freed := sp.freed ++ s.freedBy (.wave id k) i.form } := by
  have honly := onlyWave_finishWave s id k
    (vecResult w (s.formFile ⟨id.die, id.core⟩) i.form fn (w.exec sp i.form)) sp i.form
  obtain ⟨v, p, hrest, -, -⟩ := vecResult_rest w (s.formFile ⟨id.die, id.core⟩) i.form fn (w.exec sp i.form)
  have hslots : (vecResult w (s.formFile ⟨id.die, id.core⟩) i.form fn (w.exec sp i.form)).slots = w.slots := by rw [hrest]
  refine ⟨_, _, exec_vec_wave he hr, honly, sameMemory_of_onlyWave honly, look_finishWave .., ?_, fun n l hw hl => ?_,
    fun n => vecResult_preds_of_none _ _ _ _ _, fun j hj => ?_, ?_⟩
  · rw [hrest]; rfl
  · refine (vecResult_lane w _ i.form fn _ n l).trans ?_
    rw [Wave.lane_writeDst_ne _ _ _ _ _ _ _ _ hw, Wave.lane_release_ne _ _ _ hl]
  · simp only [Wave.setSlot, hslots, nth_set_ne hj]
  · simp only [Wave.setSlot, hslots, nth_set_self (slot_of_runs hr)]; rfl

end Sys2Proof.Machine

/-! Vector instructions in form mode (R151 to R153, R187): exact results on forms, what blows, and what a result that finds its form
slots leaves alone. -/

namespace Sys2Proof.Machine

/-! ## Tables -/

theorem put_put {κ α : Type} [DecidableEq κ] (k : κ) (a b : α) : ∀ l : List (κ × α), put k b (put k a l) = put k b l
  | [] => by simp [put]
  | (k', c) :: t => by
    by_cases h : k' = k
    · simp [put, h]
    · simp [put, h, put_put k a b t]

/-- What holds of some entry after a key has been put holds of some entry after a weaker one has been put. -/
theorem any_put_mono {κ α : Type} [DecidableEq κ] {q : κ × α → Bool} {k : κ} {a b : α} (h : q (k, a) = true → q (k, b) = true) :
    ∀ {l : List (κ × α)}, (put k a l).any q = true → (put k b l).any q = true
  | [] => by simpa [put] using h
  | (k', c) :: t => by
    by_cases hk : k' = k
    · simp only [put, hk, if_true, List.any_cons, Bool.or_eq_true]
      exact Or.imp_left h
    · simp only [put, hk, if_false, List.any_cons, Bool.or_eq_true]
      exact Or.imp_right (any_put_mono h)

theorem used_of_lowestFree {used : Nat → Bool} {n k : Nat} (h : lowestFree used n = some k) : used k = false := by
  simpa using List.find?_some h

/-! ## Form slots that an instruction takes (R150, R151) -/

/-- A state with one parison's names rebound and the form files replaced. -/
def State.rebound (s : State) (p : ParId) (r : Parison) (m : List (Option Nat)) (fs : List (CoreRef × List (Nat × Aff))) : State :=
  { s with pars := put p { r with nmap := m } s.pars, forms := fs }

section
variable {s : State} {p : ParId} {r : Parison}

/-- A slot that a parison holds is held by it where its names are those or more. -/
theorem slotUsed_rebound_mono {r' : Parison} {m m' : List (Option Nat)} {fs fs' : List (CoreRef × List (Nat × Aff))} {c : CoreRef}
    {k : Nat} (hq : r'.queue = r.queue) (ho : r'.ops = r.ops) (hm : some k ∈ m → some k ∈ m')
    (h : (s.rebound p r m fs).slotUsed c k = true) : (s.rebound p r' m' fs').slotUsed c k = true := by
  unfold State.slotUsed at h ⊢
  rw [Bool.or_eq_true] at h ⊢
  refine h.imp (any_put_mono fun hent => ?_) id
  simp only [Bool.and_eq_true, Bool.or_eq_true, List.any_eq_true, beq_iff_eq, hq, ho] at hent ⊢
  refine ⟨hent.1, hent.2.imp_left (Or.imp_left ?_)⟩
  rintro ⟨x, hx, rfl⟩
  exact ⟨_, hm hx, rfl⟩

/-- One form put into a slot: the name is bound to a slot that nothing held. -/
theorem bindForms_cons {m : List (Option Nat)} {fs : List (CoreRef × List (Nat × Aff))} {c : CoreRef} {n : Nat} {x : Aff}
    {l : List (Nat × Aff)} {t : State} (h : (s.rebound p r m fs).bindForms c p ((n, x) :: l) = some t) :
    ∃ k, (s.rebound p r m fs).slotUsed c k = false ∧
      (s.rebound p r (m.set n (some k)) (put c (put k x ((look c fs).getD [])) fs)).bindForms c p l = some t := by
  unfold State.bindForms at h
  split at h
  next => cases h
  next s1 k halloc =>
    obtain ⟨k', hfree, heq⟩ := Option.map_eq_some_iff.mp halloc
    obtain ⟨rfl, rfl⟩ := Prod.mk.inj heq
    refine ⟨k', used_of_lowestFree hfree, ?_⟩
    have hlook : look p (s.rebound p r m fs).pars = some { r with nmap := m } := look_put_self ..
    rw [hlook] at h
    have hput : (s.rebound p r (m.set n (some k')) (put c (put k' x ((look c fs).getD [])) fs)) =
        ({ s.rebound p r m fs with forms := put c (put k' x ((look c fs).getD [])) fs } : State).setPar p
          { r with nmap := m.set n (some k') } := by
      simp only [State.rebound, State.setPar, put_put]
    rw [hput]
    exact h

/-- Forms put into slots for names: other names, other cores' form files and the slots that anything but the names held are kept. -/
theorem bindForms_frame {c : CoreRef} {used : Nat → Prop} : ∀ {l : List (Nat × Aff)} {m : List (Option Nat)}
    {fs : List (CoreRef × List (Nat × Aff))} {t : State},
    (∀ k m' fs', used k → (∀ n, n ∉ l.map (·.1) → nth m' n none = nth m n none) → (s.rebound p r m' fs').slotUsed c k = true) →
    (s.rebound p r m fs).bindForms c p l = some t →
    ∃ m' fs', t = s.rebound p r m' fs' ∧ (∀ n, n ∉ l.map (·.1) → nth m' n none = nth m n none)
      ∧ (∀ d, d ≠ c → look d fs' = look d fs) ∧ ∀ k, used k → look k ((look c fs').getD []) = look k ((look c fs).getD []) := by
  intro l
  induction l with
  | nil =>
    intro m fs t _ h
    exact ⟨m, fs, by simpa [State.bindForms] using h.symm, fun _ _ => rfl, fun _ _ => rfl, fun _ _ => rfl⟩
  | cons e l ih =>
    obtain ⟨n, x⟩ := e
    intro m fs t hused h
    obtain ⟨k, hk, hrest⟩ := bindForms_cons h
    have hset {n' : Nat} (hn : n' ∉ ((n, x) :: l).map (·.1)) (k : Option Nat) : nth (m.set n k) n' none = nth m n' none :=
      nth_set_ne (fun e => hn (by simp [e])) _ _ _
    obtain ⟨m', fs', rfl, hm, hd, hl⟩ := ih (fun k' m' fs' hu hm' => hused k' m' fs' hu fun n' hn' =>
      (hm' n' (fun hmem => hn' (List.mem_cons_of_mem _ hmem))).trans (hset hn' _)) hrest
    refine ⟨m', fs', rfl, fun n' hn' => (hm n' fun hmem => hn' (List.mem_cons_of_mem _ hmem)).trans (hset hn' _),
      fun d hne => (hd d hne).trans (look_put_ne _ hne _), fun k' hu => ?_⟩
    have hne : k' ≠ k := by
      rintro rfl
      have := hused k' m fs hu fun _ _ => rfl
      simp [this] at hk
    rw [hl k' hu, look_put_self, Option.getD_some, look_put_ne _ hne]

end

/-! ## The frame of an instruction that completes in form mode (R151) -/

theorem length_foldl_set {α : Type} (d : α) (ns : List Nat) (v : List α) : (ns.foldl (fun v n => v.set n d) v).length = v.length := by
  induction ns generalizing v with
  | nil => rfl
  | cons n t ih => rw [List.foldl_cons, ih, List.length_set]

theorem nth_setPmap_ne (ps : List (Nat × Bool)) {n : Nat} (h : n ∉ ps.map (·.1)) (m : List PBind) :
    nth (setPmap m ps) n (.uni false) = nth m n (.uni false) := by
  unfold setPmap
  induction ps generalizing m with
  | nil => rfl
  | cons e t ih =>
    rw [List.foldl_cons, ih (fun hm => h (List.mem_cons_of_mem _ hm)), nth_set_ne (fun he => h (by simp [he]))]

theorem mem_of_nth {α : Type} {l : List α} {n : Nat} {a d : α} (h : nth l n d = a) (hne : a ≠ d) : a ∈ l := by
  unfold nth at h
  rw [List.getD_eq_getElem?_getD] at h
  cases hn : l[n]? with
  | none => simp [hn] at h; exact absurd h.symm hne
  | some b => rw [hn, Option.getD_some] at h; exact h ▸ List.mem_of_getElem? hn

theorem exists_nth_of_mem {α : Type} {l : List α} {a d : α} (h : a ∈ l) : ∃ n, nth l n d = a := by
  obtain ⟨n, hn, rfl⟩ := List.getElem_of_mem h
  exact ⟨n, by simp [nth, hn]⟩

/-- The parison whose instruction has issued, with the predicates it writes, before its results are bound. -/
def Parison.issuedWith (r : Parison) (f : Form) (ps : List (Nat × Bool)) : Parison := { r.issued f with pmap := setPmap r.pmap ps }

theorem formFrame_finishForm {s t : State} {p : ParId} {r : Parison} {f : Form} {dst : List Aff} {ps : List (Nat × Bool)}
    (h : s.finishForm p r f dst ps = some t) : FormFrame s t p r f ps := by
  have hnames {n : Nat} (hn : n ∉ f.vwrites) : n ∉ (f.vwrites.zip dst).map (·.1) := fun hmem => hn (by
    obtain ⟨e, he, rfl⟩ := List.mem_map.mp hmem
    exact (List.of_mem_zip he).1)
  have hstart : (s.rebound p (r.issuedWith f ps) (r.issuedWith f ps).nmap s.forms).bindForms (parCore p) p (f.vwrites.zip dst) = some t := h
  have hissued (n : Nat) : nth (r.issuedWith f ps).nmap n none = if n ∈ f.lastReads then none else nth r.nmap n none := nth_foldl_set none f.lastReads r.nmap n
  have hused (k : Nat) (m' : List (Option Nat)) (fs' : List (CoreRef × List (Nat × Aff)))
      (hu : (s.rebound p r ((f.vwrites ++ f.lastReads).foldl (fun m n => m.set n none) r.nmap) s.forms).slotUsed (parCore p) k = true)
      (hm' : ∀ n, n ∉ (f.vwrites.zip dst).map (·.1) → nth m' n none = nth (r.issuedWith f ps).nmap n none) :
      (s.rebound p (r.issuedWith f ps) m' fs').slotUsed (parCore p) k = true := by
    refine slotUsed_rebound_mono (r := r) rfl rfl (fun hmem => ?_) hu
    obtain ⟨n, hn⟩ := exists_nth_of_mem (d := none) hmem
    rw [nth_foldl_set] at hn
    split at hn
    next => cases hn
    next hout =>
      obtain ⟨hw, hr⟩ := not_or.mp (List.mem_append.not.mp hout)
      refine mem_of_nth (n := n) (d := none) ?_ (by simp)
      rw [hm' n (hnames hw), hissued, if_neg hr, hn]
  obtain ⟨m, fs, rfl, hm, hd, hl⟩ := bindForms_frame hused hstart
  refine ⟨rfl, fun q hq => look_put_ne _ hq _, fun c hc => ?_, fun k hk => hl k hk, _, look_put_self .., rfl, fun n hw hr => ?_,
    fun n hn => nth_setPmap_ne ps hn r.pmap, rfl⟩
  · simp only [State.formFile, State.rebound, hd c hc]
  · rw [hm n (hnames hw), hissued, if_neg hr]

/-! ## Outcomes of a vector instruction in form mode -/

section
variable {i : Instr} {rule : FormRule} {fn : VFn} {s : State} {p : ParId} {r : Parison}

theorem exec_vec_par (he : VecEffect i rule fn) (hr : RunsPar s i p r) : exec i s = .next (vecPar i.form rule fn s p r) := he.2 s p r hr

theorem vecPar_stays {f : Form} {g : FormIn → Option (List Aff)} {x : FormIn} {ws : List Aff} (hg : r.guard f = some true)
    (ho : r.operands (s.formFile (parCore p)) f = some x) (hw : g x = some ws) :
    vecPar f (.stays g) fn s p r = (s.finishForm p r f ws []).getD (s.blow p r) := by
  simp only [vecPar, hg, ho, hw, Option.map_some]

theorem vecPar_uniform {f : Form} {x : FormIn} (hg : r.guard f = some true) (ho : r.operands (s.formFile (parCore p)) f = some x)
    (hu : x.uni = true) : vecPar f .uniform fn s p r =
      (s.finishForm p r f ((fn (fun _ => x.lane) 0xFFFFFFFF 0xFFFFFFFF 0).words.map Aff.ofWord)
        (fn (fun _ => x.lane) 0xFFFFFFFF 0xFFFFFFFF 0).preds).getD (s.blow p r) := by
  simp only [vecPar, hg, ho, hu, if_true]

theorem vecPar_blows (f : Form) : vecPar f .blows fn s p r = s.blow p r := by
  unfold vecPar; rfl

theorem vecPar_guard_range {f : Form} (hg : r.guard f = none) : vecPar f rule fn s p r = s.blow p r := by
  cases rule <;> simp only [vecPar, hg]

theorem vecPar_guard_false {f : Form} (hrule : rule ≠ .blows) (hg : r.guard f = some false) : vecPar f rule fn s p r = s.passPar p r f := by
  cases rule with
  | blows => exact absurd rfl hrule
  | stays | uniform => simp only [vecPar, hg]

theorem vecPar_undef {f : Form} (hg : r.guard f = some true) (ho : r.operands (s.formFile (parCore p)) f = none) :
    vecPar f rule fn s p r = s.blow p r := by
  cases rule <;> simp only [vecPar, hg, ho]

end

/-- Settles O13: in a wave by the results' frame, in form mode by the slots that the results take. -/
theorem vectorFrame : Obligations.VectorFrame := by
  unfold Obligations.VectorFrame
  refine ⟨fun i rule fn he s id k w sp hr => vec_frame_wave he hr, fun i rule fn he s p r x t hr hg ho => ⟨?stays, ?uniform⟩⟩
  case stays =>
    rintro g ws rfl hw ht
    exact ⟨by rw [exec_vec_par he hr, vecPar_stays hg ho hw, ht, Option.getD_some], formFrame_finishForm ht⟩
  case uniform =>
    intro out hrule hu ht
    subst hrule
    exact ⟨by rw [exec_vec_par he hr, vecPar_uniform hg ho hu, ht, Option.getD_some], formFrame_finishForm ht⟩

/-! ## Exact results on forms (R151) -/

section
variable (a b : Aff) (x y z : Word)

theorem Aff.at_add : (a.map2 (· + ·) b).at x y z = a.at x y z + b.at x y z := by
  simp only [Aff.at, Aff.map2]; ring

theorem Aff.at_sub : (a.map2 (· - ·) b).at x y z = a.at x y z - b.at x y z := by
  simp only [Aff.at, Aff.map2]; ring

theorem Aff.at_scale (v : Word) : (a.map1 (· * v)).at x y z = a.at x y z * v := by
  simp only [Aff.at, Aff.map1]; ring

/-- A uniform form has its base at every item. -/
theorem Aff.at_of_uni {a : Aff} (h : a.uni = true) : a.at x y z = a.base := by
  simp only [Aff.uni, Bool.and_eq_true, beq_iff_eq] at h
  obtain ⟨⟨hx, hy⟩, hz⟩ := h
  simp [Aff.at, hx, hy, hz]

theorem Aff.at_mul {a b : Aff} (h : a.uni = true ∨ b.uni = true) : ∃ m, a.mul? b = some m ∧ m.at x y z = a.at x y z * b.at x y z := by
  unfold Aff.mul?
  by_cases hb : b.uni = true
  · exact ⟨_, if_pos hb, by rw [Aff.at_scale, Aff.at_of_uni x y z hb]⟩
  · have ha := h.resolve_right hb
    exact ⟨_, by rw [if_neg hb, if_pos ha], by rw [Aff.at_scale, Aff.at_of_uni x y z ha, mul_comm]⟩

theorem Aff.at_shl (n : Nat) : (a.map1 (· <<< n)).at x y z = a.at x y z <<< n := by
  simp only [Aff.at, Aff.map1, BitVec.shiftLeft_eq_mul_twoPow]; ring

/-- The first word of a source of one name is its form's value. -/
theorem nth_map_at {l : List Aff} (h : l.length = 1) : nth (l.map fun g => g.at x y z) 0 0 = (aff0 l).at x y z := by
  match l, h with
  | [g], _ => rfl

end

/-- Settles O14: the algebra of forms, and the outcomes of a vector instruction in form mode. -/
theorem formMode : Obligations.FormMode := by
  unfold Obligations.FormMode
  refine ⟨?exact, fun i rule fn he s p r hr => ⟨fun hrule hg hx => ?_, fun hg hx => ?_, fun hg => ?_, fun hrule => ?_, fun hg ho => ?_⟩⟩
  case exact =>
    rintro f x y z l rfl ha hb
    refine ⟨?_, ?_, ?_, ?_, ?_⟩
    · rintro g ⟨⟩
      refine ⟨_, rfl, ?_⟩
      rw [Aff.at_add, LaneIn.a0, LaneIn.b0, nth_map_at x y z ha, nth_map_at x y z hb]
    · rintro g ⟨⟩
      refine ⟨_, rfl, ?_⟩
      rw [Aff.at_sub, LaneIn.a0, LaneIn.b0, nth_map_at x y z ha, nth_map_at x y z hb]
    · rintro g ⟨⟩ hu
      obtain ⟨m, hm, hat⟩ := Aff.at_mul x y z hu
      refine ⟨m, by simp only [hm, Option.map_some], ?_⟩
      rw [hat, LaneIn.a0, LaneIn.b0, nth_map_at x y z ha, nth_map_at x y z hb]
    · rintro g ⟨⟩ hc hu
      obtain ⟨m, hm, hat⟩ := Aff.at_mul x y z hu
      refine ⟨m.map2 (· + ·) (aff0 f.c), by simp only [hm, Option.map_some], ?_⟩
      rw [Aff.at_add, hat, LaneIn.a0, LaneIn.b0, LaneIn.c0, nth_map_at x y z ha, nth_map_at x y z hb, nth_map_at x y z hc]
    · rintro g ⟨⟩ hu
      refine ⟨_, if_pos hu, ?_⟩
      simp only [shlOf_eq]
      rw [Aff.at_shl, LaneIn.a0, LaneIn.b0, nth_map_at x y z ha, nth_map_at x y z hb, Aff.at_of_uni x y z hu]
  · rw [exec_vec_par he hr, vecPar_guard_false hrule hg, State.passPar, hx]; rfl
  · rw [exec_vec_par he hr]
    cases rule with
    | blows => rw [vecPar_blows]
    | stays | uniform => rw [vecPar_guard_false (by simp) hg, State.passPar, hx, if_pos rfl]
  · rw [exec_vec_par he hr, vecPar_guard_range hg]
  · rw [exec_vec_par he hr, hrule, vecPar_blows]
  · rw [exec_vec_par he hr, vecPar_undef hg ho]

end Sys2Proof.Machine

/-! Control transfers (R162, R164, R165, R184, R203 to R213): the outcomes of each branch, of the ends of lanes and of waits. -/

namespace Sys2Proof.Machine

/-! ## BRA and CALL in a wave (R164, R204, R205) -/

section
variable {f : Form} {x : CForm} {call : Bool} {s : State} {a : AgentId} {w : Wave} {sp : Split}

/-- The wave with the link written in the lanes that go to a call's target. -/
def linkedWave (f : Form) (call : Bool) (s : State) (a : AgentId) (w : Wave) (sp : Split) : Wave :=
  if call then w.write (s.formFile (coreOf a)) 0 (w.exec sp f) fun _ => s.link? w.ctx w.image sp.pos else w

theorem braWave_none (h : w.exec sp f = 0) : braWave f x call s a w sp = s.finishWave a w sp f := by
  simp only [braWave, h, if_true]

theorem braWave_all (h : w.exec sp f ≠ 0) (hall : w.exec sp f = sp.act) : braWave f x call s a w sp =
    s.setWave a ((linkedWave f call s a w sp).setSlot (slotOf a)
      (some { sp.issued f with pos := sp.pos.jump f (branchTarget sp.pos x.ofs) })) := by
  unfold braWave
  dsimp only
  rw [if_neg h, if_pos hall]
  rfl

theorem braWave_divides (h : w.exec sp f ≠ 0) (hpart : w.exec sp f ≠ sp.act) (hkind : x.kind ≠ 0)
    (hcomb : (Actor.wave a w sp).combiner = false) : braWave f x call s a w sp =
      s.setWave a ((linkedWave f call s a w sp).divide (slotOf a) sp f (w.exec sp f) (sp.pos.jump f (branchTarget sp.pos x.ofs)) x.aux.toNat) := by
  unfold braWave
  dsimp only
  rw [if_neg h, if_neg hpart, hcomb, if_neg Bool.false_ne_true, if_neg hkind]
  rfl

theorem braWave_undivided (h : w.exec sp f ≠ 0) (hpart : w.exec sp f ≠ sp.act) (hkind : x.kind = 0)
    (hcomb : (Actor.wave a w sp).combiner = false) : braWave f x call s a w sp = s.raise (.wave a w sp) .illegal .divergeU := by
  unfold braWave
  dsimp only
  rw [if_neg h, if_neg hpart, hcomb, if_neg Bool.false_ne_true, if_pos hkind]

theorem braWave_combiner {c : SliceRef} (h : w.exec sp f ≠ 0) (hpart : w.exec sp f ≠ sp.act) :
    braWave f x call s (.combiner c) w sp = s.failBatch c .diverge sp.pos.pc := by
  unfold braWave
  dsimp only
  rw [if_neg h, if_neg hpart]
  rfl

end

/-- Settles O15: BRA and CALL by the outcomes of `braWave`, in form mode by the guard. -/
theorem branchesComplete : Obligations.BranchesComplete := by
  unfold Obligations.BranchesComplete
  refine ⟨fun x => effects_of fun _ => rfl, fun x s a w sp hr => ?bra, fun x s a w sp hr => ?call, fun x s p r hr => ?form⟩
  case bra =>
    have hrun : exec (.bra x) s = .next (braWave (Instr.form (.bra x)) x false (s.counted a w sp) a w sp) := runInstr_wave hr _
    refine ⟨fun h => ?_, fun h hall => ?_, fun h hpart hkind hcomb => ?_, fun c hc h hpart => ?_⟩
    · rw [hrun, braWave_none h]
    · rw [hrun, braWave_all h hall]; rfl
    · rw [hrun, braWave_divides h hpart hkind hcomb]; rfl
    · subst hc; rw [hrun, braWave_combiner h hpart]
  case call =>
    have hrun : exec (.call x) s = .next (braWave (Instr.form (.call x)) x true (s.counted a w sp) a w sp) := runInstr_wave hr _
    refine ⟨fun h => ?_, fun h hall => ?_, fun h hpart hkind hcomb => ?_⟩
    · rw [hrun, braWave_none h]
    · rw [hrun, braWave_all h hall]; rfl
    · rw [hrun, braWave_divides h hpart hkind hcomb]; rfl
  case form =>
    have hrun : exec (.bra x) s = .next (braPar (Instr.form (.bra x)) x false s p r) := runInstr_par hr _
    refine ⟨fun hg => ?_, fun hg => ?_, fun d lo hi hg hkind hp => ?_⟩
    · simp only [hrun, braPar, hg]
    · simp only [hrun, braPar, hg, Bool.false_eq_true, if_false]; rfl
    · simp only [hrun, braPar, hg, hkind, hp, if_false]; rfl

/-! ## BRX, CALLX and RET in a wave (R206) -/

/-- The instructions that branch through an ordinal, CALLX with a link. -/
theorem exec_ordinal_wave {i : Instr} {call : Bool} (h : ∃ x, i = .brx x ∧ call = false ∨ i = .callx x ∧ call = true ∨ i = .ret x ∧ call = false)
    {s : State} {a : AgentId} {w : Wave} {sp : Split} (hr : Runs s i a w sp) :
    exec i s = .next (brxWave i.form call (s.counted a w sp) a w sp) := by
  obtain ⟨x, ⟨rfl, rfl⟩ | ⟨rfl, rfl⟩ | ⟨rfl, rfl⟩⟩ := h
  · exact runInstr_wave hr _
  · exact runInstr_wave hr _
  · exact runInstr_wave hr _

section
variable {f : Form} {call : Bool} {s : State} {a : AgentId} {w : Wave} {sp : Split} {l0 : Nat}

theorem brxWave_none (h : lowest (w.exec sp f) = none) : brxWave f call s a w sp = s.finishWave a (w.release f.lastReads) sp f := by
  simp only [brxWave, h]

/-- Whether some executing lane names another ordinal than the lowest. -/
def ordinalsDiffer (f : Form) (s : State) (a : AgentId) (w : Wave) (sp : Split) (l0 : Nat) : Bool :=
  (lanesOf (w.exec sp f)).any fun l =>
    (w.operands (s.formFile (coreOf a)) f l).a0 != (w.operands (s.formFile (coreOf a)) f l0).a0

theorem ordinalsDiffer_eq_true : ordinalsDiffer f s a w sp l0 = true ↔ ∃ l ∈ lanesOf (w.exec sp f),
    (w.operands (s.formFile (coreOf a)) f l).a0 ≠ (w.operands (s.formFile (coreOf a)) f l0).a0 := by
  simp only [ordinalsDiffer, List.any_eq_true, bne_iff_ne]

theorem ordinalsDiffer_eq_false : ordinalsDiffer f s a w sp l0 = false ↔ ∀ l ∈ lanesOf (w.exec sp f),
    (w.operands (s.formFile (coreOf a)) f l).a0 = (w.operands (s.formFile (coreOf a)) f l0).a0 := by
  simp only [ordinalsDiffer, List.any_eq_false, bne_iff_ne, not_not]

theorem brxWave_diverges (h : lowest (w.exec sp f) = some l0) (hd : ordinalsDiffer f s a w sp l0 = true ∨ w.exec sp f ≠ sp.act) :
    brxWave f call s a w sp = s.trap (.wave a w sp) [(Actor.wave a w sp).record .illegal .divergeU (w.exec sp f) 0 0] none := by
  simp only [brxWave, h]
  by_cases hdiff : ordinalsDiffer f s a w sp l0 = true
  · exact if_pos hdiff
  · exact (if_neg hdiff).trans (if_pos (bne_iff_ne.mpr (hd.resolve_left hdiff)))

theorem brxWave_absent (h : lowest (w.exec sp f) = some l0) (hd : ordinalsDiffer f s a w sp l0 = false) (hact : w.exec sp f = sp.act)
    (hh : ((s.image w.ctx w.image).bind fun im => headerOf im (w.operands (s.formFile (coreOf a)) f l0).a0.toNat) = none) :
    brxWave f call s a w sp = s.trap (.wave a w sp) [(Actor.wave a w sp).record .illegal .target (w.exec sp f) 0 0] none := by
  simp only [brxWave, h]
  refine (if_neg (Bool.eq_false_iff.mp hd)).trans ((if_neg (by simp [hact])).trans ?_)
  rw [hh]

theorem brxWave_goes {n : Nat} (h : lowest (w.exec sp f) = some l0) (hd : ordinalsDiffer f s a w sp l0 = false) (hact : w.exec sp f = sp.act)
    (hh : ((s.image w.ctx w.image).bind fun im => headerOf im (w.operands (s.formFile (coreOf a)) f l0).a0.toNat) = some n) :
    brxWave f call s a w sp = s.setWave a ((if call then (w.release f.lastReads).write (s.formFile (coreOf a)) f.fields.1 (w.exec sp f)
        fun _ => s.link? w.ctx w.image sp.pos else w.release f.lastReads).setSlot (slotOf a)
      (some { sp.issued f with pos := (sp.pos.advance f.len).goHeader n })) := by
  simp only [brxWave, h]
  refine (if_neg (Bool.eq_false_iff.mp hd)).trans ((if_neg (by simp [hact])).trans ?_)
  rw [hh]
  rfl

end

/-- The first ordinal whose safe point stands at an offset, where it alone stands there. -/
theorem ordinalAt_of_unique {im : Image} {n o : Nat} (h : ∀ k, k < im.sps.length → ((im.sps[k]?).map (·.wofs) = some n ↔ k = o))
    (ho : o < im.sps.length) : ordinalAt im n = some o := by
  have hat {k : Nat} (hk : k < im.sps.length) : im.sps[k].wofs = n ↔ k = o := by
    rw [← h k hk]
    simp [List.getElem?_eq_getElem hk]
  unfold ordinalAt
  rw [List.findSome?_eq_some_iff]
  refine ⟨((List.range im.sps.length).zip im.sps).take o, (o, im.sps[o]), ((List.range im.sps.length).zip im.sps).drop (o + 1), ?_,
    if_pos ((hat ho).mpr rfl), fun e he => ?_⟩
  · have hlen : o < ((List.range im.sps.length).zip im.sps).length := by simpa using ho
    have hget : ((List.range im.sps.length).zip im.sps)[o] = (o, im.sps[o]) := by simp
    rw [← hget, List.cons_getElem_drop_succ, List.take_append_drop]
  · obtain ⟨k, hk, hke⟩ := List.mem_take_iff_getElem.mp he
    have hko : k < o := (Nat.lt_min.mp hk).1
    have hks : k < im.sps.length := hko.trans ho
    have heq : e = (k, im.sps[k]) := by rw [← hke]; simp
    rw [heq]
    exact if_neg fun hw => absurd ((hat hks).mp hw) (Nat.ne_of_lt hko)

/-- Settles O16: a branch through an ordinal by the outcomes of `brxWave`, the link by the one safe point at the clause's end. -/
theorem ordinalBranchesComplete : Obligations.OrdinalBranchesComplete := by
  unfold Obligations.OrdinalBranchesComplete
  refine ⟨fun i call hi s a w sp hr => ⟨fun hnone => ?_, fun l0 h im hl hact hsame him hh => ?_⟩, fun s ctx img o im p him hone ho => ?_⟩
  · rw [exec_ordinal_wave hi hr, brxWave_none (by rw [hnone]; exact lowest_zero)]
  · rw [exec_ordinal_wave hi hr, brxWave_goes hl (ordinalsDiffer_eq_false.mpr hsame) hact (by rw [him]; exact hh)]
  · unfold State.link?
    rw [him, Option.bind_some, ordinalAt_of_unique hone ho]

/-- Settles O17: the diverging outcomes of `braWave` and `brxWave`. -/
theorem divergingBranchesTrap : Obligations.DivergingBranchesTrap := by
  unfold Obligations.DivergingBranchesTrap
  refine ⟨fun x s id k w sp hr h hpart hkind => ?_, fun x s id k w sp hr h hpart hkind => ?_, fun i hi s a w sp l0 hr hl => ?_⟩
  · have hrun : exec (.bra x) s = .next (braWave (Instr.form (.bra x)) x false s (.wave id k) w sp) := runInstr_wave hr _
    rw [hrun, braWave_undivided h hpart hkind rfl]
  · have hrun : exec (.call x) s = .next (braWave (Instr.form (.call x)) x true s (.wave id k) w sp) := runInstr_wave hr _
    rw [hrun, braWave_undivided h hpart hkind rfl]
  · obtain ⟨call, hcall⟩ : ∃ call, ∃ x, i = .brx x ∧ call = false ∨ i = .callx x ∧ call = true ∨ i = .ret x ∧ call = false := by
      obtain ⟨x, rfl | rfl | rfl⟩ := hi
      · exact ⟨false, x, .inl ⟨rfl, rfl⟩⟩
      · exact ⟨true, x, .inr (.inl ⟨rfl, rfl⟩)⟩
      · exact ⟨false, x, .inr (.inr ⟨rfl, rfl⟩)⟩
    refine ⟨fun hpart => ?_, fun hdiff => ?_, fun hact hsame hh => ?_⟩
    · rw [exec_ordinal_wave hcall hr, brxWave_diverges hl (.inr hpart)]
    · rw [exec_ordinal_wave hcall hr, brxWave_diverges hl (.inl (ordinalsDiffer_eq_true.mpr hdiff))]
    · rw [exec_ordinal_wave hcall hr, brxWave_absent hl (ordinalsDiffer_eq_false.mpr hsame) hact hh]

end Sys2Proof.Machine

/-! JOIN, EXIT, KILL, REFORM, YIELD, TRAP and BKPT (R161, R162, R165, R207 to R212). -/

namespace Sys2Proof.Machine

/-! ## JOIN and REFORM in a wave -/

section
variable {f : Form} {id : Nat} {s : State} {a : AgentId} {w : Wave} {sp : Split}

theorem joinWave_passes (h : ∀ n j, sp.inner = some n → nth w.joins n none = some j → j.id ≠ id) :
    joinWave f id s a w sp = s.finishWave a w sp f := by
  unfold joinWave
  split
  next k j hkj =>
    obtain ⟨n, hn, hj⟩ := Option.bind_eq_some_iff.mp hkj
    obtain ⟨j', hj', heq⟩ := Option.map_eq_some_iff.mp hj
    obtain ⟨rfl, rfl⟩ := Prod.mk.inj heq
    exact if_pos (bne_iff_ne.mpr (h n j' hn hj'))
  next => rfl

theorem joinWave_parks {n : Nat} {j : JoinRec} (hn : sp.inner = some n) (hj : nth w.joins n none = some j) (hid : j.id = id) :
    joinWave f id s a w sp = s.setWave a
      ({ ({ w with joins := w.joins.set n (some { j with arrived := j.arrived ||| sp.act }) } : Wave).setSlot (slotOf a) none with
          pend := { sp.issued f with parked := some (.join n), stall := .parked } :: w.pend } : Wave).settle := by
  simp only [joinWave, hn, hj, Option.bind_some, Option.map_some, hid, bne_self_eq_false, Bool.false_eq_true, if_false]

/-- A wave that has not come to a REFORM whole is written back as it is. -/
theorem putReform_of_not (h : w.reformed = false) : s.putReform a w = s.setWave a w := by
  simp only [State.putReform, h, Bool.not_false, if_true]

theorem putReform_of_reformed (h : w.reformed = true) : s.putReform a w =
    match w.par with
    | some p => (s.setWave a w.parkReform).resolveReform p
    | none => s.setWave a w.parkReform := by
  simp only [State.putReform, h, Bool.not_true, Bool.false_eq_true, if_false] <;> rfl

end

/-! ## YIELD in a wave (R211) -/

/-- A split of a wave that goes on or waits after a YIELD. -/
def yieldTo (f : Form) (s : State) (a : AgentId) (w : Wave) (sp : Split) (wt : Wait) : State :=
  s.setWave a (w.setSlot (slotOf a) (some (if wt = .none then sp.issued f else { sp.issued f with wait := wt, stall := .yield })))

/-- What a YIELD in a wave of a partition waits for. -/
def yieldWait (x : GForm) (s : State) (id : WaveId) (w : Wave) : Wait :=
  match (match x.ml.toNat with | 1 => some Ctr.enc | 2 => some .obc | _ => none) with
  | some c => if yieldMet w.ctr c x.b.toNat then .none else .yieldCount c x.b.toNat
  | none => match s.rivals id with
    | [] => .none
    | l => .yieldRuns l

theorem exec_yield_wave {x : GForm} {s : State} {id : WaveId} {k : Nat} {w : Wave} {sp : Split} (hr : Runs s (.yield x) (.wave id k) w sp) :
    exec (.yield x) s = .next (yieldTo (Instr.form (.yield x)) s (.wave id k) w sp (yieldWait x s id w)) := runInstr_wave hr _

theorem yieldWait_runs {x : GForm} {s : State} {id : WaveId} {w : Wave} (hml : x.ml = 0) :
    yieldWait x s id w = if s.rivals id = [] then .none else .yieldRuns (s.rivals id) := by
  simp only [yieldWait, hml]
  cases s.rivals id <;> simp

theorem yieldWait_count {x : GForm} {s : State} {id : WaveId} {w : Wave} {c : Ctr} (hml : x.ml = 1 ∧ c = .enc ∨ x.ml = 2 ∧ c = .obc) :
    yieldWait x s id w = if (w.ctr.get c).toNat ≤ x.b.toNat then .none else .yieldCount c x.b.toNat := by
  obtain ⟨h, rfl⟩ | ⟨h, rfl⟩ := hml <;> simp [yieldWait, h, yieldMet]

/-- YIELD in form mode passes where it waits for nothing. -/
theorem exec_yield_par {x : GForm} {s : State} {p : ParId} {r : Parison} (hr : RunsPar s (.yield x) p r)
    (hmet : x.ml = 0 ∨ x.ml = 1 ∧ r.ctr.enc.toNat ≤ x.b.toNat ∨ x.ml = 2 ∧ r.ctr.obc.toNat ≤ x.b.toNat) :
    exec (.yield x) s = .next (s.setPar p (r.issued (Instr.form (.yield x)))) := by
  refine (runInstr_par hr _).trans ?_
  obtain h | ⟨h, hle⟩ | ⟨h, hle⟩ := hmet
  · simp [h]
  · simp [h, yieldMet, Counters.get, hle]
  · simp [h, yieldMet, Counters.get, hle]

/-- Settles O18: JOIN by the record that the split has, EXIT and KILL by their effects, REFORM by what the wave comes to, YIELD by what it
waits for. -/
theorem joinsExitsAndYieldComplete : Obligations.JoinsExitsAndYieldComplete := by
  unfold Obligations.JoinsExitsAndYieldComplete
  refine ⟨⟨fun x s a w sp hr => ?join, fun x => effects_of fun _ => rfl, fun x => effects_of fun _ => rfl, fun x => ⟨fun s a w sp hr => ?reform,
    (effects_of (i := .reform x) fun _ => rfl).2⟩⟩, fun x s id k w sp hr => ?yield, fun x s p r hr => exec_yield_par hr⟩
  case join =>
    have hrun : exec (.join x) s = .next (joinWave (Instr.form (.join x)) x.aux.toNat (s.counted a w sp) a w sp) := runInstr_wave hr _
    exact ⟨fun h => hrun.trans (by rw [joinWave_passes h]), fun n j hn hj hid => hrun.trans (by rw [joinWave_parks hn hj hid])⟩
  case reform =>
    refine (runInstr_wave hr _).trans (congrArg _ ?_)
    dsimp only
    split
    next h => exact putReform_of_reformed h
    next h => exact putReform_of_not (Bool.not_eq_true _ ▸ h)
  case yield =>
    have hrun := exec_yield_wave hr
    refine ⟨fun hml hno => ?_, fun hml hsome => ?_, fun hml hle => ?_, fun hml hlt => ?_, fun hml hle => ?_, fun hml hlt => ?_⟩
    · rw [hrun, yieldWait_runs hml, if_pos hno]; rfl
    · rw [hrun, yieldWait_runs hml, if_neg hsome]; rfl
    · exact hrun.trans (congrArg _ (congrArg _ ((yieldWait_count (.inl ⟨hml, rfl⟩)).trans (if_pos hle))))
    · exact hrun.trans (congrArg _ (congrArg _ ((yieldWait_count (.inl ⟨hml, rfl⟩)).trans (if_neg (Nat.not_le.mpr hlt)))))
    · exact hrun.trans (congrArg _ (congrArg _ ((yieldWait_count (.inr ⟨hml, rfl⟩)).trans (if_pos hle))))
    · exact hrun.trans (congrArg _ (congrArg _ ((yieldWait_count (.inr ⟨hml, rfl⟩)).trans (if_neg (Nat.not_le.mpr hlt)))))

/-! ## TRAP and BKPT (R212, R340) -/

section
variable {f : Form} {c : Cause} {code : Nat} {s : State}

theorem trapWave_none {a : AgentId} {w : Wave} {sp : Split} (h : w.exec sp f = 0) : trapWave f c code s a w sp = s.finishWave a w sp f := by
  simp only [trapWave, h, if_true]

/-- A trap waits for what the split issued before, by its lanes or, where an operation has none, by its slot. -/
theorem trapWave_traps {id : WaveId} {k : Nat} {w : Wave} {sp : Split} (h : w.exec sp f ≠ 0)
    (hops : ∀ o ∈ w.ops, o.mask &&& sp.act = 0 ∧ (o.mask = 0 → o.slot ≠ k)) : trapWave f c code s (.wave id k) w sp =
      s.trap (.wave (.wave id k) w sp) [(Actor.wave (.wave id k) w sp).record c .none (w.exec sp f) 0 code] (some (sp.pos.advance f.len)) := by
  have hany : (w.ops.any fun o => o.mask &&& sp.act != 0 || (o.mask == 0 && o.slot == k)) = false := by
    rw [List.any_eq_false]
    intro o ho
    obtain ⟨hmask, hslot⟩ := hops o ho
    simpa [hmask] using hslot
  unfold trapWave
  dsimp only
  exact (if_neg h).trans (if_neg (Bool.eq_false_iff.mp hany))

theorem trapPar_false {p : ParId} {r : Parison} (hg : r.guard f = some false) : trapPar f c code s p r = s.setPar p (r.issued f) := by
  simp only [trapPar, hg]

theorem trapPar_traps {p : ParId} {r : Parison} (hg : r.guard f = some true) (hops : r.ops = []) : trapPar f c code s p r =
    s.trap (.par p r) [(Actor.par p r).record c .none 0xFFFFFFFF 0 code] (some (r.pos.advance f.len)) := by
  simp [trapPar, hg, hops]

end

/-- Settles O19: the outcomes of `trapWave` and `trapPar`, for BKPT where debug is enabled. -/
theorem trapInstructionsTrap : Obligations.TrapInstructionsTrap := by
  unfold Obligations.TrapInstructionsTrap
  refine ⟨fun x s id k w sp hr => ?trap, fun x s id k w sp hr => ?bkpt, fun x s p r hr => ?form⟩
  case trap =>
    have hrun : exec (.trap x) s = .next (trapWave (Instr.form (.trap x)) .trap (trapCode x) s (.wave id k) w sp) := runInstr_wave hr _
    exact ⟨fun h => hrun.trans (by rw [trapWave_none h]), fun h hops => hrun.trans (by rw [trapWave_traps h hops]; rfl)⟩
  case bkpt =>
    have hrun : exec (.bkpt x) s = .next (if s.debugOn w.ctx then trapWave (Instr.form (.bkpt x)) .bkpt (trapCode x) s (.wave id k) w sp
        else s.finishWave (.wave id k) w sp (Instr.form (.bkpt x))) := runInstr_wave hr _
    refine ⟨fun hoff => ?_, fun hon h => ?_, fun hon h hops => ?_⟩
    · rw [hrun, hoff]; rfl
    · rw [hrun, hon, if_pos rfl, trapWave_none h]
    · rw [hrun, hon, if_pos rfl, trapWave_traps h hops]; rfl
  case form =>
    have hrun : exec (.trap x) s = .next (trapPar (Instr.form (.trap x)) .trap (trapCode x) s p r) := runInstr_par hr _
    exact ⟨fun hg => hrun.trans (by rw [trapPar_false hg]), fun hg hops => hrun.trans (by rw [trapPar_traps hg hops]; rfl)⟩

end Sys2Proof.Machine

/-! Taking a trap in a wave (R328, R337, R339, R341, R342): what a stop keeps, where it places splits, and the event it makes. -/

namespace Sys2Proof.Machine

/-! ## The stop of a wave (R337) -/

/-- A split whose region starts anew keeps no names that it has read for the last time. -/
def Split.cleaned (sp : Split) : Split := { sp with freed := [] }

/-- Names given back change nothing of a wave but its rename map. -/
theorem Wave.foldl_unfree_rest (act : Word) (l : List (Nat × List Word)) (w : Wave) :
    ∃ v, l.foldl (fun (w : Wave) e => w.unfree act e) w = { w with vmap := v } := by
  induction l generalizing w with
  | nil => exact ⟨w.vmap, rfl⟩
  | cons e t ih => exact ih _

theorem Wave.unfreeAll_rest (w : Wave) : ∃ v, w.unfreeAll =
    { w with vmap := v, slots := w.slots.map fun o => o.map Split.cleaned, pend := w.pend.map Split.cleaned } := by
  have hfold : ∀ (l : List Split) (w : Wave), ∃ v, l.foldl (fun (w : Wave) sp =>
      if sp.parked.isSome || sp.precise then w else sp.freed.foldl (fun w e => w.unfree sp.act e) w) w = { w with vmap := v } := by
    intro l
    induction l with
    | nil => exact fun w => ⟨w.vmap, rfl⟩
    | cons sp t ih =>
      intro w
      rw [List.foldl_cons]
      split
      next => exact ih w
      next =>
        obtain ⟨v, hv⟩ := Wave.foldl_unfree_rest sp.act sp.freed w
        rw [hv]
        exact ih _
  obtain ⟨v, hv⟩ := hfold (w.slots.filterMap id ++ w.pend) w
  refine ⟨v, ?_⟩
  unfold Wave.unfreeAll
  dsimp only
  rw [hv]
  rfl

/-- The names that some split's entry lists as live (R337 step 5). -/
def Wave.liveNames (w : Wave) (im : Image) : Nat := w.splits.foldl (fun m q => m ||| ((im.sps[q.pos.ord]?).map (·.vlive)).getD 0) 0

/-- An operation once dead names have been dropped, where they are dropped at all. -/
def Op.keptIf (drops : Bool) (live : Nat) (o : Op) : Op :=
  if drops = true ∧ o.kind = .fpFunction then { o with vdst := o.vdst.filter fun n => Nat.testBit live n } else o

theorem Wave.dropDead_of_precise {w : Wave} {im : Image} (h : w.splits.any (·.precise) = true) : w.dropDead (some im) = w := by
  simp only [Wave.dropDead, h, if_true]

theorem Wave.dropDead_of_imprecise {w : Wave} {im : Image} (h : w.splits.any (·.precise) = false) : w.dropDead (some im) =
    { w with vmap := (List.range w.vmap.length).map fun n => if Nat.testBit (w.liveNames im) n then nth w.vmap n .undef else .undef
             ops := w.ops.map (Op.keptIf true (w.liveNames im)) } := by
  have hkeep : Op.keptIf true (w.liveNames im) = fun o =>
      if o.kind = .fpFunction then { o with vdst := o.vdst.filter fun n => Nat.testBit (w.liveNames im) n } else o := by
    funext o
    simp [Op.keptIf]
  rw [hkeep]
  simp only [Wave.dropDead, h, Bool.false_eq_true, if_false]
  rfl

theorem Op.keptIf_false (live : Nat) : Op.keptIf (!true) live = fun o => o := by
  funext o
  simp [Op.keptIf]

/-- What dead names leave: every field but the rename map and the operations, and of these what the live names keep. -/
theorem Wave.dropDead_rest (w : Wave) (im : Image) : ∃ v, w.dropDead (some im) =
      { w with vmap := v, ops := w.ops.map (Op.keptIf (!w.splits.any (·.precise)) (w.liveNames im)) }
    ∧ ((!w.splits.any (·.precise)) = true → ∀ n, Nat.testBit (w.liveNames im) n = false → nth v n .undef = .undef) := by
  cases h : w.splits.any (·.precise) with
  | true => exact ⟨w.vmap, by rw [Wave.dropDead_of_precise h, Op.keptIf_false, List.map_id'], by simp⟩
  | false =>
    refine ⟨(List.range w.vmap.length).map fun n => if Nat.testBit (w.liveNames im) n then nth w.vmap n .undef else .undef, ?_, fun _ n hn => ?_⟩
    · exact Wave.dropDead_of_imprecise h
    · by_cases hlt : n < w.vmap.length
      · simp [nth, hlt, hn]
      · simp [nth, Nat.not_lt.mp hlt]

/-- A split of a wave that stops, in its slot. -/
def Wave.placedSlots (w : Wave) (im : Option Image) : List (Option Split) :=
  (List.range w.slots.length).map fun k => (if committed w.ops k then nth w.slots k none else (nth w.slots k none).map (placeSplit im)).map
    Split.cleaned

/-- A wave as it stands once it has stopped, before its dead names are dropped. -/
def Wave.halted (w : Wave) (im : Option Image) (v : List VBind) : Wave :=
  { w with status := .stopped, vmap := v, slots := w.placedSlots im, pend := (w.pend.map (placeSplit im)).map Split.cleaned
           ops := w.ops.filter fun (o : Op) => !o.kind.cancellable, ctr := w.ctr.without (w.ops.filter fun (o : Op) => o.kind.cancellable) }

theorem Wave.stop_eq (w : Wave) (im : Option Image) : ∃ v, w.stop im = (w.halted im v).dropDead im := by
  unfold Wave.stop
  dsimp only
  obtain ⟨v, hv⟩ := Wave.unfreeAll_rest { w with
    status := .stopped
    slots := (List.range w.slots.length).map fun k => if committed w.ops k then nth w.slots k none else (nth w.slots k none).map (placeSplit im)
    pend := w.pend.map (placeSplit im)
    ops := w.ops.filter fun (o : Op) => !o.kind.cancellable
    ctr := w.ctr.without (w.ops.filter fun (o : Op) => o.kind.cancellable) }
  refine ⟨v, ?_⟩
  rw [hv]
  simp only [Wave.halted, Wave.placedSlots, List.map_map]
  rfl

/-- A split that stands inside a clause and may leave it goes to the header of its region's entry. -/
theorem placeSplit_inside {im : Image} {q : Split} {h : Nat} (hpark : q.parked = none) (hprec : q.precise = false)
    (hin : q.pos.inside = true) (hh : headerOf im q.pos.ord = some h) :
    (placeSplit (some im) q).pos = q.pos.goHeader h ∧ (placeSplit (some im) q).act = q.act := by
  simp [placeSplit, hpark, hprec, hin, hh]

theorem nth_placedSlots {w : Wave} {im : Option Image} {j : Nat} {q : Split} (hq : nth w.slots j none = some q) (hc : committed w.ops j = false) :
    nth (w.placedSlots im) j none = some (placeSplit im q).cleaned := by
  have hj : j < w.slots.length := by
    by_contra hge
    simp [nth, List.getElem?_eq_none (Nat.not_lt.mp hge)] at hq
  have hget : nth (w.placedSlots im) j none =
      (if committed w.ops j then nth w.slots j none else (nth w.slots j none).map (placeSplit im)).map Split.cleaned := by
    simp [nth, Wave.placedSlots, hj]
  rw [hget, hc, hq]
  rfl

/-! ## The causes (R339) -/

theorem length_addCause (cs : List CauseRec) (c : CauseRec) : (addCause cs c).length ≤ max 16 cs.length := by
  unfold addCause
  split
  next h => rw [List.length_append, List.length_singleton]; omega
  next => cases cs <;> simp

theorem length_foldl_addCause (l cs : List CauseRec) : (l.foldl addCause cs).length ≤ max 16 cs.length := by
  induction l generalizing cs with
  | nil => exact Nat.le_max_right ..
  | cons c t ih =>
    rw [List.foldl_cons]
    have := ih (addCause cs c)
    have := length_addCause cs c
    omega

/-! ## The event (R328, R342) -/

theorem mem_events_pushEvent (s : State) (d : Die) (e : FwEvent) :
    e ∈ ((s.pushEvent d e).die d).events ++ ((s.pushEvent d e).die d).late := by
  unfold State.pushEvent
  dsimp only
  split
  next h => simpa [Bool.or_eq_true] using h
  next =>
    split
    next => simp
    next => simp

theorem waves_pushEvent (s : State) (d : Die) (e : FwEvent) : (s.pushEvent d e).waves = s.waves := by
  unfold State.pushEvent
  dsimp only
  split
  next => rfl
  next => split <;> rw [State.setDie_waves]

theorem image_clearWalks (s : State) (a : AgentId) (c i : Nat) : (s.clearWalks a).image c i = s.image c i := by
  unfold State.clearWalks State.image State.ctx
  dsimp only
  split
  next => rw [State.setDie_ctxs]
  next => rfl

theorem blocks_clearWalks (s : State) (a : AgentId) : (s.clearWalks a).blocks = s.blocks := by
  unfold State.clearWalks
  dsimp only
  split
  next => rw [State.setDie_blocks]
  next => rfl

/-! ## Taking a trap -/

/-- A wave that traps, with its causes and the trapping split marked. -/
def State.trapped (s : State) (id : WaveId) (k : Nat) (w : Wave) (sp : Split) (cs : List CauseRec) : Wave :=
  { w.setSlot k (some { sp with stall := .stopped }) with
    causes := ((cs.map fun (c : CauseRec) => { c with precise := false }) ++ s.otherFaults (.wave (.wave id k) w sp)).foldl addCause w.causes }

theorem trap_wave_eq (s : State) (id : WaveId) (k : Nat) (w : Wave) (sp : Split) (cs : List CauseRec) :
    s.trap (.wave (.wave id k) w sp) cs none =
      ((s.clearWalks (.wave id k)).setWave (.wave id k) ((s.trapped id k w sp cs).stop (s.image w.ctx w.image))).pushEvent id.die
        (.trap id w.ctx (s.queueOfBlock w.block)) := by
  have himage := image_clearWalks s (.wave id k) w.ctx w.image
  have hblock : ((s.clearWalks (.wave id k)).setWave (.wave id k) ((s.trapped id k w sp cs).stop (s.image w.ctx w.image))).blockOf = s.blockOf := by
    funext b
    simp only [State.blockOf, State.setWave_blocks, blocks_clearWalks]
  have hqueue : ((s.clearWalks (.wave id k)).setWave (.wave id k) ((s.trapped id k w sp cs).stop (s.image w.ctx w.image))).queueOfBlock w.block =
      s.queueOfBlock w.block := by
    simp only [State.queueOfBlock, hblock]
  rw [← hqueue]
  unfold State.trap
  rfl

theorem slots_trapped (s : State) (id : WaveId) (k : Nat) (w : Wave) (sp : Split) (cs : List CauseRec) :
    (s.trapped id k w sp cs).slots = w.slots.set k (some { sp with stall := .stopped }) := rfl

/-- A split of the wave that traps stands in its slot with its place, park and entry, its stall alone changed where it is the one that traps. -/
theorem nth_slots_trapped {s : State} {id : WaveId} {k j : Nat} {w : Wave} {sp q : Split} {cs : List CauseRec}
    (hk : nth w.slots k none = some sp) (hj : nth w.slots j none = some q) :
    ∃ st, nth (s.trapped id k w sp cs).slots j none = some { q with stall := st } := by
  rw [slots_trapped]
  by_cases hjk : j = k
  · subst hjk
    obtain rfl : sp = q := Option.some.inj (hk.symm.trans hj)
    have hlt : j < w.slots.length := by
      by_contra hge
      simp [nth, Nat.not_lt.mp hge] at hk
    exact ⟨.stopped, by simp [nth, hlt]⟩
  · exact ⟨q.stall, by simpa [nth, List.getElem?_set_ne (Ne.symm hjk)] using hj⟩

/-- Settles O20: the stop keeps what the trapped wave holds but for its places, operations and dead names, and the event stands in the
queue or is held. -/
theorem trapStopsWave : Obligations.TrapStopsWave := by
  unfold Obligations.TrapStopsWave
  intro s id k w sp cs im hw hk him x
  obtain ⟨v₀, hstop⟩ := Wave.stop_eq (s.trapped id k w sp cs) (some im)
  obtain ⟨v, hrest, hdead⟩ := Wave.dropDead_rest ((s.trapped id k w sp cs).halted (some im) v₀) im
  have heq := trap_wave_eq s id k w sp cs
  rw [him, hstop, hrest] at heq
  rw [show s.trap x cs none = _ from heq, waves_pushEvent]
  refine ⟨_, look_put_self .., rfl, rfl, length_foldl_addCause .., rfl, rfl, rfl, rfl, rfl, fun j q h hj hc hpark hprec hin hh => ?_, ⟨?_, ?_⟩,
    mem_events_pushEvent ..⟩
  · obtain ⟨st, hst⟩ := nth_slots_trapped (s := s) (id := id) (cs := cs) hk hj
    obtain ⟨hpos, hact⟩ := placeSplit_inside (q := { q with stall := st }) hpark hprec hin hh
    refine ⟨_, nth_placedSlots hst hc, ?_⟩
    simp only [Split.cleaned, hpos, hact]
    exact ⟨rfl, rfl, rfl, trivial⟩
  · exact rfl
  · exact hdead

end Sys2Proof.Machine

/-! Known words, the step's instruction, the halt, reset, tiles, and what counting and retiring a memory instruction change
(R38, R39, R67, R68, R80, R173, R177 to R191, R388). -/

namespace Sys2Proof.Machine

/-! ## Words and steps (R131, R171, R176 to R191, R388) -/

/-- Settles O2: each decode evaluates. -/
theorem knownWordsDecode : Obligations.KnownWordsDecode := by
  unfold Obligations.KnownWordsDecode
  decide +kernel

/-- A position whose words pass the raw check and decode reads as their instruction. -/
theorem readInstr_of_words {s : State} {x : Actor} {w w1 : Word} {i : Instr} (hw : s.fetchWord x x.pos.pc = .word w)
    (hraw : rawCheck x (opcOf w) (mlOf w).toNat (if wOf w then 2 else 1) = none)
    (hdec : if wOf w then s.fetchWord x (x.pos.pc + 1) = .word w1 ∧ decode [w, w1] = .ok i else decode [w] = .ok i) :
    s.readInstr x = .instr i := by
  unfold State.readInstr
  dsimp only
  rw [hw]
  dsimp only
  rw [hraw]
  dsimp only
  cases h : wOf w with
  | true =>
    obtain ⟨hw1, hd⟩ := (if_pos h).mp hdec
    rw [if_pos rfl, hw1]
    dsimp only
    rw [hd]
  | false =>
    have hd := (if_neg (by simp [h])).mp hdec
    rw [if_neg (by simp), hd]

/-- An agent whose access waits for no walk, and which nothing holds, runs the instruction it reads. -/
theorem runAgent_of_instr {u v : State} {a : AgentId} {x : Actor} {i : Instr} (hwalk : u.walkWaits a = false)
    (hv : v = { u with cur := a }.unwalk a) (hx : v.actorOf a = some x) (hheld : x.held = none) (hi : v.readInstr x = .instr i) :
    u.runAgent a = exec i v := by
  unfold State.runAgent
  rw [if_neg (by simp [hwalk]), ← hv]
  dsimp only
  rw [hx]
  dsimp only
  rw [hheld]
  dsimp only
  rw [hi]

/-- An issue is the agent's run from the state in which its run or rotation is noted, and what the run notes after it. -/
theorem issue_of_run (s u : State) (a : AgentId) (o : Out) :
    u = (match a with
      | .wave id k => if s.runBegins id k then s.beginRun id k else s
      | .gaffer p => s.putCore (parCore p) { s.core (parCore p) with lastPar := p.entry }
      | _ => s) →
    u.runAgent a = o →
    s.issue a = match o with
      | .next y => .next (match a with
        | .wave id k => y.noteRun u id k
        | _ => y)
      | o => o := by
  intro hu hrun
  subst hrun
  unfold State.issue
  cases a with
  | wave id k =>
    dsimp only at hu ⊢
    subst hu
    cases State.runAgent _ (.wave id k) <;> rfl
  | gaffer p =>
    dsimp only at hu ⊢
    subst hu
    cases State.runAgent _ (.gaffer p) <;> rfl
  | _ =>
    dsimp only at hu ⊢
    rw [hu]
    cases s.runAgent _ <;> rfl

/-- Settles O3: a fetch reads the memory of the home that its translation gives, and a run of an agent is what its words decode to. -/
theorem stepRunsDecodedInstruction : Obligations.StepRunsDecodedInstruction := by
  unfold Obligations.StepRunsDecodedInstruction
  constructor
  · intro s x n im leaf pa hfw him htr hhome
    unfold State.fetchWord
    split
    · simp [Actor.firmware] at hfw
    · simp only [him, htr, lineAt, hhome, if_true]
      rfl
  · intro s u v a t x i w w1 hag hboot hmay hu hwalk hv hx hheld hw hraw hdec
    have hrun := runAgent_of_instr hwalk hv hx hheld (readInstr_of_words hw hraw hdec)
    have hmove : ({ s with agenda := t } : State).move (.run a) = ({ s with agenda := t } : State).issue a := by
      unfold State.move
      rw [if_neg (by simp [hboot])]
      exact if_pos hmay
    unfold Machine.step
    rw [hag]
    dsimp only
    rw [hmove, issue_of_run _ u a _ hu hrun]
    cases exec i v <;> cases a <;> rfl

/-- A move that wakes a die is a power-on reset. -/
theorem wakes_iff {m : Move} : State.move.wakes m = true ↔ ∃ d, m = .event (.powerOnReset d) := by
  unfold State.move.wakes
  constructor
  · intro h
    split at h
    next i => split at h <;> simp_all
    next => cases h
  · rintro ⟨d, rfl⟩
    rfl

/-- Settles O4: neither a move nor an own step gets past the halt, unless it wakes the die. -/
theorem failedBootHalts : Obligations.FailedBootHalts := by
  unfold Obligations.FailedBootHalts
  intro s hfail hk ha
  unfold Machine.step
  cases hag : s.agenda with
  | nil => simp [State.ownStep, hfail, afterStep]
  | cons m t =>
    have hsleep : State.move.wakes m = false := by
      rw [Bool.eq_false_iff, Ne, wakes_iff]
      rintro ⟨d, rfl⟩
      cases d <;> simp_all
    simp [State.move, hfail, hsleep, afterStep]

/-- Settles O5: the reset state evaluates. -/
theorem resetState : Obligations.ResetState := by
  unfold Obligations.ResetState
  refine ⟨⟨fun d => by cases d <;> decide +kernel, rfl, rfl, rfl, rfl, rfl, rfl, rfl, rfl, rfl, rfl, rfl, rfl, rfl, rfl, rfl, fun h => ?_⟩,
    by decide +kernel⟩
  by_cases hz : h = 0 <;> simp only [State.head, hz, if_true, if_false] <;> decide +kernel

/-! ## Tiles (R38, R39, R67, R68) -/

/-- The element of a list of rows of `m` at its row and column. -/
theorem nth_flatMap_map {α : Type} (g : Nat → Nat → α) (d : α) (n m i j : Nat) (hi : i < n) (hj : j < m) :
    nth ((List.range n).flatMap fun i => (List.range m).map fun j => g i j) (m * i + j) d = g i j := by
  induction n with
  | zero => omega
  | succ n ih =>
    rw [List.range_succ, List.flatMap_append]
    have hlen : ((List.range n).flatMap fun i => (List.range m).map fun j => g i j).length = m * n := by
      simp [List.length_flatMap, Nat.mul_comm]
    by_cases hin : i < n
    · have := ih hin
      rw [← this]
      unfold nth
      rw [List.getD_append]
      rw [hlen]
      calc m * i + j < m * i + m := by omega
        _ = m * (i + 1) := by ring
        _ ≤ m * n := Nat.mul_le_mul_left _ hin
    · obtain rfl : i = n := by omega
      unfold nth
      rw [List.getD_append_right _ _ _ _ (by omega), hlen]
      simp [hj]

/-- Settles O35: the body lists the elements row by row, and a poisoned tile drains the NaN. -/
theorem tileActions : Obligations.TileActions := by
  unfold Obligations.TileActions
  refine ⟨fun c as bs i j hi hj => ⟨?_, rfl, rfl, ?_⟩, fun c i j => ⟨rfl, rfl, rfl, rfl⟩, fun c i j h => ?_⟩
  · exact (if_neg (by simp [Tile.mma])).trans (nth_flatMap_map (fun i j =>
      cellUpdate (nth as i []) (nth bs j { scale := 0x7F, elems := [], poison := false }) (c.at i j)) 0 64 62 i j hi hj)
  · simp [Tile.mma, or_assoc]
  · simp [Tile.drain, h]

/-! ## Issue and retirement of counted instructions (R87, R171, R173, R186, R337) -/

theorem Counters.get_up_self {c : Counters} {k : Ctr} (h : c.get k ≠ 63) : ((c.up k).get k).toNat = (c.get k).toNat + 1 := by
  unfold Counters.up
  rw [Counters.get_set_self]
  bv_omega

theorem Counters.get_up_ne (c : Counters) {k j : Ctr} (h : j ≠ k) : (c.up k).get j = c.get j := Counters.get_set_ne c _ h

theorem issueOp_wave (s : State) (id : WaveId) (k : Nat) (w : Wave) (sp : Split) (f : Form) (o : Op) {c : Ctr} (h : o.ctr = some c) :
    s.issueOp (.wave id k) w sp f o = { s with
      opCtr := s.opCtr + 1
      waves := put id { w.release f.lastReads with
        ops := w.ops ++ [o], ctr := w.ctr.up c
        slots := w.slots.set k (some { sp.issued f with freed := sp.freed ++ s.freedBy (.wave id k) f }) } s.waves } := by
  unfold State.issueOp
  rw [h]
  rfl

/-- Settles O25: the issue adds the operation to its wave, counted, and moves the split past it. -/
theorem issueCounts : Obligations.IssueCounts := by
  unfold Obligations.IssueCounts
  intro s id k w sp f o c ho hc
  rw [issueOp_wave s id k w sp f o ho]
  refine ⟨rfl, fun id' h => look_put_ne _ h _, _, look_put_self .., Counters.get_up_self hc, fun d hd => Counters.get_up_ne _ hd, rfl, rfl, rfl,
    fun n hn => ?_, fun n hn => ?_⟩
  · exact (Wave.vmap_release w f.lastReads n).trans (if_neg hn)
  · exact (Wave.vmap_release w f.lastReads n).trans (if_pos hn)

/-- Settles O45: the retirement's wave in place of the old. -/
theorem retirement : Obligations.Retirement := by
  unfold Obligations.Retirement
  intro s id k w o c hw ho hc
  rw [State.retire_wave hw ho]
  refine ⟨⟨rfl, fun id' h => State.look_setWave_ne s k _ h⟩, _, look_put_self .., ?_, fun d hd => Counters.get_down_ne _ hd, rfl, rfl,
    fun q => mem_delOp, rfl⟩
  show ((w.ctr.down c).get c).toNat + 1 = _
  rw [Counters.get_down_self hc]
  bv_omega

end Sys2Proof.Machine

/-! What memory instructions issue: loads, stores, prefetches, cache control, fences and atomics, and the faults of their lanes
(R24, R78, R81 to R92, R106, R107, R112, R255 to R268, R292, R295, R341). -/

namespace Sys2Proof.Machine

/-! ## Loads (R258, R260, R295) -/

/-- Settles O21: the order modifier lets the access go on, its lanes land, and the load is issued with what each finds at once. -/
theorem loadsIssue : Obligations.LoadsIssue := by
  unfold Obligations.LoadsIssue
  refine ⟨⟨fun i x blk hi s a w sp l hr => ?_, fun i hi s p r hr => ?_⟩, fun x s p r hr => ⟨fun hg => ?_, fun l hg hc ho hl => ?_⟩⟩
  · intro f n y t u hmay hl
    obtain ⟨rfl, rfl⟩ | ⟨rfl, rfl⟩ := hi
    all_goals
      refine (runInstr_wave hr _).trans (congrArg _ ?_)
      dsimp only [loadWave]
      refine (inOrder_may hmay).trans ?_
      exact waveAccess_lands hl
  · obtain ⟨x, rfl | rfl⟩ := hi <;> exact runInstr_par hr _
  · refine (runInstr_par hr _).trans (congrArg _ ?_)
    dsimp only
    rw [hg]
  · refine (runInstr_par hr _).trans (congrArg _ ?_)
    have hcatch : ¬ (x.b.getLsbD 0 && !s.caughtUp p r) = true := by
      cases hb : x.b.getLsbD 0
      · simp
      · simp [hc hb]
    dsimp only
    rw [hg]
    dsimp only
    rw [if_neg hcatch, ho]
    dsimp only
    rw [hl]

/-! ## Stores (R258, R261) -/

/-- A store that no line holds up is issued with what its lanes store at once. -/
theorem storeAt_of_free {f : Form} {x : MForm} {ex : Word} {data : Nat → List Byte} {a : AgentId} {w : Wave} {sp : Split} {s : State}
    {l : List (Nat × Nat × Place × DWord)} (haway : ∀ e ∈ l, x.pol ≠ 2 → s.privAway (coreOf a) e = false)
    (hheld : ∀ e ∈ l, s.storeHeld (coreOf a) e.2.2.1 e.2.2.2 = false) :
    storeAt f x ex data a w sp s l =
      let v := if l.any (fun e => outsideStore w.block e.2.2.1) then s.irrevocable w.block else s
      let r := v.storeReqs (coreOf a) w.ctx x.pol.toNat data l
      r.1.issueOp a w sp f { newOp r.1 a sp f .store ex with order := ordOf x.ord.toNat, reqs := r.2.1, gd := r.2.2, gp := r.2.2 } := by
  have hnone : (if x.pol.toNat = 2 then [] else l.filter (s.privAway (coreOf a))) = [] := by
    split
    next => rfl
    next hp =>
      refine List.filter_eq_nil_iff.mpr fun e he => ?_
      simp [haway e he fun h => hp (by simp [h])]
  unfold storeAt
  dsimp only
  rw [hnone, if_neg (by simp), if_neg (by simpa using hheld)]

/-- Of the first entries that name each address of a list of lanes in ascending order, those whose lane a located entry has are those that
no lower lane's address equals. -/
theorem find_least {all : List (Nat × Nat)} (hlanes : (all.map (·.1)).Pairwise (· < ·)) {ea : Nat} {d : Nat × Nat}
    (h : (all.find? fun e => e.2 == ea) = some d) : d ∈ all ∧ d.2 = ea ∧ ∀ e ∈ all, e.2 = ea → d.1 ≤ e.1 := by
  obtain ⟨hd, pre, post, rfl, hpre⟩ := List.find?_eq_some_iff_append.mp h
  refine ⟨by simp, by simpa using hd, fun e he hea => ?_⟩
  rw [List.map_append, List.map_cons, List.pairwise_append] at hlanes
  obtain ⟨-, hpost, -⟩ := hlanes
  rcases List.mem_append.mp he with he | he
  · exact absurd hea (by simpa using hpre e he)
  · rcases List.mem_cons.mp he with rfl | he
    · exact Nat.le_refl _
    · exact Nat.le_of_lt ((List.pairwise_cons.mp hpost).1 _ (List.mem_map_of_mem he))

theorem mem_dedup {α : Type} [DecidableEq α] {x : α} : ∀ {l : List α}, x ∈ dedup l ↔ x ∈ l
  | [] => Iff.rfl
  | a :: t => by
    by_cases h : x = a <;> simp [dedup, mem_dedup (l := t), h]

theorem firstOf_iff {all : List (Nat × Nat)} (hlanes : (all.map (·.1)).Pairwise (· < ·)) {k ea : Nat} (h : (k, ea) ∈ all) :
    (((dedup (all.map (·.2))).filterMap fun ea => all.find? fun e => e.2 == ea).any fun d => d.1 == k)
      = decide (∀ d ∈ all, d.2 = ea → k ≤ d.1) := by
  have hone : ∀ d ∈ all, d.1 = k → d = (k, ea) := fun d hd hk =>
    List.inj_on_of_nodup_map (hlanes.imp Nat.ne_of_lt) hd h hk
  rw [Bool.eq_iff_iff, List.any_eq_true, decide_eq_true_iff]
  constructor
  · rintro ⟨d, hd, hk⟩
    obtain ⟨ea', -, hfind⟩ := List.mem_filterMap.mp hd
    obtain ⟨hmem, hea, hleast⟩ := find_least hlanes hfind
    obtain rfl := hone d hmem (by simpa using hk)
    subst hea
    exact hleast
  · intro hmin
    obtain ⟨d, hd⟩ := Option.isSome_iff_exists.mp (List.find?_isSome (p := fun e : Nat × Nat => e.2 == ea).mpr ⟨_, h, by simp⟩)
    obtain ⟨hmem, hea, hleast⟩ := find_least hlanes hd
    refine ⟨d, List.mem_filterMap.mpr ⟨ea, mem_dedup.mpr (List.mem_map.mpr ⟨_, h, rfl⟩), hd⟩, ?_⟩
    have h1 := hleast _ h rfl
    have h2 := hmin d hmem hea
    simp only [beq_iff_eq]
    omega

/-- The lanes of a wave's addresses ascend. -/
theorem lanes_addrs (w : Wave) (ff : List (Nat × Aff)) (f : Form) (space : Nat) (ofs : Int) (size : Nat) (m : Word) :
    ((w.addrs ff f space ofs size m).map (·.1)).Pairwise (· < ·) := by
  have hmap : (w.addrs ff f space ofs size m).map (·.1) = lanesOf m := by simp [Wave.addrs, List.map_map, Function.comp_def]
  rw [hmap]
  exact List.Pairwise.filter _ List.pairwise_lt_range

/-- A located place is that of one of the addresses asked for. -/
theorem mem_of_located {s : State} {a : AgentId} {ctx : Nat} {blk : Option BlockRef} {acc : Access} {space align : Nat} {eas : List (Nat × Nat)}
    {l : List (Nat × Nat × Place × DWord)} (h : s.locateLanes a ctx blk acc space align eas = .places l) :
    ∀ e ∈ l, (e.1, e.2.1) ∈ eas := by
  unfold State.locateLanes at h
  dsimp only at h
  split at h
  next => cases h
  next => 
    split at h
    next => cases h
    next =>
      obtain rfl := Located.places.inj h
      intro e he
      obtain ⟨q, hq, hqe⟩ := List.mem_filterMap.mp he
      obtain ⟨ea, hea, rfl⟩ := List.mem_map.mp hq
      dsimp only at hqe
      split at hqe
      · obtain rfl := Option.some.inj hqe
        exact hea
      · cases hqe

/-- Settles O22: the store waits for no line, so that what its lanes store at once is issued with it. -/
theorem storesIssue : Obligations.StoresIssue := by
  unfold Obligations.StoresIssue
  refine ⟨fun x s a w sp l hr => ?_, fun x s a w sp l blk hr => ?_, fun i hi s p r hr => ?_⟩
  · intro f n y t ff u hmay hl haway hheld
    refine (runInstr_wave hr _).trans (congrArg _ ?_)
    dsimp only [storeWave]
    refine (inOrder_may hmay).trans ?_
    refine (waveAccess_lands hl).trans ?_
    exact storeAt_of_free haway hheld
  · intro f y t ff u all hmay hl hblk mine haway hheld
    refine (runInstr_wave hr _).trans (congrArg _ ?_)
    dsimp only [stblkWave]
    refine (inOrder_may hmay).trans ?_
    refine (waveAccess_lands hl).trans ?_
    have hmine : (l.filter fun e => ((dedup (all.map (·.2))).filterMap fun ea => all.find? fun e => e.2 == ea).any fun d => d.1 == e.1) = mine :=
      List.filter_congr fun e he => firstOf_iff (lanes_addrs ..) (mem_of_located hl.1 e he)
    rw [hblk]
    dsimp only
    rw [hmine]
    exact storeAt_of_free haway hheld
  · obtain ⟨x, rfl | rfl⟩ := hi <;> exact runInstr_par hr _

/-! ## Prefetch, cache control and fences (R262 to R264) -/

/-- An instruction of a uniform address that lands acts once for its parison. -/
theorem uniAccess_lands {f : Form} {acc : Access} {align size : Nat} {ofs : Int} {go : State → List (Nat × Nat × Place × DWord) → State}
    {s : State} {p : ParId} {r : Parison} {ea : Nat} {l : List (Nat × Nat × Place × DWord)} (hg : r.guard f = some true)
    (hea : r.uniAddr (s.formFile (parCore p)) f ofs size = some ea)
    (hl : s.locateLanes (.gaffer p) r.ctx (some r.block) acc 0 align [(0, ea)] = .places l) :
    uniAccess f acc align size ofs go s p r = s.parCount p r f (go s l) := by
  unfold uniAccess
  rw [hg]
  dsimp only
  rw [hea]
  dsimp only
  rw [hl]

/-- An instruction whose guard is false acts on no line. -/
theorem uniAccess_off {f : Form} {acc : Access} {align size : Nat} {ofs : Int} {go : State → List (Nat × Nat × Place × DWord) → State}
    {s : State} {p : ParId} {r : Parison} (hg : r.guard f = some false) :
    uniAccess f acc align size ofs go s p r = s.parCount p r f (go s []) := by
  unfold uniAccess
  rw [hg]

/-- A parison's instruction whose counter has room goes on. -/
theorem parCount_room {s go : State} {p : ParId} {r : Parison} {f : Form} {c : Ctr} (hc : counterOf f.opc = some c) (h : r.ctr.get c ≠ 63) :
    s.parCount p r f go = go := by
  unfold State.parCount
  rw [hc]
  exact if_neg h

/-- CCTL of no line changes nothing. -/
theorem cctl_nil (s : State) (c : CoreRef) (ctx : Nat) {ml : Nat} (h : ml < 2) : s.cctl c ctx ml [] = s := by
  unfold State.cctl
  dsimp only
  rw [if_neg (by omega)]
  rfl

/-- Settles O24: the lines named, or all the context's, are asked for, written back or dropped; a fence goes on or waits by what it finds. -/
theorem cacheInstructionsComplete : Obligations.CacheInstructionsComplete := by
  unfold Obligations.CacheInstructionsComplete
  refine ⟨fun x s a w sp l hr => ?_, fun x s a w sp l hr => ?_, fun x s a w sp hr => ?_, fun x s p r l ea hr => ?_, fun x s p r l ea hr => ?_,
    fun x s p r hr => ?_⟩
  · intro f t ho hl
    refine (runInstr_wave hr _).trans (congrArg _ ?_)
    dsimp only
    rw [ho]
    dsimp only
    rw [hl]
  · intro f t ho hl u
    refine (runInstr_wave hr _).trans (congrArg _ ?_)
    dsimp only
    refine (inOrder_relaxed ho).trans ?_
    exact waveAccess_lands hl
  · refine ⟨fun hex => ?_, fun hmet hex => ?_, fun hmet hex => ?_⟩
    all_goals refine (runInstr_wave hr _).trans (congrArg _ ?_)
    · exact if_pos hex
    · exact (if_neg hex).trans (if_pos hmet)
    · exact (if_neg hex).trans (if_neg (by simp [hmet]))
  · intro f hg hea hl
    refine (runInstr_par hr _).trans (congrArg _ ?_)
    dsimp only
    rw [uniAccess_lands hg hea hl]
    rfl
  · intro f op hroom done
    have hcount : ∀ go, s.parCount p r f go = go := fun go => parCount_room rfl hroom
    refine ⟨fun hg => ?_, fun hg hall => ?_, fun hg hone hea hl => ?_⟩
    all_goals refine (runInstr_par hr _).trans (congrArg _ ?_)
    all_goals dsimp only
    · by_cases hall : 2 ≤ x.ml.toNat
      · rw [if_pos hall, hg]
        exact hcount _
      · rw [if_neg hall, uniAccess_off hg, hcount]
        dsimp only [cctlPar]
        rw [if_pos rfl, cctl_nil _ _ _ (by omega)]
    · rw [if_pos hall, hg]
      exact hcount _
    · rw [if_neg (by omega), uniAccess_lands hg hea hl]
      exact hcount _
  · refine ⟨fun hg => ?_, fun hg hmet => ?_⟩
    all_goals refine (runInstr_par hr _).trans (congrArg _ ?_)
    all_goals dsimp only
    · rw [hg]
    · split
      next h => exact absurd h hg
      next => exact if_pos hmet

/-! ## Faults of lanes (R24, R255, R341) -/

/-- An access some of whose lanes fault traps with their causes. -/
theorem waveAccess_bad {f : Form} {acc : Access} {space align : Nat} {eas : List (Nat × Nat)} {go : State → List (Nat × Nat × Place × DWord) → State}
    {s : State} {a : AgentId} {w : Wave} {sp : Split} {l : List (Nat × Nat × Sub × Nat)}
    (hl : s.locateLanes a w.ctx w.block acc space align eas = .bad l) :
    waveAccess f acc space align eas go s a w sp = s.faultLanes (.wave a w sp) l := by
  unfold waveAccess
  dsimp only
  rw [hl]

/-- An access whose translations are missing waits for their walks. -/
theorem waveAccess_miss {f : Form} {acc : Access} {space align : Nat} {eas : List (Nat × Nat)} {go : State → List (Nat × Nat × Place × DWord) → State}
    {s : State} {a : AgentId} {w : Wave} {sp : Split} {l : List (Nat × Nat)}
    (hl : s.locateLanes a w.ctx w.block acc space align eas = .miss l) :
    waveAccess f acc space align eas go s a w sp = s.waitWalks (.wave a w sp) (counterOf f.opc) acc l := by
  unfold waveAccess
  dsimp only
  rw [hl]

/-- Settles O26: the lanes are all located before any is performed. -/
theorem faultingAccessesTrap : Obligations.FaultingAccessesTrap := by
  unfold Obligations.FaultingAccessesTrap
  intro i x s id k w sp hi hr hord hfree f n y acc at_
  refine ⟨fun l hl => ?_, fun l hl => ?_⟩
  all_goals obtain rfl | rfl := hi
  all_goals
    simp only [at_, acc, if_true, reduceCtorEq, if_false] at hl ⊢
    refine (runInstr_wave hr _).trans (congrArg _ ?_)
    dsimp only [loadWave, storeWave]
    rw [hord]
    refine (inOrder_relaxed hfree).trans ?_
  · exact waveAccess_bad hl
  · exact waveAccess_bad hl
  · exact waveAccess_miss hl
  · exact waveAccess_miss hl

/-! ## Atomics (R266 to R268) -/

/-- Settles O27: no line holds the access up, so that its bundles and what is performed at once are issued with it. -/
theorem atomicsIssue : Obligations.AtomicsIssue := by
  unfold Obligations.AtomicsIssue
  have hempty : ∀ (l : List (Nat × Nat × Place × DWord)) (s t : State), (if l.isEmpty then s else t) = if l = [] then s else t :=
    fun l s t => by cases l <;> rfl
  refine ⟨fun i x red hi s a w sp l hr => ?_, fun x s a w sp l hr => ?_, fun i hi s p r hr => ?_⟩
  · intro f n y t ff u hmay hl haway hheld v r
    have haway' : l.filter (u.privAway (coreOf a)) = [] := List.filter_eq_nil_iff.mpr fun e he => by simp [haway e he]
    obtain ⟨rfl, rfl⟩ | ⟨rfl, rfl⟩ := hi
    all_goals
      refine (runInstr_wave hr _).trans (congrArg _ ?_)
      dsimp only [atomWave]
      refine (inOrder_may hmay).trans ?_
      refine (waveAccess_lands hl).trans ?_
      rw [haway', if_neg (by simp), if_neg (by simpa using hheld), hempty]
  · intro f t ff eas hal ho hl v
    refine (runInstr_wave hr _).trans (congrArg _ ?_)
    have hbad : (eas.filter fun e => e.2 % 512 != 0) = [] := List.filter_eq_nil_iff.mpr fun e he => by simp [hal e he]
    dsimp only [ocallWave]
    rw [hbad]
    dsimp only
    refine (inOrder_relaxed ho).trans ?_
    refine (waveAccess_lands hl).trans ?_
    rw [hempty]
  · obtain ⟨x, rfl | rfl | rfl⟩ := hi <;> exact runInstr_par hr _

end Sys2Proof.Machine

/-! Home slices: what a line's recall, its tag and its eviction leave of memories, clocks and the other tags; writes at a home and leases
(R46 to R48, R81, R86 to R89, R92). -/

namespace Sys2Proof.Machine

/-! ## What a step at one line leaves -/

/-- Tags of a line's slice before and after a step at the line `l`: the same lease ends, and every other line's tag as it was. -/
def TagKept (l : LineRef) (x y : LineTag) : Prop := y.line = x.line ∧ y.leK = x.leK ∧ y.leA = x.leA ∧ (x.line ≠ l → y = x)

theorem TagKept.refl (l : LineRef) (x : LineTag) : TagKept l x x := ⟨rfl, rfl, rfl, fun _ => rfl⟩

theorem TagKept.trans {l : LineRef} {x y z : LineTag} (h : TagKept l x y) (g : TagKept l y z) : TagKept l x z := by
  obtain ⟨h1, h2, h3, h4⟩ := h
  obtain ⟨g1, g2, g3, g4⟩ := g
  exact ⟨g1.trans h1, g2.trans h2, g3.trans h3, fun hx => (g4 (by rwa [h1])).trans (h4 hx)⟩

theorem tags_same (l : LineRef) (ts : List LineTag) : List.Forall₂ (TagKept l) ts ts :=
  List.forall₂_same.mpr fun x _ => TagKept.refl l x

/-- What a step at one line leaves: memory outside the line, weight stores, clocks, fold registers, the contexts' descriptors, and the tags
but for what it notes in the line's own. -/
structure AtLine (l : LineRef) (s t : State) : Prop where
  mem : ∀ h a, ¬ inLine l h a → Memory.read (t.mem h) a = Memory.read (s.mem h) a
  ws : ∀ d, t.ws d = s.ws d
  now : ∀ d, t.now d = s.now d
  folds : ∀ d, (t.die d).folds = (s.die d).folds
  tags : ∀ d, List.Forall₂ (TagKept l) (s.die d).tags (t.die d).tags
  desc : ∀ n c, s.ctx n = some c → ∃ c', t.ctx n = some c' ∧ c'.desc = c.desc

theorem AtLine.refl (l : LineRef) (s : State) : AtLine l s s :=
  ⟨fun _ _ _ => rfl, fun _ => rfl, fun _ => rfl, fun _ => rfl, fun _ => tags_same l _,
    fun _ c h => ⟨c, h, rfl⟩⟩

theorem forall₂_trans {l : LineRef} : ∀ {l₁ l₂ l₃ : List LineTag}, List.Forall₂ (TagKept l) l₁ l₂ → List.Forall₂ (TagKept l) l₂ l₃ →
    List.Forall₂ (TagKept l) l₁ l₃
  | _, _, _, .nil, .nil => .nil
  | _, _, _, .cons h t, .cons h' t' => .cons (h.trans h') (forall₂_trans t t')

theorem AtLine.trans {l : LineRef} {s t u : State} (h : AtLine l s t) (g : AtLine l t u) : AtLine l s u where
  mem := fun k a ha => (g.mem k a ha).trans (h.mem k a ha)
  ws := fun d => (g.ws d).trans (h.ws d)
  now := fun d => (g.now d).trans (h.now d)
  folds := fun d => (g.folds d).trans (h.folds d)
  tags := fun d => forall₂_trans (h.tags d) (g.tags d)
  desc := fun n c hc => by
    obtain ⟨c', hc', hd⟩ := h.desc n c hc
    obtain ⟨c'', hc'', hd'⟩ := g.desc n c' hc'
    exact ⟨c'', hc'', hd'.trans hd⟩

/-- A die changed in none of its clock, tags and fold registers. -/
theorem AtLine.setDie (l : LineRef) (s : State) (d : Die) (x : DieState) (hp : x.ptime = (s.die d).ptime) (hf : x.folds = (s.die d).folds)
    (ht : List.Forall₂ (TagKept l) (s.die d).tags x.tags) : AtLine l s (s.setDie d x) := by
  have hdie : ∀ e, e = d ∨ (s.setDie d x).die e = s.die e := fun e =>
    (eq_or_ne e d).imp_right fun h => State.die_setDie_ne s x h
  refine ⟨fun h a _ => by rw [State.mem_setDie], fun e => State.ws_setDie .., fun e => ?_, fun e => ?_, fun e => ?_, fun n c hc => ⟨c, ?_, rfl⟩⟩
  · rcases hdie e with rfl | h
    · simp [State.now, hp]
    · simp [State.now, h]
  · rcases hdie e with rfl | h
    · simp [hf]
    · simp [h]
  · rcases hdie e with rfl | h
    · simpa using ht
    · exact h ▸ tags_same l _
  · simpa [State.ctx] using hc

/-- The contexts once one has been put in the place of that of its number. -/
theorem ctx_putCtx {s : State} {c c₀ : Context} (h : s.ctx c.num = some c₀) (n : Nat) :
    (s.putCtx c).ctx n = if n = c.num then some c else s.ctx n := by
  have key : ∀ l : List Context, (l.find? fun x => x.num == c.num) = some c₀ →
      (updFirst (fun x => x.num == c.num) (fun _ => c) l).find? (fun x => x.num == n) = if n = c.num then some c else l.find? fun x => x.num == n := by
    intro l
    induction l with
    | nil => intro h; cases h
    | cons a t ih =>
      intro h
      by_cases ha : a.num = c.num
      · by_cases hn : n = c.num
        · simp [updFirst, ha, hn]
        · simp [updFirst, ha, hn, Ne.symm hn]
      · have hh : (t.find? fun x => x.num == c.num) = some c₀ := by simpa [List.find?_cons, ha] using h
        have := ih hh
        by_cases hn : a.num = n
        · have hnc : n ≠ c.num := hn ▸ ha
          simp [updFirst, hn, hnc]
        · simpa [updFirst, ha, List.find?_cons, hn] using this
  exact key s.ctxs h

theorem num_of_ctx {s : State} {n : Nat} {c : Context} (h : s.ctx n = some c) : c.num = n := by simpa using List.find?_some h

/-- A context put in the place of one with its descriptor leaves all that a line's step leaves. -/
theorem AtLine.putCtx (l : LineRef) {s : State} {n : Nat} {c c' : Context} (h : s.ctx n = some c) (hn : c'.num = c.num) (hd : c'.desc = c.desc) :
    AtLine l s (s.putCtx c') := by
  have hc : s.ctx c'.num = some c := by rw [hn, num_of_ctx h]; exact h
  refine ⟨fun h _ _ => by cases h <;> rfl, fun d => by cases d <;> rfl, fun d => by cases d <;> rfl, fun d => by cases d <;> rfl,
    fun d => by cases d <;> exact tags_same l _, fun m e he => ?_⟩
  rw [ctx_putCtx hc]
  split
  next hm =>
    rw [hm, hc] at he
    exact ⟨c', rfl, by rw [hd, Option.some.inj he]⟩
  next => exact ⟨e, he, rfl⟩

theorem AtLine.faultNote (l : LineRef) (s : State) (ctx : Nat) (d : Die) (kind : Nat) (sub : BitVec 8) (node va : Nat) :
    AtLine l s (s.faultNote ctx d kind sub node va) := by
  unfold State.faultNote State.faultEntry
  split
  next c h => exact .putCtx l h rfl rfl
  next => exact .refl l s

theorem AtLine.epochsFull (l : LineRef) {s : State} {n : Nat} {c : Context} (h : s.ctx n = some c) (d : Die) : AtLine l s (s.epochsFull c d) :=
  (AtLine.putCtx l (c' := { c.dropEpochs fun _ => true with
    mirror := none, ckpt := (c.dropEpochs fun _ => true).ckpt.map fun k => { num := k.num, stage := .failed, packets := k.packets }
    dirtyAll := true, ckptNow := true }) h rfl rfl).trans (.faultNote l ..)

theorem AtLine.touch (l : LineRef) (s : State) (ctx va : Nat) (leaf : DWord) (pa : Nat) : AtLine l s (s.touch ctx va leaf pa) := by
  unfold State.touch
  split
  next => exact .refl l s
  next c h =>
    split
    next => exact .refl l s
    next =>
      dsimp only
      split
      next =>
        split
        · exact .refl l s
        · exact .putCtx l h rfl rfl
      next =>
        split
        next => exact .refl l s
        next =>
          split
          · exact .refl l s
          · split
            · exact .epochsFull l h _
            · exact .putCtx l h rfl rfl
      next => exact .refl l s

theorem AtLine.wantMove (l : LineRef) (s : State) (ctx va : Nat) (leaf : DWord) (dst : Die) : AtLine l s (s.wantMove ctx va leaf dst) := by
  unfold State.wantMove
  dsimp only
  split
  · exact .refl l s
  · exact ⟨fun h _ _ => by cases h <;> rfl, fun d => by cases d <;> rfl, fun d => by cases d <;> rfl, fun d => by cases d <;> rfl,
      fun d => by cases d <;> exact tags_same l _, fun _ c h => ⟨c, h, rfl⟩⟩

theorem AtLine.ite {l : LineRef} {s t u : State} {p : Prop} [Decidable p] (h : AtLine l s t) (g : AtLine l s u) : AtLine l s (if p then t else u) := by
  split
  · exact h
  · exact g

theorem AtLine.setAcc (l : LineRef) (s : State) (d : Die) (acc : List AccCount) : AtLine l s (s.setDie d { s.die d with acc := acc }) :=
  .setDie l s d _ rfl rfl (tags_same l _)

theorem AtLine.countAccess (l : LineRef) (s : State) (ctx va : Nat) (leaf : DWord) (req : Die) : AtLine l s (s.countAccess ctx va leaf req) := by
  unfold State.countAccess
  split
  next => exact .refl l s
  next =>
    dsimp only
    exact (AtLine.setAcc l s _ _).trans (.ite (.wantMove l ..) (.refl l _))

theorem AtLine.l1Del (l : LineRef) (s : State) (c : CoreRef) (k : LineRef) : AtLine l s (s.l1Del c k) :=
  AtLine.setDie l s _ { s.die c.die with l1 := _ } rfl rfl (tags_same l _)

/-! ## Tags -/

/-- The first tag of a line changed by a function that keeps its line and lease ends. -/
theorem tags_updFirst {l : LineRef} {f : LineTag → LineTag} (hf : ∀ x, (f x).line = x.line ∧ (f x).leK = x.leK ∧ (f x).leA = x.leA) :
    ∀ ts : List LineTag, List.Forall₂ (TagKept l) ts (updFirst (fun t => t.home == l.home && t.la == l.la) f ts)
  | [] => .nil
  | x :: t => by
    unfold updFirst
    split
    next h =>
      obtain ⟨h1, h2, h3⟩ := hf x
      have hx : x.line = l := by
        simp only [Bool.and_eq_true, beq_iff_eq] at h
        cases l
        simp [LineTag.line, h]
      exact .cons ⟨h1, h2, h3, fun hn => absurd hx hn⟩ (tags_same l t)
    next => exact .cons (TagKept.refl l x) (tags_updFirst hf t)

theorem AtLine.onTag (l : LineRef) (f : LineTag → LineTag) (s : State) (hf : ∀ x, (f x).line = x.line ∧ (f x).leK = x.leK ∧ (f x).leA = x.leA) :
    AtLine l s (s.onTag l f) :=
  AtLine.setDie l s _ { s.die (serverOf l.home) with tags := _ } rfl rfl (tags_updFirst hf _)

theorem AtLine.setMem {l : LineRef} (s : State) (m : Memory) (hm : ∀ a, ¬ inLine l l.home a → Memory.read m a = Memory.read (s.mem l.home) a) :
    AtLine l s (s.setMem l.home m) := by
  refine ⟨fun h a ha => ?_, fun d => State.ws_setMem .., fun d => ?_, fun d => ?_, fun d => ?_, fun n c hc => ⟨c, ?_, rfl⟩⟩
  · by_cases hh : h = l.home
    · subst hh
      rw [State.mem_setMem, hm a ha]
    · rw [State.mem_setMem_ne s m hh]
  · simp [State.now]
  · rw [State.die_setMem]
  · rw [State.die_setMem]
    exact tags_same l _
  · cases h : l.home <;> exact hc

/-- A line that a core of its home's die held goes back into it. -/
theorem AtLine.putBack {d : Die} {x : L1Line} (h : serverOf x.line.home = d) (s : State) : AtLine x.line s (s.putBack d x) := by
  unfold State.putBack
  dsimp only
  rw [if_neg (by simp [h])]
  refine ((AtLine.countAccess _ ..).trans (.touch _ ..)).trans (.trans (.setMem _ _ fun a ha => ?_) (.onTag _ _ _ fun x => ⟨rfl, rfl, rfl⟩))
  refine Memory.read_writeN_out _ _ _ _ ?_
  have hlen : (x.data.take 128).length ≤ 128 := List.length_take_le ..
  simp only [inLine, true_and] at ha
  omega

theorem line_of_l1Get {s : State} {c : CoreRef} {l : LineRef} {x : L1Line} (h : s.l1Get c l = some x) : x.line = l := by
  have := List.find?_some h
  simp only [Bool.and_eq_true, beq_iff_eq] at this
  exact this.2

/-- A line recalled from its owner. -/
theorem AtLine.recall (l : LineRef) (s : State) : AtLine l s (s.recall l) := by
  unfold State.recall
  split
  next => exact .refl l s
  next t ht =>
    split
    next => exact .refl l s
    next c hc =>
      dsimp only
      refine .trans ?_ (.onTag _ _ _ fun x => ⟨rfl, rfl, rfl⟩)
      split
      next x hx =>
        have hl := line_of_l1Get hx
        subst hl
        exact (AtLine.putBack rfl s).trans (.l1Del _ ..)
      next => exact .refl l s

/-- A line whose tag names no owner is recalled from nobody. -/
theorem recall_unowned {s : State} {l : LineRef} (h : ∀ t, s.tag? l = some t → t.owner = none) : s.recall l = s := by
  unfold State.recall
  split
  next => rfl
  next t ht => rw [h t ht]

/-- A slice holds no tag of a line where none of its tags is that line's. -/
theorem tag?_eq_none {s : State} {l : LineRef} : s.tag? l = none ↔ ∀ t ∈ (s.die (serverOf l.home)).tags, t.line ≠ l := by
  have hline : ∀ t : LineTag, t.line ≠ l ↔ ¬ (t.home = l.home ∧ t.la = l.la) := fun t => by cases l; simp [LineTag.line]
  simp [State.tag?, List.find?_eq_none, hline]

theorem line_of_tag? {s : State} {l : LineRef} {t : LineTag} (h : s.tag? l = some t) : t.line = l := by
  have := List.find?_some h
  simp only [Bool.and_eq_true, beq_iff_eq] at this
  cases l
  simp [LineTag.line, this]

theorem mem_of_tag? {s : State} {l : LineRef} {t : LineTag} (h : s.tag? l = some t) : t ∈ (s.die (serverOf l.home)).tags :=
  List.mem_of_find?_eq_some h

theorem AtLine.tag?_some {l k : LineRef} {s t : State} (h : AtLine l s t) {x : LineTag} (hx : s.tag? k = some x) :
    ∃ y, t.tag? k = some y ∧ TagKept l x y := by
  have key : ∀ {ts us : List LineTag}, List.Forall₂ (TagKept l) ts us → ts.find? (fun t => t.home == k.home && t.la == k.la) = some x →
      ∃ y, us.find? (fun t => t.home == k.home && t.la == k.la) = some y ∧ TagKept l x y := by
    intro ts us hall
    induction hall with
    | nil => intro h; cases h
    | @cons a b ts us hab _ ih =>
      intro hfind
      have hsame : (b.home == k.home && b.la == k.la) = (a.home == k.home && a.la == k.la) := by
        have hl := hab.1
        simp only [LineTag.line, LineRef.mk.injEq] at hl
        rw [hl.1, hl.2]
      rw [List.find?_cons] at hfind ⊢
      rw [hsame]
      split at hfind
      next => exact ⟨b, rfl, Option.some.inj hfind ▸ hab⟩
      next => exact ih hfind
  exact key (h.tags _) hx

theorem AtLine.tag?_none {l k : LineRef} {s t : State} (h : AtLine l s t) (hk : s.tag? k = none) : t.tag? k = none := by
  rw [tag?_eq_none] at hk ⊢
  intro y hy
  obtain ⟨x, hx, hxy⟩ : ∃ x ∈ (s.die (serverOf k.home)).tags, TagKept l x y := by
    obtain ⟨i, hi, rfl⟩ := List.mem_iff_getElem.mp hy
    have hall := h.tags (serverOf k.home)
    have hlen := hall.length_eq
    exact ⟨_, List.getElem_mem (hlen ▸ hi), (List.forall₂_iff_get.mp hall).2 i (hlen ▸ hi) hi⟩
  rw [hxy.1]
  exact hk x hx

theorem AtLine.freshTag {l : LineRef} {s t : State} (h : AtLine l s t) (k : LineRef) : t.freshTag k = s.freshTag k := by
  unfold State.freshTag
  dsimp only
  rw [h.folds]

/-- A step at one line keeps the lease ends of every line. -/
theorem AtLine.le {l : LineRef} {s t : State} (h : AtLine l s t) (k : LineRef) (d : Die) : (t.tag k).le d = (s.tag k).le d := by
  unfold State.tag
  cases hk : s.tag? k with
  | none => rw [h.tag?_none hk, Option.getD_none, Option.getD_none, h.freshTag]
  | some x =>
    obtain ⟨y, hy, -, h1, h2, -⟩ := h.tag?_some hk
    rw [hy]
    cases d <;> simp [LineTag.le, h1, h2]

/-- The lines without owners keep none. -/
theorem AtLine.unowned {l : LineRef} {s t : State} (h : AtLine l s t) {d : Die}
    (hs : ∀ x ∈ (s.die d).tags, x.line ≠ l → x.owner = none) : ∀ y ∈ (t.die d).tags, y.line ≠ l → y.owner = none := by
  intro y hy hne
  obtain ⟨i, hi, rfl⟩ := List.mem_iff_getElem.mp hy
  have hall := h.tags d
  have hlen := hall.length_eq
  obtain ⟨hline, -, -, hsame⟩ := (List.forall₂_iff_get.mp hall).2 i (hlen ▸ hi) hi
  simp only [List.get_eq_getElem] at hline hsame
  rw [hline] at hne
  rw [hsame hne]
  exact hs _ (List.getElem_mem (hlen ▸ hi)) hne

/-! ## Ways and their victims (R48) -/

/-- The tag that leaves for a line of a full set. -/
def State.victim (s : State) (l : LineRef) : Option LineTag :=
  let d := serverOf l.home
  let inSet := (s.die d).tags.filter fun t => t.home != .host && sliceOf t.line == sliceOf l && setOf t.line == setOf l
  let idle (t : LineTag) : Bool := t.leK ≤ s.now d && t.leA ≤ s.now d
  if inSet.length < 16 then none
  else (inSet.find? fun t => idle t && t.owner.isNone) <|> (inSet.find? idle) <|> inSet.head?

/-- The state once a victim has left: its lease ends go into the fold register of the set. -/
def State.leave (s : State) (l : LineRef) (t : LineTag) : State :=
  let d := serverOf l.home
  let x := s.die d
  let lost (f : Flaw) : Flaw := if f.at_ = .l2 t.line then { f with at_ := .dram t.line } else f
  { s.setDie d { x with tags := x.tags.filter fun y => !(y.home == t.home && y.la == t.la)
                        folds := foldIn x.folds (sliceOf l).slice (setOf l) t } with
    flaws := if t.dirty then s.flaws.map lost else s.flaws.filter fun f => f.at_ != .l2 t.line }

theorem evict_none {s : State} {l : LineRef} (h : s.victim l = none) : s.evict l = s := by
  unfold State.victim at h
  unfold State.evict
  dsimp only at h ⊢
  split at h
  next hlt => exact if_pos hlt
  next hge => rw [if_neg hge, h]

theorem evict_some {s : State} {l : LineRef} {t : LineTag} (h : s.victim l = some t) : s.evict l = (s.recall t.line).leave l t := by
  unfold State.victim at h
  unfold State.evict
  dsimp only at h ⊢
  split at h
  next => cases h
  next hge =>
    rw [if_neg hge, h]
    rfl

theorem die_sliceOf (l : LineRef) : (sliceOf l).die = serverOf l.home := by
  unfold sliceOf
  split
  next h => exact h.symm
  next h => exact h.symm

theorem mem_of_victim {s : State} {l : LineRef} {t : LineTag} (h : s.victim l = some t) : t ∈ (s.die (serverOf l.home)).tags ∧ serverOf t.home = serverOf l.home := by
  unfold State.victim at h
  dsimp only at h
  split at h
  next => cases h
  next =>
    have hmem : t ∈ (s.die (serverOf l.home)).tags.filter fun t => t.home != .host && sliceOf t.line == sliceOf l && setOf t.line == setOf l := by
      simp only [Option.orElse_eq_orElse, Option.orElse_eq_or, Option.or_eq_some_iff] at h
      rcases h with h | ⟨-, h | ⟨-, h⟩⟩
      · exact List.mem_of_find?_eq_some h
      · exact List.mem_of_find?_eq_some h
      · exact List.mem_of_mem_head? h
    obtain ⟨hin, hp⟩ := List.mem_filter.mp hmem
    simp only [Bool.and_eq_true, beq_iff_eq] at hp
    exact ⟨hin, by rw [← die_sliceOf l, ← hp.1.2, die_sliceOf]; rfl⟩

@[simp] theorem mem_leave (s : State) (l : LineRef) (t : LineTag) (h : Home) : (s.leave l t).mem h = s.mem h := by
  cases h <;> simp [State.leave, State.mem]

@[simp] theorem ws_leave (s : State) (l : LineRef) (t : LineTag) (d : Die) : (s.leave l t).ws d = s.ws d := by
  cases d <;> simp [State.leave, State.ws]

theorem die_leave (s : State) (l : LineRef) (t : LineTag) (d : Die) : (s.leave l t).die d = (s.setDie (serverOf l.home)
    { s.die (serverOf l.home) with
      tags := (s.die (serverOf l.home)).tags.filter fun y => !(y.home == t.home && y.la == t.la)
      folds := foldIn (s.die (serverOf l.home)).folds (sliceOf l).slice (setOf l) t }).die d := by
  cases d <;> rfl

theorem now_setDie (s : State) {d : Die} {x : DieState} (h : x.ptime = (s.die d).ptime) (e : Die) : (s.setDie d x).now e = s.now e := by
  rcases eq_or_ne e d with rfl | hne
  · simp [State.now, h]
  · simp [State.now, State.die_setDie_ne s x hne]

@[simp] theorem now_leave (s : State) (l : LineRef) (t : LineTag) (d : Die) : (s.leave l t).now d = s.now d := by
  unfold State.now
  rw [die_leave]
  exact now_setDie s (d := serverOf l.home) (x := { s.die (serverOf l.home) with
      tags := (s.die (serverOf l.home)).tags.filter fun y => !(y.home == t.home && y.la == t.la)
      folds := foldIn (s.die (serverOf l.home)).folds (sliceOf l).slice (setOf l) t }) rfl d

theorem ctx_leave (s : State) (l : LineRef) (t : LineTag) (n : Nat) : (s.leave l t).ctx n = s.ctx n := by
  unfold State.ctx State.leave
  simp

theorem tag?_leave {s : State} {l : LineRef} (h : s.tag? l = none) (t : LineTag) : (s.leave l t).tag? l = none := by
  rw [tag?_eq_none] at h ⊢
  rw [die_leave, State.die_setDie]
  exact fun x hx => h x (List.mem_filter.mp hx).1

/-- A fold register only rises as it takes a victim's lease ends in. -/
theorem find?_foldIn (fs : List FoldReg) (slice set : Nat) (t : LineTag) : ∃ g, (foldIn fs slice set t).find? (fun x => x.slice == slice && x.set == set) = some g
    ∧ ∀ f, fs.find? (fun x => x.slice == slice && x.set == set) = some f → f.leK ≤ g.leK ∧ f.leA ≤ g.leA := by
  unfold foldIn
  split
  next h =>
    induction fs with
    | nil => simp at h
    | cons a fs ih =>
      unfold updFirst
      cases ha : (a.slice == slice && a.set == set) with
      | true =>
        rw [if_pos rfl, List.find?_cons, List.find?_cons, ha]
        exact ⟨_, rfl, fun f hf => Option.some.inj hf ▸ ⟨Nat.le_max_left .., Nat.le_max_left ..⟩⟩
      | false =>
        rw [if_neg (by simp), List.find?_cons, List.find?_cons, ha]
        exact ih (by simpa [ha] using h)
  next h =>
    have hnone : fs.find? (fun x => x.slice == slice && x.set == set) = none := by simpa [List.find?_eq_none] using h
    refine ⟨_, by rw [List.find?_append, hnone]; simp; rfl, fun f hf => by rw [hnone] at hf; cases hf⟩

/-- A line's fresh tag starts no lower once a victim has left its set. -/
theorem freshTag_leave (s : State) (l : LineRef) (t : LineTag) (d : Die) : (s.freshTag l).le d ≤ ((s.leave l t).freshTag l).le d := by
  obtain ⟨g, hg, hle⟩ := find?_foldIn (s.die (serverOf l.home)).folds (sliceOf l).slice (setOf l) t
  unfold State.freshTag
  rw [die_leave, State.die_setDie]
  dsimp only
  rw [hg]
  cases hf : (s.die (serverOf l.home)).folds.find? (fun x => x.slice == (sliceOf l).slice && x.set == setOf l) with
  | none => cases l.home <;> cases d <;> simp [LineTag.le]
  | some f =>
    obtain ⟨hk, ha⟩ := hle f hf
    cases l.home <;> cases d <;> simp [LineTag.le, hk, ha]

/-! ## Tags held and changed -/

/-- The state in which a line that its slice does not hold takes a way. -/
def State.wayFor (s : State) (l : LineRef) : State := if l.home = .host then s else s.evict l

theorem holdTag_some {s : State} {l : LineRef} {t : LineTag} (h : s.tag? l = some t) : s.holdTag l = s := by
  unfold State.holdTag
  rw [h]

theorem holdTag_none {s : State} {l : LineRef} (h : s.tag? l = none) : s.holdTag l = (s.wayFor l).setDie (serverOf l.home)
    { (s.wayFor l).die (serverOf l.home) with tags := ((s.wayFor l).die (serverOf l.home)).tags ++ [(s.wayFor l).freshTag l] } := by
  unfold State.holdTag
  rw [h]
  rfl

theorem line_freshTag (s : State) (l : LineRef) : (s.freshTag l).line = l := by
  unfold State.freshTag LineTag.line
  dsimp only
  cases l
  split <;> rfl

theorem tag?_wayFor {s : State} {l : LineRef} (h : s.tag? l = none) : (s.wayFor l).tag? l = none := by
  unfold State.wayFor
  split
  · exact h
  · cases hv : s.victim l with
    | none => rw [evict_none hv, h]
    | some t =>
      rw [evict_some hv]
      exact tag?_leave ((AtLine.recall t.line s).tag?_none h) t

/-- A line's fresh tag starts no lower once a way has been made free for it. -/
theorem freshTag_wayFor (s : State) (l : LineRef) (d : Die) : (s.freshTag l).le d ≤ ((s.wayFor l).freshTag l).le d := by
  unfold State.wayFor
  split
  · exact Nat.le_refl _
  · cases hv : s.victim l with
    | none => rw [evict_none hv]
    | some t =>
      rw [evict_some hv, ← (AtLine.recall t.line s).freshTag l]
      exact freshTag_leave ..

theorem tag?_holdTag_none {s : State} {l : LineRef} (h : s.tag? l = none) : (s.holdTag l).tag? l = some ((s.wayFor l).freshTag l) := by
  have hnone := tag?_wayFor h
  have hl := line_freshTag (s.wayFor l) l
  have hhome : ((s.wayFor l).freshTag l).home = l.home := congrArg LineRef.home hl
  have hla : ((s.wayFor l).freshTag l).la = l.la := congrArg LineRef.la hl
  rw [holdTag_none h]
  unfold State.tag? at hnone ⊢
  rw [State.die_setDie, List.find?_append, hnone]
  simp [hhome, hla]

/-- A line that its slice holds has the tag it had, or a fresh one. -/
theorem tag?_holdTag (s : State) (l : LineRef) : ∃ x, (s.holdTag l).tag? l = some x := by
  cases h : s.tag? l with
  | none => exact ⟨_, tag?_holdTag_none h⟩
  | some t => exact ⟨t, by rw [holdTag_some h, h]⟩

theorem le_holdTag (s : State) (l : LineRef) (d : Die) : (s.tag l).le d ≤ ((s.holdTag l).tag l).le d := by
  cases h : s.tag? l with
  | none =>
    unfold State.tag
    rw [tag?_holdTag_none h, h]
    exact freshTag_wayFor s l d
  | some t => rw [holdTag_some h]

/-- The tag of a line that its slice holds, once it has been changed. -/
theorem tag?_onTag {s : State} {l : LineRef} {f : LineTag → LineTag} (hf : ∀ x, (f x).line = x.line) {x : LineTag} (h : s.tag? l = some x) :
    (s.onTag l f).tag? l = some (f x) := by
  have key : ∀ ts : List LineTag, ts.find? (fun t => t.home == l.home && t.la == l.la) = some x →
      (updFirst (fun t => t.home == l.home && t.la == l.la) f ts).find? (fun t => t.home == l.home && t.la == l.la) = some (f x) := by
    intro ts
    induction ts with
    | nil => intro h; cases h
    | cons a ts ih =>
      intro h
      unfold updFirst
      rw [List.find?_cons] at h
      cases ha : (a.home == l.home && a.la == l.la) with
      | true =>
        rw [ha] at h
        obtain rfl := Option.some.inj h
        have hl := hf a
        simp only [LineTag.line, LineRef.mk.injEq] at hl
        rw [if_pos rfl, List.find?_cons, hl.1, hl.2, ha]
      | false =>
        rw [ha] at h
        rw [if_neg (by simp), List.find?_cons, ha]
        exact ih h
  unfold State.onTag State.tag?
  dsimp only
  rw [State.die_setDie]
  exact key _ h

theorem tag?_putTag (s : State) (l : LineRef) {f : LineTag → LineTag} (hf : ∀ x, (f x).line = x.line) :
    (s.putTag l f).tag? l = some (f ((s.holdTag l).tag l)) := by
  obtain ⟨x, hx⟩ := tag?_holdTag s l
  unfold State.putTag
  rw [tag?_onTag hf hx]
  simp [State.tag, hx]

theorem mem_onTag (s : State) (l : LineRef) (f : LineTag → LineTag) (h : Home) : (s.onTag l f).mem h = s.mem h := State.mem_setDie ..

theorem ws_onTag (s : State) (l : LineRef) (f : LineTag → LineTag) (d : Die) : (s.onTag l f).ws d = s.ws d := State.ws_setDie ..

theorem now_onTag (s : State) (l : LineRef) (f : LineTag → LineTag) (d : Die) : (s.onTag l f).now d = s.now d := by
  unfold State.onTag
  exact now_setDie s (by rfl) d

theorem ctx_onTag (s : State) (l : LineRef) (f : LineTag → LineTag) (n : Nat) : (s.onTag l f).ctx n = s.ctx n := by simp [State.onTag, State.ctx]

theorem now_wayFor (s : State) (l : LineRef) (d : Die) : (s.wayFor l).now d = s.now d := by
  unfold State.wayFor
  split
  · rfl
  · cases hv : s.victim l with
    | none => rw [evict_none hv]
    | some t => rw [evict_some hv, now_leave, (AtLine.recall t.line s).now]

theorem now_holdTag (s : State) (l : LineRef) (d : Die) : (s.holdTag l).now d = s.now d := by
  cases h : s.tag? l with
  | none =>
    rw [holdTag_none h, ← now_wayFor s l d]
    exact now_setDie _ (by rfl) d
  | some t => rw [holdTag_some h]

theorem now_putTag (s : State) (l : LineRef) (f : LineTag → LineTag) (d : Die) : (s.putTag l f).now d = s.now d := by
  unfold State.putTag
  rw [now_onTag, now_holdTag]

/-- The descriptors of contexts stand as a line is held. -/
theorem desc_holdTag {s : State} {n : Nat} {c : Context} (l : LineRef) (h : s.ctx n = some c) :
    ∃ c', (s.holdTag l).ctx n = some c' ∧ c'.desc = c.desc := by
  cases ht : s.tag? l with
  | some t => exact ⟨c, by rw [holdTag_some ht, h], rfl⟩
  | none =>
    have hway : ∃ c', (s.wayFor l).ctx n = some c' ∧ c'.desc = c.desc := by
      unfold State.wayFor
      split
      · exact ⟨c, h, rfl⟩
      · cases hv : s.victim l with
        | none => exact ⟨c, by rw [evict_none hv, h], rfl⟩
        | some t =>
          rw [evict_some hv, ctx_leave]
          exact (AtLine.recall t.line s).desc n c h
    obtain ⟨c', hc', hd⟩ := hway
    exact ⟨c', by rw [holdTag_none ht]; simpa [State.ctx] using hc', hd⟩

/-! ## A request at a line's home (R88, R132) -/

/-- The state in which a line's home has recalled the line and counted a request for it. -/
def State.asked (s : State) (l : LineRef) (req : Die) (ctx va : Nat) (leaf : DWord) : State := (s.recall l).countAccess ctx va leaf req

theorem AtLine.asked (l : LineRef) (s : State) (req : Die) (ctx va : Nat) (leaf : DWord) : AtLine l s (s.asked l req ctx va leaf) :=
  (AtLine.recall l s).trans (.countAccess l ..)

theorem finishHalf_quiet {s : State} {l : LineRef} (h : l.home = .host → (s.crucible (sliceOf l)).half = none) : s.finishHalf l = s := by
  unfold State.finishHalf
  split
  next => rfl
  next hh =>
    dsimp only
    rw [h (by simpa using hh)]

theorem atHome_host {s : State} {l : LineRef} (h : l.home = .host) (hq : (s.crucible (sliceOf l)).half = none) (req : Die) (ctx va : Nat)
    (leaf : DWord) (dirty : Bool) : s.atHome l req ctx va leaf dirty = s.asked l req ctx va leaf := by
  unfold State.atHome
  rw [finishHalf_quiet fun _ => hq]
  exact if_pos h

theorem atHome_member {s : State} {l : LineRef} (h : l.home ≠ .host) (req : Die) (ctx va : Nat) (leaf : DWord) (dirty : Bool) :
    s.atHome l req ctx va leaf dirty = (s.asked l req ctx va leaf).putTag l fun t => { t with dirty := t.dirty || dirty } := by
  unfold State.atHome
  rw [finishHalf_quiet fun hh => absurd hh h]
  exact if_neg h

/-! ## Leases (R28, R86, R87, R89) -/

theorem le_raise (t : LineTag) (req d : Die) (e : Nat) : t.le d ≤ (t.raise req e).le d := by
  cases req <;> cases d <;> simp [LineTag.raise, LineTag.le]

theorem le_raise_self (t : LineTag) (req : Die) (e : Nat) : e ≤ (t.raise req e).le req := by
  cases req <;> simp [LineTag.raise, LineTag.le]

theorem line_raise (req : Die) (e : Nat) (t : LineTag) : (t.raise req e).line = t.line := by cases req <;> rfl

/-- The tag of a line that its slice holds stands as it is held again. -/
theorem putTag_held {s : State} {l : LineRef} {x : LineTag} (h : s.tag? l = some x) (f : LineTag → LineTag) : s.putTag l f = s.onTag l f := by
  unfold State.putTag
  rw [holdTag_some h]

/-- A write completes no earlier than a lease of its line. -/
theorem le_gwct (s : State) (l : LineRef) (req q : Die) : (s.tag l).le req ≤ (s.gwct l req).1 ∧ (s.tag l).le req ≤ (s.gwct l q).2 := by
  unfold State.gwct
  dsimp only
  constructor
  · omega
  · cases req <;> simp only [LineTag.le] <;> omega

theorem homeRead_coherent (s : State) (l : LineRef) (req : Die) (ctx va : Nat) {leaf : DWord} (h : leafCls leaf = .coherent) :
    let u := s.atHome l req ctx va leaf false
    let le := u.now (serverOf l.home) + leaseLen u ctx (decide (l.home = .host) || req != serverOf l.home)
    s.homeRead l req ctx va leaf = (u.putTag l fun t => t.raise req le, Memory.readN (u.mem l.home) (l.la * 128) 128, le) := by
  unfold State.homeRead
  dsimp only
  rw [if_pos h]

/-- What a request leaves at the home of a member's line: the clocks, the descriptors, a tag whose lease ends have not fallen. -/
theorem atHome_tag (s : State) {l : LineRef} (h : l.home ≠ .host) (req : Die) (ctx va : Nat) (leaf : DWord) (dirty : Bool) :
    ∃ x, (s.atHome l req ctx va leaf dirty).tag? l = some x ∧ ∀ d, (s.tag l).le d ≤ x.le d := by
  rw [atHome_member h]
  refine ⟨_, tag?_putTag _ l fun _ => rfl, fun d => ?_⟩
  have hle := le_holdTag (s.asked l req ctx va leaf) l d
  rw [(AtLine.asked l s req ctx va leaf).le] at hle
  cases d <;> exact hle

theorem now_atHome (s : State) {l : LineRef} (h : l.home ≠ .host) (req : Die) (ctx va : Nat) (leaf : DWord) (dirty : Bool) (d : Die) :
    (s.atHome l req ctx va leaf dirty).now d = s.now d := by
  rw [atHome_member h, now_putTag, (AtLine.asked l s req ctx va leaf).now]

theorem desc_atHome {s : State} {l : LineRef} (h : l.home ≠ .host) (req : Die) (ctx va : Nat) (leaf : DWord) (dirty : Bool) {n : Nat} {c : Context}
    (hc : s.ctx n = some c) : ∃ c', (s.atHome l req ctx va leaf dirty).ctx n = some c' ∧ c'.desc = c.desc := by
  rw [atHome_member h]
  obtain ⟨c₁, h₁, hd₁⟩ := (AtLine.asked l s req ctx va leaf).desc n c hc
  obtain ⟨c₂, h₂, hd₂⟩ := desc_holdTag l h₁
  exact ⟨c₂, by rw [State.putTag, ctx_onTag, h₂], hd₂.trans hd₁⟩

/-- Settles O47: the line is held at its home, its tag raised by the lease that is handed out. -/
theorem leasesBindWrites : Obligations.LeasesBindWrites := by
  unfold Obligations.LeasesBindWrites
  intro s l req ctx va leaf hcls hhome r
  obtain ⟨x, hx, hle⟩ := atHome_tag s hhome req ctx va leaf false
  have hr := homeRead_coherent s l req ctx va hcls
  dsimp only at hr
  rw [putTag_held hx] at hr
  have htag := tag?_onTag (f := fun t => t.raise req r.2.2) (fun t => line_raise req _ t) hx
  have hr1 : r.1 = (s.atHome l req ctx va leaf false).onTag l fun t => t.raise req r.2.2 := by rw [show r = _ from hr]
  have hr2 : r.1.tag l = x.raise req r.2.2 := by rw [hr1, State.tag, htag]; rfl
  have hself : r.2.2 ≤ (r.1.tag l).le req := hr2 ▸ le_raise_self x req _
  refine ⟨fun c hc => ?_, fun d => ?_, ?_, hself, ?_, fun q => ?_⟩
  · obtain ⟨c', hc', hd⟩ := desc_atHome hhome req ctx va leaf false hc
    rw [show r = _ from hr]
    dsimp only
    rw [now_atHome s hhome]
    unfold leaseLen
    rw [hc']
    by_cases hreq : req = serverOf l.home <;> simp [hd, hreq, hhome]
  · rw [hr2]
    exact (hle d).trans (le_raise ..)
  · rw [show r = _ from hr]
    dsimp only
    rw [mem_onTag]
  · exact hself.trans (le_gwct r.1 l req req).1
  · exact hself.trans (le_gwct r.1 l req q).2

/-! ## Writes at the home (R87) -/

/-- Where no other line of its slice has an owner, a line is held with nothing else done to memories and weight stores. -/
theorem holdTag_quiet {s : State} {l : LineRef} (h : ∀ t ∈ (s.die (serverOf l.home)).tags, t.line ≠ l → t.owner = none) :
    (∀ k, (s.holdTag l).mem k = s.mem k) ∧ ∀ d, (s.holdTag l).ws d = s.ws d := by
  cases ht : s.tag? l with
  | some t => rw [holdTag_some ht]; exact ⟨fun _ => rfl, fun _ => rfl⟩
  | none =>
    have hway : (∀ k, (s.wayFor l).mem k = s.mem k) ∧ ∀ d, (s.wayFor l).ws d = s.ws d := by
      unfold State.wayFor
      split
      · exact ⟨fun _ => rfl, fun _ => rfl⟩
      · cases hv : s.victim l with
        | none => rw [evict_none hv]; exact ⟨fun _ => rfl, fun _ => rfl⟩
        | some t =>
          obtain ⟨-, hserver⟩ := mem_of_victim hv
          have hother : ∀ x, s.tag? t.line = some x → x.owner = none := fun x hx => by
            have hin := mem_of_tag? hx
            rw [show serverOf t.line.home = serverOf l.home from hserver] at hin
            exact h x hin (tag?_eq_none.mp ht x hin)
          rw [evict_some hv, recall_unowned hother]
          exact ⟨fun k => mem_leave .., fun d => ws_leave ..⟩
    rw [holdTag_none ht]
    exact ⟨fun k => (State.mem_setDie ..).trans (hway.1 k), fun d => (State.ws_setDie ..).trans (hway.2 d)⟩

/-- What a request at a line's home leaves where no batch stands half performed and no other line has an owner. -/
theorem atHome_quiet {s : State} {l : LineRef} (hq : l.home = .host → (s.crucible (sliceOf l)).half = none)
    (ho : ∀ t ∈ (s.die (serverOf l.home)).tags, t.line ≠ l → t.owner = none) (req : Die) (ctx va : Nat) (leaf : DWord) (dirty : Bool) :
    let u := s.atHome l req ctx va leaf dirty
    (∀ h a, ¬ inLine l h a → Memory.read (u.mem h) a = Memory.read (s.mem h) a) ∧ (∀ d, u.ws d = s.ws d) ∧ ∀ d, u.now d = s.now d := by
  have ha := AtLine.asked l s req ctx va leaf
  by_cases hh : l.home = .host
  · rw [atHome_host hh (hq hh)]
    exact ⟨ha.mem, ha.ws, ha.now⟩
  · obtain ⟨hmem, hws⟩ := holdTag_quiet (ha.unowned ho)
    rw [atHome_member hh]
    refine ⟨fun h a hout => ?_, fun d => ?_, fun d => ?_⟩
    · rw [State.putTag, mem_onTag, hmem, ha.mem h a hout]
    · rw [State.putTag, ws_onTag, hws, ha.ws]
    · rw [now_putTag, ha.now]

theorem putBytes_plain (bs : List Byte) : ∀ (m : Memory) (a : Nat), putBytes false m a bs = Memory.writeN m a bs := by
  induction bs with
  | nil => exact fun _ _ => rfl
  | cons b t ih => exact fun m a => ih _ _

/-- Pieces written one after another leave every byte outside them. -/
theorem read_pieces_out {x : Nat} : ∀ (ws : List (Nat × List Byte)) (m : Memory), (∀ q ∈ ws, ¬ (q.1 ≤ x ∧ x < q.1 + q.2.length)) →
    Memory.read (ws.foldl (fun m w => Memory.writeN m w.1 w.2) m) x = Memory.read m x
  | [], _, _ => rfl
  | q :: t, m, h => by
    have hq := h q (List.mem_cons_self ..)
    exact (read_pieces_out t _ fun r hr => h r (List.mem_cons_of_mem _ hr)).trans (Memory.read_writeN_out _ _ _ _ (by omega))

/-- The last piece that gives a byte is read back. -/
theorem read_pieces_in (pre post : List (Nat × List Byte)) (p : Nat × List Byte) (m : Memory) {k : Nat} (hk : k < p.2.length)
    (hpost : ∀ q ∈ post, ¬ (q.1 ≤ p.1 + k ∧ p.1 + k < q.1 + q.2.length)) :
    Memory.read ((pre ++ p :: post).foldl (fun m w => Memory.writeN m w.1 w.2) m) (p.1 + k) = nth p.2 k 0 := by
  rw [List.foldl_append, List.foldl_cons, read_pieces_out post _ hpost, Memory.read_writeN_in _ _ _ _ hk]

theorem homeWrite_plain (s : State) (l : LineRef) (req : Die) (ctx va : Nat) {leaf : DWord} (h : leafCls leaf ≠ .object) (ws : List (Nat × List Byte)) :
    let u := (s.atHome l req ctx va leaf true).touch ctx va leaf (leafPa leaf va)
    let v := u.setMem l.home (ws.foldl (fun m w => Memory.writeN m w.1 w.2) (u.mem l.home))
    s.homeWrite l req ctx va leaf ws = (v, (v.gwct l req).1, (v.gwct l req).2) := by
  have hplain : (leafCls leaf == .object) = false := by simpa using h
  unfold State.homeWrite
  dsimp only
  rw [hplain]
  simp only [putBytes_plain]

/-- The write completion times of a write: not before the home's time, the pair's not before the die's, and a skew later for a requester on the
other member. -/
theorem gwct_bounds (s : State) (l : LineRef) (req : Die) : s.now (serverOf l.home) ≤ (s.gwct l req).1 ∧ (s.gwct l req).1 ≤ (s.gwct l req).2
    ∧ (req ≠ serverOf l.home → s.now (serverOf l.home) + 40 ≤ (s.gwct l req).1) := by
  have hle : (s.tag l).le req ≤ max (s.tag l).leK (s.tag l).leA := by
    cases req
    · exact Nat.le_max_left ..
    · exact Nat.le_max_right ..
  unfold State.gwct
  dsimp only
  refine ⟨by omega, ?_, fun hreq => ?_⟩
  · by_cases hreq : req = serverOf l.home
    · simp only [hreq, bne_self_eq_false, Bool.false_eq_true, if_false] at hle ⊢
      omega
    · have hr : (req != serverOf l.home) = true := by simpa using hreq
      simp only [hr, Bool.true_or, if_true]
      omega
  · have hr : (req != serverOf l.home) = true := by simpa using hreq
    simp only [hr, if_true, skew]
    omega

/-! ## Stores to core stores at issue (R81, R92) -/

/-- What a write to a scratchpad leaves of a state. -/
structure KeepsMemory (s t : State) : Prop where
  mem : ∀ h, t.mem h = s.mem h
  ws : ∀ d, t.ws d = s.ws d
  waves : t.waves = s.waves
  pars : t.pars = s.pars

theorem KeepsMemory.trans {s t u : State} (h : KeepsMemory s t) (g : KeepsMemory t u) : KeepsMemory s u :=
  ⟨fun k => (g.mem k).trans (h.mem k), fun d => (g.ws d).trans (h.ws d), g.waves.trans h.waves, g.pars.trans h.pars⟩

theorem keepsMemory_scratchWrite (s : State) (ref : BlockRef) (ofs : Nat) (bytes : List Byte) : KeepsMemory s (s.scratchWrite ref ofs bytes) := by
  unfold State.scratchWrite
  split
  · exact ⟨fun h => by cases h <;> rfl, fun d => by cases d <;> rfl, rfl, rfl⟩
  · exact ⟨fun _ => rfl, fun _ => rfl, rfl, rfl⟩

theorem scratchRead_one (s : State) (ref : BlockRef) (b : Nat) :
    s.scratchRead ref b 1 = [((s.blockOf ref).map fun x => Memory.read x.scratch b).getD 0] := by
  unfold State.scratchRead
  cases s.blockOf ref <;> rfl

theorem blockOf_scratchWrite (s : State) (ref r : BlockRef) (ofs : Nat) (bytes : List Byte) : (s.scratchWrite ref ofs bytes).blockOf r =
    if r = ref then (s.blockOf ref).map fun x => { x with scratch := Memory.writeN x.scratch ofs bytes } else s.blockOf r := by
  unfold State.scratchWrite
  split
  next x h =>
    rw [h]
    split
    next hr =>
      subst hr
      exact State.blockOf_putBlock ..
    next hr => exact State.blockOf_putBlock_ne s _ hr
  next h =>
    rw [h]
    split
    next hr => rw [hr, h]; rfl
    next => rfl

theorem scratchRead_write_out (s : State) {ref r : BlockRef} {ofs b : Nat} {bytes : List Byte} (h : ¬ (r = ref ∧ ofs ≤ b ∧ b < ofs + bytes.length)) :
    (s.scratchWrite ref ofs bytes).scratchRead r b 1 = s.scratchRead r b 1 := by
  rw [scratchRead_one, scratchRead_one, blockOf_scratchWrite]
  split
  next hr =>
    subst hr
    cases s.blockOf r with
    | none => rfl
    | some x =>
      have hout : b < ofs ∨ ofs + bytes.length ≤ b := by
        simp only [true_and] at h
        omega
      simp [Memory.read_writeN_out _ _ _ _ hout]
  next => rfl

theorem scratchRead_write_in (s : State) {ref : BlockRef} {ofs k : Nat} {bytes : List Byte} (hb : s.blockOf ref ≠ none) (hk : k < bytes.length) :
    (s.scratchWrite ref ofs bytes).scratchRead ref (ofs + k) 1 = [nth bytes k 0] := by
  obtain ⟨x, hx⟩ := Option.ne_none_iff_exists'.mp hb
  rw [scratchRead_one, blockOf_scratchWrite, if_pos rfl, hx]
  simp [Memory.read_writeN_in _ _ _ _ hk]

theorem storeReqs_cons_scratch (s : State) (c : CoreRef) (ctx pol : Nat) (data : Nat → List Byte) {e : Nat × Nat × Place × DWord}
    {ref : BlockRef} {ofs : Nat} (he : e.2.2.1 = .scratch ref ofs) (t : List (Nat × Nat × Place × DWord)) :
    (s.storeReqs c ctx pol data (e :: t)).1 = ((s.scratchWrite ref ofs (data e.1)).storeReqs c ctx pol data t).1 := by
  obtain ⟨lane, va, p, leaf⟩ := e
  subst he
  rfl

/-- The stores of lanes to core stores leave memories, weight stores, waves and parisons. -/
theorem keepsMemory_storeReqs (c : CoreRef) (ctx pol : Nat) (data : Nat → List Byte) : ∀ (l : List (Nat × Nat × Place × DWord)) (s : State),
    (∀ e ∈ l, ∃ ref ofs, e.2.2.1 = .scratch ref ofs) → KeepsMemory s (s.storeReqs c ctx pol data l).1
  | [], _, _ => ⟨fun _ => rfl, fun _ => rfl, rfl, rfl⟩
  | e :: t, s, h => by
    obtain ⟨ref, ofs, he⟩ := h e (List.mem_cons_self ..)
    rw [storeReqs_cons_scratch s c ctx pol data he]
    exact (keepsMemory_scratchWrite ..).trans (keepsMemory_storeReqs c ctx pol data t _ fun x hx => h x (List.mem_cons_of_mem _ hx))

/-- A byte that no lane stores to is as before. -/
theorem scratchRead_storeReqs_out (c : CoreRef) (ctx pol n : Nat) (data : Nat → List Byte) {ref : BlockRef} {b : Nat} :
    ∀ (l : List (Nat × Nat × Place × DWord)) (s : State), (∀ e ∈ l, ∃ ref ofs, e.2.2.1 = .scratch ref ofs) → (∀ e ∈ l, (data e.1).length = n) →
    ¬ storedTo l n ref b → (s.storeReqs c ctx pol data l).1.scratchRead ref b 1 = s.scratchRead ref b 1
  | [], _, _, _, _ => rfl
  | e :: t, s, h, hn, hout => by
    obtain ⟨ref', ofs, he⟩ := h e (List.mem_cons_self ..)
    rw [storeReqs_cons_scratch s c ctx pol data he, scratchRead_storeReqs_out c ctx pol n data t _ (fun x hx => h x (List.mem_cons_of_mem _ hx))
      (fun x hx => hn x (List.mem_cons_of_mem _ hx)) fun ⟨x, hx, hs⟩ => hout ⟨x, List.mem_cons_of_mem _ hx, hs⟩]
    refine scratchRead_write_out s fun ⟨hr, h1, h2⟩ => hout ⟨e, List.mem_cons_self .., ofs, hr ▸ he, h1, ?_⟩
    rwa [hn e (List.mem_cons_self ..)] at h2

/-- The byte that the last lane naming it gives is read back. -/
theorem scratchRead_storeReqs_in (c : CoreRef) (ctx pol n : Nat) (data : Nat → List Byte) {ref : BlockRef} {e : Nat × Nat × Place × DWord}
    {ofs k : Nat} (he : e.2.2.1 = .scratch ref ofs) (hk : k < n) {post : List (Nat × Nat × Place × DWord)} (hpost : ¬ storedTo post n ref (ofs + k)) :
    ∀ (pre : List (Nat × Nat × Place × DWord)) (s : State), (∀ x ∈ pre ++ e :: post, ∃ ref ofs, x.2.2.1 = .scratch ref ofs) →
    (∀ x ∈ pre ++ e :: post, (data x.1).length = n) → s.blockOf ref ≠ none →
    (s.storeReqs c ctx pol data (pre ++ e :: post)).1.scratchRead ref (ofs + k) 1 = [nth (data e.1) k 0]
  | [], s, h, hn, hb => by
    rw [List.nil_append] at h hn ⊢
    rw [storeReqs_cons_scratch s c ctx pol data he, scratchRead_storeReqs_out c ctx pol n data post _ (fun x hx => h x (List.mem_cons_of_mem _ hx))
      (fun x hx => hn x (List.mem_cons_of_mem _ hx)) hpost]
    exact scratchRead_write_in s hb (by rwa [hn e (List.mem_cons_self ..)])
  | d :: pre, s, h, hn, hb => by
    rw [List.cons_append] at h hn ⊢
    obtain ⟨ref', ofs', hd⟩ := h d (List.mem_cons_self ..)
    rw [storeReqs_cons_scratch s c ctx pol data hd]
    refine scratchRead_storeReqs_in c ctx pol n data he hk hpost pre _ (fun x hx => h x (List.mem_cons_of_mem _ hx))
      (fun x hx => hn x (List.mem_cons_of_mem _ hx)) ?_
    rw [blockOf_scratchWrite]
    split
    next hr => rw [← hr]; simpa using hb
    next => exact hb

/-- Settles O23: lanes store one after another, and the pieces are written in their line once the home has it. -/
theorem storesWriteTheirBytes : Obligations.StoresWriteTheirBytes := by
  unfold Obligations.StoresWriteTheirBytes
  refine ⟨fun s c ctx pol n data l hl hn => ?_, fun s l req ctx va leaf ws hcls hq ho hws => ?_⟩
  · intro t
    obtain ⟨hmem, hws, hwaves, hpars⟩ := keepsMemory_storeReqs c ctx pol data l s hl
    refine ⟨hmem, hws, hwaves, hpars, fun ref b hout => scratchRead_storeReqs_out c ctx pol n data l s hl hn hout,
      fun pre e post ref ofs k heq he hk hpost hb => ?_⟩
    subst heq
    exact scratchRead_storeReqs_in c ctx pol n data he hk hpost pre s hl hn hb
  · intro r
    obtain ⟨hmem, hwst, hnow⟩ := atHome_quiet hq ho req ctx va leaf true
    have ht := AtLine.touch l (s.atHome l req ctx va leaf true) ctx va leaf (leafPa leaf va)
    have hr := homeWrite_plain s l req ctx va hcls ws
    have hnowr : r.1.now (serverOf l.home) = s.now (serverOf l.home) := by
      rw [show r = _ from hr]
      simp only [State.now, State.die_setMem]
      exact (ht.now _).trans (hnow _)
    obtain ⟨hb1, hb2, hb3⟩ := gwct_bounds r.1 l req
    have hg : r.2.1 = (r.1.gwct l req).1 ∧ r.2.2 = (r.1.gwct l req).2 := by
      rw [show r = _ from hr]
      exact ⟨rfl, rfl⟩
    rw [hnowr] at hb1 hb3
    rw [hg.1, hg.2]
    refine ⟨fun h a hout => ?_, fun d => ?_, fun pre p post k heq hk hpost => ?_, hb1, hb2, hb3⟩
    · rw [show r = _ from hr]
      dsimp only
      by_cases hh : h = l.home
      · subst hh
        rw [State.mem_setMem, read_pieces_out, ht.mem _ _ hout, hmem _ _ hout]
        intro q hq hin
        have := hws q hq
        exact hout ⟨rfl, by omega, by omega⟩
      · rw [State.mem_setMem_ne _ _ hh, ht.mem _ _ hout, hmem _ _ hout]
    · rw [show r = _ from hr]
      dsimp only
      rw [State.ws_setMem, ht.ws, hwst]
    · rw [show r = _ from hr]
      dsimp only
      rw [State.mem_setMem, heq]
      exact read_pieces_in pre post p _ hk hpost

end Sys2Proof.Machine

/-! Barriers, waits, tokens and the combiner wave's instructions (R93, R98, R119 to R121, R269 to R279). -/

namespace Sys2Proof.Machine

/-! ## The combiner wave (R119 to R121, R269, R270) -/

theorem slice_crucible (s : State) (r : SliceRef) : (s.crucible r).slice = r.slice := by
  unfold State.crucible
  cases h : (s.die r.die).crucibles.find? fun c => c.slice == r.slice with
  | none => rfl
  | some c => simpa using List.find?_some h

/-- The first element that a test selects, once it has been changed into one that the test selects. -/
theorem find?_updFirst_const {α : Type} {p : α → Bool} {a : α} (ha : p a = true) : ∀ {l : List α}, l.any p = true →
    (updFirst p (fun _ => a) l).find? p = some a
  | [], h => by simp at h
  | b :: t, h => by
    cases hb : p b with
    | true => simp [updFirst, hb, ha]
    | false =>
      have ht : t.any p = true := by simpa [hb] using h
      simp [updFirst, hb, find?_updFirst_const ha ht]

theorem crucible_putCrucible (s : State) {r : SliceRef} {c : Crucible} (h : c.slice = r.slice) : (s.putCrucible r c).crucible r = c := by
  have hp : (c.slice == r.slice) = true := by simpa using h
  unfold State.putCrucible State.crucible
  dsimp only
  rw [State.die_setDie]
  split
  next hany => rw [find?_updFirst_const (p := fun x : Crucible => x.slice == r.slice) hp hany]; rfl
  next hany =>
    have hnone : ((s.die r.die).crucibles.find? fun x => x.slice == r.slice) = none := by simpa [List.find?_eq_none] using hany
    rw [List.find?_append, hnone]
    simp [h]

/-- A combiner's instruction counted leaves all of its method but the count of its steps. -/
theorem counted_combiner {s : State} {c : SliceRef} (hl : s.stepsLeft (.combiner c) = true) (w : Wave) (sp : Split) :
    s.counted (.combiner c) w sp = s.putCrucible c { s.crucible c with steps := (s.crucible c).steps + 1 } := by
  have hlim : ¬ 256 ≤ (s.crucible c).steps := by simpa [State.stepsLeft] using hl
  simp only [State.counted, State.countStep, hlim, if_false]

theorem crucible_counted {s : State} {c : SliceRef} (hl : s.stepsLeft (.combiner c) = true) (w : Wave) (sp : Split) :
    (s.counted (.combiner c) w sp).crucible c = { s.crucible c with steps := (s.crucible c).steps + 1 } := by
  rw [counted_combiner hl]
  exact crucible_putCrucible s (slice_crucible s c)

theorem stage_counted {s : State} {c : SliceRef} (hl : s.stepsLeft (.combiner c) = true) (w : Wave) (sp : Split) :
    ((s.counted (.combiner c) w sp).crucible c).stage = (s.crucible c).stage := by rw [crucible_counted hl]

theorem flaws_counted {s : State} {c : SliceRef} (hl : s.stepsLeft (.combiner c) = true) (w : Wave) (sp : Split) :
    (s.counted (.combiner c) w sp).flaws = s.flaws := by
  rw [counted_combiner hl]
  unfold State.putCrucible State.setDie
  cases c.die <;> rfl

/-- A lane's entry in a table of the listed lanes that a function answers for. -/
theorem look_filterMap_lanes {α : Type} (g : Nat → Option α) (l : Nat) : ∀ ls : List Nat,
    look l ((ls.map fun k => (k, g k)).filterMap fun e => e.2.map fun o => (e.1, o)) = if l ∈ ls then g l else none
  | [] => rfl
  | k :: t => by
    have ih := look_filterMap_lanes g l t
    rw [List.map_cons, List.filterMap_cons]
    cases hg : g k with
    | none =>
      simp only [Option.map_none, ih, List.mem_cons]
      by_cases hk : l = k
      · subst hk; simp [hg]
      · simp [hk]
    | some o =>
      simp only [Option.map_some, look, ih, List.mem_cons]
      by_cases hk : l = k
      · subst hk; simp [hg]
      · simp [hk, Ne.symm hk]

/-- A fold over the lanes that a function answers for, where it answers for all of them. -/
theorem foldl_filterMap_lanes {α β : Type} (g : Nat → Option α) (h : β → Nat → α → β) (d : α) : ∀ (ls : List Nat) (b : β), (∀ l ∈ ls, g l ≠ none) →
    ((ls.map fun k => (k, g k)).filterMap fun e => e.2.map fun o => (e.1, o)).foldl (fun b e => h b e.1 e.2) b =
      ls.foldl (fun b l => h b l ((g l).getD d)) b
  | [], _, _ => rfl
  | k :: t, b, hall => by
    obtain ⟨o, ho⟩ := Option.ne_none_iff_exists'.mp (hall k (List.mem_cons_self ..))
    rw [List.map_cons, List.filterMap_cons, ho]
    simp only [Option.map_some, List.foldl_cons, ho, Option.getD_some]
    exact foldl_filterMap_lanes g h d t _ fun l hl => hall l (List.mem_cons_of_mem _ hl)

theorem perLane_congr {α : Type} {f g : Nat → α} (h : ∀ l, l < 32 → f l = g l) : perLane f = perLane g :=
  List.map_congr_left fun l hl => h l (List.mem_range.mp hl)

/-- OLD and OST where every executing lane's offset lies in STATE. -/
theorem stageWave_inside {f : Form} {x : MForm} {go : State → SliceRef → Crucible → List (Nat × Nat) → State} {s : State} {c : SliceRef} {w : Wave}
    {sp : Split} {at_ : Nat → Option Nat} (hf : s.flaws = [])
    (hat : ∀ l, stageOfs (s.crucible c).stage (w.operands (s.formFile ⟨c.die, 0⟩) f l).a0 x.ofs.toInt (typeBytes x.ml.toNat) = at_ l)
    (hall : ∀ l ∈ lanesOf (w.exec sp f), at_ l ≠ none) :
    stageWave f x go s (.combiner c) w sp = go s c (s.crucible c) (((lanesOf (w.exec sp f)).map fun l => (l, at_ l)).filterMap
      fun e => e.2.map fun o => (e.1, o)) := by
  have hsome : (((lanesOf (w.exec sp f)).map fun l => (l, at_ l)).any fun e => e.2.isNone) = false := by
    simpa using fun l hl h => hall l hl (by simpa using h)
  unfold stageWave
  dsimp only [State.stageOf, coreOf]
  simp only [hat]
  rw [hsome, if_neg (by simp), engineFlaw_none hf]

/-- OLD and OST where some executing lane's offset does not lie in STATE. -/
theorem stageWave_outside {f : Form} {x : MForm} {go : State → SliceRef → Crucible → List (Nat × Nat) → State} {s : State} {c : SliceRef} {w : Wave}
    {sp : Split} {at_ : Nat → Option Nat}
    (hat : ∀ l, stageOfs (s.crucible c).stage (w.operands (s.formFile ⟨c.die, 0⟩) f l).a0 x.ofs.toInt (typeBytes x.ml.toNat) = at_ l)
    (hex : ∃ l ∈ lanesOf (w.exec sp f), at_ l = none) : stageWave f x go s (.combiner c) w sp = s.failBatch c .stateRange sp.pos.pc := by
  obtain ⟨l, hl, hnone⟩ := hex
  unfold stageWave
  dsimp only [State.stageOf, coreOf]
  simp only [hat]
  rw [if_pos (List.any_eq_true.mpr ⟨_, List.mem_map.mpr ⟨l, hl, rfl⟩, by rw [hnone]; rfl⟩)]

/-- An instruction of a method that has run 256 fails its batch. -/
theorem runInstr_limit {s : State} {f : Form} {c : SliceRef} {w : Wave} {sp : Split} (hcur : s.cur = .combiner c)
    (hact : s.actorOf (.combiner c) = some (.wave (.combiner c) w sp)) (hgo : gate (.wave (.combiner c) w sp) f = .go) (hf : s.flaws = [])
    (hlim : 256 ≤ (s.crucible c).steps) (e : Effect) : runInstr f e s = .next (s.failBatch c .stepLimit sp.pos.pc) := by
  simp [runInstr, State.actor, hcur, hact, hgo, State.softAt, hf, State.countStep, hlim]

/-- Settles O29: the staging copy is that of the counted method, which the count does not touch. -/
theorem combinerInstructionsComplete : Obligations.CombinerInstructionsComplete := by
  unfold Obligations.CombinerInstructionsComplete
  refine ⟨fun x s c w sp hr => ?_, fun x s c w sp hr => ?_, fun x s c w sp hr => ?_, fun x s c w sp hr => ?_,
    fun i hi s c w sp hcur hact hgo hf hlim => ?_⟩
  · intro f t n stage at_
    have ⟨_, _, _, hl, hf⟩ := hr
    have hstage : (t.crucible c).stage = stage := stage_counted hl w sp
    have hfl : t.flaws = [] := (flaws_counted hl w sp).trans hf
    have hat : ∀ l, stageOfs (t.crucible c).stage (w.operands (t.formFile ⟨c.die, 0⟩) f l).a0 x.ofs.toInt n = at_ l := fun l => by rw [hstage]
    refine ⟨fun hall => ?_, fun hex => ?_⟩
    all_goals refine (runInstr_wave hr _).trans (congrArg _ ?_)
    · dsimp only
      refine (stageWave_inside hfl hat hall).trans ?_
      simp only [look_filterMap_lanes]
      refine congrArg (fun out => t.finishWave (.combiner c) ((w.release f.lastReads).writeDst (t.formFile ⟨c.die, 0⟩) (w.exec sp f) out f.vwrites 0) sp f)
        (perLane_congr fun l hl32 => ?_)
      by_cases hm : (w.exec sp f).getLsbD l = true
      · have hin : l ∈ lanesOf (w.exec sp f) := mem_lanesOf.mpr ⟨hl32, hm⟩
        obtain ⟨o, ho⟩ := Option.ne_none_iff_exists'.mp (hall l hin)
        rw [if_pos hin, if_pos hm, ho, hstage]
        rfl
      · have hout : l ∉ lanesOf (w.exec sp f) := fun h => hm (mem_lanesOf.mp h).2
        rw [if_neg hout, if_neg hm]
    · dsimp only
      exact stageWave_outside hat hex
  · intro f t stage ops at_ u hall
    have ⟨_, _, _, hl, hf⟩ := hr
    have hstage : (t.crucible c).stage = stage := stage_counted hl w sp
    have hfl : t.flaws = [] := (flaws_counted hl w sp).trans hf
    have hat : ∀ l, stageOfs (t.crucible c).stage (w.operands (t.formFile ⟨c.die, 0⟩) f l).a0 x.ofs.toInt (typeBytes x.ml.toNat) = at_ l :=
      fun l => by rw [hstage]
    refine (runInstr_wave hr _).trans (congrArg _ ?_)
    dsimp only
    refine (stageWave_inside hfl hat hall).trans ?_
    refine congrArg (fun st => u.putCrucible c { u.crucible c with stage := st }) ?_
    rw [hstage]
    exact foldl_filterMap_lanes at_ (fun st l o => patch st o (storeBytes x.ml.toNat (ops l).b)) 0 _ _ hall
  · intro f t k u words
    have ⟨_, _, _, hl, hf⟩ := hr
    refine (runInstr_wave hr _).trans (congrArg _ ?_)
    have hk := crucible_counted hl w sp
    dsimp only [State.stageOf]
    rw [hk]
    rfl
  · exact runInstr_wave hr _
  · obtain ⟨x, rfl | rfl⟩ := hi <;> exact runInstr_limit hcur hact hgo hf hlim _

/-! ## What a release leaves free of soft errors (R51, R84, R364) -/

@[simp] theorem flaws_faultNote (s : State) (ctx : Nat) (d : Die) (kind : Nat) (sub : BitVec 8) (node va : Nat) :
    (s.faultNote ctx d kind sub node va).flaws = s.flaws := by
  unfold State.faultNote State.faultEntry
  split <;> rfl

@[simp] theorem flaws_epochsFull (s : State) (c : Context) (d : Die) : (s.epochsFull c d).flaws = s.flaws := flaws_faultNote ..

@[simp] theorem flaws_touch (s : State) (ctx va : Nat) (leaf : DWord) (pa : Nat) : (s.touch ctx va leaf pa).flaws = s.flaws := by
  unfold State.touch
  split
  next => rfl
  next =>
    split
    next => rfl
    next =>
      dsimp only
      split
      next => split <;> rfl
      next =>
        split
        next => rfl
        next =>
          split
          next => rfl
          next =>
            split
            · exact flaws_epochsFull ..
            · rfl
      next => rfl

@[simp] theorem flaws_wantMove (s : State) (ctx va : Nat) (leaf : DWord) (dst : Die) : (s.wantMove ctx va leaf dst).flaws = s.flaws := by
  unfold State.wantMove
  dsimp only
  split <;> rfl

theorem flaws_ite {p : Prop} [Decidable p] {s t u : State} (ht : t.flaws = s.flaws) (hu : u.flaws = s.flaws) : (if p then t else u).flaws = s.flaws := by
  split
  · exact ht
  · exact hu

@[simp] theorem flaws_countAccess (s : State) (ctx va : Nat) (leaf : DWord) (req : Die) : (s.countAccess ctx va leaf req).flaws = s.flaws := by
  unfold State.countAccess
  split
  next => rfl
  next => exact flaws_ite ((flaws_wantMove ..).trans (State.setDie_flaws ..)) (State.setDie_flaws ..)

@[simp] theorem flaws_onTag (s : State) (l : LineRef) (f : LineTag → LineTag) : (s.onTag l f).flaws = s.flaws := State.setDie_flaws ..

@[simp] theorem flaws_l1Del (s : State) (c : CoreRef) (l : LineRef) : (s.l1Del c l).flaws = s.flaws := State.setDie_flaws ..

@[simp] theorem flaws_request (s : State) (d : Die) (f : ReqFor) (m : Msg) : (s.request d f m).flaws = s.flaws := by
  unfold State.request
  exact flaws_ite rfl ((State.setDie_flaws ..).trans (State.setDie_flaws ..))

@[simp] theorem flaws_writeFar (s : State) (d : Die) (f : Nat → ReqFor) (ctx va : Nat) (ws : List (Nat × List Byte)) :
    (s.writeFar d f ctx va ws).flaws = s.flaws := flaws_request ..

@[simp] theorem flaws_putBack (s : State) (d : Die) (x : L1Line) : (s.putBack d x).flaws = s.flaws := by
  unfold State.putBack
  exact flaws_ite (flaws_writeFar ..) (by simp)

@[simp] theorem flaws_recall (s : State) (l : LineRef) : (s.recall l).flaws = s.flaws := by
  unfold State.recall
  split
  next => rfl
  next =>
    split
    next => rfl
    next =>
      dsimp only
      rw [flaws_onTag]
      split
      · simp
      · rfl

theorem noFlaws_evict {s : State} (h : s.flaws = []) (l : LineRef) : (s.evict l).flaws = [] := by
  cases hv : s.victim l with
  | none => rw [evict_none hv, h]
  | some t =>
    rw [evict_some hv]
    simp [State.leave, h]

theorem noFlaws_holdTag {s : State} (h : s.flaws = []) (l : LineRef) : (s.holdTag l).flaws = [] := by
  cases ht : s.tag? l with
  | some t => rw [holdTag_some ht, h]
  | none =>
    rw [holdTag_none ht, State.setDie_flaws]
    unfold State.wayFor
    split
    · exact h
    · exact noFlaws_evict h l

theorem noFlaws_putTag {s : State} (h : s.flaws = []) (l : LineRef) (f : LineTag → LineTag) : (s.putTag l f).flaws = [] :=
  (flaws_onTag ..).trans (noFlaws_holdTag h l)

theorem noFlaws_writeBack {s : State} (h : s.flaws = []) (d : Die) (x : L1Line) : (s.writeBack d x).flaws = [] := by
  have hb : (s.putBack d x).flaws = [] := (flaws_putBack ..).trans h
  unfold State.writeBack
  dsimp only
  split
  · exact hb
  · exact noFlaws_putTag hb ..

theorem noFlaws_l1Drop {s : State} (h : s.flaws = []) (c : CoreRef) (l : LineRef) : (s.l1Drop c l).flaws = [] := by
  unfold State.l1Drop
  split
  next => exact h
  next =>
    split
    · exact (flaws_recall ..).trans h
    · rw [flaws_l1Del]
      split
      · exact noFlaws_writeBack h ..
      · exact h

theorem noFlaws_dropPrivate {s : State} (h : s.flaws = []) (c : CoreRef) (ctx : Nat) : (s.dropPrivate c ctx).flaws = [] := by
  unfold State.dropPrivate
  generalize (s.die c.die).l1.filter _ = ls
  induction ls generalizing s with
  | nil => exact h
  | cons x t ih => exact ih (noFlaws_l1Drop h c x.line)

@[simp] theorem flaws_irrevocable (s : State) (b : Option BlockRef) : (s.irrevocable b).flaws = s.flaws := by
  unfold State.irrevocable
  split
  next => split <;> rfl
  next => rfl

theorem noFlaws_fenceDone {s : State} (h : s.flaws = []) (x : Actor) (scope : Nat) : (s.fenceDone x scope).flaws = [] := by
  have hd : (if scope = 0 then s else s.dropPrivate x.core x.ctx).flaws = [] := by
    split
    · exact h
    · exact noFlaws_dropPrivate h ..
  unfold State.fenceDone
  dsimp only
  split
  · exact (flaws_irrevocable ..).trans hd
  · exact hd

theorem noFlaws_released {s : State} (h : s.flaws = []) (x : Actor) (ord : Ord) (scope : Nat) : (s.released x ord scope).flaws = [] := by
  unfold State.released
  split
  · exact noFlaws_fenceDone h ..
  · exact h

/-! ## Barrier objects (R93, R271 to R276) -/

/-- A barrier instruction whose access may be made and whose object is well formed acts on it. -/
theorem barAt_object {x : Actor} {coh rel : Bool} {ex addr : Word} {pass : State → State} {go : State → BlockRef → Nat → State} {s u : State}
    {ref : BlockRef} {ofs : Nat} {leaf : DWord} {ord : Ord} (hord : (if rel then .release else .relaxed) = ord)
    (hmay : s.mayAccess x ord (barScope coh addr)) (hu : s.released x ord (barScope coh addr) = u) (hf : u.flaws = [])
    (hl : u.locateLanes x.agent x.ctx x.block .load (if coh then 2 else 1) 16 [(0, addr.toNat)] = .places [(0, addr.toNat, .scratch ref ofs, leaf)])
    (hrsv : (u.barObj ref ofs).rsv = 0) : barAt x coh rel ex addr pass go s = go u ref ofs := by
  unfold barAt
  dsimp only
  rw [hord, inOrder_may hmay, hu, hl]
  dsimp only
  rw [placeFlaw_none hf]
  dsimp only
  rw [if_neg (by simp [hrsv])]

/-- An instruction that issues where no soft error stands is counted with none. -/
theorem noFlaws_counted {s : State} {i : Instr} {a : AgentId} {w : Wave} {sp : Split} (hr : Runs s i a w sp) : (s.counted a w sp).flaws = [] := by
  obtain ⟨-, -, -, hl, hf⟩ := hr
  cases a with
  | combiner c => exact (flaws_counted hl w sp).trans hf
  | _ => exact hf

/-- Settles O31: the object stands where the address lands once the release is met, and the instruction acts on it. -/
theorem barriersComplete : Obligations.BarriersComplete := by
  unfold Obligations.BarriersComplete
  intro i st rel ⟨x, hi⟩ s a w sp hr f y t ex src coh
  have hfl : t.flaws = [] := noFlaws_counted hr
  rcases hi with ⟨rfl | rfl, rfl, rfl⟩ | ⟨rfl, rfl, rfl⟩
  all_goals
    refine ⟨fun hex => ?_, fun l0 ref ofs leaf hlow => ?_⟩
    · have hnone : lowest ex = none := by rw [hex, lowest_zero]
      refine (runInstr_wave hr _).trans (congrArg _ ?_)
      dsimp only [baraWave, barsWave, barwWave]
      rw [hnone]
  · intro u hmay _ hl hrsv o c v
    refine ⟨fun x' z tok hx hz => ?_, fun _ _ _ hx => absurd hx (by simp), fun _ hx => absurd hx (by simp)⟩
    obtain rfl := Instr.bara.inj hx
    have hu : t.released y .release (barScope coh (src l0).a0) = u := rfl
    have hfu : u.flaws = [] := hu ▸ noFlaws_released hfl y .release (barScope coh (src l0).a0)
    clear_value u
    refine (runInstr_wave hr _).trans (congrArg _ ?_)
    show baraWave f t a w sp = _
    unfold baraWave
    dsimp only
    rw [hlow]
    dsimp only
    refine (barAt_object (x := y) (coh := coh) (addr := (src l0).a0) (if_pos rfl) (hmay rfl) hu hfu hl hrsv).trans ?_
    rw [hz]
  · intro u hmay _ hl hrsv o c v
    refine ⟨fun _ _ _ hx => absurd hx (by simp), fun x' z tok hx hz => ?_, fun _ hx => absurd hx (by simp)⟩
    obtain rfl := Instr.bars.inj hx
    have hu : t.released y .release (barScope coh (src l0).a0) = u := rfl
    have hfu : u.flaws = [] := hu ▸ noFlaws_released hfl y .release (barScope coh (src l0).a0)
    clear_value u
    intro z1
    refine (runInstr_wave hr _).trans (congrArg _ ?_)
    show barsWave f t a w sp = _
    unfold barsWave
    dsimp only
    rw [hlow]
    dsimp only
    refine (barAt_object (x := y) (coh := coh) (addr := (src l0).a0) (if_pos rfl) (hmay rfl) hu hfu hl hrsv).trans ?_
    rw [hz]
  · intro u _ hfree hl hrsv o c v
    refine ⟨fun _ _ _ hx => absurd hx (by simp), fun _ _ _ hx => absurd hx (by simp), fun x' hx => ?_⟩
    obtain rfl := Instr.barw.inj hx
    intro tok now w1
    refine (runInstr_wave hr _).trans (congrArg _ ?_)
    show barwWave f (staleOf x) t a w sp = _
    unfold barwWave
    dsimp only
    rw [hlow]
    dsimp only
    refine (barAt_object (x := y) (coh := coh) (addr := (src l0).a0) (if_neg (by simp)) ⟨hfree rfl, by simp⟩ (by simp [State.released]) hfl hl hrsv).trans ?_
    cases hst : staleOf x <;> rfl

/-! ## Arrivals (R272, R274) -/

/-- What an action that writes no scratchpad leaves: every block's scratchpad, memories and weight stores. -/
structure KeepsScratch (s t : State) : Prop where
  scratch : ∀ q, (t.blockOf q).map (·.scratch) = (s.blockOf q).map (·.scratch)
  mem : ∀ h, t.mem h = s.mem h
  ws : ∀ d, t.ws d = s.ws d

theorem KeepsScratch.refl (s : State) : KeepsScratch s s := ⟨fun _ => rfl, fun _ => rfl, fun _ => rfl⟩

theorem KeepsScratch.trans {s t u : State} (h : KeepsScratch s t) (g : KeepsScratch t u) : KeepsScratch s u :=
  ⟨fun q => (g.scratch q).trans (h.scratch q), fun k => (g.mem k).trans (h.mem k), fun d => (g.ws d).trans (h.ws d)⟩

theorem KeepsScratch.read {s t : State} (h : KeepsScratch s t) (q : BlockRef) (b n : Nat) : t.scratchRead q b n = s.scratchRead q b n := by
  have hq := h.scratch q
  unfold State.scratchRead
  cases ht : t.blockOf q <;> cases hs : s.blockOf q <;> simp_all

theorem KeepsScratch.barObj {s t : State} (h : KeepsScratch s t) (r : BlockRef) (ofs : Nat) : t.barObj r ofs = s.barObj r ofs := by
  unfold State.barObj
  rw [h.read]

/-- States that agree in their blocks, memories and weight stores. -/
theorem KeepsScratch.of_blocks {s t : State} (hb : t.blocks = s.blocks) (hm : ∀ h, t.mem h = s.mem h) (hw : ∀ d, t.ws d = s.ws d) : KeepsScratch s t :=
  ⟨fun q => by rw [State.blockOf, State.blockOf, hb], hm, hw⟩

theorem KeepsScratch.putBlock {s : State} {r : BlockRef} {b c : Block} (h : s.blockOf r = some b) (hc : c.scratch = b.scratch) :
    KeepsScratch s (s.putBlock r c) := by
  refine ⟨fun q => ?_, fun h => by cases h <;> rfl, fun d => by cases d <;> rfl⟩
  rcases eq_or_ne q r with rfl | hne
  · rw [State.blockOf_putBlock, h]
    simp [hc]
  · rw [State.blockOf_putBlock_ne s c hne]

theorem KeepsScratch.foldl {α : Type} {f : State → α → State} (hf : ∀ s a, KeepsScratch s (f s a)) : ∀ (l : List α) (s : State),
    KeepsScratch s (l.foldl f s)
  | [], s => .refl s
  | a :: t, s => (hf s a).trans (.foldl hf t _)

theorem KeepsScratch.waited (s : State) (id : WaveId) (k : Nat) (o : Op) (vs : Nat → List Word) : KeepsScratch s (s.waited (.wave id k) o vs) := by
  unfold State.waited
  dsimp only
  split
  next => exact .refl s
  next => exact .of_blocks rfl (fun h => by cases h <;> rfl) fun d => by cases d <;> rfl

theorem KeepsScratch.bindAt (c : CoreRef) (p : ParId) : ∀ (l : List (Nat × Nat × Aff)) (s : State), KeepsScratch s (s.bindAt c p l)
  | [], s => .refl s
  | (n, k, x) :: t, s => by
    unfold State.bindAt
    dsimp only
    refine .trans ?_ (.bindAt c p t _)
    split
    · exact .of_blocks rfl (fun h => by cases h <;> rfl) fun d => by cases d <;> rfl
    · exact .of_blocks rfl (fun h => by cases h <;> rfl) fun d => by cases d <;> rfl

theorem KeepsScratch.waitedPar (s : State) (p : ParId) (o : Op) (ws : List Word) : KeepsScratch s (s.waitedPar p o ws) := by
  unfold State.waitedPar
  dsimp only
  have hb := KeepsScratch.bindAt (parCore p) p (o.vdst.zip (o.kept.zip (ws.map Aff.ofWord))) s
  split
  · exact hb
  · exact hb.trans (.of_blocks rfl (fun h => by cases h <;> rfl) fun d => by cases d <;> rfl)

theorem KeepsScratch.releaseBar (s : State) (r : BlockRef) (ofs phase : Nat) (res : Word) : KeepsScratch s (s.releaseBar r ofs phase res) :=
  (KeepsScratch.foldl (fun _ _ => .foldl (fun _ _ => .waited _ _ _ _ _) _ _) _ s).trans
    (.foldl (fun _ _ => .foldl (fun _ _ => .waitedPar _ _ _ _) _ _) _ _)

theorem KeepsScratch.snapAsked (s : State) (r : BlockRef) (t : BarTrack) : KeepsScratch s (s.snapAsked r t) := by
  unfold State.snapAsked
  split
  next => exact .refl s
  next b hb =>
    dsimp only
    split
    · exact .putBlock hb rfl
    · exact .refl s

/-- A block changed in the objects that it tracks. -/
theorem KeepsScratch.onBars (s : State) (r : BlockRef) (f : Block → List BarTrack) : KeepsScratch s (match s.blockOf r with
    | some b => s.putBlock r { b with bars := f b }
    | none => s) := by
  split
  next b hb => exact .putBlock hb rfl
  next => exact .refl s

/-! ### An object's bytes -/

theorem natOf_append : ∀ (l m : List Byte), natOf (l ++ m) = natOf l + 256 ^ l.length * natOf m
  | [], m => by simp [natOf]
  | b :: t, m => by
    rw [List.cons_append, natOf, natOf, natOf_append t m, List.length_cons, pow_succ]
    ring

@[simp] theorem length_bytesOf : ∀ (n v : Nat), (bytesOf n v).length = n
  | 0, _ => rfl
  | n + 1, v => by rw [bytesOf, List.length_cons, length_bytesOf n]

theorem natOf_bytesOf : ∀ (n v : Nat), v < 256 ^ n → natOf (bytesOf n v) = v
  | 0, v, h => by simp at h; simp [h, bytesOf, natOf]
  | n + 1, v, h => by
    have hdiv : v / 256 < 256 ^ n := Nat.div_lt_of_lt_mul (by rwa [Nat.pow_succ, Nat.mul_comm] at h)
    rw [bytesOf, natOf, natOf_bytesOf n _ hdiv, BitVec.toNat_ofNat]
    omega

theorem length_bytes (o : BarObj) : o.bytes.length = 16 := by simp [BarObj.bytes]

/-- Whether the fields of an object fit their bits. -/
def BarObj.fits (o : BarObj) : Prop := o.arrived < 2 ^ 16 ∧ o.expected < 2 ^ 16 ∧ o.phase < 256 ∧ o.op < 4 ∧ o.rsv < 2 ^ 22

/-- The object that 16 bytes hold. -/
def objOf (b : List Byte) : BarObj :=
  { arrived := fieldOf b 0 8 % 2 ^ 16, expected := fieldOf b 0 8 / 2 ^ 16 % 2 ^ 16, phase := fieldOf b 0 8 / 2 ^ 32 % 256
    op := fieldOf b 0 8 / 2 ^ 40 % 4, rsv := fieldOf b 0 8 / 2 ^ 42, payload := BitVec.ofNat 32 (fieldOf b 8 4)
    result := BitVec.ofNat 32 (fieldOf b 12 4) }

theorem barObj_eq (s : State) (r : BlockRef) (ofs : Nat) : s.barObj r ofs = objOf (s.scratchRead r ofs 16) := rfl

theorem natOf_lt : ∀ l : List Byte, natOf l < 256 ^ l.length
  | [] => by simp [natOf]
  | b :: t => by
    have := natOf_lt t
    have hb := b.isLt
    rw [natOf, List.length_cons, Nat.pow_succ]
    omega

theorem fits_barObj (s : State) (r : BlockRef) (ofs : Nat) : (s.barObj r ofs).fits := by
  have hlt : fieldOf (s.scratchRead r ofs 16) 0 8 < 2 ^ 64 := by
    have h := natOf_lt (slice (s.scratchRead r ofs 16) 0 8)
    have hlen : (slice (s.scratchRead r ofs 16) 0 8).length ≤ 8 := by simp [slice]
    calc _ < 256 ^ _ := h
      _ ≤ 256 ^ 8 := Nat.pow_le_pow_right (by decide) hlen
  rw [barObj_eq]
  simp only [BarObj.fits, objOf]
  omega

/-- An object whose fields fit is read back from its bytes. -/
theorem objOf_bytes {o : BarObj} (h : o.fits) : objOf o.bytes = o := by
  obtain ⟨h1, h2, h3, h4, h5⟩ := h
  have hlo : fieldOf o.bytes 0 8 = o.arrived + o.expected * 2 ^ 16 + o.phase * 2 ^ 32 + o.op * 2 ^ 40 + o.rsv * 2 ^ 42 := by
    have hs : slice o.bytes 0 8 = bytesOf 8 (o.arrived + o.expected * 2 ^ 16 + o.phase * 2 ^ 32 + o.op * 2 ^ 40 + o.rsv * 2 ^ 42) := by
      simp [slice, BarObj.bytes]
    rw [fieldOf, hs, natOf_bytesOf _ _ (by omega)]
  have hp : fieldOf o.bytes 8 4 = o.payload.toNat := by
    have hs : slice o.bytes 8 4 = bytesOf 4 o.payload.toNat := by
      simp [slice, BarObj.bytes]
    rw [fieldOf, hs, natOf_bytesOf _ _ (by have := o.payload.isLt; omega)]
  have hr : fieldOf o.bytes 12 4 = o.result.toNat := by
    have hs : slice o.bytes 12 4 = bytesOf 4 o.result.toNat := by
      simp [slice, BarObj.bytes, List.drop_append, List.drop_eq_nil_of_le]
    rw [fieldOf, hs, natOf_bytesOf _ _ (by have := o.result.isLt; omega)]
  cases o
  simp only [objOf, hlo, hp, hr, BarObj.mk.injEq]
  dsimp only at h1 h2 h3 h4 h5
  refine ⟨by simp, by simp, ?_, ?_, ?_, ?_, ?_⟩ <;> omega

theorem length_readN (m : Memory) : ∀ (n a : Nat), (Memory.readN m a n).length = n
  | 0, _ => rfl
  | n + 1, a => by rw [Memory.readN, List.length_cons, length_readN m n]

theorem nth_readN (m : Memory) (d : Byte) : ∀ (n a k : Nat), k < n → nth (Memory.readN m a n) k d = Memory.read m (a + k)
  | 0, _, _, h => by omega
  | n + 1, a, 0, _ => rfl
  | n + 1, a, k + 1, h => by
    rw [Memory.readN, nth_succ, nth_readN m d n _ k (by omega)]
    congr 1
    omega

theorem readN_writeN (m : Memory) (a : Nat) (bs : List Byte) : Memory.readN (Memory.writeN m a bs) a bs.length = bs := by
  refine List.ext_getElem (length_readN ..) fun k h1 h2 => ?_
  have hk := nth_readN (Memory.writeN m a bs) 0 bs.length a k h2
  rw [Memory.read_writeN_in bs m a k h2] at hk
  simpa [nth, h1, h2] using hk

/-- An object written where its block is resident is read back. -/
theorem barObj_scratchWrite {s : State} {r : BlockRef} (hb : s.blockOf r ≠ none) (ofs : Nat) {o : BarObj} (ho : o.fits) :
    (s.scratchWrite r ofs o.bytes).barObj r ofs = o := by
  obtain ⟨b, hb⟩ := Option.ne_none_iff_exists'.mp hb
  have hread : (s.scratchWrite r ofs o.bytes).scratchRead r ofs 16 = o.bytes := by
    unfold State.scratchRead
    rw [blockOf_scratchWrite, if_pos rfl, hb]
    have h16 := length_bytes o
    exact h16 ▸ readN_writeN b.scratch ofs o.bytes
  rw [barObj_eq, hread, objOf_bytes ho]

/-- An object as an arrival leaves it before its phase may complete. -/
def BarObj.joined (o : BarObj) (n : Nat) (v : Word) : BarObj := { o with payload := barCombine o.op o.payload v, arrived := min (o.arrived + n) 0xFFFF }

/-- An object whose phase has completed. -/
def BarObj.completed (o : BarObj) : BarObj := { o with result := o.payload, payload := barIdentity o.op, arrived := 0, phase := (o.phase + 1) % 256 }

theorem fits_joined {o : BarObj} (h : o.fits) (n : Nat) (v : Word) : (o.joined n v).fits := by
  obtain ⟨-, h2, h3, h4, h5⟩ := h
  exact ⟨by simp only [BarObj.joined]; omega, h2, h3, h4, h5⟩

theorem fits_completed {o : BarObj} (h : o.fits) : o.completed.fits := by
  obtain ⟨-, h2, -, h4, h5⟩ := h
  exact ⟨Nat.two_pow_pos 16, h2, by simp only [BarObj.completed]; omega, h4, h5⟩

/-- What an action that writes one object of a block leaves: every other byte of the scratchpads, memories and weight stores. -/
structure WritesObj (s t : State) (r : BlockRef) (ofs : Nat) : Prop where
  scratch : ∀ q b, ¬ (q = r ∧ ofs ≤ b ∧ b < ofs + 16) → t.scratchRead q b 1 = s.scratchRead q b 1
  mem : ∀ h, t.mem h = s.mem h
  ws : ∀ d, t.ws d = s.ws d

theorem WritesObj.trans {s t u : State} {r : BlockRef} {ofs : Nat} (h : WritesObj s t r ofs) (g : WritesObj t u r ofs) : WritesObj s u r ofs :=
  ⟨fun q b hb => (g.scratch q b hb).trans (h.scratch q b hb), fun k => (g.mem k).trans (h.mem k), fun d => (g.ws d).trans (h.ws d)⟩

theorem WritesObj.of_keeps {s t : State} (h : KeepsScratch s t) (r : BlockRef) (ofs : Nat) : WritesObj s t r ofs :=
  ⟨fun q b _ => h.read q b 1, h.mem, h.ws⟩

theorem WritesObj.scratchWrite (s : State) (r : BlockRef) (ofs : Nat) (o : BarObj) : WritesObj s (s.scratchWrite r ofs o.bytes) r ofs := by
  obtain ⟨hm, hw, -, -⟩ := keepsMemory_scratchWrite s r ofs o.bytes
  exact ⟨fun q b hb => scratchRead_write_out s (by rw [length_bytes]; exact hb), hm, hw⟩

theorem blockOf_ne_none_of_keeps {s t : State} (h : KeepsScratch s t) {q : BlockRef} (hq : s.blockOf q ≠ none) : t.blockOf q ≠ none := by
  have hs := h.scratch q
  intro ht
  rw [ht] at hs
  exact hq (Option.map_eq_none_iff.mp hs.symm)

theorem blockOf_scratchWrite_ne_none {s : State} {r : BlockRef} (h : s.blockOf r ≠ none) (ofs : Nat) (bytes : List Byte) :
    (s.scratchWrite r ofs bytes).blockOf r ≠ none := by
  rw [blockOf_scratchWrite, if_pos rfl]
  simpa using h

/-- The completion of a phase. -/
theorem completeBar_spec {s : State} {r : BlockRef} (hb : s.blockOf r ≠ none) (ofs : Nat) :
    (s.completeBar r ofs).barObj r ofs = (s.barObj r ofs).completed ∧ WritesObj s (s.completeBar r ofs) r ofs := by
  have hkeep : KeepsScratch (s.scratchWrite r ofs (s.barObj r ofs).completed.bytes) (s.completeBar r ofs) :=
    ((KeepsScratch.onBars _ r fun b => b.bars.filter fun t => t.ofs != ofs).trans (.releaseBar ..)).trans (.snapAsked ..)
  exact ⟨(hkeep.barObj r ofs).trans (barObj_scratchWrite hb ofs (fits_completed (fits_barObj s r ofs))),
    (WritesObj.scratchWrite s r ofs _).trans (.of_keeps hkeep r ofs)⟩

/-- The state in which an arrival has been written and noted. -/
def State.joinBar (s : State) (r : BlockRef) (ofs : Nat) (who : AgentId) (rb : Bool) (n : Nat) (v : Word)
    (cap : Option (ParId × Parison × List (Nat × Aff))) : State :=
  let t := s.scratchWrite r ofs ((s.barObj r ofs).joined n v).bytes
  match t.blockOf r with
  | some b => t.putBlock r { b with bars := noteArrival b.bars ofs ((s.barObj r ofs).expected == 0) (t.liveItems r) who rb cap }
  | none => t

theorem joinBar_spec {s : State} {r : BlockRef} (hb : s.blockOf r ≠ none) (ofs : Nat) (who : AgentId) (rb : Bool) (n : Nat) (v : Word)
    (cap : Option (ParId × Parison × List (Nat × Aff))) : (s.joinBar r ofs who rb n v cap).barObj r ofs = (s.barObj r ofs).joined n v
      ∧ WritesObj s (s.joinBar r ofs who rb n v cap) r ofs ∧ (s.joinBar r ofs who rb n v cap).blockOf r ≠ none := by
  have hkeep : KeepsScratch (s.scratchWrite r ofs ((s.barObj r ofs).joined n v).bytes) (s.joinBar r ofs who rb n v cap) := .onBars ..
  exact ⟨(hkeep.barObj r ofs).trans (barObj_scratchWrite hb ofs (fits_joined (fits_barObj s r ofs) n v)),
    (WritesObj.scratchWrite s r ofs _).trans (.of_keeps hkeep r ofs), blockOf_ne_none_of_keeps hkeep (blockOf_scratchWrite_ne_none hb _ _)⟩

/-- An arrival of some lanes that is not refused. -/
theorem arriveBar_ok {s t : State} {r : BlockRef} {ofs n tok : Nat} {who : AgentId} {rb : Bool} {v : Word}
    {cap : Option (ParId × Parison × List (Nat × Aff))} (hn : n ≠ 0) (h : s.arriveBar r ofs who rb n v cap = .ok (t, tok)) :
    let e := s.barExpected r (s.barObj r ofs)
    let full := e == 0 || decide (e ≤ min ((s.barObj r ofs).arrived + n) 0xFFFF)
    tok = (s.barObj r ofs).phase ∧ t = if full then (s.joinBar r ofs who rb n v cap).completeBar r ofs else s.joinBar r ofs who rb n v cap := by
  unfold State.arriveBar at h
  dsimp only at h
  rw [if_neg hn] at h
  split at h
  next => cases h
  next =>
    obtain ⟨rfl, rfl⟩ := Prod.mk.inj (Except.ok.inj h)
    exact ⟨rfl, rfl⟩

/-- Settles O32: the joined object is written back, and completed in the same action where the expected count is reached. -/
theorem barrierArrival : Obligations.BarrierArrival := by
  unfold Obligations.BarrierArrival
  intro s r ofs n who rb v cap t tok hb h o e arrived
  rcases Nat.eq_zero_or_pos n with rfl | hn
  · have h0 : s.arriveBar r ofs who rb 0 v cap = .ok (s, o.phase) := by unfold State.arriveBar; exact if_pos rfl
    obtain ⟨rfl, rfl⟩ := Prod.mk.inj (Except.ok.inj (h0.symm.trans h))
    exact ⟨rfl, fun _ => rfl, fun hn => absurd hn (by omega), fun hn => absurd hn (by omega), fun _ _ _ => rfl, fun _ => rfl, fun _ => rfl⟩
  · obtain ⟨rfl, ht⟩ := arriveBar_ok (by omega) h
    obtain ⟨hobj, hwrites, hres⟩ := joinBar_spec hb ofs who rb n v cap
    obtain ⟨hobj', hwrites'⟩ := completeBar_spec hres ofs
    by_cases hfull : (e == 0 || decide (e ≤ arrived)) = true
    · rw [ht, if_pos hfull]
      have hf : e = 0 ∨ e ≤ arrived := by simpa using hfull
      obtain ⟨hs, hm, hw⟩ := hwrites.trans hwrites'
      refine ⟨rfl, fun h0 => absurd h0 (by omega), fun _ h0 hlt => absurd hf (by omega), fun _ _ => ?_, hs, hm, hw⟩
      rw [hobj', hobj]
      rfl
    · rw [ht, if_neg hfull]
      have hf : ¬ (e = 0 ∨ e ≤ arrived) := by simpa using hfull
      obtain ⟨hs, hm, hw⟩ := hwrites
      exact ⟨rfl, fun h0 => absurd h0 (by omega), fun _ _ _ => hobj, fun _ h0 => absurd h0 hf, hs, hm, hw⟩

/-! ## Waits and signals (R97, R98, R277 to R279) -/

/-- A wait with no executing lane passes. -/
theorem memWait_none {f : Form} {k : OpKind} {acc : Access} {space align size : Nat} {wt : Wait} {why : Stall} {args : List Word} {s : State}
    {a : AgentId} {w : Wave} {sp : Split} (h : w.exec sp f = 0) :
    memWait f k acc space align size wt why args s a w sp = s.finishWave a (w.release f.lastReads) sp f := by
  unfold memWait
  exact if_pos h

/-- A wait whose lanes land deschedules its split. -/
theorem memWait_lands {f : Form} {k : OpKind} {acc : Access} {space align size : Nat} {wt : Wait} {why : Stall} {args : List Word} {s : State}
    {a : AgentId} {w : Wave} {sp : Split} {l : List (Nat × Nat × Place × DWord)} (h : w.exec sp f ≠ 0) (ho : (Actor.wave a w sp).ordered = none)
    (hl : Lands s a w acc space align (w.addrs (s.formFile (coreOf a)) f space 0 1 (w.exec sp f &&& ~~~w.helper)) l) :
    memWait f k acc space align size wt why args s a w sp = s.waitMem a w sp f { newOp s a sp f k (w.exec sp f) with
      ctr := none, args := args
      reqs := l.map fun e => { lane := e.1, va := e.2.1, place := e.2.2.1, leaf := e.2.2.2, size := size
                               arg := (w.operands (s.formFile (coreOf a)) f e.1).b } } wt why := by
  unfold memWait
  dsimp only
  rw [if_neg h]
  refine (inOrder_relaxed ho).trans ?_
  exact waveAccess_lands hl

theorem place_signal (t : Token) {g : Signal} (hg : g.dies < 4) : ∃ m : Bool,
    (m = true ↔ t.place / 4 % 2 = 1 ∨ g.multi = true ∨ t.place % 4 ≠ 0 ∧ (t.place / 16 % 256 ≠ g.core ∨ t.place % 4 ≠ g.dies))
    ∧ (t.place % 4 ||| g.dies) < 4
    ∧ (t.signal g).place = (t.place % 4 ||| g.dies) + (if m then 4 else 0) + (if t.place % 4 = 0 then g.core % 256 else t.place / 16 % 256) * 16 := by
  refine ⟨t.place / 4 % 2 == 1 || g.multi || (!(t.place % 4 == 0) && (t.place / 16 % 256 != g.core || t.place % 4 != g.dies)), ?_, ?_, ?_⟩
  · simp [or_assoc]
  · exact Nat.or_lt_two_pow (n := 2) (by omega) hg
  · simp only [Token.signal, beq_iff_eq]

/-- Settles O33: the wait is put into its wave, the signals are made one after another, and PLACE's fields do not meet. -/
theorem waitsComplete : Obligations.WaitsComplete := by
  unfold Obligations.WaitsComplete
  refine ⟨⟨fun i k acc space size align wt why args ⟨x, hi⟩ s a w sp l hr => ?_, fun x s a w sp l hr => ?_⟩, fun t g hcore hdies => ?_⟩
  · intro f t ff ex
    rcases hi with ⟨rfl, rfl, rfl, rfl, rfl, rfl, rfl, rfl, rfl⟩ | ⟨rfl, rfl, rfl, rfl, rfl, rfl, rfl, rfl, rfl⟩
    all_goals
      refine ⟨fun hex => ?_, fun hex ho hl => ?_⟩
      · exact (runInstr_wave hr _).trans (congrArg _ (memWait_none hex))
      · exact (runInstr_wave hr _).trans (congrArg _ (memWait_lands hex ho hl))
  · intro f t ff lanes eas ho hbefore hl first r u
    refine (runInstr_wave hr _).trans (congrArg _ ?_)
    show qsigWave f t a w sp = _
    unfold qsigWave
    dsimp only
    have hany : (w.ops.any fun o => o.kind.beforeSignal) = false := by simpa using hbefore
    rw [ho]
    dsimp only
    rw [hany, if_neg (by simp), hl]
    dsimp only
    by_cases h2 : r.2 = []
    · rw [if_pos h2]
      exact if_pos (List.isEmpty_iff.mpr h2)
    · rw [if_neg h2]
      exact if_neg fun h => h2 (List.isEmpty_iff.mp h)
  · intro u
    have hlt : g.dies < 4 := by omega
    obtain ⟨m, hm, hor, hp⟩ := place_signal t hlt
    generalize (t.place % 4 ||| g.dies) = d at hor hp ⊢
    rw [show u.place = _ from hp, ← hm]
    by_cases hfresh : t.place % 4 = 0 <;> cases m <;>
      simp only [hfresh, if_true, if_false, Bool.false_eq_true, iff_false, iff_true] <;>
      exact ⟨rfl, rfl, rfl, by omega, by omega, by omega⟩

end Sys2Proof.Machine

/-! Tile instructions and jobs: what the gaffer queues on the marver, MDRAIN, and why JOB of a wave does not always submit its card at once
(R131, R297 to R301, R305). -/

namespace Sys2Proof.Machine

/-! ## The gaffer's tile instructions -/

/-- MMA that nothing holds up, whose operands are fetched and well formed, joins the marver's queue. -/
theorem mmaGo_queues {f : Form} {ml mh : Nat} {s s1 s2 : State} {p : ParId} {r : Parison} {ab bb : List Byte} (hst : s.tileStall p r (mh / 16 % 2 == 1) = none)
    (ho : (Actor.par p r).ordered = none)
    (hb : s.fetchBlocks p r (mh % 4) (opBase (mh % 4) (r.sregs f.use.b f.fields.2.2.1)) 62 = .ok s1 bb) (hbb : badBlock 1 bb = none)
    (hchain : ml % 4 = 2 → s2 = s1 ∧ ab = bytesOfWords (r.sregs f.use.a f.fields.2.1))
    (ha : ml % 4 ≠ 2 → s1.fetchBlocks p r (aSpace (ml % 4)) (opBase (ml % 4) (r.sregs f.use.a f.fields.2.1)) 256 = .ok s2 ab ∧ badBlock 2 ab = none) :
    mmaGo f ml mh s p r = s2.queueTile p r f .mma { par := p, op := 0, zero := false, tile := tileName (nth r.sreg f.fields.1 0), a := ab, b := bb
                                                    mods := ml % 4 + (if ml / 4 % 2 = 1 then 4 else 0) + 8 * (mh / 4 % 4) }
      ((if ml % 4 = 3 then weightReqs p.die 3 (opBase 3 (r.sregs f.use.a f.fields.2.1)) 256 else []) ++
        weightReqs p.die (mh % 4) (opBase (mh % 4) (r.sregs f.use.b f.fields.2.2.1)) 62) := by
  have hab : (if ml % 4 = 2 then Blocks.ok s1 (bytesOfWords (r.sregs f.use.a f.fields.2.1))
      else s1.fetchBlocks p r (aSpace (ml % 4)) (opBase (ml % 4) (r.sregs f.use.a f.fields.2.1)) 256) = .ok s2 ab := by
    split
    next h =>
      obtain ⟨rfl, rfl⟩ := hchain h
      rfl
    next h => exact (ha h).1
  have hbad : (if ml % 4 = 2 then none else badBlock 2 ab) = none := by
    split
    next => rfl
    next h => exact (ha h).2
  unfold mmaGo
  dsimp only
  rw [hst, ho]
  simp only [Option.orElse_eq_orElse, Option.orElse_eq_or, Option.or_none]
  rw [hb]
  dsimp only
  rw [hab]
  dsimp only
  rw [hbad, hbb]
  simp only [beq_iff_eq]

theorem bits_eq (t : Tile) : t.bits = 0#28 ++ BitVec.ofBool t.zero ++ BitVec.ofBool t.poison ++ BitVec.ofBool t.dirty ++ 1#1 := by
  unfold Tile.bits
  cases t.zero <;> cases t.poison <;> cases t.dirty <;> rfl

/-- Settles O34: the names are checked first, then the guard, then what holds the tile op up. -/
theorem tileInstructionsComplete : Obligations.TileInstructionsComplete := by
  unfold Obligations.TileInstructionsComplete
  refine ⟨⟨fun x s p r s1 s2 ab bb hr => ?_, fun x s p r hr => ?_, fun x s p r t hr => ?_, fun i v ⟨x, hi⟩ s p r hr hg hbad => ?_⟩,
    fun x s a w sp l l0 hr => ?_, fun x s p r hr => runInstr_par hr _⟩
  · intro f ml n c aw bw hists hhist hc hsrc
    have hh : ¬ (ml / 4 % 2 == 1 && decide (hists ≤ gMh x / 4 % 4)) = true := by
      simp only [Bool.and_eq_true, beq_iff_eq, decide_eq_true_eq, not_and]
      intro h
      have := hhist h
      omega
    have hname : (tileBad false n c || (ml % 4 == 2 && (r.sregs f.use.a x.a.toNat).any (tileBad true n))) = false := by
      rw [hc, Bool.false_or]
      by_cases h : ml % 4 = 2
      · simpa [h] using hsrc h
      · simp [h]
    refine ⟨fun hg => ?_, fun hg hst ho hb hbb hchain ha => ?_⟩
    all_goals
      refine (runInstr_par hr _).trans (congrArg _ ?_)
      refine (if_neg hh).trans ?_
      dsimp only
      rw [hg]
      dsimp only
      refine (if_neg (by rw [hname]; simp)).trans ?_
    · rfl
    · exact mmaGo_queues hst ho hb hbb hchain ha
  · intro f v hv
    refine ⟨fun hg => ?_, fun hg hst => ?_⟩
    all_goals
      refine (runInstr_par hr _).trans (congrArg _ ?_)
      dsimp only
      rw [hg]
      dsimp only
      refine (if_neg (by rw [hv]; simp)).trans ?_
    · rfl
    · rw [hst]
      rfl
  · intro f v ht hv hops
    have hany : (r.ops.any fun o => (o.kind == .mma || o.kind == .mzero) && o.args.contains (BitVec.ofNat 32 (tileName v))) = false := by
      simpa using hops
    refine ⟨fun hg => ?_, fun hg => ?_⟩
    all_goals
      refine (runInstr_par hr _).trans (congrArg _ ?_)
      dsimp only
      rw [hg]
      dsimp only
      refine (if_neg (by rw [hv]; simp)).trans ((if_neg (by rw [hany]; simp)).trans ?_)
    · rfl
    · rw [ht, ← bits_eq]
      rfl
  · rcases hi with ⟨rfl, rfl⟩ | ⟨rfl, rfl⟩
    all_goals
      refine (runInstr_par hr _).trans (congrArg _ ?_)
      obtain ⟨g, hg⟩ := Option.ne_none_iff_exists'.mp hg
      dsimp only
      rw [hg]
      exact if_pos hbad
  · intro f t amx v hl0 h1 h2 h3 ho hl
    have hlane : ((lowest (w.exec sp f)) <|> (lowest sp.act)).getD 0 = l0 := by
      rcases hl0 with h | ⟨h, h'⟩
      · simp [h]
      · rw [h, lowest_zero, h']; rfl
    refine (runInstr_wave hr _).trans (congrArg _ ?_)
    show mdrainWave f x.ml.toNat t a w sp = _
    unfold mdrainWave
    dsimp only
    have hname : ¬ (Word.bits v 15 10 != 0 || Word.bits v 31 22 != 0 || decide ((w.block.map t.tileCount).getD 0 ≤ tileName v)) = true := by
      simp only [h1, h2, bne_self_eq_false, Bool.false_or, decide_eq_true_eq]
      omega
    rw [hlane]
    refine (if_neg hname).trans ?_
    refine (inOrder_relaxed ho).trans ?_
    exact waveAccess_lands hl

/-! ## A card on the other member -/

/-- JOB of a wave, its card's address in v2 and v3. -/
def farForm : GForm := { d := 0, a := 2, b := 0, lra := false, lrb := false, ml := 0, w1 := none }

/-- A COHERENT page of Amdukor at the card's address, readable and writable. -/
def farEntry : TlbEntry := { core := none, ctx := 0, base := 0x20000, size := 4096, leaf := 0x2031381, entryPa := 0 }

/-- The wave whose lanes all name the card. -/
def farWave : Wave :=
  ((placeWave (encode (.jobWave farForm))).write [] 2 0xFFFFFFFF fun _ => 0x20000).write [] 3 0xFFFFFFFF fun _ => 0

/-- Its one split, which stands at the JOB. -/
def farSplit : Split := { pos := placePos (encode (.jobWave farForm)), act := 0xFFFFFFFF }

/-- A docked pair whose Kapael runs the JOB of a card in Amdukor's memory, which no L1 holds. -/
def farState : State :=
  let s := { State.reset.placeWords (encode (.jobWave farForm)) with cur := .wave ⟨.kapael, 0, 0, 0⟩ 0, agenda := [], pairState := 2 }
  { s with kap := { s.kap with ptime := 1000, tlb := farEntry :: s.kap.tlb }, waves := [(⟨.kapael, 0, 0, 0⟩, farWave)] }

theorem runs_far : Runs farState (.jobWave farForm) (.wave ⟨.kapael, 0, 0, 0⟩ 0) farWave farSplit :=
  ⟨rfl, by decide +kernel, by decide +kernel, rfl, rfl⟩

/-- The jobs of Kapael that an outcome leaves. -/
def kapaelJobs : Out → Nat
  | .next t => t.kap.jobs.length
  | _ => 0

theorem kapaelJobs_far : kapaelJobs (exec (.jobWave farForm) farState) = 0 := by decide +kernel

/-- Refutes O36: the clause on JOB of a wave asks for no line at hand, as that on the gaffer's does; a card on the other member, which the core's L1
does not hold, is asked for over the blowpipe, and nothing is submitted in this step. -/
theorem not_jobInstructionsComplete : ¬ Obligations.JobInstructionsComplete := by
  unfold Obligations.JobInstructionsComplete
  rintro ⟨-, hwave, -⟩
  obtain ⟨-, -, hsubmit⟩ := hwave farForm farState _ farWave farSplit 0 runs_far (.inl (by decide +kernel))
  have h := hsubmit .amdukor 0x20000 0x2031381 [(0, 0x20040, .mem .amdukor 0x20040, 0x2031381)] (by decide +kernel) (by decide +kernel)
    (by decide +kernel) ⟨by decide +kernel, fun _ => by decide +kernel⟩ (by decide +kernel) (by decide +kernel) (by decide +kernel)
  have hjobs := congrArg kapaelJobs h
  rw [kapaelJobs_far] at hjobs
  exact absurd hjobs (by decide +kernel)

end Sys2Proof.Machine

/-! Instructions of UNI clauses: the gaffer's arithmetic, what it leaves alone, UBRA and ULAUNCH (R292 to R296). -/

namespace Sys2Proof.Machine

/-! ## Arithmetic -/

/-- A UNI instruction does its work where its guard is true, and only issues where it is false. -/
theorem uniEffect_of {i : Instr} {go : State → ParId → Parison → State} (h : ∀ s, exec i s = runUni i.form go s) {s : State} {p : ParId}
    {r : Parison} (hr : RunsPar s i p r) : (r.guard i.form = some true → exec i s = .next (go s p r)) ∧
      (r.guard i.form = some false → exec i s = .next (s.setPar p (r.issued i.form))) := by
  have hrun := (h s).trans (runInstr_par hr _)
  constructor
  all_goals
    intro hg
    rw [hrun]
    dsimp only
    rw [hg]

theorem ushrOf_eq (f : Form) {c : Bool} (hc : (f.ml % 2 == 1) = c) :
    ushrOf f = fun a b => if c then a.sshiftRight b.toNat else a >>> b.toNat := by
  funext a b
  simp [ushrOf, hc, sarOf_eq, shrOf_eq]

/-- The lowest modifier bit of a form. -/
theorem ml_odd {w : Nat} (n : BitVec w) : (n.toNat % 2 == 1) = n.getLsbD 0 := by
  simp [BitVec.getLsbD, Nat.testBit]

/-- That of an immediate form, whose third bit is set. -/
theorem mlImm_odd {w : Nat} (n : BitVec w) : ((n.toNat + 4) % 2 == 1) = n.getLsbD 0 := by
  rw [show (n.toNat + 4) % 2 = n.toNat % 2 by omega, ml_odd]

/-- The shifts, whose distance past 31 leaves zeros or the sign, as the statement writes them. -/
theorem runUalu_shl (f : Form) (s : State) : runUalu f (fun a b _ => shlOf a b) s = runUalu f (fun a b _ => a <<< b.toNat) s :=
  congrArg (runUalu f · s) (funext fun a => funext fun b => funext fun _ => shlOf_eq a b)

theorem runUalu_shr (f : Form) (s : State) {c : Bool} (hc : (f.ml % 2 == 1) = c) : runUalu f (fun a b _ => ushrOf f a b) s =
    runUalu f (fun a b _ => if c then a.sshiftRight b.toNat else a >>> b.toNat) s := by
  rw [ushrOf_eq f hc]

theorem exec_alu {i : Instr} {g : Word → Word → Word → Word}
    (h : (∃ x, i = .umov x ∧ g = (fun a _ _ => a) ∨ i = .uadd x ∧ g = (fun a b _ => a + b) ∨ i = .usub x ∧ g = (fun a b _ => a - b)
        ∨ i = .umul x ∧ g = (fun a b _ => a * b) ∨ i = .umad x ∧ g = (fun a b c => a * b + c)
        ∨ i = .ushl x ∧ g = (fun a b _ => a <<< b.toNat)
        ∨ i = .ushr x ∧ g = (fun a b _ => if x.ml.getLsbD 0 then a.sshiftRight b.toNat else a >>> b.toNat)
        ∨ i = .uand x ∧ g = (fun a b _ => a &&& b) ∨ i = .uor x ∧ g = (fun a b _ => a ||| b) ∨ i = .uxor x ∧ g = (fun a b _ => a ^^^ b))
      ∨ (∃ x, i = .umovi x ∧ g = (fun _ b _ => b) ∨ i = .uaddImm x ∧ g = (fun a b _ => a + b) ∨ i = .usubImm x ∧ g = (fun a b _ => a - b)
        ∨ i = .umulImm x ∧ g = (fun a b _ => a * b) ∨ i = .ushlImm x ∧ g = (fun a b _ => a <<< b.toNat)
        ∨ i = .ushrImm x ∧ g = (fun a b _ => if x.ml.getLsbD 0 then a.sshiftRight b.toNat else a >>> b.toNat)
        ∨ i = .uandImm x ∧ g = (fun a b _ => a &&& b) ∨ i = .uorImm x ∧ g = (fun a b _ => a ||| b)
        ∨ i = .uxorImm x ∧ g = (fun a b _ => a ^^^ b))) (s : State) : exec i s = runUalu i.form g s := by
  rcases h with ⟨x, h⟩ | ⟨x, h⟩
  · rcases h with ⟨rfl, rfl⟩ | ⟨rfl, rfl⟩ | ⟨rfl, rfl⟩ | ⟨rfl, rfl⟩ | ⟨rfl, rfl⟩ | ⟨rfl, rfl⟩ | ⟨rfl, rfl⟩ | ⟨rfl, rfl⟩ | ⟨rfl, rfl⟩ | ⟨rfl, rfl⟩
    exacts [rfl, rfl, rfl, rfl, rfl, runUalu_shl _ s, runUalu_shr _ s (ml_odd x.ml), rfl, rfl, rfl]
  · rcases h with ⟨rfl, rfl⟩ | ⟨rfl, rfl⟩ | ⟨rfl, rfl⟩ | ⟨rfl, rfl⟩ | ⟨rfl, rfl⟩ | ⟨rfl, rfl⟩ | ⟨rfl, rfl⟩ | ⟨rfl, rfl⟩ | ⟨rfl, rfl⟩
    exacts [rfl, rfl, rfl, rfl, runUalu_shl _ s, runUalu_shr _ s (mlImm_odd x.ml), rfl, rfl, rfl]

/-- An instruction of a UNI clause whose guard, or the predicate that USEL selects by, is a range raises GUARD. -/
theorem guardRaised {i : Instr} {e : Effect} (h : ∀ s, exec i s = runInstr i.form e s) {s : State} {p : ParId} {r : Parison}
    (hu : UniAtGuard s i p r) (hrange : rangeGuard (.par p r) i.form = true) : exec i s = .next (s.raise (.par p r) .illegal .guard) := by
  obtain ⟨hcur, hp, hheld, hcls, hraw, hone, hres, hpats⟩ := hu
  have hcheck : decodeCheck (.par p r) i.form = some .guard := by
    simp [decodeCheck, hraw, hone, hres, uniReserved, hpats, hrange]
  have hgate : gate (.par p r) i.form = .trap .guard := by simp [gate, hheld, hcheck]
  exact (h s).trans (runInstr_trap (by simp [State.actor, State.actorOf, hcur, hp]) hgate (by simp) e)

theorem isRange_of_guard {r : Parison} {f : Form} (hg : r.guard f = none) : r.isRange f.guard.1 = true := by
  unfold Parison.guard at hg
  dsimp only at hg
  split at hg
  · exact absurd hg (by simp)
  next hn =>
    unfold Parison.isRange
    split at hg
    · exact absurd hg (by simp)
    next hrange => simpa [hrange] using hn

/-- The instructions of UNI clauses that a range guard raises GUARD for run by the shared rule, and none of them is UBRA. -/
theorem guarded_uni {i : Instr} (h : (∃ x, i = .umov x ∨ i = .uadd x ∨ i = .usub x ∨ i = .umul x ∨ i = .umad x ∨ i = .ushl x ∨ i = .ushr x ∨ i = .uand x
      ∨ i = .uor x ∨ i = .uxor x ∨ i = .ucmp x ∨ i = .usel x ∨ i = .ulaunch x ∨ i = .mma x ∨ i = .mzero x ∨ i = .mtile x ∨ i = .jobGaffer x
      ∨ i = .jstatGaffer x ∨ i = .visr x)
    ∨ (∃ x, i = .umovi x ∨ i = .uaddImm x ∨ i = .usubImm x ∨ i = .umulImm x ∨ i = .ushlImm x ∨ i = .ushrImm x ∨ i = .uandImm x
      ∨ i = .uorImm x ∨ i = .uxorImm x ∨ i = .ucmpImm x)
    ∨ (∃ x, i = .uld x)) : (∃ e, ∀ s, exec i s = runInstr i.form e s) ∧ (i.form.opc != 0xDD) = true := by
  rcases h with ⟨x, h⟩ | ⟨x, h⟩ | ⟨x, h⟩
  · rcases h with h | h | h | h | h | h | h | h | h | h | h | h | h | h | h | h | h | h | h
    all_goals
      subst h
      exact ⟨⟨_, fun s => rfl⟩, rfl⟩
  · rcases h with h | h | h | h | h | h | h | h | h | h
    all_goals
      subst h
      exact ⟨⟨_, fun s => rfl⟩, rfl⟩
  · subst h
    exact ⟨⟨_, fun s => rfl⟩, rfl⟩

/-- Settles O38: each instruction runs by its own arm; a range is found by the decode check of its clause. -/
theorem uniformArithmeticCompletes : Obligations.UniformArithmeticCompletes := by
  unfold Obligations.UniformArithmeticCompletes
  refine ⟨fun i g hi s p r hr => ?alu, fun i mh hi s p r hr => ?cmp, fun x s p r v hr => ?sel, fun i hi s p r hu => ?range⟩
  case alu =>
    have halu : ∀ s, exec i s = runUalu i.form g s := exec_alu hi
    exact uniEffect_of halu hr
  case cmp =>
    have hcmp : ∀ s, exec i s = runUcmp i.form mh s := by
      rcases hi with ⟨x, rfl, rfl⟩ | ⟨x, rfl, rfl⟩
      · exact fun s => rfl
      · exact fun s => rfl
    exact uniEffect_of hcmp hr
  case sel =>
    obtain ⟨htrue, hfalse⟩ := uniEffect_of (fun s => rfl) hr
    refine ⟨fun hg hv => (htrue hg).trans ?_, hfalse⟩
    dsimp only
    rw [hv]
  case range =>
    obtain ⟨⟨e, he⟩, hopc⟩ := guarded_uni hi
    have hcls : hdrCls r.pos.hdr = 6 := hu.2.2.2.1
    constructor
    · intro hg
      exact guardRaised he hu (by simp [rangeGuard, hcls, hopc, isRange_of_guard hg])
    · rintro x d lo hi rfl h24 hv
      have hrange : r.isRange (Instr.form (.usel x)).fields.2.2.2 = true := by
        unfold Parison.isRange
        rw [hv]
        simpa using h24
      exact guardRaised he hu (by simp [rangeGuard, hcls, hrange, show (Instr.form (.usel x)).opc = 0xDC from rfl])

/-! ## What it leaves alone -/

theorem onlyPar_setPar (s : State) (p : ParId) (r : Parison) : OnlyPar s (s.setPar p r) p :=
  ⟨rfl, fun _ h => s.look_setPar_ne r h⟩

theorem sameMemory_setPar (s : State) (p : ParId) (r : Parison) : SameMemory s (s.setPar p r) :=
  ⟨fun _ _ => rfl, fun _ _ => rfl, rfl⟩

theorem nth_issued_nmap (r : Parison) (f : Form) (n : Nat) : nth (r.issued f).nmap n none = if n ∈ f.lastReads then none else nth r.nmap n none :=
  nth_foldl_set none f.lastReads r.nmap n

/-- Settles O39: the write and the issue are two changes of one parison's record. -/
theorem uniformFrame : Obligations.UniformFrame := by
  unfold Obligations.UniformFrame
  intro s p r f n v b
  have hread (m : Nat) : (m ∉ f.lastReads → nth (r.issued f).nmap m none = nth r.nmap m none) ∧ (m ∈ f.lastReads → nth (r.issued f).nmap m none = none) := by
    rw [nth_issued_nmap]
    exact ⟨fun h => if_neg h, fun h => if_pos h⟩
  constructor
  · exact ⟨onlyPar_setPar _ _ _, sameMemory_setPar _ _ _, _, s.look_setPar _ _, fun h => nth_set_self h _ _, fun m h => nth_set_ne h _ _ _, rfl, rfl, rfl,
      fun m => (hread m).1, fun m => (hread m).2⟩
  · exact ⟨onlyPar_setPar _ _ _, sameMemory_setPar _ _ _, _, s.look_setPar _ _, fun h => nth_set_self h _ _, fun m h => nth_set_ne h _ _ _, rfl, rfl,
      fun m => (hread m).1, fun m => (hread m).2⟩

/-! ## UBRA and ULAUNCH -/

/-- Settles O40: the guard, and for ULAUNCH the table first, pick the branch. -/
theorem uniformControlCompletes : Obligations.UniformControlCompletes := by
  unfold Obligations.UniformControlCompletes
  refine ⟨fun x s p r hr => ?_, fun x s p r hr => ?_⟩
  · refine ⟨fun hg => ?_, fun hg => ?_, fun hg => ?_⟩
    all_goals
      refine (runInstr_par hr _).trans (congrArg _ ?_)
      dsimp only
      rw [hg]
    all_goals rfl
  · intro f h q
    refine ⟨fun t ht hk => ?_, fun hbad => ?_⟩
    · have hhas : ¬ (!((s.table q (Word.bits h 31 16)).any fun t => decide (Word.bits h 15 0 < t.nodes.length))) = true := by simp [ht, hk]
      refine ⟨fun hg => ?_, fun hg hcaught hgwp => ?_⟩
      · refine (runInstr_par hr _).trans (congrArg _ ((if_neg hhas).trans ?_))
        rw [hg]
      · refine (runInstr_par hr _).trans (congrArg _ ((if_neg hhas).trans ?_))
        rw [hg]
        refine (if_neg (by simp [hcaught])).trans (if_neg ?_)
        simp only [Bool.and_eq_true, decide_eq_true_eq, bne_iff_ne]
        omega
    · have hno : (!((s.table q (Word.bits h 31 16)).any fun t => decide (Word.bits h 15 0 < t.nodes.length))) = true := by
        cases ht : s.table q (Word.bits h 31 16) with
        | none => rfl
        | some t => simpa using hbad t ht
      exact (runInstr_par hr _).trans (congrArg _ (if_pos hno))

end Sys2Proof.Machine

/-! Special registers, the trap window, and the texture and visibility instructions (R189, R287 to R289, R308 to R314). -/

namespace Sys2Proof.Machine

/-! ## Special registers -/

theorem csrrWave_member {x : GForm} {s : State} {a : AgentId} {w : Wave} {sp : Split} (hr : Runs s (.csrr x) a w sp) (ha : ∀ c, a ≠ .combiner c) :
    exec (.csrr x) s = .next (vecWave (Instr.form (.csrr x)) (each fun i => { words := s.csrLane a w x.b.toNat i.lane }) s a w sp) := by
  refine (runInstr_wave hr _).trans (congrArg _ ?_)
  cases a with
  | combiner c => exact absurd rfl (ha c)
  | wave id k => rfl
  | gaffer p => rfl
  | firmware d n => rfl
  | none => rfl

/-- INDEX of role 0 is the lane's own item. -/
theorem indexForm_own (b : Option Block) {role : Nat} (hrole : role = 0) (x y z : Word) :
    (indexForm b role 0).at x y z = x ∧ (indexForm b role 1).at x y z = y ∧ (indexForm b role 2).at x y z = z := by
  simp [indexForm, Aff.at, hrole]

/-- Settles O41: each register by its own row, CSRW by the lowest executing lane. -/
theorem specialRegisterInstructionsComplete : Obligations.SpecialRegisterInstructionsComplete := by
  unfold Obligations.SpecialRegisterInstructionsComplete
  refine ⟨fun x s a w sp => csrrWave_member, fun x s c w sp hr => runInstr_wave hr _, fun x s p r l hr hl => ?_, fun x s p r hr hb => ?_,
    fun s id k w l => ?_, fun x s id k w sp hr => ⟨fun hex => ?_, fun l hl => ?_⟩, fun x s p r i hr hg hi hu => ?_⟩
  · refine (runInstr_par hr _).trans (congrArg _ ?_)
    dsimp only
    rw [hl]
  · refine (runInstr_par hr _).trans (congrArg _ ?_)
    have hnone : s.csrForms (parCore p) (s.blockOf r.block) r.role x.b.toNat = none := by
      rcases hb with h | h | h
      all_goals
        rw [h]
        rfl
    dsimp only
    rw [hnone]
    exact vecPar_blows _
  · refine ⟨rfl, rfl, rfl, rfl, fun hrole => ?_, rfl, ?_, rfl, rfl⟩
    · obtain ⟨hx, hy, hz⟩ := indexForm_own (w.block.bind s.blockOf) hrole (w.item l).1 (w.item l).2.1 (w.item l).2.2
      exact ⟨congrArg (fun v => [v]) hx, congrArg (fun v => [v]) hy, congrArg (fun v => [v]) hz⟩
    · show [dieCode id.die] = _
      cases id.die <;> rfl
  · refine (runInstr_wave hr _).trans (congrArg _ ?_)
    dsimp only
    rw [hex, lowest_zero]
    rfl
  · refine (runInstr_wave hr _).trans (congrArg _ ?_)
    dsimp only
    rw [hl]
    rfl
  · refine (runInstr_par hr _).trans (congrArg _ ?_)
    dsimp only [uniPar]
    rw [hg]
    dsimp only
    rw [hi]
    exact if_pos hu

/-! ## The trap window -/

section
variable {f : Form} {i : Instr} {go : State → AgentId → Wave → Split → Bound → Nat → Nat → State} {s : State} {d : Die} {n : Nat} {w : Wave} {sp : Split}

/-- A window instruction with no executing lane passes. -/
theorem exec_window_idle (h : ∀ s, exec i s = windowInstr i.form go s) (hr : Runs s i (.firmware d n) w sp) (hex : w.exec sp i.form = 0) :
    exec i s = .next (s.finishWave (.firmware d n) (w.release i.form.lastReads) sp i.form) := by
  refine (h s).trans ((runInstr_wave hr _).trans (congrArg _ ?_))
  dsimp only
  rw [hex, lowest_zero]
  rfl

/-- Without a binding, or past a class's range, it raises WINDOW. -/
theorem exec_window_refused (h : ∀ s, exec i s = windowInstr i.form go s) {l : Nat} (hr : Runs s i (.firmware d n) w sp) (hl : lowest (w.exec sp i.form) = some l)
    (hbad : (s.fwCore d n).window = .none ∨ windowOk (Word.bits (w.operands (s.formFile ⟨d, 0⟩) i.form l).a0 7 0)
      (Word.bits (w.operands (s.formFile ⟨d, 0⟩) i.form l).a0 15 8) = false) :
    exec i s = .next (s.raise (.wave (.firmware d n) w sp) .illegal .window) := by
  refine (h s).trans ((runInstr_wave hr _).trans (congrArg _ ?_))
  dsimp only
  rw [hl]
  refine if_pos ?_
  rcases hbad with h | h
  · exact Bool.or_eq_true_iff.mpr (.inl (decide_eq_true h))
  · exact Bool.or_eq_true_iff.mpr (.inr (congrArg not h))

/-- Otherwise it acts on what the window is bound to. -/
theorem exec_window_acts (h : ∀ s, exec i s = windowInstr i.form go s) {l : Nat} (hr : Runs s i (.firmware d n) w sp) (hl : lowest (w.exec sp i.form) = some l)
    (hbound : (s.fwCore d n).window ≠ .none)
    (hok : windowOk (Word.bits (w.operands (s.formFile ⟨d, 0⟩) i.form l).a0 7 0) (Word.bits (w.operands (s.formFile ⟨d, 0⟩) i.form l).a0 15 8) = true) :
    exec i s = .next (go s (.firmware d n) w sp (s.fwCore d n).window
      (Word.bits (w.operands (s.formFile ⟨d, 0⟩) i.form l).a0 7 0) (Word.bits (w.operands (s.formFile ⟨d, 0⟩) i.form l).a0 15 8)) := by
  refine (h s).trans ((runInstr_wave hr _).trans (congrArg _ ?_))
  dsimp only
  rw [hl]
  refine if_neg ?_
  intro h
  rcases Bool.or_eq_true_iff.mp h with h | h
  · exact hbound (of_decide_eq_true h)
  · exact absurd ((congrArg not hok).symm.trans h) (by simp)

end

/-- What WINRD does once its window is bound: the bound wave or parison is read, each lane its own word. -/
def winrdGo (f : Form) (s : State) (a : AgentId) (w : Wave) (sp : Split) (bound : Bound) (cls idx : Nat) : State :=
  let (s, ws) := match bound with
    | .wave id => match look id s.waves with
      | some b =>
        let b := if cls = 0 then b.fillGroup (idx / 4) else b
        ({ s with waves := put id b s.waves }, windowWave b (s.formFile ⟨id.die, id.core⟩) cls idx)
      | none => (s, [])
    | .par p => match look p s.pars with
      | some r => s.windowPar r (s.formFile (parCore p)) cls idx
      | none => (s, [])
    | .none => (s, [])
  vecWave f (each fun i => { words := [nth ws i.lane 0] }) s a w sp

/-- What WINWR does once its window is bound: the lanes it executes are written to the bound wave or parison. -/
def winwrGo (f : Form) (s : State) (a : AgentId) (w : Wave) (sp : Split) (bound : Bound) (cls idx : Nat) : State :=
  let ex := w.exec sp f
  let ff := s.formFile (coreOf a)
  let b (l : Nat) : Word := if ex.getLsbD l then (w.operands ff f l).b0 else 0
  let b0 := b ((lowest ex).getD 0)
  let s := s.finishWave a (w.release f.lastReads) sp f
  match bound with
  | .wave id => match look id s.waves with
    | some y =>
      let y := if cls = 0 then y.fillGroup (idx / 4) else y
      { s with waves := put id (writeWindow y (s.formFile ⟨id.die, id.core⟩) cls idx ex b b0) s.waves }
    | none => s
  | .par p => match look p s.pars with
    | some r => s.writeWindowPar p r cls idx ex b b0
    | none => s
  | .none => s

theorem exec_winrd (x : GForm) (s : State) : exec (.winrd x) s = windowInstr (Instr.form (.winrd x)) (winrdGo (Instr.form (.winrd x))) s := rfl

theorem exec_winwr (x : GForm) (s : State) : exec (.winwr x) s = windowInstr (Instr.form (.winwr x)) (winwrGo (Instr.form (.winwr x))) s := rfl

/-- Settles O42: the shared checks of the window first, then what the window is bound to. -/
theorem firmwareInstructionsComplete : Obligations.FirmwareInstructionsComplete := by
  unfold Obligations.FirmwareInstructionsComplete
  refine ⟨fun s d n w sp hcur => ⟨fun i ⟨x, hi⟩ hr => ?_, fun x l id b hr => ?_, fun x l p r hr => ?_, fun x l hr => ?_⟩, fun x s d n w sp hr => ?_⟩
  · rcases hi with rfl | rfl
    · exact ⟨fun hex => exec_window_idle (exec_winrd x) hr hex, fun l hl hbad => exec_window_refused (exec_winrd x) hr hl hbad⟩
    · exact ⟨fun hex => exec_window_idle (exec_winwr x) hr hex, fun l hl hbad => exec_window_refused (exec_winwr x) hr hl hbad⟩
  · intro f sel cls idx hl hok hw hb b1
    refine (exec_window_acts (exec_winrd x) hr hl (by rw [hw]; simp) hok).trans (congrArg _ ?_)
    unfold winrdGo
    rw [hw]
    dsimp only
    rw [hb]
  · intro f sel cls idx hl hok hw hp v
    refine (exec_window_acts (exec_winrd x) hr hl (by rw [hw]; simp) hok).trans (congrArg _ ?_)
    unfold winrdGo
    rw [hw]
    dsimp only
    rw [hp]
  · intro f ex src cls idx b t hl hok
    have hlow : lowest (w.exec sp (Instr.form (.winwr x))) = some l := hl
    refine ⟨fun id y hw hy => ?_, fun p r hw hp => ?_⟩
    · have hlook : look id (s.finishWave (.firmware d n) (w.release (Instr.form (.winwr x)).lastReads) sp (Instr.form (.winwr x))).waves = some y := hy
      refine (exec_window_acts (exec_winwr x) hr hl (by rw [hw]; simp) hok).trans (congrArg _ ?_)
      unfold winwrGo
      rw [hw]
      dsimp only
      rw [hlook, hlow]
      rfl
    · have hlook : look p (s.finishWave (.firmware d n) (w.release (Instr.form (.winwr x)).lastReads) sp (Instr.form (.winwr x))).pars = some r := hp
      refine (exec_window_acts (exec_winwr x) hr hl (by rw [hw]; simp) hok).trans (congrArg _ ?_)
      unfold winwrGo
      rw [hw]
      dsimp only
      rw [hlook, hlow]
      rfl
  · refine ⟨fun hex => ?_, fun l hl hact => ?_, fun l hl hact => ?_⟩
    all_goals
      refine (runInstr_wave hr _).trans (congrArg _ ?_)
      dsimp only
    · rw [hex, lowest_zero]
      rfl
    · rw [hl]
      exact if_neg hact
    · rw [hl]
      exact if_pos hact

/-! ## Traces, samples and slots -/

/-- A descriptor that can be read and is valid, and lanes whose reads all land: the TEX instruction is counted with its results. -/
theorem texWave_issues {δ : Type} {f : Form} {k : OpKind} {bad : Sub} {desc : List Byte → Option δ}
    {lane : Actor → Wave → δ → State → Nat → State × Got (List Word)} {dead : List Word} {t u : State} {a : AgentId} {w : Wave} {sp : Split}
    {b : List Byte} {d : δ} {va : Nat}
    (hva : ((lowest (if w.exec sp f = 0 then sp.act else w.exec sp f)).map fun l => (pairOf (w.operands (t.formFile (coreOf a)) f l).b).toNat).getD 0 = va)
    (ho : (Actor.wave a w sp).ordered = none) (h32 : va % 32 = 0) (hread : t.texRead (Actor.wave a w sp) va 2 = (u, .ok b)) (hd : desc b = some d)
    (hm : (texLanes (lane (Actor.wave a w sp) w d) u (lanesOf (w.exec sp f))).misses = [])
    (hb : (texLanes (lane (Actor.wave a w sp) w d) u (lanesOf (w.exec sp f))).busy = false)
    (hf : (texLanes (lane (Actor.wave a w sp) w d) u (lanesOf (w.exec sp f))).bads = []) :
    texWave f k bad desc lane dead t a w sp =
      let r := texLanes (lane (Actor.wave a w sp) w d) u (lanesOf (w.exec sp f))
      let v := r.s.clearWalks a
      v.issueOp a (v.waveNow a w) sp f { newOp v a sp f k (w.exec sp f) with results := r.results } := by
  unfold texWave
  dsimp only
  refine (inOrder_relaxed ho).trans ?_
  cases hl : lowest (if w.exec sp f = 0 then sp.act else w.exec sp f)
  all_goals
    rw [hl] at hva
    subst hva
    refine (if_neg (by rw [bne_iff_ne]; exact not_not.mpr h32)).trans ?_
    dsimp only [Option.map_none, Option.map_some, Option.getD_none, Option.getD_some] at hread
    rw [hread]
    dsimp only
    rw [hd]
    dsimp only
    rw [hm, hb, hf]
    rfl

/-- Settles O37: the descriptor is read first, then the lanes; a VISR reads its list once the slots are its block's. -/
theorem textureInstructionsComplete : Obligations.TextureInstructionsComplete := by
  unfold Obligations.TextureInstructionsComplete
  refine ⟨fun x s a w sp u b d hr => ?_, fun x s a w sp u b d hr => ?_, fun x => ?_, fun x s p r u ws hr => ⟨fun hg => ?_, fun hg hown hva ho hlist => ?_⟩,
    fun i ⟨x, hi⟩ s p r hr => ?_⟩
  · intro f y t ex va ho hva hread hd r v hm hb hf
    exact (runInstr_wave hr _).trans (congrArg _ (texWave_issues rfl ho hva hread hd hm hb hf))
  · intro f y t ex va ho hva hread hd r v hm hb hf
    exact (runInstr_wave hr _).trans (congrArg _ (texWave_issues rfl ho hva hread hd hm hb hf))
  · exact fun s a w sp hr => runInstr_wave hr _
  · refine (runInstr_par hr _).trans (congrArg _ ?_)
    dsimp only
    rw [hg]
  · refine (runInstr_par hr _).trans (congrArg _ ?_)
    dsimp only
    rw [hg]
    dsimp only
    have hgo : execVisr.go x s p r (.par p r) (pairOf (r.sregs .s2 x.a.toNat)).toNat (nth r.sreg x.b.toNat 0).toNat
        (nth r.sreg (Instr.form (.visr x)).fields.2.2.2 0) =
        u.issuePar p r (Instr.form (.visr x)) { newParOp u r (Instr.form (.visr x)) .visr with
          args := [BitVec.ofNat 32 (Instr.form (.visr x)).ml, nth r.sreg (Instr.form (.visr x)).fields.2.2.2 0] ++ ws } := by
      unfold execVisr.go
      dsimp only
      refine (if_neg (by simp [hva])).trans ?_
      rw [ho, hlist]
    rcases hown with h | h
    · rw [h]
      exact hgo
    · rw [h]
      exact (if_pos rfl).trans hgo
  · rcases hi with rfl | rfl | rfl
    all_goals exact runInstr_par hr _

end Sys2Proof.Machine

/-! Steps of the part at clauses, and the replies that end operations (R22, R87, R90, R126, R158, R162, R172, R173, R266, R268, R277, R279,
R301, R309, R346). -/

namespace Sys2Proof.Machine

/-! ## Clause entry -/

theorem waveOf_of_actorOf {s : State} {id : WaveId} {k : Nat} {w : Wave} {sp : Split}
    (h : s.actorOf (.wave id k) = some (.wave (.wave id k) w sp)) : s.waveOf (.wave id k) = some w := by
  unfold State.actorOf at h
  dsimp only at h
  cases hw : s.waveOf (.wave id k) with
  | none => simp [hw] at h
  | some v =>
    rw [hw] at h
    dsimp only at h
    cases hsp : nth v.slots (slotOf (.wave id k)) none with
    | none => simp [hsp] at h
    | some q =>
      rw [hsp] at h
      cases h
      rfl

theorem waveHeader_reaches {s : State} {id : WaveId} {k : Nat} {w : Wave} {sp : Split} {h : Word} (hreach : canReach w sp = true)
    (hf : s.fetchWord (.wave (.wave id k) w sp) sp.pos.hofs = .word h) (hok : hdrOk h = true) (hcls : hdrCls h ≠ 6) :
    s.waveHeader (.wave id k) w sp =
      if !hdrMet w.ctr h then s.stalled (.wave (.wave id k) w sp) .count
      else match s.atEntry (.wave id k) w sp h with
        | .held s => s
        | .on t q => (t.fetched (.wave (.wave id k) w sp) q.pos.hofs).setWave (.wave id k) ((t.waveNow (.wave id k) w).setSlot k (some (q.enter h))) := by
  unfold State.waveHeader
  dsimp only
  rw [if_neg (by simp [hreach]), hf]
  dsimp only
  rw [if_neg (by simp [hok]), if_neg hcls]
  rfl

theorem atEntry_plain {s : State} {a : AgentId} {w : Wave} {sp : Split} {h : Word} (hsp : hdrSp h = false) : s.atEntry a w sp h = .on s sp := by
  unfold State.atEntry
  rw [hsp]
  rfl

/-- A parison in form mode at a header that is no safe point, whose waits are met, enters its clause. -/
theorem parHeader_enters {s : State} {p : ParId} {r : Parison} {h : Word} (hmode : r.mode = .form) (hst : r.status = .running) (hw : r.wait = .none)
    (hin : r.pos.inside = false) (hdue : r.due = none) (hf : s.fetchWord (.par p r) r.pos.hofs = .word h) (hok : hdrOk h = true) (hcls : hdrCls h ≠ 6)
    (hsp : hdrSp h = false) (hmet : hdrMet r.ctr h = true) : s.parHeader p r = (s.fetched (.par p r) r.pos.hofs).setPar p
      { r with pos := { r.pos with inside := true, pc := r.pos.hofs + 1, hdr := h }, stall := .issued } := by
  unfold State.parHeader
  refine (if_neg (by simp [hmode, hst, hw, hin])).trans ?_
  rw [hdue]
  refine (if_neg (by simp [hmode])).trans ?_
  rw [hf]
  refine (if_neg (by simp [hok])).trans ?_
  have huni : (hdrCls h == 6) = false := by simpa using hcls
  rw [hsp, huni]
  refine (if_neg (by simp)).trans ?_
  refine (if_neg (by simp [hmode])).trans ?_
  refine (if_neg (by simp [hmet])).trans ?_
  refine (if_neg (by simp)).trans ?_
  rw [if_neg Bool.false_ne_true]
  dsimp only [Option.bind_none, Option.getD_none]
  rw [ite_self]
  dsimp only [Option.isSome_none]
  rw [hmode]
  rfl

/-! ## Decisions -/

theorem exec_decision {s : State} {id : WaveId} {k : Nat} {w : Wave} {sp : Split} {h : Word} {p : ParId} {r : Parison}
    (ha : s.actorOf (.wave id k) = some (.wave (.wave id k) w sp)) (hreach : canReach w sp = true)
    (hf : s.fetchWord (.wave (.wave id k) w sp) sp.pos.hofs = .word h) (hok : hdrOk h = true) (hcls : hdrCls h = 6)
    (hp : w.par = some p) (hr : look p s.pars = some r) :
    exec (.decisionConsume (.wave id k)) s = match r.nextFor w with
      | none => .next ((s.stalled (.wave (.wave id k) w sp) .decision).resumeGaffer p sp.pos.hofs)
      | some d =>
        if d.wofs != sp.pos.hofs then .next (s.trap (.wave (.wave id k) w sp) [(Actor.wave (.wave id k) w sp).record .pipeline .decision sp.act 0 0] none)
        else match s.atEntry (.wave id k) w sp h with
          | .held s => .next s
          | .on t q => .next ((t.setWave (.wave id k) ((t.waveNow (.wave id k) w).consume k q d t.opCtr)).trimQueue p) := by
  show execDecisionConsume (.wave id k) s = _
  unfold execDecisionConsume
  rw [ha]
  dsimp only
  rw [if_neg (by simp [hreach]), hf, hp]
  dsimp only
  rw [if_neg (by simp [hok, hcls]), hr]
  rfl

/-! ## Merges -/

/-- A parison that passes the JOIN it waits at, its sibling not merged with it (R162). -/
def Parison.passJoin (r : Parison) : Parison := { r with mode := .form, cuts := r.cuts.drop 1, pos := r.pos.advance 2, stall := .issued }

/-- The predicates that two siblings merge to, when they fit together along a dimension. -/
def mergedPreds (d : Nat) (r t : Parison) : Option (List PBind) :=
  (r.pmap.zip t.pmap).foldr (fun e acc => match mergePred d r.box t.box e.1 e.2, acc with
    | some x, some l => some (x :: l)
    | _, _ => none) (some [])

/-- Two siblings at one JOIN, the first the lower: they merge where they differ in nothing and their predicates fit together. -/
def State.mergeSiblings (s : State) (c : CoreRef) (lp : ParId) (lr : Parison) (hp : ParId) (hr : Parison) : Out :=
  match (lr.box.abut hr.box).bind fun d => mergedPreds d lr hr with
  | some ps =>
    if decide (lr.values (s.formFile c) = hr.values (s.formFile c)) && decide (lr.sreg = hr.sreg) then
      if !(lr.ctr.clear && hr.ctr.clear) then .next s else
      .next (({ s with pars := drop hp s.pars }.setPar lp { lr.passJoin with
        box := { lr.box with x1 := hr.box.x1, y1 := hr.box.y1, z1 := hr.box.z1 }
        pmap := ps.map fun (x : PBind) => x.clip { lr.box with x1 := hr.box.x1, y1 := hr.box.y1, z1 := hr.box.z1 }
        gwd := max lr.gwd hr.gwd, gwp := max lr.gwp hr.gwp }).renameSibling hp fun _ => lp.entry)
    else .next ((s.setPar lp lr.passJoin).setPar hp hr.passJoin)
  | none => .next ((s.setPar lp lr.passJoin).setPar hp hr.passJoin)

theorem exec_merge {s : State} {p : ParId} {r t : Parison} {sib e : Nat} {rest : List (Nat × Nat)} (hr : look p s.pars = some r) (hm : r.mode = .waitJoin)
    (hc : r.cuts = (sib, e) :: rest) (ht : look { p with entry := sib } s.pars = some t) (htm : t.mode = .waitJoin) (hid : t.joinId = r.joinId)
    (hpc : t.pos.pc = r.pos.pc) : exec (.parisonMerge p) s =
      if (r.box.abut t.box).isSome then s.mergeSiblings (parCore p) p r { p with entry := sib } t
      else s.mergeSiblings (parCore p) { p with entry := sib } t p r := by
  show execParisonMerge p s = _
  unfold execParisonMerge
  rw [hr]
  dsimp only
  rw [hm, hc]
  dsimp only
  rw [ht]
  dsimp only
  refine (if_neg (by simp [htm, hid, hpc])).trans ?_
  cases (r.box.abut t.box).isSome
  · rfl
  · rfl

/-- Siblings that differ, or whose boxes or predicates do not fit together, both pass. -/
theorem mergeSiblings_differ {s : State} {c : CoreRef} {lp hp : ParId} {lr hr : Parison}
    (h : lr.values (s.formFile c) ≠ hr.values (s.formFile c) ∨ lr.sreg ≠ hr.sreg ∨ ((lr.box.abut hr.box).bind fun d => mergedPreds d lr hr) = none) :
    s.mergeSiblings c lp lr hp hr = .next ((s.setPar lp lr.passJoin).setPar hp hr.passJoin) := by
  unfold State.mergeSiblings
  split
  next ps hps =>
    refine if_neg ?_
    rw [hps] at h
    simp only [Bool.and_eq_true, decide_eq_true_eq, not_and]
    rcases h with h | h | h
    · exact fun h' => absurd h' h
    · exact fun _ => h
    · exact absurd h (by simp)
  next => rfl

/-- A predicate that cannot merge leaves none. -/
theorem foldr_merge_none {d : Nat} {a b : Box} {e : PBind × PBind} (he : mergePred d a b e.1 e.2 = none) : ∀ (l : List (PBind × PBind)), e ∈ l →
    l.foldr (fun e acc => match mergePred d a b e.1 e.2, acc with
      | some x, some l => some (x :: l)
      | _, _ => none) (some []) = none := by
  intro l
  induction l with
  | nil => exact fun h => absurd h (by simp)
  | cons x t ih =>
    intro h
    rw [List.foldr_cons]
    rcases List.mem_cons.mp h with rfl | h
    · rw [he]
    · rw [ih h]
      cases mergePred d a b x.1 x.2 <;> rfl

/-- What two parisons set leave of the others, in either order. -/
theorem setPar_two {s : State} {p q : ParId} {a b : Parison} (h : q ≠ p) : ∃ u, (s.setPar p a).setPar q b = u ∧ look p u.pars = some a ∧ look q u.pars = some b
    ∧ (∀ i, i ≠ p → i ≠ q → look i u.pars = look i s.pars) ∧ { u with pars := s.pars } = s :=
  ⟨_, rfl, (State.look_setPar_ne _ b h.symm).trans (s.look_setPar p a), State.look_setPar _ q b,
    fun _ hp hq => (State.look_setPar_ne _ b hq).trans (s.look_setPar_ne a hp), rfl⟩

/-! ## The steps -/

/-- Settles O43: each step by the conditions its clause names. -/
theorem clauseStepsComplete : Obligations.ClauseStepsComplete := by
  unfold Obligations.ClauseStepsComplete
  refine ⟨fun s id k w sp h => ?_, fun s p r h hr hmode hst hw hin hdue hf hok hcls hsp hmet => ?_, fun s id k w sp h p r d t q => ?_,
    fun s p r sib e rest t d ps hr hm hc ht htm hid hpc hab hval hs hps hrc htc => ?_,
    fun s p r sib e rest t => ?_, fun s q hq hwalk => ?_, fun s a => rfl, fun s id g w hw hfl => ?_,
    fun s id k w sp scope u hw hsp hwait hmet => ?_, fun s p r scope u hr hwait hmet => ?_⟩
  · intro a x ha hreach hf hok hcls
    have hexec : exec (.clauseHeaderWaitMet a) s = .next (s.waveHeader a w sp) := by
      show execClauseHeaderWaitMet a s = _
      unfold execClauseHeaderWaitMet
      rw [ha]
    rw [hexec, waveHeader_reaches hreach hf hok hcls]
    refine ⟨fun hmet => ?_, fun t q hmet hon => ?_, fun hmet hsp => ?_⟩
    · rw [hmet]
      rfl
    · rw [hmet, hon]
      rfl
    · rw [hmet, atEntry_plain hsp]
      show Host.Outcome.next ((s.fetched x sp.pos.hofs).setWave a ((s.waveNow a w).setSlot k (some (sp.enter h)))) = _
      rw [State.waveNow, waveOf_of_actorOf ha]
      rfl
  · show execClauseHeaderWaitMet (.gaffer p) s = _
    unfold execClauseHeaderWaitMet
    rw [show s.actorOf (.gaffer p) = some (.par p r) by simp [State.actorOf, hr]]
    exact congrArg _ (parHeader_enters hmode hst hw hin hdue hf hok hcls hsp hmet)
  · intro a x ha hreach hf hok hcls hp hr
    rw [exec_decision ha hreach hf hok hcls hp hr]
    refine ⟨fun hn => ?_, fun hn hd hon => ?_, fun hn hd => ?_⟩
    · rw [hn]
    · rw [hn]
      dsimp only
      rw [if_neg (by simp [hd]), hon]
    · rw [hn]
      exact if_pos (by simp [hd])
  · intro box
    rw [exec_merge hr hm hc ht htm hid hpc, if_pos (by rw [hab]; rfl)]
    unfold State.mergeSiblings
    rw [hab]
    dsimp only [Option.bind_some]
    rw [show mergedPreds d r t = some ps from hps]
    dsimp only
    refine (if_pos (by simp [hval, hs])).trans ((if_neg (by simp [hrc, htc])).trans ?_)
    rw [Parison.passJoin, hc]
    rfl
  · intro q hr hm hc hne ht htm hid hpc hdiff
    have hq : q ≠ p := fun h => hne (congrArg ParId.entry h)
    have hpass : r.passJoin = { r with mode := .form, cuts := rest, pos := r.pos.advance 2, stall := .issued } := by rw [Parison.passJoin, hc]; rfl
    rw [exec_merge hr hm hc ht htm hid hpc, ← hpass]
    cases hab : r.box.abut t.box with
    | some d =>
      obtain ⟨u, hu, hp', hq', hrest, hframe⟩ := setPar_two (s := s) (a := r.passJoin) (b := t.passJoin) hq
      refine ⟨u, (if_pos rfl).trans ((mergeSiblings_differ ?_).trans (congrArg _ hu)), hp', hq', hrest, hframe⟩
      rcases hdiff with h | h | ⟨h, -⟩ | ⟨d', b, h, hb, hbad⟩
      · exact .inl h
      · exact .inr (.inl h)
      · exact absurd (hab.symm.trans h) (by simp)
      · obtain rfl : d = d' := Option.some.inj (hab.symm.trans h)
        exact .inr (.inr (by rw [hab]; exact foldr_merge_none hbad _ hb))
    | none =>
      obtain ⟨u, hu, hq', hp', hrest, hframe⟩ := setPar_two (s := s) (a := t.passJoin) (b := r.passJoin) hq.symm
      refine ⟨u, (if_neg (by simp)).trans ((mergeSiblings_differ ?_).trans (congrArg _ hu)), hp', hq', fun i hi hi' => hrest i hi' hi, hframe⟩
      rcases hdiff with h | h | ⟨-, h⟩ | ⟨d', b, h, hb, hbad⟩
      · exact .inl (Ne.symm h)
      · exact .inr (.inl (Ne.symm h))
      · exact .inr (.inr (by rw [h]; rfl))
      · exact absurd (hab.symm.trans h) (by simp)
  · show execPageWalk q s = _
    unfold execPageWalk
    rw [hq]
    exact if_pos hwalk
  · show execRegisterFill id g s = _
    unfold execRegisterFill
    rw [hw]
    dsimp only
    rw [meets_none hfl]
    rfl
  · show execFenceTimePassed (.wave id k) s = _
    unfold execFenceTimePassed
    dsimp only
    rw [show s.waveOf (.wave id k) = some w from hw]
    dsimp only
    rw [show nth w.slots (slotOf (.wave id k)) none = some sp from hsp]
    dsimp only
    rw [hwait]
    exact if_pos hmet
  · show execFenceTimePassed (.gaffer p) s = _
    unfold execFenceTimePassed
    dsimp only
    rw [hr]
    dsimp only
    rw [hwait]
    exact if_pos hmet

end Sys2Proof.Machine

/-! Replies, waits and tile drains (R61, R87, R126, R173, R266, R268, R277, R279, R301, R309, R402). -/

namespace Sys2Proof.Machine

theorem agentOp_wave {s : State} {id : WaveId} {k : Nat} {w : Wave} {o : Op} (hw : look id s.waves = some w) (ho : opOf w.ops o.id = some o) :
    s.agentOp (.wave id k) o.id = some o := by
  simp [State.agentOp, State.agentOps, State.waveOf, hw, ho]

theorem mayRetire_wave {s : State} {id : WaveId} {k : Nat} {w : Wave} {o : Op} (hw : look id s.waves = some w) (ho : oldest w.ops o = true) :
    s.mayRetire (.wave id k) o = true := by
  simp [State.mayRetire, State.agentOps, State.waveOf, hw, ho]

theorem tileFlaw_none {s : State} (h : s.flaws = []) (c : CoreRef) (r : BlockRef) (ns : List Nat) (row : Option Nat) :
    s.tileFlaw c r ns row = (s, none) := by
  simp [State.tileFlaw, h]

/-- Whether an operation is an MDRAIN. -/
def OpKind.isDrain : OpKind → Bool
  | .mdrain _ => true
  | _ => false

theorem OpKind.isDrain_iff {k : OpKind} : k.isDrain = true ↔ ∃ m, k = .mdrain m := by
  cases k <;> simp [OpKind.isDrain]

/-- Settles O44: each reply by the conditions its clause names. -/
theorem repliesComplete : Obligations.RepliesComplete := by
  unfold Obligations.RepliesComplete
  refine ⟨fun s id k w o => ?_, fun s p r o q rest hr ho hk hdone hold hreq hflaw => ?_, fun s a o ho hk hdone hret => ?_,
    fun s a o m w64 red ho hk hdone hret => ?_, fun s a o m ho hk hdone hret => ?_, fun s a w o hw ho hk hret => ?_,
    fun s id k w o amx t => ?_, fun s id k o => ?_⟩
  · intro a hw ho hk hdone hold
    have hop : s.agentOp a o.id = some o := agentOp_wave hw ho
    have hgo : ¬ (!o.kind.isLoad || !o.allDone || !s.mayRetire a o) = true := by
      simp [hk, hdone, show s.mayRetire a o = true from mayRetire_wave hw hold]
    refine ⟨fun hflaw => ?_, fun hflaw hfmt => ?_, fun b t hflaw hfmt => ?_⟩
    all_goals
      show execLoadReply a o.id s = _
      unfold execLoadReply
      rw [hop]
      dsimp only
      refine (if_neg hgo).trans ?_
    · exact if_pos (by simpa using hflaw)
    · refine (if_neg (by simp [hflaw])).trans ?_
      dsimp only [a]
      rw [hfmt, show s.waveOf (.wave id k) = some w from hw]
      rfl
    · refine (if_neg (by simp [hflaw])).trans ?_
      dsimp only [a]
      rw [hfmt, show s.waveOf (.wave id k) = some w from hw]
  · intro names
    have hop : s.agentOp (.gaffer p) o.id = some o := by simp [State.agentOp, State.agentOps, hr, ho]
    have hret : s.mayRetire (.gaffer p) o = true := by simp [State.mayRetire, State.agentOps, hr, hold]
    show execLoadReply (.gaffer p) o.id s = _
    unfold execLoadReply
    rw [hop]
    dsimp only
    refine (if_neg (by simp [hk, hdone, hret, OpKind.isLoad])).trans ((if_neg (by simp [hflaw])).trans ?_)
    rw [hr]
    dsimp only
    rw [hreq]
  · show execStoreAck a o.id s = _
    unfold execStoreAck
    rw [ho]
    dsimp only
    rcases hk with hk | ⟨m, hk⟩
    all_goals
      rw [hk]
      exact if_pos (by simp [hdone, hret])
  · intro zero res t
    have hexec : exec (.atomReply a o.id) s = match o.flawed with
        | [] => .next (t.retire a o)
        | b :: l => .next (t.replyFaults a o (b :: l)) := by
      show execAtomReply a o.id s = _
      unfold execAtomReply
      rw [ho]
      dsimp only
      split
      next m' w' red' hk' =>
        obtain ⟨-, rfl, -⟩ : m = m' ∧ w64 = w' ∧ red = red' := by simpa [hk] using hk'
        refine (if_neg (by simp [hdone, hret])).trans ?_
        cases o.flawed <;> rfl
      next h => exact absurd hk (h m w64 red)
    rw [hexec]
    refine ⟨fun h => ?_, fun h => ?_⟩
    · rw [h]
    · cases hf : o.flawed with
      | nil => exact absurd hf h
      | cons b l => rfl
  · show execOcallReply a o.id s = _
    unfold execOcallReply
    rw [ho]
    dsimp only
    split
    next => exact if_neg (by simp [hdone, hret])
    next h => exact absurd hk (h m)
  · show execTexReply a o.id s = _
    unfold execTexReply
    rw [ho]
    dsimp only
    rcases hk with hk | hk | hk
    all_goals
      rw [hk]
      dsimp only
      refine (if_neg (by simp [hret])).trans ?_
      rw [hw]
  · intro a hw ho hk hready hfl hearlier ht row u top r
    have hop : s.agentOp a o.id = some o := agentOp_wave hw ho
    have hnone : (w.ops.any fun q => decide (q.id < o.id) && q.kind.isDrain && q.slot == o.slot && !q.ready) = false := by
      simp only [List.any_eq_false, Bool.and_eq_true, decide_eq_true_eq, beq_iff_eq]
      rintro q hq ⟨⟨⟨hlt, hdrain⟩, hslot⟩, hnot⟩
      have hdone := hearlier q hq hlt (OpKind.isDrain_iff.mp hdrain) hslot
      simp [hdone] at hnot
    obtain ⟨b, hb, htile⟩ := Option.bind_eq_some_iff.mp ht
    show execTileDrain a o.id s = _
    unfold execTileDrain
    rw [hop, show s.waveOf a = some w from hw]
    refine (if_neg (c := (!o.kind.isDrain || o.ready || w.ops.any fun q => decide (q.id < o.id) && q.kind.isDrain && q.slot == o.slot && !q.ready) = true)
      (by simp [OpKind.isDrain_iff.mpr ⟨amx, hk⟩, hready, hnone])).trans ?_
    dsimp only
    rw [ht]
    dsimp only
    rw [hb]
    dsimp only
    rw [tileFlaw_none hfl]
    rfl
  · intro a hfind hfault r u hflaw
    have hexec : exec (.waitvReread a) s = if !({ o with reqs := r.2 } : Op).allDone then .next (u.setAgentOp a { o with reqs := r.2 }) else
        .next (u.waited a { o with reqs := r.2 } fun l => ((r.2.find? fun q => q.lane == l).map (·.reply)).getD (List.replicate o.vdst.length 0)) := by
      show execWaitvReread a s = _
      unfold execWaitvReread
      split
      next hnone => exact absurd (hfind.symm.trans hnone) (by simp)
      next o' ho' =>
        obtain rfl : o = o' := Option.some.inj (hfind.symm.trans ho')
        dsimp only
        rw [hfault]
        exact if_neg (by rw [show ({ o with reqs := r.2 } : Op).flawed = [] from hflaw]; simp)
    rw [hexec]
    refine ⟨fun h => ?_, fun h => ?_⟩
    · exact if_pos (by rw [show ({ o with reqs := r.2 } : Op).allDone = false from h]; rfl)
    · exact if_neg (by rw [show ({ o with reqs := r.2 } : Op).allDone = true from h]; simp)

end Sys2Proof.Machine

/-! The steps of the home slices, the caches and the crucibles, and the host's accesses (R82, R83, R86 to R88, R102 to R111, R116, R132,
R133). -/

namespace Sys2Proof.Machine

/-! ## Crucibles -/

/-- The batch formed of a pile begins with the pile's oldest bundle. -/
theorem formBatch_cons (b : Bundle) (t : List Bundle) : ∃ x y, formBatch (b :: t) = (b :: x, y) := by
  unfold formBatch
  dsimp only
  split
  · exact ⟨[], t, rfl⟩
  · exact ⟨_, _, rfl⟩

/-! ## The host -/

/-- The part of a host access that lies in the k-th line of a piece (R83). -/
def State.hostLine (h : HostAcc) (home : Home) (pa : Nat) (leaf : DWord) (va n : Nat) (s : State) (k : Nat) : State :=
  let lo := if k = 0 then pa else (pa / 128 + k) * 128
  let hi := min (pa + n) ((pa / 128 + k + 1) * 128)
  if hi ≤ lo then s else
  if h.data.isEmpty then s.atHome (lineAt home lo) (serverOf home) h.ctx (va + (lo - pa)) leaf false else
  let r := s.homeWrite (lineAt home lo) (serverOf home) h.ctx (va + (lo - pa)) leaf [(lo, slice h.data (va - h.va + (lo - pa)) (hi - lo))]
  { r.1 with hostGd := max r.1.hostGd r.2.1, hostGp := max r.1.hostGp r.2.2 }

theorem hostPieces_one (s : State) (h : HostAcc) (home : Home) (pa : Nat) (leaf : DWord) (va n : Nat) :
    s.hostPieces h [(home, pa, leaf, va, n)] = (List.range (n / 128 + 2)).foldl (State.hostLine h home pa leaf va n) s := rfl

section
variable {h : HostAcc} {home : Home} {pa : Nat} {leaf : DWord} {va n : Nat}

theorem hostLine_first (s : State) (h0 : 0 < n) (hfit : pa % 128 + n ≤ 128) : s.hostLine h home pa leaf va n 0 =
    if h.data.isEmpty then s.atHome (lineAt home pa) (serverOf home) h.ctx va leaf false else
      let r := s.homeWrite (lineAt home pa) (serverOf home) h.ctx va leaf [(pa, slice h.data (va - h.va) n)]
      { r.1 with hostGd := max r.1.hostGd r.2.1, hostGp := max r.1.hostGp r.2.2 } := by
  have hhi : min (pa + n) ((pa / 128 + 0 + 1) * 128) = pa + n := by omega
  unfold State.hostLine
  dsimp only
  rw [if_pos rfl, hhi]
  refine (if_neg (by omega)).trans ?_
  rw [Nat.sub_self, Nat.add_zero, Nat.add_zero, Nat.add_sub_cancel_left]

theorem hostLine_past (s : State) (hfit : pa % 128 + n ≤ 128) {k : Nat} (hk : 0 < k) : s.hostLine h home pa leaf va n k = s := by
  have hlo : (if k = 0 then pa else (pa / 128 + k) * 128) = (pa / 128 + k) * 128 := if_neg (by omega)
  have hline : (pa / 128 + 1) * 128 ≤ (pa / 128 + k) * 128 := Nat.mul_le_mul_right _ (by omega)
  exact if_pos (by rw [hlo]; omega)

theorem hostLines_past (hfit : pa % 128 + n ≤ 128) (ks : List Nat) (hks : ∀ k ∈ ks, 0 < k) (s : State) :
    ks.foldl (State.hostLine h home pa leaf va n) s = s := by
  induction ks with
  | nil => rfl
  | cons k t ih =>
    rw [List.foldl_cons, hostLine_past s hfit (hks k (by simp))]
    exact ih fun j hj => hks j (by simp [hj])

/-- A host access within one line is one access at the line's home. -/
theorem hostPieces_line (s : State) (hfit : pa % 128 + n ≤ 128) :
    s.hostPieces h [(home, pa, leaf, va, n)] = s.hostLine h home pa leaf va n 0 := by
  rw [hostPieces_one, List.range_succ_eq_map, List.foldl_cons]
  exact hostLines_past hfit _ (by simp) _

end

theorem hostAcc_write {h : HostAcc} (hdata : h.data ≠ []) : (if h.data.isEmpty then Access.pref else .engineWrite) = .engineWrite :=
  if_neg (by simpa using hdata)

/-- Settles O46: each step by the conditions its clause names. -/
theorem homeStepsComplete : Obligations.HomeStepsComplete := by
  unfold Obligations.HomeStepsComplete
  refine ⟨fun s a o r l ho hnext hk hbusy hserver hfl => ?_, fun s a o r l ho hnext hk hbusy hserver hl1 => ?_,
    fun s a o r l ho hnext hk hbusy hserver => ?_, fun s c l g => ?_, fun s l => rfl, fun s c l => rfl,
    fun s a o m r l k ho hm hnext hkey hbusy hbefore hown hserver t harrive => ?_, fun s r b rest => ?_, fun s r hbatch hrun => ⟨?_, ?_⟩,
    fun s d hsweep => ?_, fun s d => ?_, fun s h t home pa leaf hdata hmap hfree => ?_, fun s h t home pa leaf hdata hfit hmap => ?_,
    fun s h t hdata hlen hmap => ?_⟩
  · intro u
    show execHomeRead a o.id s = _
    unfold execHomeRead
    rw [ho]
    dsimp only
    rw [hnext]
    dsimp only
    refine (if_neg (by simp [hk, hbusy])).trans ((if_neg (by simp [hserver])).trans ?_)
    rw [homeFlaw_none hfl, ite_self]
  · show execHomeRead a o.id s = _
    unfold execHomeRead
    rw [ho]
    dsimp only
    rw [hnext]
    dsimp only
    refine (if_neg (by simp [hk, hbusy])).trans ((if_pos (by simp [hserver])).trans ?_)
    rw [hl1]
    dsimp only
    rw [ite_self, hl1]
  · intro t u
    show execHomeWrite a o.id s = _
    unfold execHomeWrite
    rw [ho]
    dsimp only
    rw [hnext, hk]
    dsimp only
    exact (if_neg (by simp [hbusy])).trans (if_neg (by simp [hserver]))
  · intro t hg hcore hdie hown hk ha hpile
    show execOwnershipGrant c l s = _
    unfold execOwnershipGrant
    dsimp only
    rw [show (s.tag l).grantTo = some g from hg]
    exact if_pos (by simp [hcore, hdie, show (s.tag l).owner = none from hown, hpile, show (s.tag l).leK < s.now (serverOf l.home) from hdie ▸ hk, show (s.tag l).leA < s.now (serverOf l.home) from hdie ▸ ha])
  · show execBundleArrive a o.id s = _
    unfold execBundleArrive
    rw [ho]
    dsimp only
    rw [hm, hnext]
    dsimp only
    rw [hkey]
    dsimp only
    refine (if_neg (by simp [hbusy, hbefore])).trans ((if_neg (by simp [hown])).trans ((if_neg (by simp [hserver])).trans ?_))
    split
    next t' harrive' => rw [Option.some.inj (harrive.symm.trans harrive')]
    next hnone => exact absurd (harrive.symm.trans hnone) (by simp)
  · intro c hb hp g c1
    obtain ⟨x, y, hform⟩ := formBatch_cons b rest
    have hexec : exec (.formBatch r) s = match b.key with
        | .object l pa m => .next (s.startObject r c1 l.home pa m)
        | .line _ _ _ => .next (s.putCrucible r c1) := by
      have hg : g = (b :: x, y) := by rw [← hform, ← hp]
      show execFormBatch r s = _
      unfold execFormBatch
      dsimp only
      refine (if_neg (by rw [show (s.crucible r).batch = [] from hb]; simp)).trans ?_
      rw [show formBatch (s.crucible r).pile = (b :: x, y) from hg]
      dsimp only [c1]
      rw [hg]
      dsimp only [List.head?_cons, Option.map_some]
      cases b.key <;> rfl
    rw [hexec]
    refine ⟨fun l m w h => ?_, fun l pa m h => ?_⟩
    all_goals rw [h]
  · intro l m w hhead hhalf htwo
    show execBatchPerform r s = _
    unfold execBatchPerform
    dsimp only
    refine (if_neg (by simpa using ⟨hbatch, hrun⟩)).trans ?_
    rw [hhead]
    exact if_pos (by simp [hhalf, htwo])
  · intro htwo
    show execBatchPerform r s = _
    unfold execBatchPerform
    dsimp only
    refine (if_neg (by simpa using ⟨hbatch, hrun⟩)).trans ?_
    split
    next l m w hhead =>
      refine if_neg ?_
      simp only [Bool.and_eq_true, Option.isNone_iff_eq_none, not_and]
      exact fun h h' => by simp [htwo l m w hhead h'] at h
    next => rfl
  · show Host.Outcome.next (s.sweepAll d) = _
    have hns : ((s.die d).sweeps (s.now d)).isEmpty = false := by
      simp only [DieState.sweeps, List.isEmpty_eq_false_iff, ne_eq, List.map_eq_nil_iff, List.range_eq_nil]
      omega
    refine congrArg _ ((if_neg (by rw [hns]; simp)).trans ?_)
    simp only [DieState.sweeps, List.any_map]
    rfl
  · intro n hn
    refine congrArg (fun x => Host.Outcome.next (s.setDie d x)) (if_neg (by omega))
  · have hbusy : ¬ (s.slotsBusy .kapael [(home, pa, leaf, h.va, 1)] || s.slotsBusy .amdukor [(home, pa, leaf, h.va, 1)]) = true := by
      simp [hfree]
    show Host.Outcome.next (s.hostTry h) = _
    refine congrArg _ ?_
    unfold State.hostTry
    simp only [hdata, List.isEmpty_nil, if_true, List.length_nil, Nat.zero_div, Nat.zero_add, Nat.max_zero]
    rw [hmap]
    refine (if_neg hbusy).trans ((hostPieces_line t (by omega)).trans ((hostLine_first t (by omega) (by omega)).trans ?_))
    rw [hdata]
    rfl
  · have hpos : 0 < h.data.length := List.length_pos_iff.mpr hdata
    have htry : exec (.hostAccess h) s = .next (if s.slotsBusy .kapael [(home, pa, leaf, h.va, h.data.length)] || s.slotsBusy .amdukor [(home, pa, leaf, h.va, h.data.length)]
        then { s with hostHeld := s.hostHeld ++ [h] } else t.hostPieces h [(home, pa, leaf, h.va, h.data.length)]) := by
      show Host.Outcome.next (s.hostTry h) = _
      refine congrArg _ ?_
      unfold State.hostTry
      dsimp only
      rw [hostAcc_write hdata, Nat.max_eq_right hpos, show h.data.length / 4096 = 0 by omega, Nat.zero_add, hmap]
    refine ⟨fun d hbusy => ?_, fun hfree => ?_⟩
    · refine htry.trans (congrArg _ (if_pos ?_))
      cases d
      all_goals simp [hbusy]
    · refine htry.trans (congrArg _ ((if_neg (by simp [hfree])).trans ((hostPieces_line t hfit).trans ((hostLine_first t hpos hfit).trans ?_))))
      rw [Nat.sub_self, show slice h.data 0 h.data.length = h.data by simp [slice]]
      exact if_neg (by simpa using hdata)
  · have hpos : 0 < h.data.length := List.length_pos_iff.mpr hdata
    show Host.Outcome.next (s.hostTry h) = _
    refine congrArg _ ?_
    unfold State.hostTry
    dsimp only
    rw [hostAcc_write hdata, Nat.max_eq_right hpos, show h.data.length / 4096 = 0 by omega, Nat.zero_add, hmap]

end Sys2Proof.Machine

/-! Budgets, profile samples, and what a firmware core does with its events (R313, R328, R334, R339, R342, R343, R360). -/

namespace Sys2Proof.Machine

/-! ## Budgets and samples -/

/-- Settles O50: each step by the condition its clause names. -/
theorem budgetStepsComplete : Obligations.BudgetStepsComplete := by
  unfold Obligations.BudgetStepsComplete
  refine ⟨fun s n c hc h0 hheld hspent => ?_, fun s n c hc hdue => ?_, fun s d hdue => ?_, fun s c part hpart => ?_⟩
  · show execBudgetExhausted n s = _
    unfold execBudgetExhausted
    rw [hc]
    exact if_neg (by simp [h0, hheld, hspent])
  · show execBudgetPeriodStart n s = _
    unfold execBudgetPeriodStart
    rw [hc]
    exact if_neg (by omega)
  · show execBudgetReport d s = _
    unfold execBudgetReport
    refine (if_neg (by omega)).trans ?_
    cases d <;> rfl
  · intro m now due hne e t
    show execProfileSample c part s = _
    unfold execProfileSample
    refine (if_neg ?_).trans ?_
    · simp only [Bool.or_eq_true, decide_eq_true_eq, not_or]
      exact ⟨fun h => hne (List.isEmpty_iff.mp h), by omega⟩
    · dsimp only [t, e]
      cases ((s.onPart c part).find? fun e => decide (nth m.rotate part 0 ≤ e.1.slot)) <|> (s.onPart c part).head? <;> rfl

/-! ## Firmware -/

/-- Whether the standard handler holds a wave or parison for the debugger at a cause (R343). -/
def holdsAt (dbg : Debug) : Cause → Bool
  | .step | .halt => true
  | .bkpt => dbg.enable
  | _ => dbg.faultHold

/-- What a firmware core does with an event that it has taken out of the queue (R328). -/
def State.eventTaken (t : State) (d : Die) (n : Nat) : FwEvent → State
  | .doorbell q => t.onQueue (some q) fun q => { q with bell := true }
  | .mgmtDoorbell => t.onQueue none fun q => { q with bell := true }
  | e => match t.trapTarget e with
    | some (b, q, _, _) => (t.putFw d n { busy := true, window := b }).lockQueue (some q) true
    | none => t

theorem eventTaken_stopped (t : State) (d : Die) (n : Nat) {e : FwEvent} (hq : ∀ q, e ≠ .doorbell q) (hm : e ≠ .mgmtDoorbell) : t.eventTaken d n e =
    match t.trapTarget e with
    | some (b, q, _, _) => (t.putFw d n { busy := true, window := b }).lockQueue (some q) true
    | none => t := by
  cases e
  case doorbell q => exact absurd rfl (hq q)
  case mgmtDoorbell => exact absurd rfl hm
  all_goals rfl

/-- Settles O51: the oldest event that can run picks the branch, and then the first cause in the order of delivery. -/
theorem firmwareStepsComplete : Obligations.FirmwareStepsComplete := by
  unfold Obligations.FirmwareStepsComplete
  refine ⟨fun s d n e hidle hn hfind => ?_, fun s d n b c rest cx hbusy hw hb hdel hcx => ?_, fun s d n b hbusy hw hb hnone => ?_⟩
  · intro t
    have hexec : exec (.firmwareEventTake d n) s = .next (t.eventTaken d n e) := by
      show execFirmwareEventTake d n s = _
      unfold execFirmwareEventTake
      refine (if_neg (by simp [hidle, hn])).trans ?_
      rw [hfind]
      cases e
      case doorbell | mgmtDoorbell => rfl
      all_goals
        dsimp only [State.eventTaken, t]
        generalize State.trapTarget _ _ = o
        rcases o with _ | ⟨b, q, x, y⟩ <;> rfl
    rw [hexec]
    refine ⟨fun q h => ?_, fun h => ?_, fun hq hm => ⟨fun b q x y h => ?_, fun h => ?_⟩⟩
    · rw [h]
      rfl
    · rw [h]
      rfl
    all_goals
      rw [eventTaken_stopped t d n hq hm, h]
  · intro dbg t
    have hexec : exec (.trapDeliver d n) s =
        if c.cause = .bkpt && !dbg.enable then .next ((t.resumeBound b).handlerEnds d n)
        else if holdsAt dbg c.cause then .next (((t.faultEntry cx d 3 { c with held := holdsAt dbg c.cause }.bytes).holdBound b).handlerEnds d n)
        else .next (((t.faultEntry cx d 3 { c with held := holdsAt dbg c.cause }.bytes).handlerEnds d n).endContext cx 15) := by
      show execTrapDeliver d n s = _
      unfold execTrapDeliver
      dsimp only
      rw [hw]
      refine (if_neg (by simp [hbusy, hb])).trans ?_
      rw [hdel, hcx]
      rfl
    rw [hexec]
    refine ⟨fun h hoff => ?_, fun h => ?_, fun hs hh hk => ?_⟩
    · exact if_pos (by simp [h, hoff])
    · have hhold : holdsAt dbg c.cause = true := by
        rcases h with h | h | ⟨h, he⟩
        all_goals rw [h]
        · rfl
        · rfl
        · exact he
      refine (if_neg ?_).trans ?_
      · rcases h with h | h | ⟨h, he⟩
        all_goals simp [h]
        exact he
      · rw [hhold]
        rfl
    · have hhold : holdsAt dbg c.cause = dbg.faultHold := by
        cases hc : c.cause
        case step => exact absurd hc hs
        case halt => exact absurd hc hh
        case bkpt => exact absurd hc hk
        all_goals rfl
      refine (if_neg (by simp [hk])).trans ?_
      rw [hhold]
      cases dbg.faultHold <;> rfl
  · show execTrapDeliver d n s = _
    unfold execTrapDeliver
    dsimp only
    rw [hw]
    refine (if_neg (by simp [hbusy, hb])).trans ?_
    rcases hnone with h | h
    · rw [h]
    · rw [h]
      cases delivery (s.boundCauses b) <;> rfl

end Sys2Proof.Machine

/-! Tile ops, visibility slots, jobs and page moves (R133, R134, R299, R303 to R306, R311). -/

namespace Sys2Proof.Machine

/-! ## The marver -/

/-- The rows of A that a tile op multiplies: a chained op takes them from its tiles. -/
def State.aRows (u : State) (r : BlockRef) (t : TileOp) (i g : Nat) : MBlock :=
  if t.mods % 4 = 2 then
    chainBlock (if tileName (nth (wordsOf t.a) g 0) = 0x3FF then none else u.tile r (tileName (nth (wordsOf t.a) g 0)))
      (tileScale (nth (wordsOf t.a) g 0)) i
  else aBlock (slice t.a (256 * i + 64 * g) 64)

theorem flaws_setTile {s : State} (h : s.flaws = []) {r : BlockRef} {n : Nat} {t : Tile} : (s.setTile r n t).flaws = [] := by
  unfold State.setTile
  split
  · exact h
  · exact h

theorem exec_tileOp {s : State} {c : CoreRef} {t : TileOp} {rest : List TileOp} {r : Parison} {ct : Tile} {o : Op} (hfl : s.flaws = [])
    (hm : s.marver c = t :: rest) (hr : look t.par s.pars = some r) (hct : s.tile r.block t.tile = some ct) (ho : opOf r.ops t.op = some o) :
    exec (.tileOp c) s = .next ((if t.zero then ((s.setMarver c rest).setTile r.block t.tile ct.mzero) else
      let c1 := ct.mma ((List.range 64).map fun i => (List.range 4).map ((s.setMarver c rest).aRows r.block t i))
        ((List.range 62).map fun j => bBlock (slice t.b (64 * j) 64))
      let v := (s.setMarver c rest).setTile r.block t.tile c1
      if t.mods / 4 % 2 = 1 then v.setHist (some r.block) (t.mods / 8) ((v.hist (some r.block) (t.mods / 8)).countTile c1) else v).setAgentOp
        (.gaffer t.par) { o with ready := true }) := by
  have hu : (s.setMarver c rest).flaws = [] := (State.setDie_flaws _ _ _).trans hfl
  have hru : look t.par (s.setMarver c rest).pars = some r := (congrArg (look t.par) (State.setDie_pars _ _ _)).trans hr
  have hctu : (s.setMarver c rest).tile r.block t.tile = some ct := by
    rw [← hct]
    exact congrArg (fun bs => (look r.block bs).bind fun b => b.tiles[t.tile]?) (State.setDie_blocks _ _ _)
  show execTileOp c s = _
  unfold execTileOp
  rw [hm]
  dsimp only
  generalize s.setMarver c rest = u at hu hru hctu ⊢
  rw [hru]
  dsimp only
  rw [hctu]
  dsimp only
  rw [tileFlaw_none hu]
  dsimp only
  rw [ho]
  dsimp only
  cases t.zero
  · simp only [Bool.false_eq_true, if_false, beq_iff_eq]
    rfl
  · simp only [if_true]
    rw [heals_none (flaws_setTile hu)]

/-! ## Jobs -/

/-- A started job whose accesses are still to be made moves everything, unless it is held at one. -/
theorem exec_job_runs {s : State} {d : Die} {j : Job} (hj : ((s.die d).jobs.find? fun x => x.id == j.id) = some j) (hidle : s.fwIdle d = true)
    (hf : j.fault = none) (hst : j.started = true) (hp : j.performed = false) (hb : s.budgetHeld j.ctx = false) :
    exec (.jobComplete d j.id) s = match s.jobRun d j (jobSteps j.card - j.step) j.step j.gd j.gp with
      | .ok (t, gd, gp) => .next (t.putJob d { j with performed := true, waiting := false, gd := gd, gp := gp })
      | .wait t => .next t
      | .bad t sub va => .next (t.faultJob d j sub va) := by
  show execJobComplete d j.id s = _
  unfold execJobComplete
  rw [hj]
  dsimp only
  refine (if_neg (by simp [hidle])).trans ?_
  rw [hf]
  dsimp only
  exact (if_neg (by simp [hst, hp, hb])).trans ((if_pos (by simp [hp])).trans (by rfl))

/-- A job that has moved everything ends once its writes are acknowledged and passed by pair time, its token signalled first. -/
theorem exec_job_ends {s : State} {d : Die} {j : Job} (hj : ((s.die d).jobs.find? fun x => x.id == j.id) = some j) (hidle : s.fwIdle d = true)
    (hf : j.fault = none) (hst : j.started = true) (hp : j.performed = true) (hfar : s.farOut d (.job j.id) = false) (hgp : j.gp = 0 ∨ j.gp < s.now d) :
    exec (.jobComplete d j.id) s = if cardFlags j.card % 2 == 1 && !j.signalled then
        match s.fwSignal ⟨d, .job j.id⟩ j.ctx (cardToken j.card) { n := 1, gd := j.gd, gp := j.gp, dies := dieBit d, core := 0, multi := true } with
        | .ok t => .next (if t.farOut d (.job j.id) then t.putJob d { j with signalled := true } else t.endJob d j)
        | .wait t => .next (t.putJob d { j with waiting := true })
        | .bad t sub va => .next (t.faultJob d j sub va)
      else .next (s.endJob d j) := by
  show execJobComplete d j.id s = _
  unfold execJobComplete
  rw [hj]
  dsimp only
  refine (if_neg (by simp [hidle])).trans ?_
  rw [hf]
  dsimp only
  refine (if_neg (by simp [hst, hp])).trans ((if_neg (by simp [hp])).trans ((if_neg ?_).trans (by rfl)))
  simp only [hfar, Bool.false_or, Bool.and_eq_true, decide_eq_true_eq, bne_iff_ne]
  omega

/-- Settles O48: each step by the conditions its clause names. -/
theorem engineStepsComplete : Obligations.EngineStepsComplete := by
  unfold Obligations.EngineStepsComplete
  refine ⟨fun s c t rest r ct o hfl hm hr hct ho => ?_, fun s0 p r o b hr ho hk hready hown => ?_, fun s d j hj hst hf hheld hbank hbud => ?_,
    fun s d j hj hidle => ⟨fun sub va hf => ?_, fun t gd gp hf hst hp hb hrun => ?_, fun t sub va hf hst hp hb hrun => ?_,
      fun hf hst hp hfar hgp => ⟨fun hno => ?_, fun t hflag hsig hsignal => ?_⟩⟩,
    fun s p m c hm hc hstage hck hneed htransit hbusy => ?_⟩
  · intro u
    rw [exec_tileOp hfl hm hr hct ho]
    refine ⟨fun hz => ?_, fun hz => ?_⟩
    all_goals
      rw [hz]
      rfl
  · intro s hb ml org v
    have hdraw : execVisrSlotAction.draw p s r o = (s.putBlock r.block { b with slots := b.slots.set (ml % 4) v }).mapOps (.gaffer p)
        fun l => setOp l { o with ready := true } := by
      unfold execVisrSlotAction.draw
      rw [hb]
      simp only [beq_iff_eq]
      rfl
    have hexec : exec (.visrSlotAction p o.id) s0 = .next (execVisrSlotAction.draw p s r o) := by
      show execVisrSlotAction p o.id s0 = _
      unfold execVisrSlotAction
      rw [hr]
      dsimp only
      rw [ho]
      dsimp only
      refine (if_neg (by simp [hk, hready])).trans ?_
      rcases hown with h | h
      · rw [h]
        dsimp only [s]
        rw [h]
        exact if_pos rfl
      · rw [h]
        dsimp only [s]
        rw [if_pos h]
    rw [hexec, hdraw]
  · show execJobStart d j.id s = _
    unfold execJobStart
    dsimp only
    rw [hj]
    exact if_neg (by simp [hst, hf, hheld, hbank, hbud])
  · show execJobComplete d j.id s = _
    unfold execJobComplete
    rw [hj]
    dsimp only
    refine (if_neg (by simp [hidle])).trans ?_
    rw [hf]
  · rw [exec_job_runs hj hidle hf hst hp hb, hrun]
  · rw [exec_job_runs hj hidle hf hst hp hb, hrun]
  · rw [exec_job_ends hj hidle hf hst hp hfar hgp]
    refine if_neg ?_
    rcases hno with h | h
    · simp [h]
    · simp [h]
  · rw [exec_job_ends hj hidle hf hst hp hfar hgp, if_pos (by simp [hflag, hsig]), hsignal]
    refine ⟨fun h => ?_, fun h => ?_⟩
    · exact congrArg _ (if_neg (by simp [h]))
    · exact congrArg _ (if_pos h)
  · have hexec : exec (.moveStart p m.dst) s = if s.moveRefused c m then .next (s.refuseMove m)
        else if m.dst = c.resident then
          match s.allocFrame m.ctx m.dst m.size false with
           | .error _ => .next (s.refuseMove m)
           | .ok (t, pa) => .next (t.beginDrain m pa)
        else .next ((s.request c.resident (.move m.ctx m.va) { s.mkMsg c.resident tyHomeReq m.ctx m.va with
            aux0 := BitVec.ofNat 64 m.size, aux1 := if m.dst = .amdukor then 1 else 0 }).putMove { m with stage := .asked }) := by
      show execMoveStart p m.dst s = _
      unfold execMoveStart
      rw [hm]
      dsimp only
      refine (if_neg (by simp)).trans ?_
      rw [hc]
      dsimp only
      rw [hstage]
      dsimp only
      refine (if_neg ?_).trans ?_
      · simp only [Bool.or_eq_true, decide_eq_true_eq, not_or]
        refine ⟨⟨⟨by omega, by simp [hck]⟩, ?_⟩, by simp [htransit]⟩
        rcases hneed with h | h
        all_goals simp [h]
      · cases m.dst <;> rfl
    rw [hexec]
    refine ⟨fun h => ?_, fun t pa h hdst hfree => ?_, fun h hdst => ?_⟩
    · exact if_pos h
    · rw [if_neg (by simp [h]), if_pos hdst, hfree]
    · rw [if_neg (by simp [h]), if_neg hdst]

end Sys2Proof.Machine

/-! Admission, reservation, saves, snapshots, rollbacks and the completion of launches (R98, R166, R167, R170, R322, R329, R330, R345 to R347,
R363 to R365). -/

namespace Sys2Proof.Machine

/-- A write completion time that is zero or passed, of every core of a list, makes the largest so. -/
theorem foldl_gp_passed {α : Type} {g : α → Nat} {now : Nat} (l : List α) (h : ∀ e ∈ l, g e = 0 ∨ g e < now) {m : Nat} (hm : m = 0 ∨ m < now) :
    l.foldl (fun m e => max m (g e)) m = 0 ∨ l.foldl (fun m e => max m (g e)) m < now := by
  induction l generalizing m with
  | nil => exact hm
  | cons e t ih =>
    refine ih (fun x hx => h x (by simp [hx])) ?_
    have := h e (by simp)
    dsimp only
    omega

/-- A snapshot of a block whose waves all stand at their capture points is written where there is room for its record. -/
theorem exec_snapshot {s : State} {ref : BlockRef} {b : Block} {ws : List WaveId} {c : Context} (hb : s.blockOf ref = some b) (hdue : b.snapDue = some ws)
    (hc : s.ctx b.ctx = some c) (hcap : ∀ e ∈ s.waves, e.1 ∈ ws → e.2.block = some ref → atCapture e.2 = true) :
    exec (.snapshot ref) s = if Config.hasRoom s.freeCtr then
        let v := snapImage b (s.imageOf ref b)
        let data := snapBytes (s.snaps.find? (isSnapOf b)) b v
        let region := ((s.launch b.launch).map (·.snapva)).getD 0
        let used := (look region c.snapUsed).getD 0
        match s.writeSnap ref b (region + used) data with
        | .wait t => .next t
        | .bad t sub a => .next ({ t with freeCtr := t.freeCtr + 1 }.noSnap ref b sub a)
        | .ok t =>
          let u := (({ t with freeCtr := t.freeCtr + 1 }.putCtx { (t.ctx b.ctx).getD c with
            snapUsed := put region (used + 8 + data.length) ((t.ctx b.ctx).getD c).snapUsed }).onBlock ref fun (x : Block) =>
              { x with irrev := false, failsSince := 0, snapNo := x.snapNo + 1
                       tiles := x.tiles.map fun (t : Tile) => { t with dirty := false } }).endCapture ref
          match u.blockOf ref with
          | none => .next u
          | some x => .next (u.keepSnap (snapImage b (u.imageOf ref x)).record)
      else .next ({ s with freeCtr := s.freeCtr + 1 }.noSnap ref b .snapNoroom 0) := by
  have hall : ((s.waves.filter fun e => ws.contains e.1 && decide (e.2.block = some ref)).all fun e => atCapture e.2) = true := by
    simp only [List.all_eq_true, List.mem_filter, Bool.and_eq_true, List.contains_iff_mem, decide_eq_true_eq]
    rintro e ⟨he, hin, href⟩
    exact hcap e he hin href
  show execSnapshot ref s = _
  unfold execSnapshot
  rw [hb]
  dsimp only
  rw [hdue, hc]
  refine (if_neg (by simp only [hall]; simp)).trans ?_
  cases Config.hasRoom s.freeCtr
  · rfl
  · rfl

/-- Settles O49: each step by the conditions its clause names. -/
theorem schedulingStepsComplete : Obligations.SchedulingStepsComplete := by
  unfold Obligations.SchedulingStepsComplete
  refine ⟨fun s c n l k im ps hl hdie hfirst hwork him hps => ?admission, fun s n l hl hover hidle hback => ⟨fun t hsig hs => ?signal, fun hsig hgp => ?finish⟩,
    fun s c n l cells t hl hdie hres hpass hlate hrect hfirst hfree => ?reserve, fun s c l t e hl hat hlate hfits => ?preempt,
    fun s c v l vs ps hv hl hdie hfirst hwork hin hps => ?restore, fun s ref b hb => ⟨fun hst hy => ?stop, fun hst hq hcan hset => ?save⟩,
    fun s ref t hev hdue => ?retry, fun s ref b ws c hb hdue hc hcap => ?snap, fun s ref b hb hsoft hend => ?ends,
    fun s ref b v l hb hsoft hirr hfails hv hl => ?back, fun s n l hl hmet hidle => ?gates⟩
  case admission =>
    show execBlockAdmit c n s = _
    unfold execBlockAdmit
    rw [hl]
    dsimp only
    refine (if_neg (by simp [hdie, hfirst])).trans ?_
    rw [hwork, him]
    dsimp only
    rw [hps] <;> rfl
  case signal =>
    show execLaunchComplete n s = _
    unfold execLaunchComplete
    rw [hl]
    dsimp only
    refine (if_neg (by simp [hover, hidle, hback])).trans ((if_pos (by simp [hsig])).trans ?_)
    rw [hs]
  case finish =>
    show execLaunchComplete n s = _
    unfold execLaunchComplete
    rw [hl]
    dsimp only
    refine (if_neg (by simp [hover, hidle, hback])).trans ((if_neg (by simp [hsig])).trans (if_neg ?_))
    have := foldl_gp_passed l.cores hgp (m := 0) (.inl rfl)
    simp only [Bool.and_eq_true, bne_iff_ne, decide_eq_true_eq]
    omega
  case reserve =>
    show execDispatchReserve c n s = _
    unfold execDispatchReserve
    rw [hl]
    dsimp only
    rw [hrect, hpass]
    refine if_neg ?_
    have hany : (cells.any fun e => s.reservedFor l ⟨l.die, e.2⟩) = false := by simpa using hfree
    simp only [Bool.or_eq_true, decide_eq_true_eq, not_or, hany]
    exact ⟨⟨⟨⟨by simp [hdie], by simp [hres]⟩, by omega⟩, by simp [hfirst]⟩, by simp⟩
  case preempt =>
    intro here hstopped hlast
    show execReservePreempt c s = _
    unfold execReservePreempt
    rw [hl]
    dsimp only
    rw [hat]
    refine (if_neg ?_).trans ?_
    · have hany : (here.any fun e => e.2.stopped) = false := by simpa using hstopped
      simp only [Bool.or_eq_true, not_or]
      exact ⟨⟨by simpa using hlate, by rw [hfits]; simp⟩, by rw [hany]; simp⟩
    · rw [hlast]
  case restore =>
    show execBlockRestore v.id c s = _
    unfold execBlockRestore
    rw [hv]
    dsimp only
    rw [hl]
    dsimp only
    refine (if_neg (by simp [hdie, hfirst])).trans ?_
    rw [hwork]
    dsimp only
    refine (if_neg ?_).trans ?_
    · obtain ⟨u, hu, hid⟩ := hin
      have hany : (vs.any fun u => u.id == v.id) = true := List.any_eq_true.mpr ⟨u, hu, by simp [hid]⟩
      simp only [hany]
      simp
    · rw [hps] <;> rfl
  case stop =>
    show execPreempt ref s = _
    unfold execPreempt
    rw [hb]
    exact (if_pos (by simp [hst])).trans (congrArg _ (if_pos hy))
  case save =>
    have hall : ((s.cohortOf ref b).all fun e => s.blockSettled e.1) = true := by simpa using hset
    show execPreempt ref s = _
    unfold execPreempt
    rw [hb]
    refine (if_neg (by simp [hst])).trans ((if_neg (by rw [hq, hcan, hall]; simp)).trans ?_)
    cases Config.hasRoom s.freeCtr
    · rfl
    · rfl
  case retry =>
    show execSaveRetry ref s = _
    unfold execSaveRetry
    refine (if_pos (List.any_eq_true.mpr ⟨_, hev, ?_⟩)).trans (by rfl)
    simpa using hdue
  case snap =>
    intro count v data region used full
    rw [exec_snapshot hb hdue hc hcap]
    have hif (x y : State) : (if Config.hasRoom s.freeCtr then (.next x : Out) else .next y) = .next (if Config.hasRoom s.freeCtr then x else y) :=
      (apply_ite Host.Outcome.next _ _ _).symm
    refine ⟨fun t hw => ?_, fun t sub a hw => ?_, ?_⟩
    · refine (congrArg (fun o => if Config.hasRoom s.freeCtr then o else _) ?_).trans (hif t full)
      dsimp only
      rw [show s.writeSnap ref b (region + used) data = _ from hw]
    · refine (congrArg (fun o => if Config.hasRoom s.freeCtr then o else _) ?_).trans (hif _ full)
      dsimp only
      rw [show s.writeSnap ref b (region + used) data = _ from hw]
    · intro t c1 x hw hc1 u hx
      refine (congrArg (fun o => if Config.hasRoom s.freeCtr then o else _) ?_).trans (hif _ full)
      dsimp only
      rw [show s.writeSnap ref b (region + used) data = _ from hw]
      dsimp only
      rw [hc1]
      dsimp only [Option.getD_some]
      split
      next hnone => exact absurd (hx.symm.trans hnone) (by simp)
      next x' hx' => rw [Option.some.inj (hx.symm.trans hx')]
  case ends =>
    show execRollback ref s = _
    unfold execRollback
    rw [hb]
    refine (if_neg (by simp [hsoft])).trans (if_pos ?_)
    rcases hend with h | h
    · simp [h]
    · simp [h]
  case back =>
    have hroll : exec (.rollback ref) s = execRollback ref s := rfl
    intro t
    refine ⟨fun hwait => ?_, ?_⟩
    · rw [hroll]
      unfold execRollback
      rw [hb]
      refine (if_neg (by simp [hsoft])).trans ((if_neg (by simp [hirr, hfails])).trans ?_)
      rw [hv, hl]
      exact if_pos (by rw [show (s.askBlock ref .preempt).retired ref = false from hwait]; rfl)
    · intro p hret fails u0 u r hplan
      rw [hroll]
      unfold execRollback
      rw [hb]
      refine (if_neg (by simp [hsoft])).trans ((if_neg (by simp [hirr, hfails])).trans ?_)
      rw [hv, hl]
      refine (if_neg (by rw [show (s.askBlock ref .preempt).retired ref = true from hret]; simp)).trans ?_
      dsimp only
      split
      next p' hp' => rw [Option.some.inj (hplan.symm.trans hp')]
      next hnone => exact absurd (hplan.symm.trans hnone) (by simp)
  case gates =>
    have hexec : exec (.twaitGateMet n) s = match s.readGates ⟨l.die, .launch l.id⟩ l.ctx l.gates with
        | .no s => .next s
        | .bad s sub va => .next (s.gateFault l sub va)
        | .met s toks => .next (s.putLaunch { l with gatesMet := true, gateToks := toks }) := by
      show execTwaitGateMet n s = _
      unfold execTwaitGateMet
      rw [hl]
      exact (if_neg (by simp [hmet, hidle])).trans (by rfl)
    rw [hexec]
    refine ⟨fun t toks h => ?_, fun t h => ?_, fun t sub va h => ?_⟩
    all_goals rw [h]

end Sys2Proof.Machine

/-! The registers and packets of queues (R98, R142, R316 to R322, R324, R326). -/

namespace Sys2Proof.Machine

/-! ## Taking a packet -/

/-- A packet consumed: RPTR passes it and CSEQ is its number, both owed to the state block together (R317). -/
def State.consumed (t : State) (k : QKey) (q : Queue) (p : Packet) : State :=
  let rptr := (q.rptr + 2 + p.len) % q.desc.rwords
  (t.onQueue k fun q => { q with rptr := rptr, cseq := p.seq, running := q.running ++ [p.seq]
                                 owed := q.owed ++ [(0, bytesOf 4 rptr ++ bytesOf 4 p.seq.toNat)] }).flushHeld k

/-- What a consumed packet comes to: one of an ended context completes with the context's status. -/
def State.consumedActs (u : State) (p : Packet) : QKey → Taken
  | none => .act u
  | some r => match (u.ctx r.ctx).bind (·.ended) with
    | some st => .off (u.complete (some r) p.seq st p.compl)
    | none => .act u

section
variable {s t : State} {k : QKey} {p : Packet} {ty : Nat} {fits : Bool} {q : Queue}

/-- A queue that may take a packet reads its ring. -/
theorem takePacket_reads (hq : s.queue k = some q) (hmay : s.mayTake k q p = true) {h : Option Packet} (hread : s.readPacket k q = .ok (t, h)) :
    s.takePacket k p ty fits =
      if h ≠ some p then .off t
      else if p.seq != q.cseq + 1 then .off (t.haltPacket k p.seq 5)
      else if p.type != ty || Word.bits p.hdr 15 2 != 0 || !fits then .off (t.haltPacket k p.seq 4)
      else (t.consumed k q p).consumedActs p k := by
  unfold State.takePacket
  rw [hq]
  refine (if_neg (by simp [hmay])).trans ?_
  rw [hread]
  cases k <;> rfl

end

/-- Settles O54: the ring's head is compared first, then the sequence number, then the form. -/
theorem packetsAreChecked : Obligations.PacketsAreChecked := by
  unfold Obligations.PacketsAreChecked
  intro s t k p ty fits q hq hmay
  refine ⟨fun h hread hne => ?_, fun hread => ⟨fun hseq => ?_, fun hseq hform => ?_, fun hseq hty hbits hfits => ?_⟩⟩
  · rw [takePacket_reads hq hmay hread]
    exact if_pos hne
  all_goals
    have htake := (takePacket_reads (ty := ty) (fits := fits) hq hmay hread).trans (if_neg (by simp))
  · exact htake.trans (if_pos (by simpa using hseq))
  · refine htake.trans ((if_neg (by simp [hseq])).trans (if_pos ?_))
    simp only [Bool.or_eq_true, bne_iff_ne]
    rcases hform with h | h | h
    · exact .inl (.inl h)
    · exact .inl (.inr h)
    · exact .inr (by rw [h]; rfl)
  · intro rptr u
    have hact : s.takePacket k p ty fits = u.consumedActs p k :=
      htake.trans ((if_neg (by simp [hseq])).trans (if_neg (by simp [hty, hbits, hfits])))
    refine ⟨fun hk => ?_, fun r hk => ⟨fun h => ?_, fun st h => ?_⟩⟩
    · rw [hact, hk]
      rfl
    · rw [hact, hk]
      dsimp only [State.consumedActs]
      rw [h]
    · rw [hact, hk]
      dsimp only [State.consumedActs]
      rw [h]

/-! ## Registers and packets -/

theorem onBar0_up {s : State} (hup : s.hostUp = true) (hboot : s.kap.boot = 3) (act : Out) : s.onBar0 act = act :=
  if_pos (by simp [hup, hboot])

theorem onBar0_down {s : State} (h : s.hostUp = false ∨ s.kap.boot ≠ 3) (act : Out) : s.onBar0 act = .next s := by
  refine if_neg ?_
  rcases h with h | h
  · simp [h]
  · simp [h]

/-- A CKPT packet that is taken completes where no checkpoint applies, else asks for one. -/
theorem exec_ckpt_taken {s t : State} {q : QueueRef} {p : Packet} {c : Context} (ht : s.takePacket (some q) p 0x05 (p.len == 0) = .act t)
    (hc : t.ctx q.ctx = some c) : exec (.ckpt q p) s =
      if !t.ckptApplies c then .next (t.complete (some q) p.seq 0 p.compl)
      else if c.ckpt.isSome || c.mig != .none then .next (t.putCtx { c with ckptAgain := c.ckptAgain ++ [(q.queue, p.seq, p.compl)] })
      else .next (t.startCkpt { c with ckptAgain := c.ckptAgain ++ [(q.queue, p.seq, p.compl)] }) := by
  show execCkpt q p s = _
  unfold execCkpt
  rw [ht]
  dsimp only
  rw [hc]

/-- Settles O53: the registers by their queue, the packets by their taking. -/
theorem packetsComplete : Obligations.PacketsComplete := by
  unfold Obligations.PacketsComplete
  refine ⟨fun s q x v hup hboot hq => ?_, fun s q x v hup hboot hq => ?_, fun s x v hup hboot hq => ?_, fun s x v hup hboot hq => ?_,
    fun s hup hboot hq hdesc => ?_, fun s x hup hboot hq => ?_, fun s q v hdown => ?_, fun s q p t x ht hx => ?dispatch, fun s q p t x ht hx => ?graph,
    fun s q p t u ht hsig => ?tsig, fun s q p t u sub va ht hsig => ?tsigBad, fun s q p t x hx ht => ?twait, fun s q p t c ht hc => ?ckpt,
    fun s q p t ht => ?nopk⟩
  · refine (onBar0_up hup hboot _).trans ?_
    rw [hq]
  · refine (onBar0_up hup hboot _).trans ?_
    rw [hq]
  · refine (onBar0_up hup hboot _).trans ?_
    dsimp only
    rw [hq]
  · refine (onBar0_up hup hboot _).trans ?_
    dsimp only
    rw [hq]
  · refine (onBar0_up hup hboot _).trans ((if_neg (by simp [hq])).trans (if_neg (by simp [hdesc])))
  · refine (onBar0_up hup hboot _).trans ?_
    rw [hq]
  · exact ⟨onBar0_down hdown _, onBar0_down hdown _, onBar0_down hdown _, onBar0_down hdown _, onBar0_down hdown _, onBar0_down hdown _⟩
  case dispatch =>
    intro sh
    show execDispatch q p s = _
    unfold execDispatch
    rw [show s.takePacket (some q) p 0x01 (decide (p.len = 1 + popcount (p.word 0)) && decide (1 ≤ p.len)) = .act t from ht]
    dsimp only
    rw [hx]
  case graph =>
    intro u
    refine ⟨fun h => ?_, fun g h hrun => ?_, fun g h hrun => ?_⟩
    all_goals
      show execGraph q p s = _
      unfold execGraph
      rw [show s.takePacket (some q) p 0x02 (decide (p.len = 1)) = .act t from ht]
      dsimp only
      rw [hx]
      dsimp only
      rw [h]
    · exact if_neg (by simp [hrun])
    · exact if_pos (by simpa [Option.isSome_iff_ne_none] using hrun)
  case tsig =>
    show execTsig q p s = _
    unfold execTsig
    rw [show s.takePacket (some q) p 0x03 (decide (p.len = 3)) = .act t from ht]
    dsimp only
    rw [hsig]
  case tsigBad =>
    show execTsig q p s = _
    unfold execTsig
    rw [show s.takePacket (some q) p 0x03 (decide (p.len = 3)) = .act t from ht]
    dsimp only
    rw [hsig]
  case twait =>
    show execTwait q p s = _
    unfold execTwait
    rw [hx]
    dsimp only [Option.map_some, Option.getD_some]
    rw [show s.takePacket (some q) p 0x04 (decide (p.len = 4) && !decide (4 ≤ x.twaits.length)) = .act t from ht]
  case ckpt =>
    rw [exec_ckpt_taken ht hc]
    refine ⟨fun h => ?_, fun h hck hmig => ?_, fun h hbusy => ?_⟩
    · exact if_pos (by simp [h])
    · exact (if_neg (by simp [h])).trans (if_neg (by simp [hck, hmig]))
    · refine (if_neg (by simp [h])).trans (if_pos ?_)
      rcases hbusy with h | h
      · simp [Option.isSome_iff_ne_none, h]
      · simp [h]
  case nopk =>
    show execNopk q p s = _
    unfold execNopk
    rw [show s.takePacket (some q) p 0x07 true = .act t from ht]

end Sys2Proof.Machine

/-! The blowpipe's link: heartbeats, headers, acknowledgements, recovery and loss (R137 to R139, R145). -/

namespace Sys2Proof.Machine

/-- A recovery gives each side the other's E to read, and its window and sent messages stay. -/
theorem linkRecovery_recovers {s : State} (h : s.link = .outOfL0) (hin : s.now .kapael ≤ s.linkAt + 300000) : ∃ t, exec .linkRecovery s = .next t ∧
    t.link = .recovering ∧ t.linkAt = t.now .kapael ∧ ∀ d, (t.pipe d).resyncReg = (s.pipe (otherDie d)).e ∧ (t.pipe d).sawResync = false
      ∧ (t.die d).life.cable.recoveries = more32 (s.die d).life.cable.recoveries ∧ (t.pipe d).slots = (s.pipe d).slots
      ∧ (t.pipe d).unacked = (s.pipe d).unacked := by
  refine ⟨_, if_neg (by simp [h, hin]), rfl, rfl, fun d => ?_⟩
  cases d
  · exact ⟨rfl, rfl, rfl, rfl, rfl⟩
  · exact ⟨rfl, rfl, rfl, rfl, rfl⟩

/-- Settles O59: each step by the state of the link that its clause names. -/
theorem linkStepsComplete : Obligations.LinkStepsComplete := by
  unfold Obligations.LinkStepsComplete
  refine ⟨fun s d hup hdock hdue => ?_, fun s d hl0 hdock hlate => ?_, fun s => rfl, fun s h => if_pos h, fun s => linkRecovery_recovers,
    fun s d hrec hsaw hdue => ?_, fun s d k hrec hk => ?_, fun s d slot m hup => ?_, fun s d k hnot => ?_, fun s d hsince hup => ?_⟩
  · exact congrArg Host.Outcome.next (if_neg (by simp [hup, hdock, hdue]))
  · exact if_neg (by simp [hl0, hdock, hlate])
  · exact if_neg (by simp [hrec, hsaw, hdue])
  · exact if_neg (by simp [hrec, hk])
  · intro q t
    have hexec : exec (.blowpipeHeaderWrite d slot m) s = if ((t.pipe d).receive slot m).2 then .next (t.setPipe d ((t.pipe d).receive slot m).1)
        else .next { t.setPipe d ((t.pipe d).receive slot m).1 with log := .pipeLog d m.ctx m.ty.toNat m.va 0 :: t.log } :=
      if_neg (by simp [hup])
    rw [hexec]
    exact ⟨fun h => if_pos h, fun h => if_neg (by simp [h])⟩
  · exact if_neg hnot
  · exact if_neg (by simp [hsince, hup])

end Sys2Proof.Machine

/-! The services of the management queue (R26 to R30, R115, R142, R197, R315, R317, R323, R326). -/

namespace Sys2Proof.Machine

/-! ## A service that is taken -/

section
variable {s t : State} {p : Packet} {code args st : Nat} {c : Context} {act : State → Context → SvcRes}

theorem ctxService_done (h : Serves s p code args c) (hact : act s c = .done t st) :
    s.ctxService p code args act = .next (t.svcEnds p (p.len == 1 + args) st) := by
  rw [ctxService_serves h, hact]

theorem ctxService_waits (h : Serves s p code args c) (hact : act s c = .wait t) :
    s.ctxService p code args act = .next { t with svc := some p.seq } := by
  rw [ctxService_serves h, hact]

/-- CTX_CREATE names no live context, so that its act is given the state alone. -/
theorem exec_ctxCreate (hcode : svcCode p = 0x01)
    (htake : s.takePacket none p 0x10 ((p.len == 3) && decide (1 ≤ p.len) && Word.bits (p.word 0) 31 24 == 0) = .act t) {act : State → SvcRes}
    (hdef : execCtxCreate p s = if svcCode p = 0 ∨ 0x0E < svcCode p then s.service p true fun s => .done s 4
      else if svcCode p ≠ 0x01 then .next s else s.service p (p.len == 3) act) {u : State} (hact : act s = .done u st) :
    exec (.ctxCreate p) s = .next (u.svcEnds p (p.len == 3) st) := by
  refine hdef.trans ((if_neg (by simp [hcode])).trans ((if_neg (by simp [hcode])).trans ((service_taken htake act).trans ?_)))
  rw [hact]

end

/-! ## The services -/

theorem notAll_iff {α : Type} {l : List α} {f : α → Bool} : (!l.all f) = true ↔ ∃ e ∈ l, f e = false := by
  simp

/-- A descriptor that is not refused takes effect at once; a new ROOT leaves no translation of the old one (R29). -/
theorem ctxUpdate_done {s : State} {p : Packet} {c : Context} (hs : Serves s p 0x03 2 c) (hbad : ctxDescBad (s.hostBytes (p.dword 1) 128) = false)
    (hfree : (ctxDescOf (s.hostBytes (p.dword 1) 128)).root = c.desc.root ∧ (ctxDescOf (s.hostBytes (p.dword 1) 128)).rkey = c.desc.rkey ∨ s.ctxBusy c.num = false)
    (hroom : c.wantReserve (ctxDescOf (s.hostBytes (p.dword 1) 128)) ≤ c.reserve ∨
      c.usedK - c.reserve + c.wantReserve (ctxDescOf (s.hostBytes (p.dword 1) 128)) ≤ 65536 * (ctxDescOf (s.hostBytes (p.dword 1) 128)).quotaK
        ∧ c.wantReserve (ctxDescOf (s.hostBytes (p.dword 1) 128)) ≤ s.freeOn .kapael + c.reserve) :
    exec (.ctxUpdate p) s =
      let d := ctxDescOf (s.hostBytes (p.dword 1) 128)
      let u := s.putCtx (c.update d (s.now c.resident))
      .next ((if d.root = c.desc.root then u
        else (u.tlbDrop .kapael c.num 0 (2 ^ 64)).tlbDrop .amdukor c.num 0 (2 ^ 64)).svcEnds p (p.len == 3) 0) := by
  generalize hd : ctxDescOf (s.hostBytes (p.dword 1) 128) = d at hfree hroom ⊢
  have hmoved : ((d.root != c.desc.root || d.rkey != c.desc.rkey) && s.ctxBusy c.num) = false := by
    rcases hfree with ⟨h, h'⟩ | h
    · simp [h, h']
    · simp [h]
  have hquota : (decide (c.reserve < c.wantReserve d) && decide (65536 * d.quotaK < c.usedK - c.reserve + c.wantReserve d)) = false := by
    simp only [Bool.and_eq_false_iff, decide_eq_false_iff_not]
    omega
  have hspace : (decide (c.reserve < c.wantReserve d) && decide (s.freeOn .kapael + c.reserve < c.wantReserve d)) = false := by
    simp only [Bool.and_eq_false_iff, decide_eq_false_iff_not]
    omega
  refine (ctxService_done (st := 0) (t := if d.root != c.desc.root then
    ((s.putCtx (c.update d (s.now c.resident))).tlbDrop .kapael c.num 0 (2 ^ 64)).tlbDrop .amdukor c.num 0 (2 ^ 64)
    else s.putCtx (c.update d (s.now c.resident))) hs ?_).trans ?_
  · dsimp only
    rw [hd, hbad, hmoved, hquota, hspace]
    rfl
  · refine congrArg (fun v => Host.Outcome.next (State.svcEnds v p (p.len == 3) 0)) ?_
    by_cases hroot : d.root = c.desc.root
    · rw [if_pos hroot, if_neg (by simpa using hroot)]
    · rw [if_neg hroot, if_pos (by simpa using hroot)]

/-- What QUEUE_CREATE answers once the pages of its structures are checked (R354, R401). -/
def queueMade (t : State) (c : Context) (r : QueueRef) (d : QDesc) : SvcRes :=
  let u := { t with queues := t.queues ++ [(r, newQueue d false)] }.writeState (some r)
  if (d.place != 0 && !t.queues.any fun e => e.1.ctx == c.num && e.2.desc.place != 0) && (u.pairState == 2 || u.pairState == 3)
      && c.resident == .kapael && c.ended.isNone then
    match u.ctx c.num with
    | some x => .wait (u.putCtx { x with mig := .due .amdukor })
    | none => .done u 0
  else .done u 0

theorem exec_queueCreate {s t : State} {p : Packet} {c : Context} (hs : Serves s p 0x04 3 c) (hn : (p.word 1).toNat ≤ 15)
    (hnone : s.queue (some ⟨c.num, (p.word 1).toNat⟩) = none) (hbad : qdescBad (s.hostBytes (p.dword 2) 64) false = false)
    (hpages : s.queuePages (if (qdescOf (s.hostBytes (p.dword 2) 64)).place = 0 ∨ s.docked = false then .kapael else .amdukor) c.num
      (qdescOf (s.hostBytes (p.dword 2) 64)) = .ok t) :
    exec (.queueCreate p) s = match queueMade t c ⟨c.num, (p.word 1).toNat⟩ (qdescOf (s.hostBytes (p.dword 2) 64)) with
      | .done u st => .next (u.svcEnds p (p.len == 4) st)
      | .wait u => .next { u with svc := some p.seq } := by
  have hdie : (if (decide ((qdescOf (s.hostBytes (p.dword 2) 64)).place = 0) || !s.docked) = true then Die.kapael else .amdukor) =
      if (qdescOf (s.hostBytes (p.dword 2) 64)).place = 0 ∨ s.docked = false then .kapael else .amdukor := by
    simp only [Bool.or_eq_true, decide_eq_true_eq, Bool.not_eq_true']
  refine (ctxService_serves hs _).trans ?_
  dsimp only
  rw [hnone, if_neg (by simp), if_neg (Nat.not_lt.mpr hn), if_neg (by simp), hbad, if_neg Bool.false_ne_true, hdie, hpages]
  rfl

/-- Settles O55: each service by the conditions its clause names. -/
theorem servicesComplete : Obligations.ServicesComplete := by
  unfold Obligations.ServicesComplete
  refine ⟨fun s p t hcode htake => ?_, fun s p t hcode htake hlive => ?_, fun s p c hs => ?destroy, fun s p c hs => ?update, fun s p c t hs => ?create,
    fun s p c hs => ?reset, fun s p c q t h u b hs => ?load, fun s p c g hs => ?unload, fun s p c t frit hs hread hhead => ?finalise,
    fun s p c hs => ?invalidate, fun s p c k e hs hleaf h512 hcls hreach hmv => ?clear, fun s p c hs => ?interval,
    fun s p c t l hs hm hk h0 hn hmany => ?alloc, fun s p c hs => ?free⟩
  · intro b d reserve hnone hbad hquota hfree
    refine exec_ctxCreate hcode htake rfl ?_
    refine (if_neg (by simp [hnone])).trans ((if_neg (by simp [b, hbad])).trans ((if_neg ?_).trans (if_neg ?_)))
    · exact Nat.not_lt.mpr hquota
    · exact Nat.not_lt.mpr hfree
  · refine exec_ctxCreate hcode htake rfl (if_pos hlive)
  case destroy =>
    intro off u
    refine ⟨fun hstill => ctxService_waits hs (if_pos ?_), fun hstill hmig hmoves => ctxService_done hs (if_neg ?_)⟩
    · simp only [Bool.or_eq_true]
      rcases hstill with ⟨e, he, h⟩ | h | ⟨m, hm, hctx, hst⟩
      · exact .inl (.inl (by rw [notAll_iff]; exact ⟨e, he, h⟩))
      · exact .inl (.inr (by simpa using h))
      · exact .inr (List.any_eq_true.mpr ⟨m, hm, by simp [hctx, hst]⟩)
    · simp only [Bool.or_eq_true, not_or]
      refine ⟨⟨?_, by simp [hmig]⟩, ?_⟩
      · rw [notAll_iff]
        rintro ⟨e, he, h⟩
        exact Bool.false_ne_true (h.symm.trans (hstill e he))
      · intro h
        obtain ⟨m, hm, hctx⟩ := List.any_eq_true.mp h
        simp only [Bool.and_eq_true, beq_iff_eq, bne_iff_ne] at hctx
        exact hctx.2 (hmoves m hm hctx.1)
  case update =>
    intro b d
    refine ⟨fun hbad => ctxService_done hs (if_pos hbad), fun hbad hfree hroom => ?_, fun hbad hmoved hbusy => ctxService_done hs ?_⟩
    · exact ctxUpdate_done hs hbad hfree hroom
    · refine (if_neg (by rw [show ctxDescBad b = false from hbad]; simp)).trans (if_pos ?_)
      simp only [Bool.and_eq_true, Bool.or_eq_true, bne_iff_ne]
      exact ⟨not_and_or.mp hmoved, hbusy⟩
  case create =>
    intro r d hn hnone hbad hpages u
    refine ⟨fun hold => ?_, fun x hplace hfirst hpair hres hended hx => ?_⟩
    all_goals
      rw [exec_queueCreate hs hn hnone hbad hpages]
    · have hmade : queueMade t c ⟨c.num, (p.word 1).toNat⟩ (qdescOf (s.hostBytes (p.dword 2) 64)) = .done u 0 := by
        refine if_neg ?_
        simp only [Bool.and_eq_true, not_and]
        rintro ⟨⟨⟨hplace, hfirst⟩, -⟩, -⟩
        rcases hold with h | ⟨e, he, hctx, h⟩
        · exact absurd h (by simpa using hplace)
        · simp only [Bool.not_eq_true', List.any_eq_false] at hfirst
          exact absurd (hfirst e he) (by simp [hctx, h])
      rw [hmade]
    · have hmade : queueMade t c ⟨c.num, (p.word 1).toNat⟩ (qdescOf (s.hostBytes (p.dword 2) 64)) = .wait (u.putCtx { x with mig := .due .amdukor }) := by
        refine (if_pos ?_).trans ?_
        · have hnew : (t.queues.any fun e => e.1.ctx == c.num && e.2.desc.place != 0) = false := by
            rw [List.any_eq_false]
            intro e he
            simpa using hfirst e he
          have hp : (u.pairState == 2 || u.pairState == 3) = true := by
            rcases hpair with h | h <;> rw [h] <;> rfl
          simp only [Bool.and_eq_true]
          exact ⟨⟨⟨⟨by simpa using hplace, by rw [hnew]; rfl⟩, hp⟩, by rw [hres]; rfl⟩, by rw [hended]; rfl⟩
        · rw [show State.ctx _ c.num = some x from hx]
      rw [hmade]
  case reset =>
    intro r off u
    have hq : (s.queue (some r)).isNone = false ↔ s.queue (some r) ≠ none := by
      cases s.queue (some r) <;> simp
    refine ⟨fun h => ctxService_done hs (if_pos (by rw [show s.queue (some ⟨c.num, (p.word 1).toNat⟩) = none from h]; rfl)), fun h hbusy => ctxService_waits hs ?_,
      fun h hstill hmig => ctxService_done hs ?_⟩
    · refine (if_neg (by rw [hq.mpr h]; simp)).trans (if_pos ?_)
      simp only [Bool.or_eq_true]
      rcases hbusy with ⟨e, he, h⟩ | h
      · exact .inl (by rw [notAll_iff]; exact ⟨e, he, h⟩)
      · exact .inr (by simpa using h)
    · refine (if_neg (by rw [hq.mpr h]; simp)).trans (if_neg ?_)
      simp only [Bool.or_eq_true, not_or]
      refine ⟨?_, by simp [hmig]⟩
      rw [notAll_iff]
      rintro ⟨e, he, h⟩
      exact Bool.false_ne_true (h.symm.trans (hstill e he))
  case load =>
    intro tn r d k nodes hq htn hrun hread h0 hk hzero hread' hcheck
    refine ctxService_done hs ?_
    dsimp only
    rw [show s.queue (some ⟨c.num, (p.word 1).toNat⟩) = some q from hq]
    refine (if_neg (Nat.not_lt.mpr htn)).trans ((if_neg ?_).trans ?_)
    · cases hg : q.table tn with
      | none => simp
      | some g => simp [hrun g hg]
    · rw [show s.fwRead ⟨s.queueDie (some ⟨c.num, (p.word 1).toNat⟩), .queue none⟩ c.num .load (p.dword 3) 64 = .ok (t, h) from hread]
      refine (if_neg ?_).trans ?_
      · simp only [Bool.or_eq_true, decide_eq_true_eq, bne_iff_ne]
        omega
      · rw [show t.fwRead ⟨s.queueDie (some ⟨c.num, (p.word 1).toNat⟩), .queue none⟩ c.num .load (p.dword 3 + 64) (192 * fieldOf h 0 4) = .ok (u, b) from hread']
        exact if_neg (by rw [show u.nodesCheck c (s.queueDie (some ⟨c.num, (p.word 1).toNat⟩)) (fieldOf h 0 4) ((List.range (fieldOf h 0 4)).map fun i => slice b (192 * i) 192) = 0 from hcheck]; simp)
  case unload =>
    intro r hg
    refine ⟨fun hrun => ctxService_done hs ?_, fun hrun => ctxService_done hs ?_⟩
    all_goals
      dsimp only
      rw [show ((s.queue (some ⟨c.num, (p.word 1).toNat⟩)).bind fun q => q.table (p.word 2).toNat) = some g from hg]
    · exact if_pos (by simpa [Option.isSome_iff_ne_none] using hrun)
    · exact if_neg (by simp [hrun])
  case finalise =>
    intro x u ps c2 id hlehr hlen hrange v hc2 hid
    refine ctxService_done hs ?_
    dsimp only
    rw [hread]
    refine (if_neg (by simp [hhead])).trans ?_
    rw [hlehr]
    refine (if_neg (Nat.not_lt.mpr hlen)).trans ?_
    rw [hrange]
    dsimp only
    rw [show (u.homeStore ⟨.kapael, .queue none⟩ c.num ps x.bytes).ctx c.num = some c2 from hc2, hid]
  case invalidate =>
    refine ⟨fun h => ctxService_waits hs (if_pos (by simp [h])), fun h hdown hpin => ctxService_done hs ((if_neg (by simp [h])).trans (if_pos ?_))⟩
    simp [hdown, hpin]
  case clear =>
    intro pa hbatch u m
    have hidle : ((s.crucible (sliceOf (lineAt (leafHome e) pa))).batch.any fun b => match b.key with
        | .object l slot _ => decide (l.home = leafHome e) && slot == pa
        | .line _ _ _ => false) = false := by
      rw [List.any_eq_false]
      intro b hb
      cases hkey : b.key with
      | line l m w => simp
      | object l slot m =>
        have := hbatch b hb l slot m hkey
        simpa using this
    refine ctxService_done hs ?_
    dsimp only
    rw [hleaf]
    refine (if_neg (by simp [h512, hcls, hreach])).trans ((if_neg (by simp [hmv])).trans ((if_neg ?_).trans rfl))
    exact fun h => absurd (hidle.symm.trans h) (by simp)
  case interval =>
    refine ⟨fun h => ctxService_done hs (if_pos ?_), fun hlo hhi => ctxService_done hs (if_neg ?_)⟩
    · simpa using h
    · simp only [Bool.or_eq_true, decide_eq_true_eq]
      omega
  case alloc =>
    refine ctxService_done hs ((if_neg ?_).trans ?_)
    · simp only [Bool.or_eq_true, decide_eq_true_eq]
      omega
    · rw [hmany]
  case free =>
    intro f hm hk
    refine ⟨fun hf => ctxService_done hs (if_neg ?_), fun hf => ctxService_done hs (if_pos ?_)⟩
    · have hc : c.frames.contains { die := memberOf (p.word 1).toNat, pa := p.dword 3, size := 2 ^ (12 + 2 * (p.word 2).toNat) } = true :=
        List.contains_iff_mem.mpr hf
      simp only [Bool.or_eq_true, decide_eq_true_eq, hc]
      simp
      omega
    · have hc : c.frames.contains { die := memberOf (p.word 1).toNat, pa := p.dword 3, size := 2 ^ (12 + 2 * (p.word 2).toNat) } = false := by
        simpa using hf
      rw [hc]
      simp

end Sys2Proof.Machine

/-! The DEBUG operations (R337, R338, R353, R357 to R359). -/

namespace Sys2Proof.Machine

/-! ## An operation that is taken -/

section
variable {s t : State} {p : Packet} {op args st : Nat} {c : Context} {act : State → Context → SvcRes}

theorem debugService_done (h : ServesDebug s p op args c) (hact : act s c = .done t st) :
    s.debugService p op args act = .next (t.svcEnds p (p.len == 2 + args && Word.bits (p.word 1) 31 8 == 0) st) := by
  rw [debugService_serves h, hact]

theorem ServesDebug.code (h : ServesDebug s p op args c) : svcCode p = 0x0C := h.1

theorem ServesDebug.op_eq (h : ServesDebug s p op args c) : debugOp p = op := h.2.1

end

/-- Settles O56: each operation by the conditions its clause names. -/
theorem debugServicesComplete : Obligations.DebugServicesComplete := by
  unfold Obligations.DebugServicesComplete
  refine ⟨fun s p c hs => ?set, fun s p c hs hrange => ?bkset, fun s p c hs hslot => ?bkclr, fun s p c hs => ?halt, fun s p c hs => ?resume,
    fun s p c id w v hs hheld hgoes hlane hlive hhelper hfocus => ?step, fun s p c h t hs hheld hlen hwrite => ?dump,
    fun s p c id w t u h b im l hs hheld hhead hmin hmax hread him hok hplace => ?load, fun s p c id w hs hheld => ?killWave,
    fun s p c q r hs hheld => ?killPar⟩
  case set =>
    intro f k hzero hk t
    refine (if_neg (by simp [hs.code])).trans ((if_neg (by rw [hs.op_eq]; decide)).trans (debugService_done hs (if_neg ?_)))
    rw [show Word.bits (p.word 2) 31 9 = 0 from hzero]
    simp only [bne_self_eq_false, Bool.false_or, Bool.and_eq_true, Bool.or_eq_true, decide_eq_true_eq, not_and]
    intro hsample
    obtain ⟨hmin, hmax⟩ := hk hsample
    exact not_or.mpr ⟨Nat.not_lt.mpr hmin, Nat.not_lt.mpr hmax⟩
  case bkset =>
    intro slot
    exact debugService_done hs (if_neg (by rw [hrange]; decide))
  case bkclr => exact debugService_done hs (if_neg (Nat.not_lt.mpr hslot))
  case halt =>
    intro t u
    exact debugService_done hs rfl
  case resume =>
    intro fits
    refine ⟨fun hall => debugService_done hs (if_pos hall), fun hone hnone => debugService_done hs ((if_neg hone).trans ?_),
      fun h hone hheld => debugService_done hs ((if_neg hone).trans ?_)⟩
    · rw [hnone]
    · rw [hheld]
  case step =>
    refine debugService_done hs ?_
    dsimp only
    rw [hheld]
    refine (if_neg (by simp [hgoes])).trans ((if_neg (by simp [hlive, hhelper]; omega)).trans ?_)
    rw [hfocus]
  case dump =>
    refine debugService_done hs ?_
    rw [hheld]
    refine (if_neg (Nat.not_lt.mpr hlen)).trans ?_
    rw [hwrite]
  case load =>
    refine debugService_done hs ?_
    dsimp only
    rw [hheld]
    dsimp only
    rw [hhead]
    refine (if_neg (by simp; omega)).trans ?_
    rw [hread]
    dsimp only
    rw [him]
    refine (if_neg (by simp [hok])).trans ?_
    rw [hplace]
  case killWave =>
    refine debugService_done hs ?_
    rw [hheld]
  case killPar =>
    refine debugService_done hs ?_
    rw [hheld]

end Sys2Proof.Machine

/-! The scan-out heads: modes, flips, blanks, lines, training, AUX and hot plug (R393 to R398). -/

namespace Sys2Proof.Machine

/-- Settles O57: each step by the conditions its clause names. -/
theorem headStepsComplete : Obligations.HeadStepsComplete := by
  unfold Obligations.HeadStepsComplete
  refine ⟨fun s h v hup hboot => ?enable, fun s h v hup hboot => onBar0_up hup hboot _, fun s h => ?blank, fun s h => ?line, fun s h f => ?idle,
    fun s h hup hboot => onBar0_up hup hboot _, fun s h ok lanes rate hgo => ?train, fun s h hup hboot => onBar0_up hup hboot _,
    fun s h reply data => ?aux, fun s h => ?plug, fun s ofs v hup hboot hword => ?register, fun s h ofs v hdown => ?down⟩
  case enable =>
    intro x keep
    refine ⟨fun hv => (onBar0_up hup hboot _).trans (if_pos (by simp [hv])), fun hv hoff hok => (onBar0_up hup hboot _).trans ?_,
      fun hv hon => (onBar0_up hup hboot _).trans ?_, fun hv hoff hok => (onBar0_up hup hboot _).trans ?_⟩
    · exact (if_neg (by simp [hv])).trans ((if_neg (by simp [show Word.bit (s.head h).hctl 0 = false from hoff])).trans (if_pos hok))
    · exact (if_neg (by simp [hv])).trans (if_pos hon)
    · exact (if_neg (by simp [hv])).trans ((if_neg (by simp [show Word.bit (s.head h).hctl 0 = false from hoff])).trans
        (if_neg (by simp [show (s.head h).modeOk h v = false from hok])))
  case blank =>
    intro x hon hline t u
    have hgo : ¬ (!Word.bit x.hstatus 0 || x.line.toNat + 1 != Word.bits x.vtime0 15 0) = true := by
      simp [hon, hline]
    exact if_neg hgo
  case line =>
    intro x line hon hlt t y u
    have hgo : ¬ (!Word.bit x.hstatus 0 || line == Word.bits x.vtime0 15 0) = true := by
      simp [hon, Nat.ne_of_lt hlt]
    exact ⟨(if_neg hgo).trans ((if_neg (Nat.not_lt.mpr hlt.le)).trans (if_neg (by simp))),
      (if_neg hgo).trans ((if_neg (Nat.not_lt.mpr hlt.le)).trans (if_pos rfl))⟩
  case idle =>
    intro x line hon hlt t
    have hgo : ¬ (!Word.bit x.hstatus 0 || line == Word.bits x.vtime0 15 0) = true := by
      simp [hon, Nat.ne_of_gt hlt]
    exact (if_neg hgo).trans (if_pos hlt)
  case train =>
    intro x tl tr good
    exact ⟨fun hgood => (if_neg hgo).trans (if_pos hgood), fun hbad => (if_neg hgo).trans (if_neg (by rw [Bool.not_eq_true]; exact hbad))⟩
  case aux =>
    intro x hgo d
    exact if_neg hgo
  case plug =>
    intro x
    exact ⟨fun hno => if_neg (by simp [show Word.bit (s.head h).hstatus 2 = false from hno]),
      fun hyes => if_neg (by simp [show Word.bit (s.head h).hstatus 2 = true from hyes])⟩
  case register =>
    have haligned : ¬ ofs % 4 ≠ 0 := by simp [hword]
    refine ⟨fun hlo hhi => (onBar0_up hup hboot _).trans ((if_neg haligned).trans (if_pos ⟨hlo, hhi⟩)),
      fun hlo hhi => (onBar0_up hup hboot _).trans ((if_neg haligned).trans ((if_neg (by omega)).trans (if_pos ⟨hlo, hhi⟩))),
      fun hlo hhi => (onBar0_up hup hboot _).trans ((if_neg haligned).trans ((if_neg (by omega)).trans ((if_neg (by omega)).trans (if_pos ⟨hlo, hhi⟩)))),
      fun hlo hhi => (onBar0_up hup hboot _).trans ((if_neg haligned).trans ((if_neg (by omega)).trans ((if_neg (by omega)).trans
        ((if_neg (by omega)).trans (if_pos ⟨hlo, hhi⟩)))))⟩
  case down =>
    exact ⟨onBar0_down hdown _, onBar0_down hdown _, onBar0_down hdown _, onBar0_down hdown _, onBar0_down hdown _, onBar0_down hdown _,
      onBar0_down hdown _⟩

end Sys2Proof.Machine

/-! Boot, rollback, attestation, the links, pairing, refresh, docking and undocking (R42, R80, R135, R142, R354, R355, R385 to
R392). -/

namespace Sys2Proof.Machine

theorem setDie_flaws (s : State) (d : Die) (x : DieState) : (s.setDie d x).flaws = s.flaws := by
  cases d <;> rfl

theorem setDie_log (s : State) (d : Die) (x : DieState) : (s.setDie d x).log = s.log := by
  cases d <;> rfl

/-- The host link's end, once the loss is counted: what the link was is forgotten (R401). -/
def State.hostGone (s : State) : State :=
  { s with hostUp := false, hostWidth := 0, hostSpeed := 0, hostDownAt := if s.hostUp then some (s.now .kapael) else s.hostDownAt }

theorem exec_hostLinkDown (s : State) : exec .hostLinkDown s =
    let u := (if s.hostUp then s.onLife .kapael fun l => { l with host.losses := more32 l.host.losses } else s).hostGone
    if u.mq.isSome then .next ({ u with svc := none }.haltStatus none 18) else .next u := rfl

/-- Settles O58: each step by the conditions its clause names. -/
theorem bootAndPairStepsComplete : Obligations.BootAndPairStepsComplete := by
  unfold Obligations.BootAndPairStepsComplete
  refine ⟨fun s hup hboot => ?rollback, fun s hup hboot hidle => (onBar0_up hup hboot _).trans (if_neg (by simp [hidle])), fun s hreq => ?signed,
    fun s => rfl, fun s => rfl, fun s w v hboot hends => ?hostTrain, fun s => ?hostDown, fun s w v hlink hpair hboot => ?presence,
    fun s w v hcable => ?cable, fun s w v hlink => ?again, fun s ids hpair hlink hkey => ?pairing, fun s k hdock hpair hlink hkey => ?adopt,
    fun s k hdock => ?ptm, fun s d => rfl, fun s d => ?phase, fun s d c => rfl, fun s hup hboot hreq hpair => ?undock, fun s n c hc => ?migration,
    fun s n c hc hckpt hmig happlies hidle hdue => ?timer⟩
  case rollback =>
    intro b slot t
    refine (onBar0_up hup hboot _).trans ?_
    have hkept : (s.abortWrite slot).fwNonce = s.fwNonce ∧ (s.abortWrite slot).kap.slotOk .kapael (slot == 1) = s.kap.slotOk .kapael (slot == 1) := by
      unfold State.abortWrite
      split <;> exact ⟨rfl, rfl⟩
    obtain ⟨hnonce, hslot⟩ := hkept
    have hform : (!Config.sigVerifies (slice b 192 7856) (b.take 192) || fieldOf b 0 4 != 0x534B5242 || fieldOf b 16 32 != (dieId .kapael).toNat) = true
        ↔ ¬ (Config.sigVerifies (slice b 192 7856) (b.take 192) = true ∧ fieldOf b 0 4 = 0x534B5242 ∧ fieldOf b 16 32 = (dieId .kapael).toNat) := by
      simp only [Bool.or_eq_true, Bool.not_eq_true', bne_iff_ne]
      rw [not_and_or, not_and_or, Bool.not_eq_true, or_assoc]
    by_cases hok : Config.sigVerifies (slice b 192 7856) (b.take 192) = true ∧ fieldOf b 0 4 = 0x534B5242 ∧ fieldOf b 16 32 = (dieId .kapael).toNat
    · rw [if_pos hok]
      refine (if_neg (fun h => hform.mp h hok)).trans ?_
      by_cases hold : fieldOf b 8 8 ≤ s.fwNonce
      · rw [if_pos hold]
        exact if_pos (by rw [hnonce]; exact hold)
      rw [if_neg hold]
      refine (if_neg (by rw [hnonce]; exact hold)).trans ?_
      have hslots : (decide (1 < slot) || !(s.abortWrite slot).kap.slotOk .kapael (slot == 1)) = true
          ↔ 1 < slot ∨ s.kap.slotOk .kapael (slot == 1) = false := by
        rw [hslot]
        simp
      by_cases hbad : 1 < slot ∨ s.kap.slotOk .kapael (slot == 1) = false
      · rw [if_pos hbad]
        exact if_pos (hslots.mpr hbad)
      · rw [if_neg hbad]
        exact if_neg (mt hslots.mp hbad)
    · rw [if_neg hok]
      exact if_pos (hform.mpr hok)
  case signed =>
    refine (if_neg (by simp [hreq])).trans ?_
    cases hsign : Config.canSign s.repseq
    · exact if_pos rfl
    · exact if_neg (by simp)
  case hostTrain =>
    refine ⟨fun hbad => (if_neg (by simp [hboot])).trans (if_pos (by simp [hends, hbad])), fun hok => ?_⟩
    intro t
    refine (if_neg (by simp [hboot])).trans ((if_neg (by simp [hends, hok])).trans ?_)
    have hkept : t.hostEnds = (w, v) := by
      rw [← hends]
      show (ite _ _ _ : State).hostEnds = _
      split
      · rfl
      · split <;> rfl
    show Host.Outcome.next { t with hostUp := true, hostWidth := t.hostEnds.1, hostSpeed := t.hostEnds.2, hostDownAt := none } = _
    rw [hkept]
  case hostDown =>
    intro t u
    have hkept : t.hostUp = s.hostUp ∧ t.mq = s.mq ∧ t.hostDownAt = s.hostDownAt := by
      show (ite _ _ _ : State).hostUp = _ ∧ (ite _ _ _ : State).mq = _ ∧ (ite _ _ _ : State).hostDownAt = _
      split <;> exact ⟨rfl, rfl, rfl⟩
    obtain ⟨hup, hmq, hat⟩ := hkept
    have hsame : t.hostGone = u := by
      unfold State.hostGone
      rw [hup, hat]
    refine (exec_hostLinkDown s).trans ?_
    dsimp only
    rw [show State.hostGone _ = u from hsame, show u.mq = s.mq from hmq]
    split <;> rfl
  case presence => exact (if_neg (by simp [hlink])).trans (if_neg (by simp [hpair, hboot]))
  case cable =>
    refine ⟨fun hbad => ?_, fun hrom hok hboot => ?_⟩
    all_goals
      unfold State.trainCable
      rw [hcable]
    · exact if_pos (by simpa using hbad)
    · exact (if_neg (by simp [hrom, hok])).trans (if_neg (by simp [hboot]))
  case again =>
    have hup : s.link ≠ .down := by simp [hlink]
    exact ⟨fun hok => (if_pos hup).trans ((if_neg (by simp [hlink])).trans (if_pos hok)),
      fun hbad => (if_pos hup).trans ((if_neg (by simp [hlink])).trans (if_neg (by simp [hbad])))⟩
  case pairing =>
    intro good t f
    refine (if_neg (by simp [hpair, hlink, hkey])).trans ?_
    cases hgood : good
    · exact if_neg (by rw [show (partnerOk .kapael ids.chalK ids.pubA ids.sigA && partnerOk .amdukor ids.chalA ids.pubK ids.sigK) = false from hgood]; decide)
    · exact if_pos hgood
  case adopt =>
    intro t u
    exact (if_neg (by simp [hdock])).trans (if_neg (by simp [hpair, hlink, hkey]))
  case ptm =>
    exact ⟨fun hfar => (if_pos hdock).trans (if_pos hfar), fun hnear => (if_pos hdock).trans (if_neg (Nat.not_lt.mpr hnear))⟩
  case phase =>
    intro g t here met note
    have hmet : t.flaws = s.flaws := setDie_flaws s d _
    have hlog : t.log = s.log := setDie_log s d _
    refine ⟨fun hnone => if_pos ?_, fun hsome => (if_neg ?_).trans ?_⟩
    · rw [show State.flaws _ = s.flaws from hmet, List.isEmpty_iff, List.filter_eq_nil_iff]
      intro f hf h
      exact List.any_eq_false.mp hnone f hf h
    · rw [show State.flaws _ = s.flaws from hmet, List.isEmpty_iff, List.filter_eq_nil_iff]
      intro h
      obtain ⟨f, hf, hhere⟩ := List.any_eq_true.mp hsome
      exact h f hf hhere
    · dsimp only
      rw [show State.flaws _ = s.flaws from hmet, show State.log _ = s.log from hlog] <;> rfl
  case undock =>
    have hfirst : (!s.undockReq) = true := by simp [hreq]
    refine ⟨fun hfull => (if_pos hfirst).trans ((onBar0_up hup hboot _).trans ?_), fun hfits => (if_pos hfirst).trans ((onBar0_up hup hboot _).trans ?_)⟩
    · exact (if_neg (by simp [hpair])).trans (if_pos (by simp [hfull]))
    · exact (if_neg (by simp [hpair])).trans (if_neg (by simp [hfits]))
  case migration =>
    show execDockMigration n s = _
    unfold execDockMigration
    rw [hc]
  case timer =>
    show execCkptTimer n s = _
    unfold execCkptTimer
    rw [hc]
    refine (if_neg (by simp [hidle])).trans ?_
    rw [hckpt]
    exact (if_neg (by simp [hmig, hdue])).trans (if_pos happlies)

end Sys2Proof.Machine

/-! The messages of the blowpipe that pass their checks (R23, R98, R109, R130, R131, R134, R135, R137, R142 to R144). -/

namespace Sys2Proof.Machine

/-- A busy slot, as the statement says it and as the model tests it. -/
theorem busy_iff {leaf : DWord} {b : Bool} : (decide (leafCls leaf = .object) && b) = true ↔ leafCls leaf = .object ∧ b = true := by
  simp

/-- A read of the other member that passes its checks: held by a busy slot, or answered from the line's home (R86, R116, R131). -/
theorem exec_rdReq {s t : State} {d : Die} {m : Msg} {leaf : DWord} {pa : Nat} (hm : s.deliver d tyRdReq = some (t, m))
    (hacc : t.accessCheck d m (match m.aux0.toNat / 4 % 4 with | 0 => .load | 1 => .fetch | _ => .engineRead) = .ok (leaf, pa)) :
    exec (.rdReq d) s =
      let l := lineAt (leafHome leaf) pa
      if leafCls leaf = .object ∧ t.slotBusy l.home pa = true then .next s else
      let f := t.homeFlaw l
      let code : DWord := BitVec.ofNat 64 ((f.2.map flawStatus).getD 0)
      if m.aux0.toNat % 4 = 2 then
        let u := f.1.atHome l (otherDie d) m.ctx m.va leaf false
        .next (u.replyMsg d m tyRdData fun x => { x with payload := Memory.readN (u.mem l.home) (l.la * 128) 128, time := 0, aux1 := code })
      else
        let r := f.1.homeRead l (otherDie d) m.ctx m.va leaf
        .next (r.1.replyMsg d m tyRdData fun x => { x with payload := r.2.1, time := BitVec.ofNat 64 r.2.2, aux1 := code }) := by
  show execRdReq d s = _
  unfold execRdReq
  rw [hm]
  dsimp only
  generalize hgot : t.accessCheck d m _ = got
  obtain rfl : got = .ok (leaf, pa) := hgot.symm.trans hacc
  rfl

/-- Settles O60: each message by the conditions its clause names. -/
theorem messagesComplete : Obligations.MessagesComplete := by
  unfold Obligations.MessagesComplete
  refine ⟨fun s d t m leaf pa hm hacc => ?rdReq, fun s d t m u a op l o hm htag hok ho => ?rdBack, fun s d t m u w n va l hm htag => ?rdFar,
    fun s d t m u a acc n va leaf l hm htag => ?rdFill, fun s d t m leaf pa hm hacc => ?wrReq, fun s d t m u a op l o hm htag hok ho => ?wrDone,
    fun s d t m u a op va hm htag => ?wrToken, fun s d t m u w n va k hm htag => ?wrJob, fun s d t m leaf pa u hm hacc hin => ?comb,
    fun s d t m u a op o hm htag ho => ?combBack, fun s d t m hm hentry => ?ptRd, fun s d t m hm hentry => ?ptCas,
    fun s d t m u n pa hm htag => ?ptData, fun s d t m c hm hkey => ?shoot, fun s d t m u x y z hm htag => ?shot,
    fun s d t m c u pa hm hkey hres hframe => ?homeReq, fun s d t m u x c hm hmove hc => ?grant, fun s d t m u x hm hmove => ?deny,
    fun s d t m x hm hmove hdst hroom => ?homeData, fun s d t m x hm hmove hsrc => ?homeDone, fun s d t m c hm hkey hmig hnext => ?migData,
    fun s t m c k hm hfor => ?ckptData, fun s t m c k hm hfor hall hroom => ?ckptEnd, fun s d t m u n k c x hm htag hc hckpt hnum hst => ?ckptAck,
    fun s d t m leaf pa hm hacc => ?tokSig⟩
  case rdReq =>
    intro l f code busy
    refine ⟨fun hbusy => (exec_rdReq hm hacc).trans (if_pos (busy_iff.mp hbusy)), fun hfree hkind => ?_, fun hfree hkind => ?_⟩
    all_goals
      have hgo : ¬ (leafCls leaf = .object ∧ t.slotBusy l.home pa = true) :=
        fun h => Bool.false_ne_true (hfree.symm.trans (busy_iff.mpr h))
    · exact (exec_rdReq hm hacc).trans ((if_neg hgo).trans (if_neg hkind))
    · exact (exec_rdReq hm hacc).trans ((if_neg hgo).trans (if_pos hkind))
  case rdBack =>
    show execRdData d s = _
    unfold execRdData
    rw [hm]
    dsimp only
    rw [htag]
    refine (if_neg (by simp [hok])).trans ?_
    rw [ho]
  case rdFar | rdFill =>
    show execRdData d s = _
    unfold execRdData
    rw [hm]
    dsimp only
    rw [htag]
  case wrReq =>
    intro l busy r
    have hrun : exec (.wrReq d) s = if leafCls leaf = .object ∧ t.slotBusy l.home pa = true then .next s else
        .next (r.1.replyMsg d m tyWrAck fun x => { x with time := BitVec.ofNat 64 r.2.1, aux0 := BitVec.ofNat 64 r.2.2 }) := by
      show execWrReq d s = _
      unfold execWrReq
      rw [hm]
      dsimp only
      rw [hacc]
    refine ⟨fun hbusy => hrun.trans (if_pos (busy_iff.mp hbusy)), fun hfree => hrun.trans (if_neg ?_)⟩
    exact fun h => Bool.false_ne_true (hfree.symm.trans (busy_iff.mpr h))
  case wrDone =>
    show execWrAck d s = _
    unfold execWrAck
    rw [hm]
    dsimp only
    rw [htag]
    refine (if_neg (by simp [hok])).trans ?_
    rw [ho]
  case wrToken | wrJob =>
    show execWrAck d s = _
    unfold execWrAck
    rw [hm]
    dsimp only
    rw [htag]
  case comb =>
    show execCombReq d s = _
    unfold execCombReq
    rw [hm]
    dsimp only
    rw [hacc]
    dsimp only
    rw [hin]
  case combBack =>
    intro far lanes rs
    show execCombRsp d s = _
    unfold execCombRsp
    rw [hm]
    dsimp only
    rw [htag]
    dsimp only
    rw [ho]
  case ptRd =>
    intro f e u
    show execPtRd d s = _
    unfold execPtRd
    rw [hm]
    dsimp only
    rw [hentry]
    have hcharged : (e.getLsbD 0 && !e.getLsbD 1 && leafHome e == homeOf d) = true
        ↔ e.getLsbD 0 = true ∧ e.getLsbD 1 = false ∧ leafHome e = homeOf d := by
      simp [and_assoc]
    have hsame : (if e.getLsbD 0 && !e.getLsbD 1 && leafHome e == homeOf d then f.1.countAccess m.ctx m.va e (otherDie d) else f.1) = u :=
      if_congr hcharged rfl rfl
    rw [← hsame]
  case ptCas =>
    intro swap u
    show execPtCas d s = _
    unfold execPtCas
    rw [hm]
    dsimp only
    rw [hentry]
  case ptData =>
    refine ⟨fun hno => ?_, fun sub hok hflaw => ?_, fun hok hflaw => ?_⟩
    all_goals
      show execPtData d s = _
      unfold execPtData
      rw [hm]
      dsimp only
      rw [htag]
    · exact if_pos hno
    · refine (if_neg (by simp [hok])).trans ?_
      rw [hflaw]
    · refine (if_neg (by simp [hok])).trans ?_
      rw [hflaw]
  case shoot =>
    intro u
    show execShoot d s = _
    unfold execShoot
    rw [hm]
    dsimp only
    rw [hkey]
  case shot =>
    show execShootAck d s = _
    unfold execShootAck
    rw [hm]
    dsimp only
    rw [htag]
  case homeReq =>
    show execHomeReq d s = _
    unfold execHomeReq
    rw [hm]
    dsimp only
    rw [hkey]
    refine (if_neg hres).trans ?_
    rw [hframe]
  case grant =>
    have hrun : exec (.homeGrant d) s = if ((u.ctx x.ctx).map fun c => u.moveBarred c x).getD true then
        .next ((u.freeFrame x.ctx { die := x.dst, pa := m.aux0.toNat, size := x.size }).refuseMove x)
        else .next (u.beginDrain x m.aux0.toNat) := by
      show execHomeGrant d s = _
      unfold execHomeGrant
      rw [hm]
      dsimp only
      rw [hmove]
    rw [hc] at hrun
    exact ⟨fun hgo => hrun.trans (if_neg (by simp [hgo])), fun hbarred => hrun.trans (if_pos hbarred)⟩
  case deny =>
    show execHomeDeny d s = _
    unfold execHomeDeny
    rw [hm]
    dsimp only
    rw [hmove]
  case homeData =>
    show execHomeData d s = _
    unfold execHomeData
    rw [hm]
    dsimp only
    rw [hmove]
    exact if_neg (by simp [hdst, hroom])
  case homeDone =>
    show execHomeDone d s = _
    unfold execHomeDone
    rw [hm]
    dsimp only
    rw [hmove]
    exact if_pos hsrc
  case migData =>
    intro b u
    have hrun : exec (.migData d) s = if b.length < m.aux1.toNat then .next u else if streamOk c b then .next (u.takeOver c.num d)
        else .next ((u.refuseMsg d m 2 .refuseFirmware).migRefused c.num d) := by
      show execMigData d s = _
      unfold execMigData
      rw [hm]
      dsimp only
      rw [hkey]
      exact (if_neg (by simp [hmig])).trans (if_neg (by simp [hnext]))
    exact ⟨fun hmore => hrun.trans (if_pos hmore), fun hend hbad => hrun.trans ((if_neg (Nat.not_lt.mpr hend)).trans (if_neg (by simp [hbad]))),
      fun hend hok => hrun.trans ((if_neg (Nat.not_lt.mpr hend)).trans (if_pos hok))⟩
  case ckptData =>
    show execCkptData .kapael s = _
    unfold execCkptData
    rw [hm]
    dsimp only
    rw [hfor]
    exact if_neg (by simp)
  case ckptEnd =>
    show execCkptEnd .kapael s = _
    unfold execCkptEnd
    rw [hm]
    dsimp only
    rw [hfor]
    exact (if_neg (by simp [hall])).trans (if_neg (Nat.not_lt.mpr hroom))
  case ckptAck =>
    show execCkptAck d s = _
    unfold execCkptAck
    rw [hm]
    dsimp only
    rw [htag]
    dsimp only
    rw [hc]
    exact if_pos (by simp [hckpt, hnum, hst])
  case tokSig =>
    intro u g
    show execTokSig d s = _
    unfold execTokSig
    rw [hm]
    dsimp only
    rw [hacc]

end Sys2Proof.Machine

/-! Every memory keeps its one canonical form (R33, R35, R43, R44, R92): the predicate that a step keeps, and how the rules of the
state's own operations keep it. -/

namespace Sys2Proof.Machine

/-! ## Canonical states -/

/-- A block whose scratchpad is canonical. -/
def Block.Canon (b : Block) : Prop := Memory.wf b.scratch = true

/-- A record of a block whose scratchpad is canonical. -/
def Saved.Canon (v : Saved) : Prop := v.blk.Canon

/-- Records of blocks whose scratchpads are all canonical. -/
def Records (l : List Saved) : Prop := ∀ v ∈ l, v.Canon

/-- Resident blocks whose scratchpads are all canonical. -/
def Residents (l : List (BlockRef × Block)) : Prop := ∀ e ∈ l, e.2.Canon

/-- A checkpoint all of whose records are canonical. -/
def Checkpoint.Canon (k : Checkpoint) : Prop := Records k.blocks ∧ Records k.snaps

/-- A checkpoint, if there is one, is canonical. -/
def MaybeCkpt (o : Option Checkpoint) : Prop := ∀ k, o = some k → k.Canon

/-- The copies that Kapael keeps of an arriving context's records, if there are any, are canonical. -/
def MaybeKept (o : Option Kept) : Prop := ∀ k, o = some k → Records k.snaps

/-- A context all of whose records are canonical. -/
def Context.Canon (c : Context) : Prop := MaybeCkpt c.mirror ∧ MaybeCkpt c.ckpt ∧ MaybeKept c.kept

/-- Contexts all of whose records are canonical. -/
def Contexts (l : List Context) : Prop := ∀ c ∈ l, c.Canon

/-- What of a state holds memories, each in its canonical form. -/
structure AllCanon (memK memA memH wsK wsA : Memory) (blocks : List (BlockRef × Block)) (saved snaps retained : List Saved)
    (ctxs : List Context) : Prop where
  memK : memK.wf = true
  memA : memA.wf = true
  memH : memH.wf = true
  wsK : wsK.wf = true
  wsA : wsA.wf = true
  blocks : Residents blocks
  saved : Records saved
  snaps : Records snaps
  retained : Records retained
  ctxs : Contexts ctxs

/-- A state all of whose memories are canonical; what holds no memory may change freely. -/
def State.Canon (s : State) : Prop := AllCanon s.memK s.memA s.memH s.wsK s.wsA s.blocks s.saved s.snaps s.retained s.ctxs

theorem records_iff {l : List Saved} : Records l ↔ (l.all fun v => Memory.wf v.blk.scratch) = true := by
  simp [Records, Saved.Canon, Block.Canon]

theorem records_append {l r : List Saved} : Records (l ++ r) ↔ Records l ∧ Records r := by
  simp [Records, or_imp, forall_and]

theorem Context.canon_iff {c : Context} : c.Canon ↔ Records c.records := by
  have hck : ∀ o : Option Checkpoint, MaybeCkpt o ↔ Records ((o.map (·.records)).getD []) := by
    rintro (_ | k)
    · simp [MaybeCkpt, Records]
    · simp [MaybeCkpt, Checkpoint.Canon, Checkpoint.records, records_append]
  have hkept : ∀ o : Option Kept, MaybeKept o ↔ Records ((o.map (·.snaps)).getD []) := by
    rintro (_ | k)
    · simp [MaybeKept, Records]
    · simp [MaybeKept]
  unfold Context.Canon Context.records
  rw [records_append, records_append, hck, hck, hkept, and_assoc]

theorem State.canon_iff {s : State} : s.Canon ↔ s.memoriesWf = true := by
  have hctx : Contexts s.ctxs ↔ Records (s.ctxs.flatMap Context.records) := by
    simp only [Contexts, Context.canon_iff, Records, List.mem_flatMap]
    exact ⟨fun h v ⟨c, hc, hv⟩ => h c hc v hv, fun h c hc v hv => h v ⟨c, hc, hv⟩⟩
  have hall : s.memoriesWf = true ↔ s.memK.wf = true ∧ s.memA.wf = true ∧ s.memH.wf = true ∧ s.wsK.wf = true ∧ s.wsA.wf = true
      ∧ Residents s.blocks ∧ Records s.saved ∧ Records s.snaps ∧ Records s.retained ∧ Contexts s.ctxs := by
    rw [hctx]
    simp only [records_iff]
    simp only [State.memoriesWf, State.records, Bool.and_eq_true, List.all_append, and_assoc, List.all_eq_true, Residents, Block.Canon]
  rw [hall]
  exact ⟨fun ⟨h1, h2, h3, h4, h5, h6, h7, h8, h9, h10⟩ => ⟨h1, h2, h3, h4, h5, h6, h7, h8, h9, h10⟩,
    fun ⟨h1, h2, h3, h4, h5, h6, h7, h8, h9, h10⟩ => ⟨h1, h2, h3, h4, h5, h6, h7, h8, h9, h10⟩⟩

/-! ## Records, checkpoints and contexts -/

theorem Records.nil : Records [] := fun _ h => nomatch h

theorem Records.append {l r : List Saved} (hl : Records l) (hr : Records r) : Records (l ++ r) := records_append.mpr ⟨hl, hr⟩

theorem Records.cons {v : Saved} {l : List Saved} (hv : v.Canon) (hl : Records l) : Records (v :: l) := List.forall_mem_cons.mpr ⟨hv, hl⟩

theorem Records.filter {l : List Saved} {p : Saved → Bool} (h : Records l) : Records (l.filter p) :=
  fun v hv => h v (List.mem_of_mem_filter hv)

theorem Records.map {l : List Saved} {f : Saved → Saved} (h : Records l) (hf : ∀ v, v.Canon → (f v).Canon) : Records (l.map f) := by
  intro v hv
  obtain ⟨u, hu, rfl⟩ := List.mem_map.mp hv
  exact hf u (h u hu)

theorem mem_updFirst {α : Type} {p : α → Bool} {f : α → α} {l : List α} {b : α} (h : b ∈ updFirst p f l) : b ∈ l ∨ ∃ a ∈ l, b = f a := by
  induction l with
  | nil => cases h
  | cons a l ih =>
    unfold updFirst at h
    split at h
    · rcases List.mem_cons.mp h with rfl | h
      · exact .inr ⟨a, List.mem_cons_self, rfl⟩
      · exact .inl (List.mem_cons_of_mem _ h)
    · rcases List.mem_cons.mp h with rfl | h
      · exact .inl List.mem_cons_self
      · rcases ih h with h | ⟨x, hx, e⟩
        · exact .inl (List.mem_cons_of_mem _ h)
        · exact .inr ⟨x, List.mem_cons_of_mem _ hx, e⟩

theorem Records.updFirst {l : List Saved} {p : Saved → Bool} {f : Saved → Saved} (h : Records l) (hf : ∀ v, v.Canon → (f v).Canon) :
    Records (updFirst p f l) := by
  intro v hv
  rcases mem_updFirst hv with hv | ⟨u, hu, rfl⟩
  · exact h v hv
  · exact hf u (h u hu)

theorem Residents.filter {l : List (BlockRef × Block)} {p : BlockRef × Block → Bool} (h : Residents l) : Residents (l.filter p) :=
  fun e he => h e (List.mem_of_mem_filter he)

theorem Residents.append {l r : List (BlockRef × Block)} (hl : Residents l) (hr : Residents r) : Residents (l ++ r) := by
  intro e he
  exact (List.mem_append.mp he).elim (hl e) (hr e)

theorem Residents.single {e : BlockRef × Block} (h : e.2.Canon) : Residents [e] := List.forall_mem_singleton.mpr h

theorem Residents.drop {l : List (BlockRef × Block)} {r : BlockRef} (h : Residents l) : Residents (Machine.drop r l) := h.filter

theorem Contexts.filter {l : List Context} {p : Context → Bool} (h : Contexts l) : Contexts (l.filter p) :=
  fun c hc => h c (List.mem_of_mem_filter hc)

theorem Contexts.append {l r : List Context} (hl : Contexts l) (hr : Contexts r) : Contexts (l ++ r) := by
  intro c hc
  exact (List.mem_append.mp hc).elim (hl c) (hr c)

theorem Contexts.single {c : Context} (h : c.Canon) : Contexts [c] := List.forall_mem_singleton.mpr h

theorem Contexts.map {l : List Context} {f : Context → Context} (h : Contexts l) (hf : ∀ c, c.Canon → (f c).Canon) :
    Contexts (l.map f) := by
  intro c hc
  obtain ⟨d, hd, rfl⟩ := List.mem_map.mp hc
  exact hf d (h d hd)

theorem MaybeCkpt.none : MaybeCkpt .none := fun _ h => nomatch h

theorem MaybeCkpt.some {k : Checkpoint} (h : k.Canon) : MaybeCkpt (.some k) := fun _ e => Option.some.inj e ▸ h

theorem MaybeCkpt.map {o : Option Checkpoint} {f : Checkpoint → Checkpoint} (h : MaybeCkpt o) (hf : ∀ k, k.Canon → (f k).Canon) :
    MaybeCkpt (o.map f) := by
  intro k hk
  obtain ⟨j, hj, rfl⟩ := Option.map_eq_some_iff.mp hk
  exact hf j (h j hj)

theorem MaybeKept.none : MaybeKept .none := fun _ h => nomatch h

theorem MaybeKept.some {k : Kept} (h : Records k.snaps) : MaybeKept (.some k) := fun _ e => Option.some.inj e ▸ h

theorem Context.Canon.mirror {c : Context} (h : c.Canon) : MaybeCkpt c.mirror := h.1

theorem Context.Canon.ckpt {c : Context} (h : c.Canon) : MaybeCkpt c.ckpt := h.2.1

theorem Context.Canon.kept {c : Context} (h : c.Canon) : MaybeKept c.kept := h.2.2

theorem Context.canon_of {c : Context} (hm : MaybeCkpt c.mirror) (hk : MaybeCkpt c.ckpt) (hp : MaybeKept c.kept) : c.Canon := ⟨hm, hk, hp⟩

theorem Context.Canon.mirrored {c : Context} {k : Checkpoint} (h : c.Canon) (e : c.mirror = .some k) : k.Canon := h.1 k e

theorem Context.Canon.checkpoint {c : Context} {k : Checkpoint} (h : c.Canon) (e : c.ckpt = .some k) : k.Canon := h.2.1 k e

theorem Context.Canon.copies {c : Context} {k : Kept} (h : c.Canon) (e : c.kept = .some k) : Records k.snaps := h.2.2 k e

theorem Checkpoint.Canon.blocks {k : Checkpoint} (h : k.Canon) : Records k.blocks := h.1

theorem Checkpoint.Canon.snaps {k : Checkpoint} (h : k.Canon) : Records k.snaps := h.2

theorem Checkpoint.canon_of {k : Checkpoint} (hb : Records k.blocks) (hs : Records k.snaps) : k.Canon := ⟨hb, hs⟩

/-- A context changed in what holds no records. -/
theorem Context.Canon.same {c c' : Context} (h : c.Canon)
    (e : (c'.mirror, c'.ckpt, c'.kept) = (c.mirror, c.ckpt, c.kept)) : c'.Canon := by
  simp only [Prod.mk.injEq] at e
  obtain ⟨hm, hk, hp⟩ := e
  unfold Context.Canon
  rw [hm, hk, hp]
  exact h

/-- A block changed in what is no scratchpad. -/
theorem Block.Canon.same {b b' : Block} (h : b.Canon) (e : b'.scratch = b.scratch) : b'.Canon := by
  unfold Block.Canon
  rw [e]
  exact h

/-- A record changed in what is no scratchpad. -/
theorem Saved.Canon.same {v v' : Saved} (h : v.Canon) (e : v'.blk.scratch = v.blk.scratch) : v'.Canon := Block.Canon.same h e

/-- A checkpoint changed in what is no record. -/
theorem Checkpoint.Canon.same {k k' : Checkpoint} (h : k.Canon)
    (e : (k'.blocks, k'.snaps) = (k.blocks, k.snaps)) : k'.Canon := by
  obtain ⟨eb, es⟩ := Prod.mk.inj e
  exact ⟨eb ▸ h.1, es ▸ h.2⟩

theorem Context.Canon.dropEpochs {c : Context} {p} (h : c.Canon) : (c.dropEpochs p).Canon := h

/-- A step's answer, whose next state is canonical. -/
def Keeps : Out → Prop
  | .next t => t.Canon
  | _ => True

/-- An access of firmware, whatever it comes to, leaves a canonical state; `f` reads the state of its result. -/
def FwRes.All {α : Type} (f : α → State) : FwRes α → Prop
  | .ok a => (f a).Canon
  | .wait s => s.Canon
  | .bad s _ _ => s.Canon

@[inherit_doc FwRes.All] def JobRes.All {α : Type} (f : α → State) : JobRes α → Prop
  | .ok a => (f a).Canon
  | .wait s => s.Canon
  | .bad s _ _ => s.Canon

/-- An answer, if there is one, carries a canonical state. -/
def IfSome {α : Type} (f : α → State) (o : Option α) : Prop := ∀ a, o = some a → (f a).Canon

@[inherit_doc IfSome] def IfOk {ε α : Type} (f : α → State) (r : Except ε α) : Prop := ∀ a, r = .ok a → (f a).Canon

section
variable {α : Type} {f : α → State} {a : α} {s t : State}

theorem FwRes.All.ok {r : FwRes α} (h : r.All f) (e : r = .ok a) : (f a).Canon := by subst e; exact h
theorem FwRes.All.wait {r : FwRes α} (h : r.All f) (e : r = .wait t) : t.Canon := by subst e; exact h
theorem FwRes.All.bad {r : FwRes α} {sub va} (h : r.All f) (e : r = .bad t sub va) : t.Canon := by subst e; exact h
theorem JobRes.All.ok {r : JobRes α} (h : r.All f) (e : r = .ok a) : (f a).Canon := by subst e; exact h
theorem JobRes.All.wait {r : JobRes α} (h : r.All f) (e : r = .wait t) : t.Canon := by subst e; exact h
theorem JobRes.All.bad {r : JobRes α} {sub va} (h : r.All f) (e : r = .bad t sub va) : t.Canon := by subst e; exact h
theorem IfSome.some {o : Option α} (h : IfSome f o) (e : o = .some a) : (f a).Canon := h a e
theorem IfOk.ok {ε : Type} {r : Except ε α} (h : IfOk f r) (e : r = .ok a) : (f a).Canon := h a e

theorem FwRes.All.ok_fst {β : Type} {b : β} {r : FwRes (State × β)} (h : r.All Prod.fst) (e : r = .ok (t, b)) : t.Canon := FwRes.All.ok h e
theorem JobRes.All.ok_fst {β : Type} {b : β} {r : JobRes (State × β)} (h : r.All Prod.fst) (e : r = .ok (t, b)) : t.Canon :=
  JobRes.All.ok h e
theorem IfSome.some_fst {β : Type} {b : β} {o : Option (State × β)} (h : IfSome Prod.fst o) (e : o = .some (t, b)) : t.Canon :=
  IfSome.some h e
theorem IfOk.ok_fst {ε β : Type} {b : β} {r : Except ε (State × β)} (h : IfOk Prod.fst r) (e : r = .ok (t, b)) : t.Canon := IfOk.ok h e

theorem State.Canon.fst {β : Type} {b : β} {r : State × β} (h : r.1.Canon) (e : r = (t, b)) : t.Canon := by subst e; exact h

theorem Keeps.of_next (h : s.Canon) : Keeps (.next s) := h
theorem FwRes.All.of_ok (h : (f a).Canon) : (FwRes.ok a).All f := h

theorem State.Canon.of_bind_fst {β γ : Type} {b : β} {o : Option γ} {g : γ → Option (State × β)} (e : o.bind g = some (t, b))
    (h : ∀ c, IfSome Prod.fst (g c)) : t.Canon := by
  obtain ⟨c, -, e⟩ := Option.bind_eq_some_iff.mp e
  exact (h c).some_fst e

theorem IfSome.map {β : Type} {g : β → α} {o : Option β} (h : ∀ b, o = .some b → (f (g b)).Canon) : IfSome f (o.map g) := by
  intro a e
  obtain ⟨b, hb, rfl⟩ := Option.map_eq_some_iff.mp e
  exact h b hb

theorem IfSome.of_some (h : (f a).Canon) : IfSome f (.some a) := fun _ e => Option.some.inj e ▸ h
theorem IfSome.of_none : IfSome f none := fun _ e => nomatch e
theorem IfOk.of_ok {ε : Type} (h : (f a).Canon) : IfOk f (.ok a : Except ε α) := fun _ e => Except.ok.inj e ▸ h
theorem IfOk.of_error {ε : Type} {x : ε} : IfOk f (.error x : Except ε α) := fun _ e => nomatch e

theorem IfSome.ite {c : Prop} [Decidable c] {o p : Option α} (ho : IfSome f o) (hp : IfSome f p) : IfSome f (if c then o else p) := by
  split
  · exact ho
  · exact hp

theorem IfOk.ite {ε : Type} {c : Prop} [Decidable c] {o p : Except ε α} (ho : IfOk f o) (hp : IfOk f p) : IfOk f (if c then o else p) := by
  split
  · exact ho
  · exact hp

theorem FwRes.All.ite {c : Prop} [Decidable c] {o p : FwRes α} (ho : o.All f) (hp : p.All f) : (if c then o else p).All f := by
  split
  · exact ho
  · exact hp

theorem JobRes.All.ite {c : Prop} [Decidable c] {o p : JobRes α} (ho : o.All f) (hp : p.All f) : (if c then o else p).All f := by
  split
  · exact ho
  · exact hp

theorem State.Canon.ite {c : Prop} [Decidable c] (hs : s.Canon) (ht : t.Canon) : (if c then s else t).Canon := by
  split
  · exact hs
  · exact ht

theorem State.Canon.ite_fst {β : Type} {c : Prop} [Decidable c] {x y : State × β} (hx : x.1.Canon) (hy : y.1.Canon) :
    (if c then x else y).1.Canon := by
  split
  · exact hx
  · exact hy

theorem State.Canon.getD {o : Option State} (ho : IfSome id o) (h : s.Canon) : (o.getD s).Canon := by
  cases o with
  | none => exact h
  | some t => exact ho t rfl

theorem State.Canon.foldl_fst {β γ : Type} {g : State × γ → β → State × γ} {l : List β} {x : State × γ} (h : x.1.Canon)
    (hg : ∀ t b, t.1.Canon → (g t b).1.Canon) : (l.foldl g x).1.Canon := by
  induction l generalizing x with
  | nil => exact h
  | cons b l ih => exact ih (hg x b h)

theorem State.Canon.foldl_pair {β γ : Type} {g : State × γ → β → State × γ} {l : List β} {c : γ} (h : s.Canon)
    (hg : ∀ t b, t.1.Canon → (g t b).1.Canon) : (l.foldl g (s, c)).1.Canon := .foldl_fst h hg

theorem Memory.wf_foldl {β : Type} {g : Memory → β → Memory} {l : List β} {m : Memory} (h : m.wf = true)
    (hg : ∀ k b, k.wf = true → (g k b).wf = true) : (l.foldl g m).wf = true := by
  induction l generalizing m with
  | nil => exact h
  | cons b l ih => exact ih (hg m b h)

theorem Keeps.ite {c : Prop} [Decidable c] {o p : Out} (ho : Keeps o) (hp : Keeps p) : Keeps (if c then o else p) := by
  split
  · exact ho
  · exact hp

theorem Memory.wf_ite {c : Prop} [Decidable c] {m n : Memory} (hm : m.wf = true) (hn : n.wf = true) : (if c then m else n).wf = true := by
  split
  · exact hm
  · exact hn

theorem Memory.wf_ite_fst {β : Type} {c : Prop} [Decidable c] {x y : Memory × β} (hx : x.1.wf = true) (hy : y.1.wf = true) :
    (if c then x else y).1.wf = true := by
  split
  · exact hx
  · exact hy

/-- Work done for each of a list, one after another. -/
theorem State.Canon.foldl {β : Type} {g : State → β → State} {l : List β} (h : s.Canon) (hg : ∀ t b, t.Canon → (g t b).Canon) :
    (l.foldl g s).Canon := by
  induction l generalizing s with
  | nil => exact h
  | cons b l ih => exact ih (hg s b h)

end

/-! ## The state's own operations -/

section
variable {s : State}

/-- A state changed in what holds no memory. -/
theorem State.Canon.same {t : State} (h : s.Canon) (e : t.Canon = s.Canon) : t.Canon := e.mpr h

theorem State.Canon.setDie {d x} (h : s.Canon) : (s.setDie d x).Canon := by
  cases d <;> exact h

theorem State.Canon.mem {l} (h : s.Canon) : (s.mem l).wf = true := by
  cases l
  · exact h.memK
  · exact h.memA
  · exact h.memH

theorem State.Canon.setMem {l m} (h : s.Canon) (hm : m.wf = true) : (s.setMem l m).Canon := by
  cases l
  · exact { h with memK := hm }
  · exact { h with memA := hm }
  · exact { h with memH := hm }

theorem State.Canon.saved (h : s.Canon) : Records s.saved := AllCanon.saved h
theorem State.Canon.snaps (h : s.Canon) : Records s.snaps := AllCanon.snaps h
theorem State.Canon.retained (h : s.Canon) : Records s.retained := AllCanon.retained h
theorem State.Canon.blocks (h : s.Canon) : Residents s.blocks := AllCanon.blocks h
theorem State.Canon.ctxs (h : s.Canon) : Contexts s.ctxs := AllCanon.ctxs h

theorem State.Canon.ws {d} (h : s.Canon) : (s.ws d).wf = true := by
  cases d
  · exact h.wsK
  · exact h.wsA

theorem State.Canon.setWs {d m} (h : s.Canon) (hm : m.wf = true) : (s.setWs d m).Canon := by
  cases d
  · exact { h with wsK := hm }
  · exact { h with wsA := hm }

theorem State.Canon.ctx {n c} (h : s.Canon) (hc : s.ctx n = some c) : c.Canon := h.ctxs c (List.mem_of_find?_eq_some hc)

theorem State.Canon.putCtx {c} (h : s.Canon) (hc : c.Canon) : (s.putCtx c).Canon := by
  refine { h with ctxs := fun x hx => ?_ }
  rcases mem_updFirst hx with hx | ⟨-, -, rfl⟩
  · exact h.ctxs x hx
  · exact hc

theorem mem_put {κ α : Type} [DecidableEq κ] {k : κ} {a : α} {l : List (κ × α)} {e : κ × α} (h : e ∈ put k a l) : e ∈ l ∨ e = (k, a) := by
  induction l with
  | nil => exact .inr (List.mem_singleton.mp h)
  | cons x l ih =>
    unfold put at h
    split at h
    · rcases List.mem_cons.mp h with rfl | h
      · exact .inr rfl
      · exact .inl (List.mem_cons_of_mem _ h)
    · rcases List.mem_cons.mp h with rfl | h
      · exact .inl List.mem_cons_self
      · exact (ih h).imp (List.mem_cons_of_mem _) id

theorem State.Canon.blockOf {r b} (h : s.Canon) (hb : s.blockOf r = some b) : b.Canon := h.blocks (r, b) (mem_of_look hb)

theorem State.Canon.putBlock {r b} (h : s.Canon) (hb : b.Canon) : (s.putBlock r b).Canon := by
  refine { h with blocks := fun e he => ?_ }
  rcases mem_put he with he | rfl
  · exact h.blocks e he
  · exact hb

theorem State.Canon.onBlock {r f} (h : s.Canon) (hf : ∀ b, b.Canon → (f b).Canon) : (s.onBlock r f).Canon := by
  unfold State.onBlock
  split
  · exact h.putBlock (hf _ (h.blockOf ‹_›))
  · exact h

end

end Sys2Proof.Machine

/-! What the state's shared operations, translation, the link and the homes do keeps a state canonical (O52). -/

namespace Sys2Proof.Machine

section
variable {s : State}

theorem State.Canon.putCrucible {r c} (h : s.Canon) : (s.putCrucible r c).Canon := h.setDie

theorem State.Canon.putFw {d n f} (h : s.Canon) : (s.putFw d n f).Canon := h.setDie

theorem State.Canon.setWave {a w} (h : s.Canon) : (s.setWave a w).Canon := by
  unfold State.setWave
  split
  · exact h
  · exact h.putCrucible
  · exact h.putFw
  · exact h

theorem State.Canon.setPar {p r} (h : s.Canon) : (s.setPar p r).Canon := h

theorem State.Canon.putLaunch {l} (h : s.Canon) : (s.putLaunch l).Canon := h

theorem State.Canon.allocForm {c f} (h : s.Canon) : IfSome Prod.fst (s.allocForm c f) := .map (fun _ _ => h)

theorem State.Canon.stalled {x why} (h : s.Canon) : (s.stalled x why).Canon := by
  unfold State.stalled
  split
  · exact h.setWave
  · exact h.setPar

theorem State.Canon.unwalk {a} (h : s.Canon) : (s.unwalk a).Canon := by
  unfold State.unwalk
  split
  · split
    · exact .ite h.setPar h
    · exact h
  · split
    · exact .ite h.setWave h
    · exact h

theorem State.Canon.pushEvent {d e} (h : s.Canon) : (s.pushEvent d e).Canon := .ite h (.ite h.setDie h.setDie)

theorem State.Canon.faultEntry {ctx d kind body} (h : s.Canon) : (s.faultEntry ctx d kind body).Canon := by
  unfold State.faultEntry
  split
  · exact .putCtx h ((h.ctx ‹_›).same (by rfl))
  · exact h

theorem State.Canon.faultNote {ctx d kind sub node va} (h : s.Canon) : (s.faultNote ctx d kind sub node va).Canon := h.faultEntry

theorem State.Canon.freeSiblings {p} (h : s.Canon) : (s.freeSiblings p).Canon := h

theorem State.Canon.renameSibling {p f} (h : s.Canon) : (s.renameSibling p f).Canon := h

theorem State.Canon.endSibling {p} (h : s.Canon) : (s.endSibling p).Canon := h.freeSiblings.renameSibling

theorem State.Canon.holed {w} (h : s.Canon) : (s.holed w).Canon := by
  unfold State.holed
  split
  · split
    · exact h.setPar
    · exact h
  · exact h

theorem State.Canon.endBound {a} (h : s.Canon) : (s.endBound a).Canon := by
  unfold State.endBound
  split
  · exact h
  · split
    · exact h.holed
    · exact h
  · split
    · exact h
    · exact .ite h h.setPar.endSibling

theorem State.Canon.failBatch {r sub wofs} (h : s.Canon) : (s.failBatch r sub wofs).Canon := h.putCrucible

theorem State.Canon.freeFw {d n} (h : s.Canon) : (s.freeFw d n).Canon := h.putFw

theorem State.Canon.lockQueue {q on} (h : s.Canon) : (s.lockQueue q on).Canon := by
  unfold State.lockQueue
  split
  · exact h
  · exact h

theorem State.Canon.endsBound {d n} (h : s.Canon) : (s.endsBound d n).Canon := .freeFw (.lockQueue (.endBound h))

theorem State.Canon.firmwareFault {d n c} (h : s.Canon) : (s.firmwareFault d n c).Canon := by
  unfold State.firmwareFault
  refine .setDie (.endsBound ?_)
  split
  · exact h.faultEntry
  · exact h

theorem State.Canon.clearWalks {a} (h : s.Canon) : (s.clearWalks a).Canon := .ite h.setDie h

theorem State.Canon.trap {x cs precise} (h : s.Canon) : (s.trap x cs precise).Canon := by
  unfold State.trap
  split
  · exact h.failBatch
  · split
    · exact h.firmwareFault
    · exact h
  · dsimp only
    split
    · exact h.clearWalks.setWave.pushEvent
    · exact h.clearWalks.setWave
  · exact h.clearWalks.setPar.pushEvent

theorem State.Canon.raise {x c sub} (h : s.Canon) : (s.raise x c sub).Canon := by
  unfold State.raise
  exact h.trap

theorem State.Canon.onLife {d f} (h : s.Canon) : (s.onLife d f).Canon := h.setDie

theorem State.Canon.flash {d} (h : s.Canon) : (s.flash d).Canon := h.setDie

theorem State.Canon.corrected {d fs} (h : s.Canon) : (s.corrected d fs).Canon := h.onLife

theorem State.Canon.meets {d p} (h : s.Canon) : (s.meets d p).1.Canon := .ite_fst (.corrected h) h

theorem State.Canon.heals {p} (h : s.Canon) : (s.heals p).Canon := .ite h h

theorem State.Canon.pipelineError {a} (h : s.Canon) : (s.pipelineError a).Canon := by
  unfold State.pipelineError
  dsimp only
  split
  · exact h.onLife
  · exact h.onLife
  · exact h

theorem State.Canon.softAt {a f} (h : s.Canon) : (s.softAt a f).1.Canon := by
  unfold State.softAt
  dsimp only
  refine .ite_fst h (.ite_fst h.meets.pipelineError (.ite_fst h.meets.meets.pipelineError ?_))
  split
  · split
    · exact h.meets.meets
    · exact .ite_fst h.meets.meets.meets h.meets.meets.meets.heals
  · exact h.meets.meets

theorem State.Canon.pathFlaw {id w} (h : s.Canon) : (s.pathFlaw id w).1.Canon := h.meets

theorem State.Canon.engineFlaw {r} (h : s.Canon) : (s.engineFlaw r).1.Canon := by
  unfold State.engineFlaw
  dsimp only
  exact .ite_fst h (.ite_fst h.meets h.meets.meets)

theorem State.Canon.lineFlaw {l dirty} (h : s.Canon) : (s.lineFlaw l dirty).1.Canon := by
  unfold State.lineFlaw
  dsimp only
  exact .ite_fst h (.ite_fst h.meets (.ite_fst h.meets.meets h.meets.meets))

theorem State.Canon.placeFlaw {c n p} (h : s.Canon) : (s.placeFlaw c n p).1.Canon := by
  unfold State.placeFlaw
  dsimp only
  split
  · exact .ite_fst h.meets h.meets
  · exact .ite_fst h.meets h.meets
  · refine .ite_fst h.meets ?_
    split
    · exact .ite_fst h.meets h.meets.setDie
    · exact h.meets

theorem State.Canon.laneFlaws {c n a} (h : s.Canon) : (s.laneFlaws c n a).1.Canon := by
  induction a generalizing s c n with
  | nil =>
    unfold State.laneFlaws
    exact h
  | cons _ _ ih =>
    unfold State.laneFlaws
    exact ih h.placeFlaw

theorem State.Canon.putEntry {d pa e} (h : s.Canon) : (s.putEntry d pa e).Canon := h.setMem (Memory.wf_writeN _ _ h.mem)

theorem State.Canon.fillTlb {c ctx va pa leaf} (h : s.Canon) : (s.fillTlb c ctx va pa leaf).Canon := h.setDie

theorem State.Canon.tlbDrop {d ctx va len} (h : s.Canon) : (s.tlbDrop d ctx va len).Canon := h.setDie

theorem State.Canon.frameDrop {d h' pa len} (h : s.Canon) : (s.frameDrop d h' pa len).Canon := .ite h.setDie h

theorem State.Canon.wantWalk {q} (h : s.Canon) : (s.wantWalk q).Canon := by
  unfold State.wantWalk
  dsimp only
  split
  · exact h
  · exact h.setDie

theorem State.Canon.setWalk {q w} (h : s.Canon) : (s.setWalk q w).Canon := h.setDie

theorem State.Canon.dropWalk {q} (h : s.Canon) : (s.dropWalk q).Canon := h.setDie

theorem State.Canon.wantMove {ctx va leaf dst} (h : s.Canon) : (s.wantMove ctx va leaf dst).Canon := .ite h h

theorem State.Canon.setPipe {d p} (h : s.Canon) : (s.setPipe d p).Canon := h.setDie

theorem State.Canon.sendMsg {d m} (h : s.Canon) : (s.sendMsg d m).Canon := h.setPipe

theorem State.Canon.request {d f m} (h : s.Canon) : (s.request d f m).Canon := .ite h h.setPipe.sendMsg

theorem State.Canon.askFar {d w ctx va l} (h : s.Canon) : (s.askFar d w ctx va l).Canon := h.request

theorem State.Canon.askLine {a acc ctx va leaf l} (h : s.Canon) : (s.askLine a acc ctx va leaf l).Canon := h.request

theorem State.Canon.writeFar {d f ctx va ws} (h : s.Canon) : (s.writeFar d f ctx va ws).Canon := h.request

theorem State.Canon.takeFar {d w l} (h : s.Canon) : IfSome Prod.fst (s.takeFar d w l) := .map (fun _ _ => h.setPipe)

theorem State.Canon.dropFar {d w} (h : s.Canon) : (s.dropFar d w).Canon := .ite h.setPipe h

theorem State.Canon.walkFlaw {d pas} (h : s.Canon) : (s.walkFlaw d pas).1.Canon := .ite_fst h (h.foldl_fst (fun _ _ h1 => h1.lineFlaw))

theorem State.Canon.keepPtrs {d ctx l} (h : s.Canon) : (s.keepPtrs d ctx l).Canon := .ite h h.setDie

theorem State.Canon.walkOver {d ctx} (h : s.Canon) : (s.walkOver d ctx).Canon := h.setDie

theorem State.Canon.doWalk {q} (h : s.Canon) : (s.doWalk q).Canon := by
  unfold State.doWalk
  extract_lets d
  split
  · exact h.setWalk
  · split
    split
    rename_i t flaw heq
    have ht : t.Canon := State.Canon.fst (.ite_fst h.walkFlaw h) heq
    split
    · exact ht.walkOver.setWalk
    · extract_lets kept
      have hk : kept.Canon := ht.keepPtrs
      split
      · exact hk.walkOver.setWalk
      · exact hk.walkOver.setWalk
      · exact hk.walkOver.wantMove.setWalk
      · exact hk.request
      · exact .ite (.dropWalk (.fillTlb (.ite hk hk.putEntry))) (.ite hk.walkOver.fillTlb.dropWalk hk.request)

theorem State.Canon.execPageWalk {q} (h : s.Canon) : Keeps (execPageWalk q s) := by
  unfold Machine.execPageWalk
  split
  · exact .ite h.doWalk h
  · exact h

theorem State.Canon.execMvHoldRelease {a} (h : s.Canon) : Keeps (execMvHoldRelease a s) := h.setDie

theorem State.Canon.fwFree {b ctx va} (h : s.Canon) : (s.fwFree b ctx va).Canon := .ite h h

theorem State.Canon.fwHold {b ctx va acc} (h : s.Canon) : (s.fwHold b ctx va acc).Canon := .ite h h

theorem State.Canon.fwStopped {α : Type} {f : α → State} {b c va acc w} (h : s.Canon) :
    (State.fwStopped (α := α) s b c va acc w).All f := by
  unfold State.fwStopped
  split
  · exact h.fwFree
  · exact h.wantMove.fwHold
  · exact h.request.fwHold
  · exact h.fwHold
  · exact h.fwHold

theorem State.Canon.fwNear {b c va acc} (h : s.Canon) : (s.fwNear b c va acc).All Prod.fst := by
  unfold State.fwNear
  split
  · exact State.Canon.ite h.fwFree h.fwFree.putEntry
  · exact h.fwStopped

theorem State.Canon.fwFar {b c va acc} (h : s.Canon) : (s.fwFar b c va acc).All Prod.fst := by
  unfold State.fwFar
  dsimp only
  split
  · exact h.fwFree
  · split
    · exact h.keepPtrs.fwStopped
    · exact .ite h.keepPtrs.walkOver.fwFree.setDie h.keepPtrs.request.fwHold
    · exact h.keepPtrs.walkOver.fwStopped

theorem State.Canon.fwMap {b ctx va acc} (h : s.Canon) : (s.fwMap b ctx va acc).All Prod.fst := by
  unfold State.fwMap
  split
  · exact h
  · dsimp only
    split
    · exact h.fwFree
    · exact .ite h (.ite h.fwNear h.fwFar)

theorem State.Canon.fwPieces {d ctx acc a a5 a6} (h : s.Canon) : (s.fwPieces d ctx acc a a5 a6).All Prod.fst := by
  induction a generalizing s d ctx acc a5 a6 with
  | zero =>
    unfold State.fwPieces
    exact h
  | succ _ ih =>
    unfold State.fwPieces
    refine .ite h ?_
    dsimp only
    split
    · exact h.fwMap.wait ‹_›
    · exact h.fwMap.bad ‹_›
    · have hs := h.fwMap.ok_fst ‹_›
      split
      · exact (ih hs).ok_fst ‹_›
      · exact (ih hs).wait ‹_›
      · exact (ih hs).bad ‹_›

theorem State.Canon.fwRange {d ctx acc va len} (h : s.Canon) : (s.fwRange d ctx acc va len).All Prod.fst := h.fwPieces

theorem State.Canon.epochsFull {c d} (h : s.Canon) (hc : c.Canon) : (s.epochsFull c d).Canon := by
  refine State.Canon.faultNote (State.Canon.putCtx h (Context.canon_of .none ?_ hc.kept))
  exact hc.ckpt.map fun _ _ => ⟨.nil, .nil⟩

theorem State.Canon.touch {ctx va leaf pa} (h : s.Canon) : (s.touch ctx va leaf pa).Canon := by
  unfold State.touch
  split
  · exact h
  · have hs := h.ctx ‹_›
    refine .ite h ?_
    dsimp only
    split
    · exact .ite h (.putCtx h (hs.same (by rfl)))
    · split
      · exact h
      · exact .ite h (.ite (h.epochsFull hs) (.putCtx h (hs.same (by rfl))))
    · exact h

theorem State.Canon.l1Del {c l} (h : s.Canon) : (s.l1Del c l).Canon := h.setDie

theorem State.Canon.l1Forget {c l} (h : s.Canon) : (s.l1Forget c l).Canon := by
  unfold State.l1Forget
  split
  · exact .ite h h.l1Del
  · exact h

theorem State.Canon.countAccess {ctx va leaf req} (h : s.Canon) : (s.countAccess ctx va leaf req).Canon := by
  unfold State.countAccess
  split
  · exact h
  · exact .ite h.setDie.wantMove h.setDie

theorem State.Canon.onTag {l f} (h : s.Canon) : (s.onTag l f).Canon := h.setDie

theorem State.Canon.putBack {d x} (h : s.Canon) : (s.putBack d x).Canon :=
  .ite h.writeFar (h.countAccess.touch.setMem (Memory.wf_writeN _ _ h.countAccess.touch.mem)).onTag

theorem State.Canon.recall {l} (h : s.Canon) : (s.recall l).Canon := by
  unfold State.recall
  split
  · exact h
  · split
    · exact h
    · refine .onTag ?_
      dsimp only
      split
      · exact h.putBack.l1Del
      · exact h

theorem State.Canon.evict {l} (h : s.Canon) : (s.evict l).Canon := by
  unfold State.evict
  refine .ite h ?_
  dsimp only
  split
  · exact h
  · exact h.recall.setDie

theorem State.Canon.holdTag {l} (h : s.Canon) : (s.holdTag l).Canon := by
  unfold State.holdTag
  split
  · exact h
  · exact .setDie (.ite h h.evict)

theorem State.Canon.putTag {l f} (h : s.Canon) : (s.putTag l f).Canon := h.holdTag.onTag

theorem State.Canon.writeBack {d x} (h : s.Canon) : (s.writeBack d x).Canon := .ite h.putBack h.putBack.putTag

theorem State.Canon.resetTags {d pa size} (h : s.Canon) : (s.resetTags d pa size).Canon := .ite h.setDie h

theorem State.Canon.finishHalf {l} (h : s.Canon) : (s.finishHalf l).Canon := by
  unfold State.finishHalf
  refine .ite h ?_
  dsimp only
  split
  · exact .ite h (h.setMem (Memory.wf_foldl h.mem (fun _ _ h1 => Memory.wf_writeN _ _ h1))).putCrucible
  · exact h

theorem State.Canon.atHome {l req ctx va leaf dirty} (h : s.Canon) : (s.atHome l req ctx va leaf dirty).Canon :=
  .ite h.finishHalf.recall.countAccess h.finishHalf.recall.countAccess.putTag

theorem State.Canon.homeRead {l req ctx va leaf} (h : s.Canon) : (s.homeRead l req ctx va leaf).1.Canon := .ite_fst h.atHome.putTag h.atHome

theorem Memory.wf_putByte {obj m a b} (h : Memory.wf m = true) : (putByte obj m a b).wf = true := by
  unfold putByte
  split
  · exact Memory.wf_write h _ _
  · split
    · exact h
    · split
      · exact Memory.wf_write h _ _
      · exact Memory.wf_write h _ _

theorem Memory.wf_putBytes {obj m a bs} (h : Memory.wf m = true) : (putBytes obj m a bs).wf = true := by
  induction bs generalizing m a with
  | nil => exact h
  | cons _ _ ih => exact ih (Memory.wf_putByte h)

theorem State.Canon.homeWrite {l req ctx va leaf ws} (h : s.Canon) : (s.homeWrite l req ctx va leaf ws).1.Canon :=
  h.atHome.touch.setMem (Memory.wf_foldl h.atHome.touch.mem (fun _ _ h1 => Memory.wf_putBytes h1))

theorem State.Canon.putCore {c m} (h : s.Canon) : (s.putCore c m).Canon := h.setDie

theorem State.Canon.l1Drop {c l} (h : s.Canon) : (s.l1Drop c l).Canon := by
  unfold State.l1Drop
  split
  · exact h
  · exact .ite h.recall (.l1Del (.ite h.writeBack h))

theorem State.Canon.noteGen {c x} (h : s.Canon) : (s.noteGen c x).Canon := .ite h.putCore h

theorem State.Canon.l1Put {c x pol} (h : s.Canon) : (s.l1Put c x pol).Canon := by
  unfold State.l1Put
  refine .setDie (.ite h.noteGen.l1Del ?_)
  split
  · exact h.noteGen.l1Del.l1Drop
  · exact h.noteGen.l1Del

theorem State.Canon.freeBytes {n} (h : s.Canon) : (s.freeBytes n).1.Canon := h

theorem State.Canon.homeBytesFor {c l leaf data} (h : s.Canon) : (s.homeBytesFor c l leaf data).1.Canon := .ite_fst h.freeBytes h

theorem State.Canon.fillLine {c l ctx va leaf pol} (h : s.Canon) : (s.fillLine c l ctx va leaf pol).1.Canon := h.homeRead.homeBytesFor.l1Put

theorem State.Canon.passLine {c l ctx va leaf} (h : s.Canon) : (s.passLine c l ctx va leaf).1.Canon := by
  unfold State.passLine
  refine .homeBytesFor (.l1Forget (.atHome ?_))
  split
  · exact .ite h.l1Drop h
  · exact h

theorem State.Canon.loadLine {c l ctx va leaf pol} (h : s.Canon) : (s.loadLine c l ctx va leaf pol).1.Canon := by
  unfold State.loadLine
  split
  · exact .ite_fst h h.fillLine
  · exact h.fillLine

theorem State.Canon.l1Write {c l ofs bytes} (h : s.Canon) : (s.l1Write c l ofs bytes).Canon := h.setDie

theorem State.Canon.l1Refresh {c l ofs bytes} (h : s.Canon) : (s.l1Refresh c l ofs bytes).Canon := h.setDie

theorem State.Canon.dropPrivate {c ctx} (h : s.Canon) : (s.dropPrivate c ctx).Canon := h.foldl (fun _ _ h1 => h1.l1Drop)

theorem State.Canon.launchL1 {c ctx} (h : s.Canon) : (s.launchL1 c ctx).Canon := h.foldl (fun _ _ h1 => h1.l1Drop)

theorem State.Canon.execLineRecall {l} (h : s.Canon) : Keeps (execLineRecall l s) := h.recall

theorem State.Canon.execL1Drop {c l} (h : s.Canon) : Keeps (execL1Drop c l s) := h.l1Drop

theorem State.Canon.execOwnershipGrant {c l} (h : s.Canon) : Keeps (execOwnershipGrant c l s) := by
  unfold Machine.execOwnershipGrant
  dsimp only
  split
  · exact h
  · exact .ite h.onTag.l1Put h

theorem State.Canon.sweepAll {d} (h : s.Canon) : (s.sweepAll d).Canon := .ite h h.setDie

theorem State.Canon.execContentionSweep {d} (h : s.Canon) : Keeps (execContentionSweep d s) := h.sweepAll

theorem State.Canon.execCounterDecay {d} (h : s.Canon) : Keeps (execCounterDecay d s) := h.setDie

theorem State.Canon.hostPieces {h' ps} (h : s.Canon) : (s.hostPieces h' ps).Canon :=
  .foldl h (fun _ _ h1 => .foldl h1 (fun _ _ h2 => .ite h2 (.ite h2.atHome h2.homeWrite)))

theorem State.Canon.hostTry {h'} (h : s.Canon) : (s.hostTry h').Canon := by
  unfold State.hostTry
  dsimp only
  split
  · exact (h.fwPieces.wait ‹_›).same (by rfl)
  · exact h.fwPieces.bad ‹_›
  · exact .ite h (h.fwPieces.ok_fst ‹_›).hostPieces

theorem State.Canon.execHostAccess {h'} (h : s.Canon) : Keeps (execHostAccess h' s) := h.hostTry

theorem State.Canon.hostAgain (h : s.Canon) : (s.hostAgain).Canon := .foldl h (fun _ _ h1 => h1.hostTry)

theorem State.Canon.nearBytes {d ctx a} (h : s.Canon) : (s.nearBytes d ctx a).1.Canon := by
  induction a generalizing s d ctx with
  | nil =>
    unfold State.nearBytes
    exact h
  | cons _ _ ih =>
    unfold State.nearBytes
    exact ih (h.foldl (fun _ _ h1 => h1.atHome))

theorem State.Canon.takeLines {b a} (h : s.Canon) : (s.takeLines b a).1.Canon := by
  induction a generalizing s b with
  | nil =>
    unfold State.takeLines
    exact h
  | cons _ _ ih =>
    unfold State.takeLines
    split
    · exact ih h
    · exact ih (h.takeFar.some_fst ‹_›)

end

end Sys2Proof.Machine

/-! Firmware's accesses and rings, and the vector instructions, keep a state canonical (O52). -/

namespace Sys2Proof.Machine

section
variable {s : State}

theorem State.Canon.homeBytes {b ctx ps} (h : s.Canon) : (s.homeBytes b ctx ps).All Prod.fst := by
  unfold State.homeBytes
  refine .ite (h.foldl (fun _ _ h1 => h1.askFar)) ?_
  dsimp only
  split
  · exact h.takeLines
  · exact .of_ok (h.takeLines.foldl_pair (fun _ _ h2 => .ite_fst h2.nearBytes h2))

theorem State.Canon.homeStoreG {b ctx a a4 a5 a6} (h : s.Canon) : (s.homeStoreG b ctx a a4 a5 a6).1.Canon := by
  induction a generalizing s b ctx a4 a5 a6 with
  | nil =>
    unfold State.homeStoreG
    exact h
  | cons _ _ ih =>
    unfold State.homeStoreG
    exact ih (h.foldl_pair (fun _ _ h1 => .ite_fst h1.writeFar h1.homeWrite))

theorem State.Canon.homeStore {b ctx ps data} (h : s.Canon) : (s.homeStore b ctx ps data).Canon := h.homeStoreG

theorem State.Canon.fwRead {d ctx acc va n} (h : s.Canon) : (s.fwRead d ctx acc va n).All Prod.fst := by
  unfold State.fwRead
  split
  · exact (h.fwRange.ok_fst ‹_›).homeBytes
  · exact h.fwRange.wait ‹_›
  · exact h.fwRange.bad ‹_›

theorem State.Canon.fwWrite {d ctx acc va data} (h : s.Canon) : (s.fwWrite d ctx acc va data).All id := by
  unfold State.fwWrite
  split
  · exact (h.fwRange.ok_fst ‹_›).homeStore
  · exact h.fwRange.wait ‹_›
  · exact h.fwRange.bad ‹_›

/-- What appending to a ring comes to, whatever it is, leaves a canonical state. -/
def RingRes.Canon : RingRes → Prop
  | .put s _ => s.Canon
  | .lost s => s.Canon
  | .none s => s.Canon
  | .wait s => s.Canon

section
variable {r : RingRes} {t : State}
theorem RingRes.Canon.put {b} (h : r.Canon) (e : r = .put t b) : t.Canon := by subst e; exact h
theorem RingRes.Canon.lost (h : r.Canon) (e : r = .lost t) : t.Canon := by subst e; exact h
theorem RingRes.Canon.none (h : r.Canon) (e : r = .none t) : t.Canon := by subst e; exact h
theorem RingRes.Canon.wait (h : r.Canon) (e : r = .wait t) : t.Canon := by subst e; exact h
end

theorem State.Canon.ringLost {d ctx va lost} (h : s.Canon) : (s.ringLost d ctx va lost).Canon := by
  unfold State.ringLost
  split
  · exact h.fwWrite.ok ‹_›
  · exact h.fwWrite.wait ‹_›
  · exact h.fwWrite.bad ‹_›

theorem State.Canon.ringWrite {d ctx va cap size a a7} (h : s.Canon) : (s.ringWrite d ctx va cap size a a7).All id := by
  induction a7 generalizing s d ctx va cap size a with
  | nil =>
    unfold State.ringWrite
    exact h
  | cons _ _ ih =>
    unfold State.ringWrite
    split
    · exact ih (h.fwWrite.ok ‹_›)
    · exact h.fwWrite

theorem State.Canon.ringAppend {d ctx va size es} (h : s.Canon) : (s.ringAppend d ctx va size es).Canon := by
  unfold State.ringAppend
  split
  · exact h
  · split
    · exact h.fwRead.wait ‹_›
    · exact h.fwRead.bad ‹_›
    · have hs := h.fwRead.ok_fst ‹_›
      dsimp only
      split
      · exact hs.ringLost
      · split
        · exact hs.ringWrite.wait ‹_›
        · exact (hs.ringWrite.bad ‹_›).ringLost
        · have ht := hs.ringWrite.ok ‹_›
          split
          · exact ht.fwWrite.ok ‹_›
          · exact ht.fwWrite.wait ‹_›
          · exact ht.fwWrite.bad ‹_›

theorem State.Canon.writeFault {c} (h : s.Canon) : (s.writeFault c).Canon := by
  unfold State.writeFault
  split
  · exact h
  · split
    · exact h.ringAppend.wait ‹_›
    · rename_i heq
      have hs := h.ringAppend.put heq
      refine .ite ?_ ?_
      · split
        · exact .putCtx hs ((hs.ctx ‹_›).same (by rfl))
        · exact hs.same (by rfl)
      · split
        · exact .putCtx hs ((hs.ctx ‹_›).same (by rfl))
        · exact h.ringAppend.put heq
    · rename_i heq2
      have ht := h.ringAppend.lost heq2
      split
      · exact .putCtx ht ((ht.ctx ‹_›).same (by rfl))
      · exact h.ringAppend.lost heq2
    · rename_i heq3
      have hu := h.ringAppend.none heq3
      split
      · exact .putCtx hu ((hu.ctx ‹_›).same (by rfl))
      · exact h.ringAppend.none heq3

theorem State.Canon.onDbg {ctx f} (h : s.Canon) : (s.onDbg ctx f).Canon := by
  unfold State.onDbg
  split
  · exact .putCtx h ((h.ctx ‹_›).same (by rfl))
  · exact h

theorem State.Canon.tracePut {d ctx es} (h : s.Canon) : (s.tracePut d ctx es).1.Canon := by
  unfold State.tracePut
  split
  · exact h
  · refine .ite_fst h.onDbg ?_
    split
    · exact h.ringAppend.put ‹_›
    · exact (h.ringAppend.lost ‹_›).onDbg
    · exact (h.ringAppend.none ‹_›).onDbg
    · exact (h.ringAppend.wait ‹_›).onDbg

theorem State.Canon.samplePut {d ctx e} (h : s.Canon) : (s.samplePut d ctx e).Canon := by
  unfold State.samplePut
  split
  · exact h
  · refine .ite h.onDbg ?_
    split
    · exact (h.ringAppend.wait ‹_›).onDbg
    · exact h.ringAppend.put ‹_›
    · exact h.ringAppend.lost ‹_›
    · exact h.ringAppend.none ‹_›

theorem State.Canon.payRings {ctx a} (h : s.Canon) : (s.payRings ctx a).Canon := by
  induction a generalizing s ctx with
  | zero =>
    unfold State.payRings
    exact h
  | succ _ ih =>
    unfold State.payRings
    split
    · exact h
    · split
      · exact h
      · split
        · exact h.ringAppend.wait ‹_›
        · exact ih (h.ringAppend.put ‹_›).onDbg
        · exact ih (h.ringAppend.lost ‹_›).onDbg
        · exact ih (h.ringAppend.none ‹_›).onDbg
      · split
        · exact h.ringAppend.wait ‹_›
        · exact ih (h.ringAppend.put ‹_›).onDbg
        · exact ih (h.ringAppend.lost ‹_›).onDbg
        · exact ih (h.ringAppend.none ‹_›).onDbg

theorem State.Canon.traceLostOut {d ctx} (h : s.Canon) : (s.traceLostOut d ctx).Canon := by
  unfold State.traceLostOut
  split
  · exact h
  · refine .ite h ?_
    split
    · have hs := h.ringAppend.put ‹_›
      dsimp only
      split
      · exact .putCtx hs ((hs.ctx ‹_›).same (by rfl))
      · exact hs.same (by rfl)
    · exact h

theorem State.Canon.traceEntry {id ord act} (h : s.Canon) : (s.traceEntry id ord act).Canon := by
  unfold State.traceEntry
  split
  · exact h
  · exact .ite h (.ite (.tracePut (.ite_fst h.traceLostOut (.ite h.traceLostOut.tracePut h.traceLostOut.tracePut)))
        (.ite_fst h.traceLostOut (.ite h.traceLostOut.tracePut h.traceLostOut.tracePut)))

theorem State.Canon.traceMark {id kind v} (h : s.Canon) : (s.traceMark id kind v).Canon := by
  unfold State.traceMark
  split
  · exact h
  · exact .ite h (.ite h.traceLostOut.tracePut h.traceLostOut)

theorem State.Canon.countStep {x} (h : s.Canon) : (s.countStep x).1.Canon := by
  unfold State.countStep
  split
  · exact .ite_fst h.failBatch h.putCrucible
  · exact h

theorem State.Canon.runInstr {f e} (h : s.Canon) (hw : ∀ s a w sp, s.Canon → (e.wave s a w sp).Canon)
    (hp : ∀ s p r, s.Canon → (e.par s p r).Canon) : Keeps (runInstr f e s) := by
  unfold Machine.runInstr
  split
  · trivial
  · split
    · exact h.stalled
    · exact h.raise
    · split
      · rename_i heq
        exact (h.softAt.fst heq).raise
      · rename_i heq
        split
        have hc := (h.softAt.fst heq).countStep.fst ‹_›
        split
        · exact hc
        · split
          · exact hw _ _ _ _ hc
          · exact hp _ _ _ hc

theorem State.Canon.placeWaves {p r quad gs sl} (h : s.Canon) : (s.placeWaves p r quad gs sl).Canon := by
  induction gs generalizing s sl with
  | nil =>
    unfold State.placeWaves
    exact h
  | cons _ _ ih =>
    cases sl with
    | nil => exact h
    | cons _ _ => exact ih h

theorem State.Canon.blow {p r} (h : s.Canon) : (s.blow p r).Canon := h.setPar.placeWaves.freeSiblings

theorem State.Canon.finishWave {a w sp f} (h : s.Canon) : (s.finishWave a w sp f).Canon := h.setWave

theorem State.Canon.vecWave {f fn a w sp} (h : s.Canon) : (vecWave f fn s a w sp).Canon := h.finishWave

theorem State.Canon.bindForms {c p a} (h : s.Canon) : IfSome id (s.bindForms c p a) := by
  induction a generalizing s c p with
  | nil =>
    unfold State.bindForms
    exact .of_some h
  | cons _ _ ih =>
    unfold State.bindForms
    split
    · exact IfSome.of_none
    · rename_i heq
      split
      · exact IfSome.of_none
      · exact ih (h.allocForm.some_fst heq).setPar

theorem State.Canon.finishForm {p r f dst ps} (h : s.Canon) : IfSome id (s.finishForm p r f dst ps) := h.setPar.bindForms

theorem State.Canon.passPar {p r f} (h : s.Canon) : (s.passPar p r f).Canon := .ite h.blow h.setPar

theorem State.Canon.vecPar {f rule fn p r} (h : s.Canon) : (vecPar f rule fn s p r).Canon := by
  unfold Machine.vecPar
  split
  · exact h.blow
  · exact h.blow
  · exact h.passPar
  · split
    · exact h.blow
    · dsimp only
      split
      · exact h.blow
      · exact .getD h.finishForm h.blow

theorem State.Canon.runVec {f rule fn} (h : s.Canon) : Keeps (runVec f rule fn s) :=
  h.runInstr (fun _ _ _ _ h1 => h1.vecWave) (fun _ _ _ h2 => h2.vecPar)

theorem State.Canon.execIadd {x} (h : s.Canon) : Keeps (execIadd x s) := h.runVec

theorem State.Canon.execIaddImm {x} (h : s.Canon) : Keeps (execIaddImm x s) := h.runVec

theorem State.Canon.execIsub {x} (h : s.Canon) : Keeps (execIsub x s) := h.runVec

theorem State.Canon.execIsubImm {x} (h : s.Canon) : Keeps (execIsubImm x s) := h.runVec

theorem State.Canon.execImul {x} (h : s.Canon) : Keeps (execImul x s) := h.runVec

theorem State.Canon.execImulImm {x} (h : s.Canon) : Keeps (execImulImm x s) := h.runVec

theorem State.Canon.execImulh {x} (h : s.Canon) : Keeps (execImulh x s) := h.runVec

theorem State.Canon.execImulhImm {x} (h : s.Canon) : Keeps (execImulhImm x s) := h.runVec

theorem State.Canon.execImad {x} (h : s.Canon) : Keeps (execImad x s) := h.runVec

theorem State.Canon.execIaddc {x} (h : s.Canon) : Keeps (execIaddc x s) := h.runVec

theorem State.Canon.execIsubb {x} (h : s.Canon) : Keeps (execIsubb x s) := h.runVec

theorem State.Canon.execImin {x} (h : s.Canon) : Keeps (execImin x s) := h.runVec

theorem State.Canon.execIminImm {x} (h : s.Canon) : Keeps (execIminImm x s) := h.runVec

theorem State.Canon.execImax {x} (h : s.Canon) : Keeps (execImax x s) := h.runVec

theorem State.Canon.execImaxImm {x} (h : s.Canon) : Keeps (execImaxImm x s) := h.runVec

theorem State.Canon.execIabs {x} (h : s.Canon) : Keeps (execIabs x s) := h.runVec

theorem State.Canon.execSel {x} (h : s.Canon) : Keeps (execSel x s) := h.runVec

theorem State.Canon.execImadw {x} (h : s.Canon) : Keeps (execImadw x s) := h.runVec

theorem State.Canon.execRng {x} (h : s.Canon) : Keeps (execRng x s) := h.runVec

theorem State.Canon.execRngImm {x} (h : s.Canon) : Keeps (execRngImm x s) := h.runVec

theorem State.Canon.execAnd {x} (h : s.Canon) : Keeps (execAnd x s) := h.runVec

theorem State.Canon.execAndImm {x} (h : s.Canon) : Keeps (execAndImm x s) := h.runVec

theorem State.Canon.execOr {x} (h : s.Canon) : Keeps (execOr x s) := h.runVec

theorem State.Canon.execOrImm {x} (h : s.Canon) : Keeps (execOrImm x s) := h.runVec

theorem State.Canon.execXor {x} (h : s.Canon) : Keeps (execXor x s) := h.runVec

theorem State.Canon.execXorImm {x} (h : s.Canon) : Keeps (execXorImm x s) := h.runVec

theorem State.Canon.execNot {x} (h : s.Canon) : Keeps (execNot x s) := h.runVec

theorem State.Canon.execLogt {x} (h : s.Canon) : Keeps (execLogt x s) := h.runVec

theorem State.Canon.execShl {x} (h : s.Canon) : Keeps (execShl x s) := h.runVec

theorem State.Canon.execShlImm {x} (h : s.Canon) : Keeps (execShlImm x s) := h.runVec

theorem State.Canon.execShr {x} (h : s.Canon) : Keeps (execShr x s) := h.runVec

theorem State.Canon.execShrImm {x} (h : s.Canon) : Keeps (execShrImm x s) := h.runVec

theorem State.Canon.execSar {x} (h : s.Canon) : Keeps (execSar x s) := h.runVec

theorem State.Canon.execSarImm {x} (h : s.Canon) : Keeps (execSarImm x s) := h.runVec

theorem State.Canon.execFunl {x} (h : s.Canon) : Keeps (execFunl x s) := h.runVec

theorem State.Canon.execBfe {x} (h : s.Canon) : Keeps (execBfe x s) := h.runVec

theorem State.Canon.execBfi {x} (h : s.Canon) : Keeps (execBfi x s) := h.runVec

theorem State.Canon.execPopc {x} (h : s.Canon) : Keeps (execPopc x s) := h.runVec

theorem State.Canon.execClz {x} (h : s.Canon) : Keeps (execClz x s) := h.runVec

theorem State.Canon.execBrev {x} (h : s.Canon) : Keeps (execBrev x s) := h.runVec

theorem State.Canon.execMov {x} (h : s.Canon) : Keeps (execMov x s) := h.runVec

theorem State.Canon.execMovi {x} (h : s.Canon) : Keeps (execMovi x s) := h.runVec

theorem State.Canon.icmpPar {f mh fn p r} (h : s.Canon) : (icmpPar f mh fn s p r).Canon := by
  unfold Machine.icmpPar
  split
  · refine .ite h.vecPar (.ite h.blow ?_)
    split
    · exact h.setPar
    · exact h.blow
  · exact h.vecPar

theorem State.Canon.execIcmp {x} (h : s.Canon) : Keeps (execIcmp x s) :=
  h.runInstr (fun _ _ _ _ h1 => h1.vecWave) (fun _ _ _ h2 => h2.icmpPar)

theorem State.Canon.execIcmpImm {x} (h : s.Canon) : Keeps (execIcmpImm x s) :=
  h.runInstr (fun _ _ _ _ h1 => h1.vecWave) (fun _ _ _ h2 => h2.icmpPar)

theorem State.Canon.execPlogt {x} (h : s.Canon) : Keeps (execPlogt x s) := h.runVec

theorem State.Canon.execPpack {x} (h : s.Canon) : Keeps (execPpack x s) :=
  h.runInstr (fun _ _ _ _ h1 => h1.vecWave) (fun _ _ _ h2 => .ite h2.blow h2.vecPar)

theorem State.Canon.execPunpk {x} (h : s.Canon) : Keeps (execPunpk x s) := h.runVec

theorem State.Canon.execFadd {x} (h : s.Canon) : Keeps (execFadd x s) := h.runVec

theorem State.Canon.execFaddImm {x} (h : s.Canon) : Keeps (execFaddImm x s) := h.runVec

theorem State.Canon.execFmul {x} (h : s.Canon) : Keeps (execFmul x s) := h.runVec

theorem State.Canon.execFmulImm {x} (h : s.Canon) : Keeps (execFmulImm x s) := h.runVec

theorem State.Canon.execFfma {x} (h : s.Canon) : Keeps (execFfma x s) := h.runVec

theorem State.Canon.execFmin {x} (h : s.Canon) : Keeps (execFmin x s) := h.runVec

theorem State.Canon.execFminImm {x} (h : s.Canon) : Keeps (execFminImm x s) := h.runVec

theorem State.Canon.execFmax {x} (h : s.Canon) : Keeps (execFmax x s) := h.runVec

theorem State.Canon.execFmaxImm {x} (h : s.Canon) : Keeps (execFmaxImm x s) := h.runVec

theorem State.Canon.execFrnd {x} (h : s.Canon) : Keeps (execFrnd x s) := h.runVec

theorem State.Canon.fpWave {f g a w sp} (h : s.Canon) : (fpWave f g s a w sp).Canon := .setWave h

theorem State.Canon.runFp {f g} (h : s.Canon) : Keeps (runFp f g s) := h.runInstr (fun _ _ _ _ h1 => h1.fpWave) (fun _ _ _ h2 => h2.vecPar)

theorem State.Canon.execFrcp {x} (h : s.Canon) : Keeps (execFrcp x s) := h.runFp

theorem State.Canon.execFrsq {x} (h : s.Canon) : Keeps (execFrsq x s) := h.runFp

theorem State.Canon.execFsqrt {x} (h : s.Canon) : Keeps (execFsqrt x s) := h.runFp

theorem State.Canon.execFex2 {x} (h : s.Canon) : Keeps (execFex2 x s) := h.runFp

theorem State.Canon.execFlg2 {x} (h : s.Canon) : Keeps (execFlg2 x s) := h.runFp

theorem State.Canon.execFsin {x} (h : s.Canon) : Keeps (execFsin x s) := h.runFp

theorem State.Canon.execFcos {x} (h : s.Canon) : Keeps (execFcos x s) := h.runFp

theorem State.Canon.execFpFunctionResult {a op} (h : s.Canon) : Keeps (execFpFunctionResult a op s) := by
  unfold Machine.execFpFunctionResult
  split
  · split
    · exact .ite h.setWave h
    · exact h
  · exact h

theorem State.Canon.execHadd2 {x} (h : s.Canon) : Keeps (execHadd2 x s) := h.runVec

theorem State.Canon.execHmul2 {x} (h : s.Canon) : Keeps (execHmul2 x s) := h.runVec

theorem State.Canon.execHfma2 {x} (h : s.Canon) : Keeps (execHfma2 x s) := h.runVec

theorem State.Canon.execHmin2 {x} (h : s.Canon) : Keeps (execHmin2 x s) := h.runVec

theorem State.Canon.execHmax2 {x} (h : s.Canon) : Keeps (execHmax2 x s) := h.runVec

theorem State.Canon.execVdot2 {x} (h : s.Canon) : Keeps (execVdot2 x s) := h.runVec

theorem State.Canon.execVdot4 {x} (h : s.Canon) : Keeps (execVdot4 x s) := h.runVec

theorem State.Canon.execCvt {x} (h : s.Canon) : Keeps (execCvt x s) := h.runVec

theorem State.Canon.execPack2 {x} (h : s.Canon) : Keeps (execPack2 x s) := h.runVec

theorem State.Canon.execFcmp {x} (h : s.Canon) : Keeps (execFcmp x s) := h.runVec

theorem State.Canon.execFcmpImm {x} (h : s.Canon) : Keeps (execFcmpImm x s) := h.runVec

theorem State.Canon.execFkind {x} (h : s.Canon) : Keeps (execFkind x s) := h.runVec

theorem State.Canon.execLxch {x} (h : s.Canon) : Keeps (execLxch x s) := h.runVec

theorem State.Canon.execQxch {x} (h : s.Canon) : Keeps (execQxch x s) := h.runVec

theorem State.Canon.execQdd {x} (h : s.Canon) : Keeps (execQdd x s) := h.runVec

theorem State.Canon.execVote {x} (h : s.Canon) : Keeps (execVote x s) := h.runVec

theorem State.Canon.execBallot {x} (h : s.Canon) : Keeps (execBallot x s) := h.runVec

theorem State.Canon.execMatchLanes {x} (h : s.Canon) : Keeps (execMatchLanes x s) := h.runVec

theorem State.Canon.execLfold {x} (h : s.Canon) : Keeps (execLfold x s) := h.runVec

theorem State.Canon.execScan {x} (h : s.Canon) : Keeps (execScan x s) := h.runVec

theorem State.Canon.execXset {x} (h : s.Canon) : Keeps (execXset x s) :=
  h.runInstr (fun _ _ _ _ h1 => h1.finishWave) (fun _ _ _ h2 => h2.blow)

theorem State.Canon.setHist {b u h'} (h : s.Canon) : (s.setHist b u h').Canon := by
  unfold State.setHist
  split
  · split
    · exact .putBlock h ((h.blockOf ‹_›).same (by rfl))
    · exact h
  · exact h

theorem State.Canon.execQhist {x} (h : s.Canon) : Keeps (execQhist x s) := by
  unfold Machine.execQhist
  refine h.runInstr (fun _ _ _ _ h1 => .ite h1.raise h1.setHist.finishWave) (fun _ _ _ h2 => .ite h2.raise (.ite h2.stalled ?_))
  dsimp only
  split
  · exact h2.setPar
  · exact h2.blow
  · split
    · exact .ite h2.setHist.setPar h2.blow
    · exact h2.blow

theorem State.Canon.execQscale {x} (h : s.Canon) : Keeps (execQscale x s) :=
  h.runInstr (fun _ _ _ _ h1 => .ite h1.raise h1.vecWave) (fun _ _ _ h2 => .ite h2.raise (.ite h2.stalled h2.vecPar))

theorem State.Canon.execQclr {x} (h : s.Canon) : Keeps (execQclr x s) := by
  unfold Machine.execQclr
  refine h.runInstr (fun _ _ _ _ h1 => .ite h1.raise (.finishWave ?_)) (fun _ _ _ h2 => .ite h2.raise (.ite h2.stalled ?_))
  · split
    · exact h1.setHist
    · exact h1
  · dsimp only
    split
    · exact h2.setPar
    · exact h2.blow
    · split
      · exact .ite h2.setHist.setPar h2.blow
      · exact h2.blow

theorem State.Canon.execQpack {x} (h : s.Canon) : Keeps (execQpack x s) := h.runVec

theorem State.Canon.execQdeq {x} (h : s.Canon) : Keeps (execQdeq x s) :=
  h.runInstr (fun _ _ _ _ h1 => .ite h1.trap h1.vecWave) (fun _ _ _ h2 => h2.vecPar)

end

end Sys2Proof.Machine

/-! Control transfer and the memory instructions keep a state canonical (O52). -/

namespace Sys2Proof.Machine

section
variable {s : State}

theorem State.Canon.braWave {f x call a w sp} (h : s.Canon) : (braWave f x call s a w sp).Canon :=
  .ite h.finishWave (.ite h.setWave (.ite h.raise (.ite h.raise h.setWave)))

theorem State.Canon.cut {p r f d lo hi pos id' call} (h : s.Canon) : IfSome id (s.cut p r f d lo hi pos id' call) := by
  unfold State.cut
  dsimp only
  split
  · exact .of_none
  · refine .ite .of_none ?_
    split
    · exact .bindForms (.ite h.setPar.setPar h.setPar.setPar)
    · exact .of_some (f := id) (.ite h.setPar.setPar h.setPar.setPar)

theorem State.Canon.braPar {f x call p r} (h : s.Canon) : (braPar f x call s p r).Canon := by
  unfold Machine.braPar
  dsimp only
  split
  · exact h.setPar
  · exact .ite (.getD h.setPar.bindForms h.blow) h.setPar
  · refine .ite h.raise ?_
    split
    · exact .getD h.cut h.blow
    · exact h

theorem State.Canon.execBra {x} (h : s.Canon) : Keeps (execBra x s) := h.runInstr (fun _ _ _ _ h1 => h1.braWave) (fun _ _ _ h2 => h2.braPar)

theorem State.Canon.execCall {x} (h : s.Canon) : Keeps (execCall x s) :=
  h.runInstr (fun _ _ _ _ h1 => h1.braWave) (fun _ _ _ h2 => h2.braPar)

theorem State.Canon.brxWave {f call a w sp} (h : s.Canon) : (brxWave f call s a w sp).Canon := by
  unfold Machine.brxWave
  dsimp only
  split
  · exact h.finishWave
  · refine .ite h.trap (.ite h.trap ?_)
    split
    · exact h.trap
    · exact h.setWave

theorem State.Canon.brxPar {f call p r} (h : s.Canon) : (brxPar f call s p r).Canon := by
  unfold Machine.brxPar
  split
  · exact h.blow
  · exact h.passPar
  · split
    · exact h.blow
    · refine .ite h.blow ?_
      split
      · exact h.raise
      · exact .ite (.getD h.setPar.bindForms h.blow) h.setPar

theorem State.Canon.execBrx {x} (h : s.Canon) : Keeps (execBrx x s) := h.runInstr (fun _ _ _ _ h1 => h1.brxWave) (fun _ _ _ h2 => h2.brxPar)

theorem State.Canon.execCallx {x} (h : s.Canon) : Keeps (execCallx x s) :=
  h.runInstr (fun _ _ _ _ h1 => h1.brxWave) (fun _ _ _ h2 => h2.brxPar)

theorem State.Canon.execRet {x} (h : s.Canon) : Keeps (execRet x s) := h.runInstr (fun _ _ _ _ h1 => h1.brxWave) (fun _ _ _ h2 => h2.brxPar)

theorem State.Canon.joinWave {f id a w sp} (h : s.Canon) : (joinWave f id s a w sp).Canon := by
  unfold Machine.joinWave
  split
  · exact .ite h.finishWave h.setWave
  · exact h.finishWave

theorem State.Canon.joinPar {f id p r} (h : s.Canon) : (joinPar f id s p r).Canon := by
  unfold Machine.joinPar
  split
  · exact h.setPar
  · refine .ite h.setPar ?_
    split
    · exact .ite h.setPar h.setPar
    · exact h.setPar

theorem State.Canon.freeOtherJoin {p} (h : s.Canon) : (s.freeOtherJoin p).Canon := by
  unfold State.freeOtherJoin
  split
  · exact .ite h h
  · exact h

theorem State.Canon.execJoin {x} (h : s.Canon) : Keeps (execJoin x s) :=
  h.runInstr (fun _ _ _ _ h1 => h1.joinWave) (fun _ _ _ h2 => h2.joinPar.freeOtherJoin)

theorem State.Canon.execParisonMerge {p} (h : s.Canon) : Keeps (execParisonMerge p s) := by
  unfold Machine.execParisonMerge
  split
  · exact h
  · split
    · dsimp only
      split
      · exact h
      · refine .ite h ?_
        split
        · exact .ite (.ite h (State.Canon.renameSibling (.setPar h))) h.setPar.setPar
        · exact h.setPar.setPar
    · exact h

theorem State.Canon.retireWaves {ws} (h : s.Canon) : (s.retireWaves ws).Canon := h.foldl (fun _ _ h1 => h1.traceMark)

theorem State.Canon.resolveReform {p} (h : s.Canon) : (s.resolveReform p).Canon := by
  unfold State.resolveReform
  refine .ite h ?_
  split
  · exact .ite h (.ite h (.ite h h.retireWaves.setPar))
  · exact h

theorem State.Canon.putReform {a w} (h : s.Canon) : (s.putReform a w).Canon := by
  unfold State.putReform
  refine .ite h.setWave ?_
  dsimp only
  split
  · exact h.setWave.resolveReform
  · exact h.setWave

theorem State.Canon.exitWave {f m a w sp} (h : s.Canon) : (exitWave f m s a w sp).Canon := .ite h.setWave (.putReform (.ite h h.holed))

theorem State.Canon.exitPar {f p r} (h : s.Canon) : (exitPar f s p r).Canon := by
  unfold Machine.exitPar
  split
  · exact h.blow
  · exact h.setPar
  · exact h.setPar.endSibling

theorem State.Canon.execExit {x} (h : s.Canon) : Keeps (execExit x s) :=
  h.runInstr (fun _ _ _ _ h1 => h1.exitWave) (fun _ _ _ h2 => h2.exitPar)

theorem State.Canon.execKill {x} (h : s.Canon) : Keeps (execKill x s) :=
  h.runInstr (fun _ _ _ _ h1 => .exitWave (.ite h1 h1.holed)) (fun _ _ _ h2 => h2.exitPar)

theorem State.Canon.execReform {x} (h : s.Canon) : Keeps (execReform x s) :=
  h.runInstr (fun _ _ _ _ h1 => h1.putReform) (fun _ _ _ h2 => h2.setPar)

theorem State.Canon.execYield {x} (h : s.Canon) : Keeps (execYield x s) := by
  unfold Machine.execYield
  refine h.runInstr (fun _ _ _ _ h1 => h1.setWave) (fun _ _ _ h2 => ?_)
  dsimp only
  split
  · exact .ite h2.setPar h2.setPar.freeSiblings
  · exact h2.setPar

theorem State.Canon.trapWave {f c code a w sp} (h : s.Canon) : (trapWave f c code s a w sp).Canon :=
  .ite h.finishWave (.ite h.stalled h.trap)

theorem State.Canon.trapPar {f c code p r} (h : s.Canon) : (trapPar f c code s p r).Canon := by
  unfold Machine.trapPar
  dsimp only
  split
  · exact h.blow
  · exact h.setPar
  · exact .ite h.stalled h.trap

theorem State.Canon.execTrap {x} (h : s.Canon) : Keeps (execTrap x s) :=
  h.runInstr (fun _ _ _ _ h1 => h1.trapWave) (fun _ _ _ h2 => h2.trapPar)

theorem State.Canon.execBkpt {x} (h : s.Canon) : Keeps (execBkpt x s) :=
  h.runInstr (fun _ _ _ _ h1 => .ite h1.trapWave h1.finishWave) (fun _ _ _ h2 => .ite h2.trapPar h2.setPar)

theorem State.Canon.execNop {x} (h : s.Canon) : Keeps (execNop x s) :=
  h.runInstr (fun _ _ _ _ h1 => h1.finishWave) (fun _ _ _ h2 => h2.setPar)

theorem State.Canon.faultLanes {x bad} (h : s.Canon) : (s.faultLanes x bad).Canon := h.trap

theorem State.Canon.countWalk {x k eas qs} (h : s.Canon) : (s.countWalk x k eas qs).Canon := by
  unfold State.countWalk
  dsimp only
  split
  · exact .ite h (.setWave h)
  · exact .ite h (.setPar h)

theorem State.Canon.waitWalks {x k acc eas} (h : s.Canon) : (s.waitWalks x k acc eas).Canon := by
  unfold State.waitWalks
  dsimp only
  split
  · exact (h.foldl (fun _ _ h1 => h1.wantWalk)).countWalk.stalled
  · exact (h.foldl (fun _ _ h2 => h2.wantWalk)).countWalk

theorem State.Canon.mapOps {a g} (h : s.Canon) : (s.mapOps a g).Canon := by
  unfold State.mapOps
  split
  · split
    · exact h.setPar
    · exact h
  · split
    · exact h.setWave
    · exact h

theorem State.Canon.setAgentOp {a o} (h : s.Canon) : (s.setAgentOp a o).Canon := h.mapOps

theorem State.Canon.retire {a o} (h : s.Canon) : (s.retire a o).Canon := by
  unfold State.retire
  dsimp only
  split
  · split
    · exact .ite h h.setPar
    · exact h
  · split
    · exact h.setWave
    · exact h

theorem State.Canon.forgetLines {c rs} (h : s.Canon) : (s.forgetLines c rs).Canon := h.foldl (fun _ _ h1 => h1.l1Forget)

theorem State.Canon.faultsArrive {a o bad} (h : s.Canon) : (s.faultsArrive a o bad).Canon := by
  unfold State.faultsArrive
  split
  · split
    · exact h.trap
    · exact h
  · split
    · exact .pushEvent h.clearWalks
    · exact h
  · exact h

theorem State.Canon.replyFaults {a o bad} (h : s.Canon) : (s.replyFaults a o bad).Canon := h.retire.faultsArrive

theorem State.Canon.replyFault {a o sub mask ea} (h : s.Canon) : (s.replyFault a o sub mask ea).Canon := h.replyFaults

theorem State.Canon.replyRefused {a o mask ea} (h : s.Canon) : (s.replyRefused a o mask ea).Canon :=
  .ite h.setAgentOp.replyFaults h.setAgentOp.faultsArrive

theorem State.Canon.waits {x wt why} (h : s.Canon) : (s.waits x wt why).Canon := by
  unfold State.waits
  split
  · exact h.setWave
  · exact h.setPar

theorem State.Canon.fenceWait {x scope} (h : s.Canon) : (s.fenceWait x scope).Canon := h.waits

theorem State.Canon.irrevocable {b} (h : s.Canon) : (s.irrevocable b).Canon := by
  unfold State.irrevocable
  split
  · split
    · exact .putBlock h ((h.blockOf ‹_›).same (by rfl))
    · exact h
  · exact h

theorem State.Canon.fenceDone {x scope} (h : s.Canon) : (s.fenceDone x scope).Canon :=
  .ite (.irrevocable (.ite h h.dropPrivate)) (.ite h h.dropPrivate)

theorem State.Canon.inOrder {x ord scope go} (h : s.Canon) (hgo : ∀ t, t.Canon → (go t).Canon) : (s.inOrder x ord scope go).Canon := by
  unfold State.inOrder
  split
  · exact h.stalled
  · exact .ite (.ite (hgo _ h.fenceDone) h.fenceWait) (hgo _ h)

theorem State.Canon.execFenceTimePassed {a} (h : s.Canon) : Keeps (execFenceTimePassed a s) := by
  unfold Machine.execFenceTimePassed
  split
  · split
    · split
      · exact .ite h.setPar h
      · exact h
    · exact h
  · split
    · split
      · split
        · exact .ite h.setWave h
        · exact h
      · exact h
    · exact h

theorem State.Canon.scratchWrite {ref ofs bytes} (h : s.Canon) : (s.scratchWrite ref ofs bytes).Canon := by
  unfold State.scratchWrite
  split
  · exact .putBlock h (Memory.wf_writeN _ _ (h.blockOf ‹_›))
  · exact h

theorem State.Canon.issueOp {a w sp f o} (h : s.Canon) : (s.issueOp a w sp f o).Canon := .finishWave h

theorem State.Canon.waveAccess {f acc space align eas go a w sp} (h : s.Canon) (hgo : ∀ t x, t.Canon → (go t x).Canon) :
    (waveAccess f acc space align eas go s a w sp).Canon := by
  unfold Machine.waveAccess
  dsimp only
  split
  · exact h.waitWalks
  · exact h.faultLanes
  · refine .ite h.stalled (.ite (hgo _ _ h) ?_)
    split
    · exact hgo _ _ (h.laneFlaws.fst ‹_›)
    · exact (h.laneFlaws.fst ‹_›).trap

theorem State.Canon.loadWave {f x blk a w sp} (h : s.Canon) : (loadWave f x blk s a w sp).Canon :=
  h.inOrder (fun _ h1 => h1.waveAccess (fun _ _ h2 => h2.issueOp))

theorem State.Canon.execLd {x} (h : s.Canon) : Keeps (execLd x s) := h.runInstr (fun _ _ _ _ h1 => h1.loadWave) (fun _ _ _ h2 => h2.blow)

theorem State.Canon.execLdblk {x} (h : s.Canon) : Keeps (execLdblk x s) :=
  h.runInstr (fun _ _ _ _ h1 => h1.loadWave) (fun _ _ _ h2 => h2.blow)

theorem State.Canon.storeReq {c ctx pol e bytes} (h : s.Canon) : (s.storeReq c ctx pol e bytes).1.Canon := by
  unfold State.storeReq
  dsimp only
  split
  · exact h.scratchWrite
  · exact h
  · refine .ite_fst (.ite_fst h h.loadLine.l1Write) ?_
    split
    · exact .ite_fst h.l1Write h
    · exact h

theorem State.Canon.storeReqs {c ctx pol data a} (h : s.Canon) : (s.storeReqs c ctx pol data a).1.Canon := by
  induction a generalizing s c ctx pol data with
  | nil =>
    unfold State.storeReqs
    exact h
  | cons _ _ ih =>
    unfold State.storeReqs
    exact ih h.storeReq

theorem State.Canon.askPlace {a acc ctx e} (h : s.Canon) : (s.askPlace a acc ctx e).Canon := by
  unfold State.askPlace
  split
  · exact h.askLine
  · exact h

theorem State.Canon.storeAt {f x ex data a w sp l} (h : s.Canon) : (storeAt f x ex data a w sp s l).Canon :=
  .ite (h.foldl (fun _ _ h1 => h1.askPlace)).stalled (.ite h.stalled (.issueOp (.storeReqs (.ite h.irrevocable h))))

theorem State.Canon.storeWave {f x a w sp} (h : s.Canon) : (storeWave f x s a w sp).Canon :=
  h.inOrder (fun _ h1 => h1.waveAccess (fun _ _ h2 => h2.storeAt))

theorem State.Canon.execSt {x} (h : s.Canon) : Keeps (execSt x s) := h.runInstr (fun _ _ _ _ h1 => h1.storeWave) (fun _ _ _ h2 => h2.blow)

theorem State.Canon.stblkWave {f x a w sp} (h : s.Canon) : (stblkWave f x s a w sp).Canon := by
  unfold Machine.stblkWave
  refine h.inOrder (fun _ h1 => h1.waveAccess (fun _ _ h2 => ?_))
  split
  · exact .ite h2.issueOp h2.trap
  · exact h2.storeAt

theorem State.Canon.execStblk {x} (h : s.Canon) : Keeps (execStblk x s) :=
  h.runInstr (fun _ _ _ _ h1 => h1.stblkWave) (fun _ _ _ h2 => h2.blow)

theorem State.Canon.prefetch {c ctx pol e} (h : s.Canon) : (s.prefetch c ctx pol e).Canon := by
  unfold State.prefetch
  split
  · exact .ite h h.loadLine
  · exact h

theorem State.Canon.parCount {p r f go} (h : s.Canon) (hgo : go.Canon) : (s.parCount p r f go).Canon := by
  unfold State.parCount
  split
  · exact .ite h.stalled hgo
  · exact hgo

theorem State.Canon.uniAccess {f acc align size ofs go p r} (h : s.Canon) (hgo : ∀ t x, t.Canon → (go t x).Canon) :
    (uniAccess f acc align size ofs go s p r).Canon := by
  unfold Machine.uniAccess
  split
  · exact h.blow
  · exact h.parCount (hgo _ _ h)
  · split
    · exact h.blow
    · refine h.parCount ?_
      split
      · exact h.waitWalks
      · exact h.faultLanes
      · exact hgo _ _ h

theorem State.Canon.execPref {x} (h : s.Canon) : Keeps (execPref x s) := by
  unfold Machine.execPref
  refine h.runInstr (fun _ _ _ _ h1 => ?_) (fun _ _ _ h2 => h2.uniAccess (fun _ _ h3 => (h3.foldl (fun _ _ h4 => h4.prefetch)).setPar))
  dsimp only
  split
  · exact h1.stalled
  · split
    · exact h1.waitWalks
    · exact h1.faultLanes
    · exact (h1.foldl (fun _ _ h5 => h5.prefetch)).finishWave

theorem State.Canon.cleanLine {c inv l} (h : s.Canon) : (s.cleanLine c inv l).Canon := by
  unfold State.cleanLine
  split
  · exact h
  · exact .ite h.l1Drop (.ite h.writeBack.setDie h)

theorem State.Canon.cctl {c ctx ml l} (h : s.Canon) : (s.cctl c ctx ml l).Canon := h.foldl (fun _ _ h1 => h1.cleanLine)

theorem State.Canon.cctlPar {f ml on l p r} (h : s.Canon) : (cctlPar f ml on l s p r).Canon := .setPar (.ite h.cctl h)

theorem State.Canon.execCctl {x} (h : s.Canon) : Keeps (execCctl x s) := by
  unfold Machine.execCctl
  refine h.runInstr (fun _ _ _ _ h1 => h1.inOrder (fun _ h2 => h2.waveAccess (fun _ _ h3 => .issueOp (.ite h3 h3.cctl))))
      (fun _ _ _ h4 => .ite ?_ (h4.uniAccess (fun _ _ h5 => h5.cctlPar)))
  split
  · exact h4.blow
  · exact h4.parCount h4.cctlPar

theorem State.Canon.execFence {x} (h : s.Canon) : Keeps (execFence x s) := by
  unfold Machine.execFence
  refine h.runInstr (fun _ _ _ _ h1 => .ite h1.finishWave (.ite h1.fenceDone.finishWave h1.fenceWait)) (fun _ _ _ h2 => ?_)
  dsimp only
  split
  · exact h2.setPar
  · exact .ite h2.fenceDone.setPar h2.fenceWait

theorem State.Canon.homeFlaw {l} (h : s.Canon) : (s.homeFlaw l).1.Canon := h.lineFlaw

theorem State.Canon.readFlaw {c n p} (h : s.Canon) : (s.readFlaw c n p).1.Canon := by
  unfold State.readFlaw
  refine .ite_fst h ?_
  split
  · exact h.homeFlaw
  · exact h.placeFlaw

end

end Sys2Proof.Machine

/-! Clauses, the gaffer's instructions, barriers and the crucible keep a state canonical (O52). -/

namespace Sys2Proof.Machine

section
variable {s : State}

theorem State.Canon.execHomeRead {a op} (h : s.Canon) : Keeps (execHomeRead a op s) := by
  unfold Machine.execHomeRead
  split
  · exact h
  · split
    · exact h
    · refine .ite h (.ite ?_ (State.Canon.setAgentOp (.ite_fst (.passLine (.ite_fst h h.homeFlaw)) (.loadLine (.ite_fst h h.homeFlaw)))))
      dsimp only
      split
      · refine .ite (State.Canon.setAgentOp (.ite ?_ h)) (State.Canon.request (.ite ?_ h))
        · split
          · exact .ite h.l1Drop h
          · exact h
        · split
          · exact .ite h.l1Drop h
          · exact h
      · refine State.Canon.request (.ite ?_ h)
        split
        · exact .ite h.l1Drop h
        · exact h

theorem State.Canon.execHomeWrite {a op} (h : s.Canon) : Keeps (execHomeWrite a op s) := by
  unfold Machine.execHomeWrite
  split
  · exact h
  · split
    · exact .ite h (.ite (.of_next (h.foldl (fun _ _ h1 => h1.l1Refresh)).request.setAgentOp)
          (.of_next (h.foldl (fun _ _ h2 => h2.l1Refresh)).homeWrite.setAgentOp))
    · exact h

theorem State.Canon.execLoadReply {a op} (h : s.Canon) : Keeps (execLoadReply a op s) := by
  unfold Machine.execLoadReply
  split
  · exact h
  · refine .ite h (.ite h.replyFaults ?_)
    split
    · split
      · exact h.setPar.retire
      · exact h
    · split
      · exact h.setWave.retire
      · exact h.replyFault
      · exact h

theorem State.Canon.execStoreAck {a op} (h : s.Canon) : Keeps (execStoreAck a op s) := by
  unfold Machine.execStoreAck
  split
  · exact h
  · split
    · exact .ite h.retire h
    · exact .ite h.retire h
    · exact h

theorem State.Canon.fetched {x wofs} (h : s.Canon) : (s.fetched x wofs).Canon := by
  unfold State.fetched
  split
  · exact h
  · split
    · exact h
    · dsimp only
      split
      · exact .ite h.countAccess h
      · exact h

theorem State.Canon.fetchMissed {x a} (h : s.Canon) : (s.fetchMissed x a).Canon := by
  unfold State.fetchMissed
  split
  · exact h
  · exact h.wantWalk.stalled
  · exact h.askLine.stalled
  · exact h.trap

/-- What standing at a clause's header comes to, either way, leaves a canonical state. -/
def AtEntry.Canon : AtEntry → Prop
  | .held s => s.Canon
  | .on s _ => s.Canon

theorem AtEntry.Canon.held {r : AtEntry} {t} (h : r.Canon) (e : r = .held t) : t.Canon := by subst e; exact h
theorem AtEntry.Canon.on {r : AtEntry} {t sp} (h : r.Canon) (e : r = .on t sp) : t.Canon := by subst e; exact h

theorem State.Canon.atEntry {a w sp h'} (h : s.Canon) : (s.atEntry a w sp h').Canon := by
  unfold State.atEntry
  split
  · exact h
  · dsimp only
    split
    · exact h.stalled
    · split
      · exact h.waits
      · split
        · exact h.trap
        · split
          · exact h.trap
          · split
            · exact h.traceEntry
            · exact h

theorem State.Canon.trimQueue {p} (h : s.Canon) : (s.trimQueue p).Canon := by
  unfold State.trimQueue
  split
  · exact h
  · exact h.setPar

theorem State.Canon.resumeGaffer {p wofs} (h : s.Canon) : (s.resumeGaffer p wofs).Canon := by
  unfold State.resumeGaffer
  split
  · exact .ite h.setPar h
  · exact h

theorem State.Canon.execDecisionConsume {a} (h : s.Canon) : Keeps (execDecisionConsume a s) := by
  unfold Machine.execDecisionConsume
  split
  · rename_i heq
    refine .ite h ?_
    split
    · refine .ite h ?_
      split
      · exact h.stalled.resumeGaffer
      · refine .ite h.trap ?_
        split
        · exact h.atEntry.held ‹_›
        · exact (h.atEntry.on ‹_›).setWave.trimQueue
    · exact h.fetchMissed
  · exact h

theorem State.Canon.waveHeader {a w sp} (h : s.Canon) : (s.waveHeader a w sp).Canon := by
  unfold State.waveHeader
  refine .ite h ?_
  dsimp only
  split
  · exact h.failBatch
  · split
    · refine .ite h.raise (.ite ?_ (.ite h.stalled ?_))
      · split
        · exact h.stalled
        · exact h.raise
      · split
        · exact h.atEntry.held ‹_›
        · exact (h.atEntry.on ‹_›).fetched.setWave
    · exact h.fetchMissed

theorem State.Canon.pushDecision {p r wofs} (h : s.Canon) : (s.pushDecision p r wofs).Canon := .ite h.stalled (.ite h.stalled h.setPar)

theorem State.Canon.stopPar {p r} (h : s.Canon) : (s.stopPar p r).Canon := .ite h.setPar.pushEvent h.setPar

theorem State.Canon.parHeader {p r} (h : s.Canon) : (s.parHeader p r).Canon := by
  unfold State.parHeader
  refine .ite h ?_
  split
  · exact h.pushDecision
  · refine .ite (.ite h h.stopPar) ?_
    split
    · refine .ite h.trap (.ite h.stopPar (.ite ?_ (.ite h.stalled (.ite h.stalled ?_))))
      · split
        · exact .ite h.setPar h.setPar
        · exact h.fetchMissed
      · split
        · exact h.trap
        · exact .setPar (.fetched (.ite h.putCore h))
    · exact h.fetchMissed

theorem State.Canon.execClauseHeaderWaitMet {a} (h : s.Canon) : Keeps (execClauseHeaderWaitMet a s) := by
  unfold Machine.execClauseHeaderWaitMet
  split
  · exact h.waveHeader
  · exact h.parHeader
  · exact h

theorem State.Canon.runUni {f go} (h : s.Canon) (hgo : ∀ t x1 x2, t.Canon → (go t x1 x2).Canon) : Keeps (runUni f go s) := by
  unfold Machine.runUni
  refine h.runInstr (fun _ _ _ _ h1 => h1) (fun _ _ _ h2 => ?_)
  dsimp only
  split
  · exact h2.raise
  · exact h2.setPar
  · exact hgo _ _ _ h2

theorem State.Canon.runUalu {f g} (h : s.Canon) : Keeps (runUalu f g s) := h.runUni (fun _ _ _ h1 => h1.setPar)

theorem State.Canon.execUmov {x} (h : s.Canon) : Keeps (execUmov x s) := h.runUalu

theorem State.Canon.execUmovi {x} (h : s.Canon) : Keeps (execUmovi x s) := h.runUalu

theorem State.Canon.execUadd {x} (h : s.Canon) : Keeps (execUadd x s) := h.runUalu

theorem State.Canon.execUaddImm {x} (h : s.Canon) : Keeps (execUaddImm x s) := h.runUalu

theorem State.Canon.execUsub {x} (h : s.Canon) : Keeps (execUsub x s) := h.runUalu

theorem State.Canon.execUsubImm {x} (h : s.Canon) : Keeps (execUsubImm x s) := h.runUalu

theorem State.Canon.execUmul {x} (h : s.Canon) : Keeps (execUmul x s) := h.runUalu

theorem State.Canon.execUmulImm {x} (h : s.Canon) : Keeps (execUmulImm x s) := h.runUalu

theorem State.Canon.execUshl {x} (h : s.Canon) : Keeps (execUshl x s) := h.runUalu

theorem State.Canon.execUshlImm {x} (h : s.Canon) : Keeps (execUshlImm x s) := h.runUalu

theorem State.Canon.execUshr {x} (h : s.Canon) : Keeps (execUshr x s) := h.runUalu

theorem State.Canon.execUshrImm {x} (h : s.Canon) : Keeps (execUshrImm x s) := h.runUalu

theorem State.Canon.execUand {x} (h : s.Canon) : Keeps (execUand x s) := h.runUalu

theorem State.Canon.execUandImm {x} (h : s.Canon) : Keeps (execUandImm x s) := h.runUalu

theorem State.Canon.execUor {x} (h : s.Canon) : Keeps (execUor x s) := h.runUalu

theorem State.Canon.execUorImm {x} (h : s.Canon) : Keeps (execUorImm x s) := h.runUalu

theorem State.Canon.execUxor {x} (h : s.Canon) : Keeps (execUxor x s) := h.runUalu

theorem State.Canon.execUxorImm {x} (h : s.Canon) : Keeps (execUxorImm x s) := h.runUalu

theorem State.Canon.execUmad {x} (h : s.Canon) : Keeps (execUmad x s) := h.runUalu

theorem State.Canon.runUcmp {f mh} (h : s.Canon) : Keeps (runUcmp f mh s) := h.runUni (fun _ _ _ h1 => h1.setPar)

theorem State.Canon.execUcmp {x} (h : s.Canon) : Keeps (execUcmp x s) := h.runUcmp

theorem State.Canon.execUcmpImm {x} (h : s.Canon) : Keeps (execUcmpImm x s) := h.runUcmp

theorem State.Canon.execUsel {x} (h : s.Canon) : Keeps (execUsel x s) := by
  unfold Machine.execUsel
  refine h.runUni (fun _ _ _ h1 => ?_)
  dsimp only
  split
  · exact h1.setPar
  · exact h1.raise

theorem State.Canon.execUbra {x} (h : s.Canon) : Keeps (execUbra x s) := by
  unfold Machine.execUbra
  refine h.runInstr (fun _ _ _ _ h1 => h1) (fun _ _ _ h2 => ?_)
  dsimp only
  split
  · exact h2.raise
  · exact h2.setPar

theorem State.Canon.issuePar {p r f o} (h : s.Canon) : (s.issuePar p r f o).Canon := .setPar h

theorem State.Canon.runUniOp {f k go} (h : s.Canon) (hgo : ∀ t x1 x2, t.Canon → (go t x1 x2).Canon) : Keeps (runUniOp f k go s) := by
  unfold Machine.runUniOp
  refine h.runInstr (fun _ _ _ _ h1 => h1) (fun _ _ _ h2 => ?_)
  dsimp only
  split
  · exact h2.raise
  · exact hgo _ _ _ h2
  · exact h2.issuePar

theorem State.Canon.execUld {x} (h : s.Canon) : Keeps (execUld x s) := by
  unfold Machine.execUld
  refine h.runUniOp (fun _ _ _ h1 => .ite h1.stalled ?_)
  split
  · exact h1.stalled
  · dsimp only
    split
    · exact h1.waitWalks
    · exact h1.faultLanes
    · exact h1.issuePar

theorem State.Canon.waited {a o vs} (h : s.Canon) : (s.waited a o vs).Canon := by
  unfold State.waited
  split
  · exact h
  · split
    · exact h
    · exact h.setWave

theorem State.Canon.bindAt {c p a} (h : s.Canon) : (s.bindAt c p a).Canon := by
  induction a generalizing s c p with
  | nil =>
    unfold State.bindAt
    exact h
  | cons _ _ ih =>
    unfold State.bindAt
    refine ih ?_
    dsimp only
    split
    · exact .setPar h
    · exact h

theorem State.Canon.bindFree {c p l} (h : s.Canon) : (s.bindFree c p l).Canon := by
  unfold State.bindFree
  split
  · exact h.bindAt
  · exact h

theorem State.Canon.waitedPar {p o ws} (h : s.Canon) : (s.waitedPar p o ws).Canon := by
  unfold State.waitedPar
  dsimp only
  split
  · exact h.bindAt
  · exact h.bindAt.setPar

theorem State.Canon.releaseBar {r ofs phase res} (h : s.Canon) : (s.releaseBar r ofs phase res).Canon :=
  (h.foldl (fun _ _ h1 => h1.foldl (fun _ _ h2 => h2.waited))).foldl (fun _ _ h3 => h3.foldl (fun _ _ h4 => h4.waitedPar))

theorem State.Canon.snapAsked {r t} (h : s.Canon) : (s.snapAsked r t).Canon := by
  unfold State.snapAsked
  split
  · exact h
  · exact .ite (.putBlock h ((h.blockOf ‹_›).same (by rfl))) h

theorem State.Canon.completeBar {r ofs} (h : s.Canon) : (s.completeBar r ofs).Canon := by
  unfold State.completeBar
  refine .snapAsked (.releaseBar ?_)
  split
  · exact .putBlock h.scratchWrite ((h.scratchWrite.blockOf ‹_›).same (by rfl))
  · exact h.scratchWrite

theorem State.Canon.arriveBar {r ofs who rb n v cap} (h : s.Canon) : IfOk Prod.fst (s.arriveBar r ofs who rb n v cap) := by
  unfold State.arriveBar
  refine .ite (.of_ok h) (.ite IfOk.of_error (.of_ok (.ite (.completeBar ?_) ?_)))
  · split
    · exact .putBlock h.scratchWrite ((h.scratchWrite.blockOf ‹_›).same (by rfl))
    · exact h.scratchWrite
  · split
    · exact .putBlock h.scratchWrite ((h.scratchWrite.blockOf ‹_›).same (by rfl))
    · exact h.scratchWrite

theorem State.Canon.retestBar {r t} (h : s.Canon) : (s.retestBar r t).Canon :=
  .ite h (.ite h.completeBar (.onBlock h (fun _ h1 => h1.same (by rfl))))

theorem State.Canon.retestBars (h : s.Canon) : (s.retestBars).Canon := h.foldl (fun _ _ h1 => h1.foldl (fun _ _ h2 => h2.retestBar))

theorem State.Canon.barOutside {b r} (h : s.Canon) : (s.barOutside b r).Canon := .ite h h.irrevocable

theorem State.Canon.barAt {x coh rel ex addr pass go} (h : s.Canon) (hpass : ∀ t, t.Canon → (pass t).Canon)
    (hgo : ∀ t x1 x2, t.Canon → (go t x1 x2).Canon) : (barAt x coh rel ex addr pass go s).Canon := by
  unfold Machine.barAt
  refine h.inOrder (fun _ h1 => ?_)
  split
  · rename_i heq
    split
    · exact (h1.placeFlaw.fst ‹_›).trap
    · have hs := h1.placeFlaw.fst ‹_›
      exact .ite hs.trap (hgo _ _ _ hs)
  · exact .ite (hpass _ h1) h1.trap
  · exact h1

theorem State.Canon.baraWave {f a w sp} (h : s.Canon) : (baraWave f s a w sp).Canon := by
  unfold Machine.baraWave
  dsimp only
  split
  · exact h.finishWave
  · refine h.barAt (fun _ h1 => h1.finishWave) (fun _ _ _ h2 => ?_)
    split
    · exact h2.trap
    · exact (h2.arriveBar.ok_fst ‹_›).barOutside.finishWave

theorem State.Canon.waitBar {a w sp f ex r ofs phase stale own} (h : s.Canon) : (s.waitBar a w sp f ex r ofs phase stale own).Canon :=
  .setWave h

theorem State.Canon.barwWave {f stale a w sp} (h : s.Canon) : (barwWave f stale s a w sp).Canon := by
  unfold Machine.barwWave
  dsimp only
  split
  · exact h.finishWave
  · exact h.barAt (fun _ h1 => h1.finishWave) (fun _ _ _ h2 => .ite h2.waitBar h2.finishWave)

theorem State.Canon.barsWave {f a w sp} (h : s.Canon) : (barsWave f s a w sp).Canon := by
  unfold Machine.barsWave
  dsimp only
  split
  · exact h.finishWave
  · refine h.barAt (fun _ h1 => h1.finishWave) (fun _ _ _ h2 => ?_)
    split
    · exact h2.trap
    · have hs := h2.arriveBar.ok_fst ‹_›
      exact .ite hs.barOutside.waitBar hs.barOutside.finishWave

theorem State.Canon.barPar {f rel go p r} (h : s.Canon) (hgo : ∀ t x1 x2 x3 x4 x5, t.Canon → (go t x1 x2 x3 x4 x5).Canon) :
    (barPar f rel go s p r).Canon := by
  unfold Machine.barPar
  split
  · exact h.blow
  · exact h.passPar
  · split
    · exact h.blow
    · exact .ite h.blow (h.barAt (fun _ h1 => h1) (fun _ _ _ h2 => hgo _ _ _ _ _ _ h2))

theorem State.Canon.barDone {p f v stale} (h : s.Canon) : (s.barDone p f v stale).Canon := by
  unfold State.barDone
  split
  · exact h
  · exact h.setPar.bindFree

theorem State.Canon.waitBarPar {p f b ofs phase stale own} (h : s.Canon) : (s.waitBarPar p f b ofs phase stale own).Canon := by
  unfold State.waitBarPar
  split
  · exact h
  · exact .freeSiblings (.setPar h)

theorem State.Canon.arrivePar {p r f i b ofs go cap} (h : s.Canon) (hgo : ∀ t x, t.Canon → (go t x).Canon) :
    (s.arrivePar p r f i b ofs go cap).Canon := by
  unfold State.arrivePar
  split
  · exact h.blow
  · split
    · exact h.trap
    · exact hgo _ _ (h.arriveBar.ok_fst ‹_›).barOutside

theorem State.Canon.recapture {p b} (h : s.Canon) : (s.recapture p b).Canon := by
  unfold State.recapture
  split
  · rename_i heq heq2
    exact .ite h (.putBlock h ((h.blockOf heq2).same (by rfl)))
  · exact h

theorem State.Canon.execBara {x} (h : s.Canon) : Keeps (execBara x s) := by
  unfold Machine.execBara
  refine h.runInstr (fun _ _ _ _ ht => ht.baraWave) fun t p r ht => ?_
  dsimp only
  refine ht.barPar fun _ _ _ _ _ _ hu => ?_
  exact hu.arrivePar fun _ _ hv => hv.barDone

theorem State.Canon.execBarw {x} (h : s.Canon) : Keeps (execBarw x s) := by
  unfold Machine.execBarw
  refine h.runInstr (fun _ _ _ _ ht => ht.barwWave) fun t p r ht => ?_
  dsimp only
  refine ht.barPar fun _ _ _ _ _ _ hu => ?_
  exact .ite hu.blow (.ite hu.waitBarPar hu.barDone)

theorem State.Canon.execBars {x} (h : s.Canon) : Keeps (execBars x s) := by
  unfold Machine.execBars
  refine h.runInstr (fun _ _ _ _ ht => ht.barsWave) fun t p r ht => ?_
  dsimp only
  refine ht.barPar fun _ _ _ _ _ _ hu => ?_
  exact hu.arrivePar fun _ _ hv => .ite hv.waitBarPar hv.barDone.recapture

theorem State.Canon.atomicReq {c ctx m w64 r} (h : s.Canon) : (s.atomicReq c ctx m w64 r).1.Canon := by
  unfold State.atomicReq
  dsimp only
  split
  · exact h.scratchWrite
  · exact h
  · refine .ite_fst h.loadLine.l1Write ?_
    split
    · exact .ite_fst h.l1Write h
    · exact h

theorem State.Canon.atomicReqs {c ctx m w64 a} (h : s.Canon) : (s.atomicReqs c ctx m w64 a).1.Canon := by
  induction a generalizing s c ctx m w64 with
  | nil =>
    unfold State.atomicReqs
    exact h
  | cons _ _ ih =>
    unfold State.atomicReqs
    exact ih h.atomicReq

theorem State.Canon.atomWave {f x red a w sp} (h : s.Canon) : (atomWave f x red s a w sp).Canon :=
  h.inOrder (fun _ h1 => h1.waveAccess (fun _ _ h2 => .ite (h2.foldl (fun _ _ h3 => h3.askPlace)).stalled
      (.ite h2.stalled (.issueOp (.atomicReqs (.ite h2 h2.irrevocable))))))

theorem State.Canon.execAtom {x} (h : s.Canon) : Keeps (execAtom x s) :=
  h.runInstr (fun _ _ _ _ h1 => h1.atomWave) (fun _ _ _ h2 => h2.blow)

theorem State.Canon.execRed {x} (h : s.Canon) : Keeps (execRed x s) := h.runInstr (fun _ _ _ _ h1 => h1.atomWave) (fun _ _ _ h2 => h2.blow)

theorem State.Canon.ocallWave {f x a w sp} (h : s.Canon) : (ocallWave f x s a w sp).Canon := by
  unfold Machine.ocallWave
  dsimp only
  split
  · exact h.trap
  · exact h.inOrder (fun _ h1 => h1.waveAccess (fun _ _ h2 => .issueOp (.ite h2 h2.irrevocable)))

theorem State.Canon.execOcall {x} (h : s.Canon) : Keeps (execOcall x s) :=
  h.runInstr (fun _ _ _ _ h1 => h1.ocallWave) (fun _ _ _ h2 => h2.blow)

theorem State.Canon.arrive {b l} (h : s.Canon) : IfSome id (s.arrive b l) := by
  unfold State.arrive
  refine .ite IfSome.of_none (.of_some (.putCrucible ?_))
  split
  · exact h.sweepAll.countAccess.putTag
  · exact h.sweepAll.countAccess

theorem State.Canon.execBundleArrive {a op} (h : s.Canon) : Keeps (execBundleArrive a op s) := by
  unfold Machine.execBundleArrive
  split
  · exact h
  · split
    · dsimp only
      split
      · exact h
      · refine .ite h (.ite h.atomicReqs.setAgentOp (.ite h.request.setAgentOp ?_))
        split
        · exact (h.arrive.some ‹_›).setAgentOp
        · exact h
    · exact h

theorem State.Canon.slotFlaw {h' pa} (h : s.Canon) : (s.slotFlaw h' pa).1.Canon := .ite_fst h (h.foldl_pair (fun _ _ h1 => h1.homeFlaw))

theorem State.Canon.startObject {r c h' pa m} (h : s.Canon) : (s.startObject r c h' pa m).Canon := by
  unfold State.startObject
  refine .ite h.slotFlaw.putCrucible (.ite h.slotFlaw.putCrucible (.ite h.slotFlaw.putCrucible (.ite h.slotFlaw.putCrucible ?_)))
  split
  · exact h.slotFlaw.putCrucible
  · exact .ite h.slotFlaw.putCrucible h.slotFlaw.putCrucible

theorem State.Canon.execFormBatch {r} (h : s.Canon) : Keeps (execFormBatch r s) := by
  unfold Machine.execFormBatch
  refine .ite h ?_
  split
  · exact h
  · dsimp only
    split
    · exact h.startObject
    · exact h.putCrucible

theorem State.Canon.replyBundle {b rs gd gp} (h : s.Canon) : (s.replyBundle b rs gd gp).Canon := by
  unfold State.replyBundle
  split
  · exact h.sendMsg
  · split
    · exact h.forgetLines.setAgentOp
    · exact h

theorem State.Canon.replyAll {g a a3} (h : s.Canon) : (s.replyAll g a a3).Canon := by
  induction a generalizing s g a3 with
  | nil =>
    unfold State.replyAll
    exact h
  | cons _ _ ih =>
    unfold State.replyAll
    exact ih h.replyBundle

theorem Memory.wf_applyAll {m w64 addr mem rs} (h : Memory.wf mem = true) : (applyAll m w64 addr mem rs).1.wf = true := by
  induction rs generalizing mem with
  | nil => exact h
  | cons _ _ ih => exact ih (Memory.wf_writeN _ _ h)

theorem State.Canon.endObject {r c h' pa m} (h : s.Canon) : (s.endObject r c h' pa m).Canon := by
  unfold State.endObject
  extract_lets reqs n now g none_ ctx touch at_ va d rs
  clear_value reqs
  have htouch {t : State} (h : t.Canon) : (touch t).Canon := by
    unfold touch
    split
    · exact h.touch
    · exact h
  refine .ite h.replyAll ?_
  split
  have ht := htouch (State.Canon.fst (.ite_fst h h.engineFlaw) ‹_›)
  split
  · exact (ht.setMem (Memory.wf_write (Memory.wf_writeN _ _ ht.mem) _ _)).faultEntry.replyAll
  · exact .ite (ht.setMem (Memory.wf_applyAll ht.mem)).replyAll (ht.setMem (Memory.wf_writeN _ _ ht.mem)).replyAll

theorem State.Canon.lineError {r l} (h : s.Canon) : (s.lineError r l).1.Canon := by
  unfold State.lineError
  refine .ite_fst h ?_
  split
  · exact h.homeFlaw.fst ‹_›
  · exact (h.homeFlaw.fst ‹_›).meets.meets

theorem State.Canon.readHalf {r c l m w64} (h : s.Canon) : (s.readHalf r c l m w64).Canon := h.putCrucible

theorem State.Canon.endLine {r c l m w64} (h : s.Canon) : (s.endLine r c l m w64).Canon := by
  unfold State.endLine
  extract_lets reqs sr
  have hr : sr.Canon := h.recall
  split
  · exact (hr.lineError.fst ‹_›).replyAll
  · have he := hr.lineError.fst ‹_›
    extract_lets touched done
    have ht : touched.Canon := he.foldl fun t b h => by
      split
      · exact h.touch
      · exact h
    have hd : done.Canon := .ite ht.finishHalf ht.putTag
    exact .replyAll (hd.setMem (Memory.wf_ite_fst hd.mem (Memory.wf_applyAll hd.mem)))

theorem State.Canon.performBatch {r} (h : s.Canon) : (s.performBatch r).Canon := by
  unfold State.performBatch
  refine .putCrucible ?_
  split
  · exact h.endObject
  · exact h.endLine
  · exact h

theorem State.Canon.execBatchPerform {r} (h : s.Canon) : Keeps (execBatchPerform r s) := by
  unfold Machine.execBatchPerform
  refine .ite h ?_
  split
  · exact .ite h.readHalf h.performBatch
  · exact h.performBatch

theorem State.Canon.writeOp {a o} (h : s.Canon) : (s.writeOp a o).Canon := by
  unfold State.writeOp
  split
  · exact h.setWave
  · exact h

theorem State.Canon.execAtomReply {a op} (h : s.Canon) : Keeps (execAtomReply a op s) := by
  unfold Machine.execAtomReply
  split
  · exact h
  · split
    · refine .ite h ?_
      dsimp only
      split
      · exact h.writeOp.retire
      · exact h.writeOp.replyFaults
    · exact h

theorem State.Canon.execOcallReply {a op} (h : s.Canon) : Keeps (execOcallReply a op s) := by
  unfold Machine.execOcallReply
  split
  · exact h
  · split
    · exact .ite h h.writeOp.retire
    · exact h

theorem State.Canon.stageWave {f x go a w sp} (h : s.Canon) (hgo : ∀ t x1 x2 x3, t.Canon → (go t x1 x2 x3).Canon) :
    (stageWave f x go s a w sp).Canon := by
  unfold Machine.stageWave
  split
  · exact h
  · refine .ite h.failBatch ?_
    split
    · exact (h.engineFlaw.fst ‹_›).failBatch
    · exact hgo _ _ _ _ (h.engineFlaw.fst ‹_›)

theorem State.Canon.execOld {x} (h : s.Canon) : Keeps (execOld x s) :=
  h.runInstr (fun _ _ _ _ h1 => h1.stageWave (fun _ _ _ _ h2 => h2.finishWave)) (fun _ _ _ h3 => h3)

theorem State.Canon.execOst {x} (h : s.Canon) : Keeps (execOst x s) :=
  h.runInstr (fun _ _ _ _ h1 => h1.stageWave (fun _ _ _ _ h2 => h2.finishWave.putCrucible)) (fun _ _ _ h3 => h3)

theorem State.Canon.execReply {x} (h : s.Canon) : Keeps (execReply x s) := by
  unfold Machine.execReply
  refine h.runInstr (fun _ _ _ _ h1 => ?_) (fun _ _ _ h2 => h2)
  dsimp only
  split
  · exact h1
  · exact h1.finishWave.putCrucible

theorem State.Canon.execOend {x} (h : s.Canon) : Keeps (execOend x s) := by
  unfold Machine.execOend
  refine h.runInstr (fun _ _ _ _ h1 => ?_) (fun _ _ _ h2 => h2)
  dsimp only
  split
  · exact h1.putCrucible.performBatch
  · exact h1

end

end Sys2Proof.Machine

/-! Waits, tokens, the marver, jobs and the system instructions keep a state canonical (O52). -/

namespace Sys2Proof.Machine

section
variable {s : State}

theorem State.Canon.tokenAt {home pa} (h : s.Canon) : (s.tokenAt home pa).1.Canon := h.finishHalf.recall

theorem State.Canon.signalAt {req ctx va leaf home pa g} (h : s.Canon) : (s.signalAt req ctx va leaf home pa g).Canon := h.tokenAt.homeWrite

theorem State.Canon.fwSignal {d ctx va g} (h : s.Canon) : (s.fwSignal d ctx va g).All id := by
  unfold State.fwSignal
  refine .ite h ?_
  split
  · have hs := h.fwMap.ok_fst ‹_›
    exact .ite hs.signalAt hs.request
  · exact h.fwMap.wait ‹_›
  · exact h.fwMap.bad ‹_›

theorem State.Canon.fwToken {d ctx va} (h : s.Canon) : (s.fwToken d ctx va).All Prod.fst := by
  unfold State.fwToken
  refine .ite h ?_
  split
  · exact h.fwRead.ok_fst ‹_›
  · exact h.fwRead.wait ‹_›
  · exact h.fwRead.bad ‹_›

theorem State.Canon.signals {x a op gd gp a6 a7} (h : s.Canon) : (s.signals x a op gd gp a6 a7).1.Canon := by
  induction a6 generalizing s x a op gd gp a7 with
  | nil =>
    unfold State.signals
    exact h
  | cons _ _ ih =>
    unfold State.signals
    dsimp only
    split
    · exact .ite_fst (ih h.signalAt.l1Forget) (ih h.request)
    · exact ih h

theorem State.Canon.qsigWave {f a w sp} (h : s.Canon) : (qsigWave f s a w sp).Canon := by
  unfold Machine.qsigWave
  dsimp only
  split
  · exact h.stalled
  · refine .ite h.stalled ?_
    split
    · exact h.waitWalks
    · exact h.faultLanes
    · exact .ite (.finishWave (.ite h.signals h.signals.irrevocable)) (.issueOp (.ite h.signals h.signals.irrevocable))

theorem State.Canon.uniPar {f go p r} (h : s.Canon) (hgo : ∀ t x1 x2 x3, t.Canon → (go t x1 x2 x3).Canon) : (uniPar f go s p r).Canon := by
  unfold Machine.uniPar
  split
  · exact h.blow
  · exact h.passPar
  · split
    · exact h.blow
    · exact .ite (hgo _ _ _ _ h) h.blow

theorem State.Canon.execQsig {x} (h : s.Canon) : Keeps (execQsig x s) := by
  unfold Machine.execQsig
  refine h.runInstr (fun _ _ _ _ h1 => h1.qsigWave) (fun _ _ _ h2 => h2.uniPar (fun _ _ _ _ h3 => ?_))
  dsimp only
  split
  · exact h3.stalled
  · split
    · exact h3.waitWalks
    · exact h3.faultLanes
    · exact .ite h3.signals.irrevocable.setPar h3.signals.irrevocable.issuePar

theorem State.Canon.signalAcked {a op va refused} (h : s.Canon) : (s.signalAcked a op va refused).Canon := by
  unfold State.signalAcked
  dsimp only
  split
  · exact h
  · exact .ite h.forgetLines.replyRefused (.ite h.forgetLines.retire h.forgetLines.setAgentOp)

theorem State.Canon.waitMem {a w sp f o wt why} (h : s.Canon) : (s.waitMem a w sp f o wt why).Canon := .setWave h

theorem State.Canon.waitMemPar {p r f o wt why} (h : s.Canon) : (s.waitMemPar p r f o wt why).Canon := .freeSiblings (.setPar h)

theorem State.Canon.memWait {f k acc space align size wt why args a w sp} (h : s.Canon) :
    (memWait f k acc space align size wt why args s a w sp).Canon := .ite h.finishWave
        (h.inOrder (fun _ h1 => h1.waveAccess (fun _ _ h2 => h2.waitMem)))

theorem State.Canon.memWaitPar {f k acc space align size wt why args a a11} (h : s.Canon) :
    (memWaitPar f k acc space align size wt why args s a a11).Canon := by
  unfold Machine.memWaitPar
  refine h.uniPar (fun _ _ _ _ h1 => .ite h1.blow ?_)
  split
  · exact h1.stalled
  · split
    · exact h1.waitWalks
    · exact h1.faultLanes
    · exact h1.waitMemPar

theorem State.Canon.execWaitv {x} (h : s.Canon) : Keeps (execWaitv x s) :=
  h.runInstr (fun _ _ _ _ h1 => h1.memWait) (fun _ _ _ h2 => h2.memWaitPar)

theorem State.Canon.execQwait {x} (h : s.Canon) : Keeps (execQwait x s) :=
  h.runInstr (fun _ _ _ _ h1 => h1.memWait) (fun _ _ _ h2 => h2.memWaitPar)

/-- What a re-read comes to, whatever it is, leaves a canonical state. -/
def WaitGot.Canon : WaitGot → Prop
  | .bytes s _ => s.Canon
  | .later s => s.Canon
  | .bad s _ => s.Canon

theorem WaitGot.Canon.bytes {r : WaitGot} {t b} (h : r.Canon) (e : r = .bytes t b) : t.Canon := by subst e; exact h
theorem WaitGot.Canon.later {r : WaitGot} {t} (h : r.Canon) (e : r = .later t) : t.Canon := by subst e; exact h
theorem WaitGot.Canon.bad {r : WaitGot} {t sub} (h : r.Canon) (e : r = .bad t sub) : t.Canon := by subst e; exact h

theorem State.Canon.waitRead {a ctx r} (h : s.Canon) : (s.waitRead a ctx r).Canon := by
  unfold State.waitRead
  dsimp only
  split
  · rename_i heq
    split
    · exact h.readFlaw.fst ‹_›
    · exact h.readFlaw.fst ‹_›
  · split
    · exact h.readFlaw.fst ‹_›
    · exact h.readFlaw.fst ‹_›
  · split
    · exact h
    · split
      · split
        · exact h.atHome.l1Forget.readFlaw.fst ‹_›
        · exact h.atHome.l1Forget.readFlaw.fst ‹_›
      · split
        · exact h.askFar
        · split
          · exact h
          · exact h.l1Forget

theorem State.Canon.rereadLane {a ctx o r} (h : s.Canon) : (s.rereadLane a ctx o r).1.Canon := by
  unfold State.rereadLane
  refine .ite_fst h (.ite_fst h ?_)
  split
  · exact h.waitRead.later ‹_›
  · exact h.waitRead.bad ‹_›
  · have hs := h.waitRead.bytes ‹_›
    split
    · exact .ite_fst hs hs
    · exact .ite_fst hs hs

theorem State.Canon.rereadLanes {a ctx o a4} (h : s.Canon) : (s.rereadLanes a ctx o a4).1.Canon := by
  induction a4 generalizing s a ctx o with
  | nil =>
    unfold State.rereadLanes
    exact h
  | cons _ _ ih =>
    unfold State.rereadLanes
    refine ih ?_
    split
    · exact h.rereadLane
    · exact h.wantWalk
    · exact h

theorem State.Canon.execWaitvReread {a} (h : s.Canon) : Keeps (execWaitvReread a s) := by
  unfold Machine.execWaitvReread
  split
  · exact h
  · dsimp only
    split
    · exact h.clearWalks.replyFaults
    · refine .ite h.rereadLanes.dropFar.replyFaults (.ite h.rereadLanes.dropFar.setAgentOp ?_)
      split
      · exact h.rereadLanes.dropFar.waitedPar
      · exact h.rereadLanes.dropFar.waited

theorem State.Canon.setTile {r n t} (h : s.Canon) : (s.setTile r n t).Canon := by
  unfold State.setTile
  split
  · exact .putBlock h ((h.blockOf ‹_›).same (by rfl))
  · exact h

theorem State.Canon.setMarver {c l} (h : s.Canon) : (s.setMarver c l).Canon := h.setDie

theorem State.Canon.tileFlaw {c ref ts row} (h : s.Canon) : (s.tileFlaw c ref ts row).1.Canon := by
  unfold State.tileFlaw
  dsimp only
  exact .ite_fst h (.ite_fst h.meets (.ite_fst h.meets.meets.onLife h.meets.meets))

theorem State.Canon.execTileOp {c} (h : s.Canon) : Keeps (execTileOp c s) := by
  unfold Machine.execTileOp
  split
  · exact h
  · dsimp only
    split
    · exact h.setMarver
    · split
      · exact h.setMarver
      · split
        · exact h.setMarver.tileFlaw.replyFaults
        · exact h.setMarver.tileFlaw
        · split
          · exact State.Canon.setAgentOp (.ite h.setMarver.tileFlaw.setTile.heals
                (.ite h.setMarver.tileFlaw.setTile.setHist h.setMarver.tileFlaw.setTile))
          · exact State.Canon.ite h.setMarver.tileFlaw.setTile.heals
                (.ite h.setMarver.tileFlaw.setTile.setHist h.setMarver.tileFlaw.setTile)

theorem State.Canon.readBlocks {c ctx a} (h : s.Canon) : (s.readBlocks c ctx a).1.Canon := by
  induction a generalizing s c ctx with
  | nil =>
    unfold State.readBlocks
    exact h
  | cons _ _ ih =>
    unfold State.readBlocks
    refine ih ?_
    split
    · exact h
    · exact h
    · exact h.loadLine

theorem State.Canon.blockFlaws {c a} (h : s.Canon) : (s.blockFlaws c a).1.Canon := by
  induction a generalizing s c with
  | nil =>
    unfold State.blockFlaws
    exact h
  | cons _ _ ih =>
    unfold State.blockFlaws
    exact ih (.ite_fst h.placeFlaw h.readFlaw)

/-- What fetching blocks comes to, where it goes on in another state, leaves a canonical one. -/
def Blocks.Canon : Blocks → Prop
  | .ok s _ => s.Canon
  | .away s => s.Canon
  | _ => True

theorem Blocks.Canon.ite {c : Prop} [Decidable c] {x y : Blocks} (hx : x.Canon) (hy : y.Canon) : (if c then x else y).Canon := by
  split
  · exact hx
  · exact hy

theorem Blocks.Canon.of_ok {s b} (h : s.Canon) : (Blocks.ok s b).Canon := h

theorem Blocks.Canon.ok {r : Blocks} {t b} (h : r.Canon) (e : r = .ok t b) : t.Canon := by subst e; exact h
theorem Blocks.Canon.away {r : Blocks} {t} (h : r.Canon) (e : r = .away t) : t.Canon := by subst e; exact h

theorem State.Canon.fetchBlocks {p r space base n} (h : s.Canon) : (s.fetchBlocks p r space base n).Canon := by
  unfold State.fetchBlocks
  dsimp only
  split
  · exact trivial
  · exact trivial
  · refine .ite trivial (.ite (h.foldl (fun _ _ h1 => h1.askPlace)) ?_)
    split
    · exact trivial
    · exact Blocks.Canon.of_ok ((State.Canon.ite_fst h h.blockFlaws).fst ‹_›).readBlocks

theorem State.Canon.queueTile {p r f k t reqs} (h : s.Canon) : (s.queueTile p r f k t reqs).Canon := h.setMarver.issuePar

theorem State.Canon.mmaGo {f ml mh p r} (h : s.Canon) : (mmaGo f ml mh s p r).Canon := by
  unfold Machine.mmaGo
  dsimp only
  split
  · exact h.stalled
  · split
    · exact h.waitWalks
    · exact h.faultLanes
    · exact h.stalled
    · exact (h.fetchBlocks.away ‹_›).stalled
    · have hs := h.fetchBlocks.ok ‹_›
      split
      · exact h.waitWalks
      · exact h.faultLanes
      · exact h.stalled
      · exact ((Blocks.Canon.ite (Blocks.Canon.of_ok hs) hs.fetchBlocks).away ‹_›).stalled
      · have ht := (Blocks.Canon.ite (Blocks.Canon.of_ok hs) hs.fetchBlocks).ok ‹_›
        split
        · exact ht.trap
        · exact ht.trap
        · exact ht.queueTile

theorem State.Canon.execMma {x} (h : s.Canon) : Keeps (execMma x s) := by
  unfold Machine.execMma
  refine h.runInstr (fun _ _ _ _ h1 => h1) (fun _ _ _ h2 => .ite h2.raise ?_)
  split
  · exact h2.raise
  · exact .ite h2.raise (.ite h2.mmaGo h2.issuePar)

theorem State.Canon.execMzero {x} (h : s.Canon) : Keeps (execMzero x s) := by
  unfold Machine.execMzero
  refine h.runInstr (fun _ _ _ _ h1 => h1) (fun _ _ _ h2 => ?_)
  dsimp only
  split
  · exact h2.raise
  · refine .ite h2.raise (.ite h2.issuePar ?_)
    split
    · exact h2.stalled
    · exact h2.queueTile

theorem State.Canon.execMtile {x} (h : s.Canon) : Keeps (execMtile x s) := by
  unfold Machine.execMtile
  refine h.runInstr (fun _ _ _ _ h1 => h1) (fun _ _ _ h2 => ?_)
  dsimp only
  split
  · exact h2.raise
  · exact .ite h2.raise (.ite h2.stalled (.ite h2.setPar h2.setPar))

theorem State.Canon.mdrainWave {f ml a w sp} (h : s.Canon) : (mdrainWave f ml s a w sp).Canon :=
  .ite h.trap (h.inOrder (fun _ h1 => h1.waveAccess (fun _ _ h2 => h2.issueOp)))

theorem State.Canon.execMdrain {x} (h : s.Canon) : Keeps (execMdrain x s) :=
  h.runInstr (fun _ _ _ _ h1 => h1.mdrainWave) (fun _ _ _ h2 => h2.blow)

theorem State.Canon.execTileDrain {a op} (h : s.Canon) : Keeps (execTileDrain a op s) := by
  unfold Machine.execTileDrain
  split
  · refine .ite h ?_
    dsimp only
    split
    · exact h
    · split
      · refine State.Canon.replyFaults ?_
        split
        · exact h.tileFlaw
        · exact h
      · refine State.Canon.setAgentOp (.atomicReqs (.writeOp ?_))
        split
        · exact h.tileFlaw
        · exact h
  · exact h

theorem State.Canon.nextJobSeq {ctx d} (h : s.Canon) : (s.nextJobSeq ctx d).1.Canon := by
  unfold State.nextJobSeq
  split
  · exact .putCtx h ((h.ctx ‹_›).same (by rfl))
  · exact .putCtx h ((h.ctx ‹_›).same (by rfl))
  · exact h

theorem State.Canon.submitJob {a ctx blk op cardVa card} (h : s.Canon) : (s.submitJob a ctx blk op cardVa card).Canon :=
  .setDie (.irrevocable h.nextJobSeq)

theorem State.Canon.jobGo {x a lane va done} (h : s.Canon) (hdone : ∀ t x, t.Canon → (done t x).Canon) :
    (jobGo x a lane va done s).Canon := by
  unfold Machine.jobGo
  refine .ite h.stalled (h.inOrder (fun _ h1 => ?_))
  split
  · exact h1.waitWalks
  · exact h1.faultLanes
  · split
    · refine .ite h1.stalled (.ite h1.askLine.stalled ?_)
      split
      · exact ((State.Canon.ite_fst h1 h1.blockFlaws).fst ‹_›).faultLanes
      · exact (hdone _ _ ((State.Canon.ite_fst h1 h1.blockFlaws).fst ‹_›).loadLine).submitJob
    · exact h1

theorem State.Canon.execJobGaffer {x} (h : s.Canon) : Keeps (execJobGaffer x s) := by
  unfold Machine.execJobGaffer
  refine h.runInstr (fun _ _ _ _ h1 => h1) (fun _ _ _ h2 => ?_)
  dsimp only
  split
  · exact h2.raise
  · refine .ite h2.trap (.ite h2.issuePar (h2.jobGo (fun _ _ h3 => ?_)))
    split
    · exact h3.issuePar
    · exact h3

theorem State.Canon.execJobWave {x} (h : s.Canon) : Keeps (execJobWave x s) :=
  h.runInstr (fun _ _ _ _ h1 => .ite h1.trap (.ite h1.issueOp (h1.jobGo (fun _ _ h2 => h2.issueOp)))) (fun _ _ _ h3 => h3.blow)

theorem State.Canon.execJstatGaffer {x} (h : s.Canon) : Keeps (execJstatGaffer x s) := h.runUni (fun _ _ _ h1 => h1.setPar)

theorem State.Canon.execJstatWave {x} (h : s.Canon) : Keeps (execJstatWave x s) :=
  h.runInstr (fun _ _ _ _ h1 => h1.vecWave) (fun _ _ _ h2 => h2.blow)

theorem State.Canon.piecesFlaw {d ps} (h : s.Canon) : (s.piecesFlaw d ps).1.Canon := .ite_fst h (h.foldl_pair (fun _ _ h1 => h1.homeFlaw))

theorem State.Canon.jobRead {d j space a n} (h : s.Canon) : (s.jobRead d j space a n).All Prod.fst := by
  unfold State.jobRead
  refine .ite h (.ite ?_ ?_)
  · split
    · exact h
    · split
      · exact h.placeFlaw.fst ‹_›
      · exact h.placeFlaw.fst ‹_›
  · split
    · have hs := h.fwRange.ok_fst ‹_›
      refine .ite hs ?_
      split
      · exact hs.piecesFlaw.fst ‹_›
      · have ht := hs.piecesFlaw.fst ‹_›
        split
        · exact ht.homeBytes.ok_fst ‹_›
        · exact ht.homeBytes.wait ‹_›
        · exact ht.homeBytes.bad ‹_›
    · exact h.fwRange.wait ‹_›
    · exact h.fwRange.bad ‹_›

theorem State.Canon.jobWrite {d j space a data} (h : s.Canon) : (s.jobWrite d j space a data).All Prod.fst := by
  unfold State.jobWrite
  refine .ite (h.setWs (Memory.wf_writeN _ _ h.ws)).heals ?_
  split
  · have hs := h.fwRange.ok_fst ‹_›
    exact .ite hs hs.homeStoreG
  · exact h.fwRange.wait ‹_›
  · exact h.fwRange.bad ‹_›

theorem State.Canon.jobMove {d j src dst n} (h : s.Canon) : (s.jobMove d j src dst n).All Prod.fst := by
  unfold State.jobMove
  refine .ite h ?_
  split
  · exact h.jobRead.wait ‹_›
  · exact h.jobRead.bad ‹_›
  · have hs := h.jobRead.ok_fst ‹_›
    split
    · exact hs.jobWrite.wait ‹_›
    · exact hs.jobWrite.bad ‹_›
    · have ht := hs.jobWrite.ok_fst ‹_›
      exact .ite ht ht

theorem State.Canon.jobStep {d j k} (h : s.Canon) : (s.jobStep d j k).All Prod.fst := by
  unfold State.jobStep
  dsimp only
  split
  · exact h.jobMove
  · refine .ite h ?_
    split
    · have hs := h.jobWrite.ok_fst ‹_›
      exact .ite hs hs
    · exact h.jobWrite
  · refine .ite h ?_
    split
    · exact h.jobRead.wait ‹_›
    · exact h.jobRead.bad ‹_›
    · have ht := h.jobRead.ok_fst ‹_›
      exact .ite ht.jobMove ht.jobMove

theorem State.Canon.putJob {d j} (h : s.Canon) : (s.putJob d j).Canon := h.setDie

theorem State.Canon.jobRun {d j a a4 a5 a6} (h : s.Canon) : (s.jobRun d j a a4 a5 a6).All Prod.fst := by
  induction a generalizing s d j a4 a5 a6 with
  | zero =>
    unfold State.jobRun
    exact h
  | succ _ ih =>
    unfold State.jobRun
    split
    · exact ih (h.jobStep.ok_fst ‹_›)
    · exact (h.jobStep.wait ‹_›).putJob
    · exact h.jobStep.bad ‹_›

theorem State.Canon.execJobStart {d job} (h : s.Canon) : Keeps (execJobStart d job s) := by
  unfold Machine.execJobStart
  dsimp only
  split
  · exact h
  · exact .ite h h.putJob

theorem State.Canon.retireJob {j} (h : s.Canon) : (s.retireJob j).Canon :=
  { h with
      saved := .map h.saved (fun _ h1 => h1.same (by rfl)),
      snaps := .map h.snaps (fun _ h2 => h2.same (by rfl)),
      retained := .map h.retained (fun _ h3 => h3.same (by rfl)) }

theorem State.Canon.endJob {d j} (h : s.Canon) : (s.endJob d j).Canon := h.setDie.retireJob

theorem State.Canon.faultJob {d j sub va} (h : s.Canon) : (s.faultJob d j sub va).Canon := by
  unfold State.faultJob
  refine .endJob ?_
  split
  · exact .putCtx h.faultEntry ((h.faultEntry.ctx ‹_›).same (by rfl))
  · exact .putCtx h.faultEntry ((h.faultEntry.ctx ‹_›).same (by rfl))
  · exact h.faultEntry

theorem State.Canon.execJobComplete {d job} (h : s.Canon) : Keeps (execJobComplete d job s) := by
  unfold Machine.execJobComplete
  split
  · exact h
  · refine .ite h ?_
    split
    · exact h.faultJob
    · refine .ite h (.ite ?_ (.ite h (.ite ?_ h.endJob)))
      · split
        · exact (h.jobRun.ok_fst ‹_›).putJob
        · exact h.jobRun.wait ‹_›
        · exact (h.jobRun.bad ‹_›).faultJob
      · split
        · have hs := h.fwSignal.ok ‹_›
          exact State.Canon.ite hs.putJob hs.endJob
        · exact (h.fwSignal.wait ‹_›).putJob
        · exact (h.fwSignal.bad ‹_›).faultJob

theorem State.Canon.execCsrr {x} (h : s.Canon) : Keeps (execCsrr x s) := by
  unfold Machine.execCsrr
  refine h.runInstr (fun _ _ _ _ h1 => ?_) (fun _ _ _ h2 => ?_)
  · dsimp only
    split
    · exact h1.raise
    · exact h1.vecWave
  · dsimp only
    split
    · exact h2.vecPar
    · exact h2.vecPar

theorem State.Canon.parMark {p ctx v} (h : s.Canon) : (s.parMark p ctx v).Canon := .ite h.traceLostOut.tracePut h

theorem State.Canon.execCsrw {x} (h : s.Canon) : Keeps (execCsrw x s) := by
  unfold Machine.execCsrw
  refine h.runInstr (fun _ _ _ _ h1 => .finishWave ?_) (fun _ _ _ h2 => h2.uniPar (fun _ _ _ _ h3 => h3.parMark.setPar))
  split
  · exact h1.traceMark
  · exact h1

theorem State.Canon.windowPar {r ff cls idx} (h : s.Canon) : (s.windowPar r ff cls idx).1.Canon := by
  unfold State.windowPar
  split
  · exact h
  · split
    · exact h
    · exact h
  · exact h
  · exact h
  · exact h
  · exact h
  · exact h

theorem State.Canon.writeWindowPar {p r cls idx m b b0} (h : s.Canon) : (s.writeWindowPar p r cls idx m b b0).Canon := by
  unfold State.writeWindowPar
  split
  · exact .ite h h.setPar.bindFree
  · exact h.setPar
  · exact h.setPar
  · exact h.setPar
  · exact h.setPar
  · exact h

theorem State.Canon.windowInstr {f go} (h : s.Canon) (hgo : ∀ t x1 x2 x3 x4 x5 x6, t.Canon → (go t x1 x2 x3 x4 x5 x6).Canon) :
    Keeps (windowInstr f go s) := by
  unfold Machine.windowInstr
  refine h.runInstr (fun _ _ _ _ h1 => ?_) (fun _ _ _ h2 => h2)
  dsimp only
  split
  · exact h1.finishWave
  · exact .ite h1.raise (hgo _ _ _ _ _ _ _ h1)
  · exact h1

theorem State.Canon.execWinrd {x} (h : s.Canon) : Keeps (execWinrd x s) := by
  unfold Machine.execWinrd
  refine h.windowInstr (fun _ _ _ _ _ _ _ h1 => .vecWave ?_)
  split
  · split
    · exact h1
    · exact h1
  · split
    · exact h1.windowPar
    · exact h1
  · exact h1

theorem State.Canon.execWinwr {x} (h : s.Canon) : Keeps (execWinwr x s) := by
  unfold Machine.execWinwr
  refine h.windowInstr (fun _ _ _ _ _ _ _ h1 => ?_)
  dsimp only
  split
  · split
    · exact h1.finishWave
    · exact h1.finishWave
  · split
    · exact h1.finishWave.writeWindowPar
    · exact h1.finishWave
  · exact h1.finishWave

theorem State.Canon.execRegisterFill {w group} (h : s.Canon) : Keeps (execRegisterFill w group s) := by
  unfold Machine.execRegisterFill
  split
  · exact h
  · dsimp only
    split
    · exact h.meets.raise
    · exact h.meets

end

end Sys2Proof.Machine

/-! Launches, graphs, admission, saving and restoring keep a state canonical (O52). -/

namespace Sys2Proof.Machine

section
variable {s : State}

theorem State.Canon.onBar0 {act} (h : s.Canon) (ha : Keeps act) : Keeps (s.onBar0 act) := .ite ha h

theorem State.Canon.putQueue {k q} (h : s.Canon) : (s.putQueue k q).Canon := by
  unfold State.putQueue
  split
  · exact h
  · exact h

theorem State.Canon.onQueue {k f} (h : s.Canon) : (s.onQueue k f).Canon := by
  unfold State.onQueue
  split
  · exact h.putQueue
  · exact h

theorem State.Canon.qRead {k va n} (h : s.Canon) : (s.qRead k va n).All Prod.fst := by
  unfold State.qRead
  split
  · exact h.fwRead
  · exact .ite h h

theorem State.Canon.qWrite {k va data} (h : s.Canon) : (s.qWrite k va data).All id := by
  unfold State.qWrite
  split
  · exact h.fwWrite
  · exact .ite ({ h with memH := Memory.wf_writeN _ _ h.memH }) h

theorem State.Canon.setMqStatus {status} (h : s.Canon) : (s.setMqStatus status).Canon := h

theorem State.Canon.setStatus {k status} (h : s.Canon) : (s.setStatus k status).Canon := by
  unfold State.setStatus
  split
  · exact h
  · dsimp only
    split
    · exact h.putQueue.setMqStatus
    · exact h.putQueue

theorem State.Canon.queueFault {k sub va} (h : s.Canon) : (s.queueFault k sub va).Canon := by
  unfold State.queueFault
  dsimp only
  split
  · exact .faultNote h.setStatus.onQueue
  · exact h.setStatus.onQueue

theorem State.Canon.queueBad {k sub va} (h : s.Canon) : (s.queueBad k sub va).Canon := .ite h h.queueFault

theorem State.Canon.payQueue {k a} (h : s.Canon) : (s.payQueue k a).Canon := by
  induction a generalizing s k with
  | zero =>
    unfold State.payQueue
    exact h
  | succ _ ih =>
    unfold State.payQueue
    split
    · exact h
    · split
      · split
        · exact h.qWrite.wait ‹_›
        · exact ih (h.qWrite.bad ‹_›).onQueue.queueBad
        · exact ih (h.qWrite.ok ‹_›).onQueue
      · exact h
      · refine .ite h ?_
        split
        · exact h.qWrite.wait ‹_›
        · exact ih (h.qWrite.bad ‹_›).onQueue.queueBad
        · exact ih (h.qWrite.ok ‹_›).onQueue

theorem State.Canon.flushHeld {k} (h : s.Canon) : (s.flushHeld k).Canon := h.payQueue

theorem State.Canon.haltStatus {k status} (h : s.Canon) : (s.haltStatus k status).Canon := h.setStatus.flushHeld

theorem State.Canon.queueHalts {k sub va} (h : s.Canon) : (s.queueHalts k sub va).Canon := h.queueBad.flushHeld

theorem State.Canon.complete {k seq status compl} (h : s.Canon) : (s.complete k seq status compl).Canon := h.onQueue.flushHeld

theorem State.Canon.haltPacket {k seq status} (h : s.Canon) : (s.haltPacket k seq status).Canon := h.setStatus.onQueue.flushHeld

theorem State.Canon.zeroBanks {old new} (h : s.Canon) : (s.zeroBanks old new).Canon :=
  { h with
      wsK := Memory.wf_foldl h.wsK (fun _ _ h1 => Memory.wf_clear h1 _ _),
      wsA := Memory.wf_foldl h.wsA (fun _ _ h2 => Memory.wf_clear h2 _ _) }

theorem State.Canon.applyPending {ctx} (h : s.Canon) : (s.applyPending ctx).Canon := by
  unfold State.applyPending
  split
  · exact h
  · rename_i heq
    split
    · exact h
    · exact .zeroBanks (.putCtx h ((h.ctx heq).same (by rfl)))

theorem State.Canon.startLaunch {r c q seq compl node d gates} (h : s.Canon) : (s.startLaunch r c q seq compl node d gates).Canon := h

theorem State.Canon.takeLaunch {r seq compl d gates} (h : s.Canon) : (s.takeLaunch r seq compl d gates).Canon := by
  unfold State.takeLaunch
  dsimp only
  split
  · exact .ite h.applyPending.complete h.applyPending.startLaunch
  · exact h.applyPending

/-- What reading gates comes to, whatever it is, leaves a canonical state. -/
def GateRes.Canon : GateRes → Prop
  | .met s _ => s.Canon
  | .no s => s.Canon
  | .bad s _ _ => s.Canon

theorem GateRes.Canon.met {r : GateRes} {t l} (h : r.Canon) (e : r = .met t l) : t.Canon := by subst e; exact h
theorem GateRes.Canon.no {r : GateRes} {t} (h : r.Canon) (e : r = .no t) : t.Canon := by subst e; exact h
theorem GateRes.Canon.bad {r : GateRes} {t sub va} (h : r.Canon) (e : r = .bad t sub va) : t.Canon := by subst e; exact h

theorem State.Canon.readGates {d ctx a} (h : s.Canon) : (s.readGates d ctx a).Canon := by
  induction a generalizing s d ctx with
  | nil =>
    unfold State.readGates
    exact h
  | cons _ _ ih =>
    unfold State.readGates
    split
    · exact h.fwToken.wait ‹_›
    · exact h.fwToken.bad ‹_›
    · rename_i heq
      have hs := h.fwToken.ok_fst heq
      split
      · exact h.fwToken.ok_fst heq
      · split
        · exact (ih hs).met ‹_›
        · exact ih hs

theorem State.Canon.putTable {r t} (h : s.Canon) : (s.putTable r t).Canon := h.onQueue

theorem State.Canon.engFault {ctx d} (h : s.Canon) : (s.engFault ctx d).Canon := by
  unfold State.engFault
  split
  · exact .putCtx h ((h.ctx ‹_›).same (by rfl))
  · exact .putCtx h ((h.ctx ‹_›).same (by rfl))
  · exact h

theorem State.Canon.launchNode {r tn k} (h : s.Canon) : (s.launchNode r tn k).1.Canon := by
  unfold State.launchNode
  dsimp only
  split
  · split
    · exact .ite_fst h.applyPending.putTable h.applyPending.putTable.startLaunch
    · exact h.applyPending
  · exact h.applyPending

theorem State.Canon.decrement {r tn k} (h : s.Canon) : (s.decrement r tn k).1.Canon := by
  unfold State.decrement
  dsimp only
  split
  · exact h.faultNote.engFault
  · split
    · exact .ite_fst h (.ite_fst h.faultNote.engFault (.ite_fst h.putTable.launchNode h.putTable))
    · exact h.faultNote.engFault

theorem State.Canon.decrements {r tn n l} (h : s.Canon) : (s.decrements r tn n l).Canon := by
  induction n generalizing s l with
  | zero => exact h
  | succ _ ih =>
    cases l with
    | nil => exact h
    | cons _ _ => exact ih h.decrement

theorem State.Canon.launchReady {r tn a} (h : s.Canon) : (s.launchReady r tn a).Canon := by
  induction a generalizing s r tn with
  | nil =>
    unfold State.launchReady
    exact h
  | cons _ _ ih =>
    unfold State.launchReady
    exact ih (.ite h.launchNode.decrements h)

theorem State.Canon.startRun {r t seq compl gates} (h : s.Canon) : (s.startRun r t seq compl gates).Canon := h.putTable.launchReady

theorem State.Canon.nextRun {r tn} (h : s.Canon) : (s.nextRun r tn).Canon := by
  unfold State.nextRun
  split
  · exact h
  · split
    · exact h.putQueue.startRun
    · exact h

theorem State.Canon.endRuns {r tn a} (h : s.Canon) : (s.endRuns r tn a).Canon := by
  induction a generalizing s r tn with
  | zero =>
    unfold State.endRuns
    exact h
  | succ _ ih =>
    unfold State.endRuns
    split
    · exact h
    · refine .ite h ?_
      split
      · exact h
      · exact ih h.onQueue.complete.nextRun

theorem State.Canon.settleRuns {r tn} (h : s.Canon) : (s.settleRuns r tn).Canon := h.endRuns

theorem State.Canon.nodeDone {r tn k} (h : s.Canon) : (s.nodeDone r tn k).Canon := by
  unfold State.nodeDone
  split
  · exact h
  · exact h.putTable.decrements.settleRuns

theorem State.Canon.execUlaunch {x} (h : s.Canon) : Keeps (execUlaunch x s) := by
  unfold Machine.execUlaunch
  refine h.runInstr (fun _ _ _ _ h1 => h1) (fun _ _ _ h2 => .ite h2.trap ?_)
  split
  · exact h2.raise
  · exact h2.setPar
  · exact .ite h2.stalled (.ite h2.stalled h2.setPar.irrevocable.decrements.settleRuns)

theorem State.Canon.shrinkL1 {c a} (h : s.Canon) : (s.shrinkL1 c a).Canon := by
  induction a generalizing s c with
  | zero =>
    unfold State.shrinkL1
    exact h
  | succ _ ih =>
    unfold State.shrinkL1
    refine .ite h ?_
    split
    · exact ih h.l1Drop
    · exact h

theorem State.Canon.raiseS {c} (h : s.Canon) : (s.raiseS c).Canon := .ite h h.putCore.shrinkL1

theorem State.Canon.lowerS {c} (h : s.Canon) : (s.lowerS c).Canon := h.putCore

theorem State.Canon.keepSnap {v} (h : s.Canon) (hv : v.Canon) : (s.keepSnap v).Canon := { h with snaps := .cons hv h.snaps.filter }

theorem Block.Canon.newBlock {l n pl i p} : (newBlock l n pl i p).Canon := rfl

theorem Block.Canon.restore {b : Block} {ref p ws ps dt} (h : b.Canon) : (b.restore ref p ws ps dt).Canon := h

theorem Saved.Canon.blk {v : Saved} (h : v.Canon) : v.blk.Canon := h

theorem Saved.Canon.record {v : Saved} (h : v.Canon) : v.record.Canon := h

theorem Saved.Canon.imageOf {ref b} (h : Block.Canon b) : (s.imageOf ref b).Canon := h

theorem State.Canon.admitBlock {l im place at_ core p} (h : s.Canon) : (s.admitBlock l im place at_ core p).Canon := by
  unfold State.admitBlock
  extract_lets c ref b first filled one held raised
  have hb : b.Canon := Block.Canon.newBlock
  have hf : filled.Canon := .ite h.launchL1 h
  have hh : held.Canon := { hf with blocks := hf.blocks.append (.single hb) }
  exact hh.raiseS.keepSnap hb

theorem State.Canon.placed {id k} (h : s.Canon) : (s.placed id k).Canon := by
  unfold State.placed
  split
  · exact h.putLaunch
  · exact h

theorem State.Canon.execBlockAdmit {c launch} (h : s.Canon) : Keeps (execBlockAdmit c launch s) := by
  unfold Machine.execBlockAdmit
  split
  · exact h
  · refine .ite h ?_
    split
    · split
      · exact h
      · refine .of_next (h.foldl (fun _ _ h1 => ?_)).placed
        split
        · exact h1.admitBlock
        · exact h1
    · exact h

theorem State.Canon.execDispatchReserve {c launch} (h : s.Canon) : Keeps (execDispatchReserve c launch s) := by
  unfold Machine.execDispatchReserve
  split
  · exact h
  · dsimp only
    split
    · exact .ite h h.putLaunch
    · exact h

theorem State.Canon.gateFault {l sub va} (h : s.Canon) : (s.gateFault l sub va).Canon := by
  unfold State.gateFault
  dsimp only
  split
  · exact h.faultNote.putLaunch
  · split
    · exact .putTable h.faultNote
    · exact h.faultNote

theorem State.Canon.execTwaitGateMet {launch} (h : s.Canon) : Keeps (execTwaitGateMet launch s) := by
  unfold Machine.execTwaitGateMet
  split
  · exact h
  · refine .ite h ?_
    split
    · exact h.readGates.no ‹_›
    · exact (h.readGates.bad ‹_›).gateFault
    · exact (h.readGates.met ‹_›).putLaunch

theorem State.Canon.removeBlock {ref} (h : s.Canon) : (s.removeBlock ref).Canon := by
  unfold State.removeBlock
  split
  · exact h
  · exact .lowerS ({ h.dropPrivate with blocks := h.dropPrivate.blocks.drop })

theorem State.Canon.endBlock {e} (h : s.Canon) : (s.endBlock e).Canon := { h.removeBlock with snaps := h.snaps.filter }

theorem State.Canon.endBlocks (h : s.Canon) : (s.endBlocks).Canon := by
  unfold State.endBlocks
  refine h.foldl (fun _ _ h1 => ?_)
  split
  · exact h1
  · exact .ite (h1.foldl (fun _ _ h2 => h2.endBlock)) h1

theorem State.Canon.signalCores {l a} (h : s.Canon) : (s.signalCores l a).All id := by
  induction a generalizing s l with
  | nil =>
    unfold State.signalCores
    exact h
  | cons _ _ ih =>
    unfold State.signalCores
    split
    · exact ih (h.fwSignal.ok ‹_›)
    · exact h.fwSignal

theorem State.Canon.finishLaunch {l} (h : s.Canon) : (s.finishLaunch l).Canon := by
  unfold State.finishLaunch
  dsimp only
  split
  · exact .ite h (.nodeDone h)
  · exact .complete h

theorem State.Canon.execLaunchComplete {launch} (h : s.Canon) : Keeps (execLaunchComplete launch s) := by
  unfold Machine.execLaunchComplete
  split
  · exact h
  · refine .ite h (.ite ?_ (.ite h h.finishLaunch))
    dsimp only
    split
    · exact (h.signalCores.ok ‹_›).putLaunch
    · exact h.signalCores.wait ‹_›
    · exact (h.signalCores.bad ‹_›).faultNote.putLaunch

theorem State.Canon.askWave {id why} (h : s.Canon) : (s.askWave id why).Canon := by
  unfold State.askWave
  split
  · exact h
  · exact .ite h h

theorem State.Canon.askPar {p why} (h : s.Canon) : (s.askPar p why).Canon := by
  unfold State.askPar
  split
  · exact h
  · exact .ite h.setPar (.ite h.setPar.stopPar (.ite h.setPar.stopPar (.ite h.setPar.stopPar h.setPar)))

theorem State.Canon.askBlock {ref why} (h : s.Canon) : (s.askBlock ref why).Canon :=
  (h.foldl (fun _ _ h1 => h1.askWave)).foldl (fun _ _ h2 => h2.askPar)

theorem State.Canon.stopBlock {ref waiter} (h : s.Canon) : (s.stopBlock ref waiter).Canon := by
  unfold State.stopBlock
  split
  · exact h
  · exact .foldl h (fun _ _ h1 => .onBlock h1.askBlock (fun _ h2 => h2.same (by rfl)))

theorem State.Canon.resumeBlock {ref} (h : s.Canon) : (s.resumeBlock ref).Canon := .onBlock h (fun _ h1 => h1.same (by rfl))

theorem State.Canon.clearBlock {ref} (h : s.Canon) : (s.clearBlock ref).Canon := .removeBlock h

theorem State.Canon.saveBlock {ref} (h : s.Canon) : (s.saveBlock ref).Canon := by
  unfold State.saveBlock
  split
  · exact h
  · exact { h.clearBlock with saved := .append h.saved (.cons ((Saved.Canon.blk (.imageOf (h.blockOf ‹_›))).same (by rfl)) Records.nil) }

theorem State.Canon.execPreempt {ref} (h : s.Canon) : Keeps (execPreempt ref s) := by
  unfold Machine.execPreempt
  split
  · exact h
  · exact .ite (State.Canon.ite h.stopBlock h) (.ite h (.ite (.of_next (.foldl h (fun _ _ h1 => h1.saveBlock)))
        (.of_next (.pushEvent (.foldl h (fun _ _ h2 => h2.resumeBlock))))))

theorem State.Canon.execSaveRetry {ref} (h : s.Canon) : Keeps (execSaveRetry ref s) := .ite h.setDie.stopBlock h

theorem State.Canon.causesBack {ref} (h : s.Canon) : (s.causesBack ref).Canon :=
  (h.foldl (fun _ _ h1 => .ite h1.pushEvent h1)).foldl (fun _ _ h2 => .ite h2.pushEvent h2)

theorem State.Canon.restoreBlock {v core p} (h : s.Canon) (hv : v.Canon) : (s.restoreBlock v core p).Canon := by
  unfold State.restoreBlock
  extract_lets ref dt stay ws ps fs file ages wave par back first filled ran counted raised
  have hb : back.Canon := { h with
    blocks := h.blocks.append (.single hv.blk.restore),
    saved := h.saved.filter }
  have hf : filled.Canon := .ite hb.launchL1 hb
  have hr : raised.Canon := State.Canon.raiseS (s := counted) hf
  exact .ite hr hr.causesBack

theorem Records.cohort {l vs us} (h : Records vs) (e : savedCohort l vs = some (.back us)) : Records us := by
  obtain ⟨v, -, e⟩ := Option.map_eq_some_iff.mp e
  cases e
  exact h.filter

theorem State.Canon.work {l us} (h : s.Canon) (e : s.workOf l = some (.back us)) : Records us := by
  unfold State.workOf at e
  dsimp only at e
  split at e
  · cases e
  · split at e
    · rename_i hw
      cases e
      exact h.saved.filter.filter.cohort hw
    · split at e
      · cases e
      · exact h.saved.filter.cohort e

theorem State.Canon.execBlockRestore {saved c} (h : s.Canon) : Keeps (execBlockRestore saved c s) := by
  unfold Machine.execBlockRestore
  split
  · exact h
  · split
    · exact h
    · refine .ite h ?_
      split
      · rename_i hw
        refine .ite h ?_
        split
        · exact h
        · refine .of_next (State.Canon.placed (h.foldl fun _ _ ht => ?_))
          split
          · rename_i hu
            exact ht.restoreBlock (h.work hw _ (List.mem_of_find?_eq_some hu))
          · exact ht
      · exact h

theorem State.Canon.execReservePreempt {c} (h : s.Canon) : Keeps (execReservePreempt c s) := by
  unfold Machine.execReservePreempt
  split
  · exact h
  · refine .ite h ?_
    split
    · exact h.stopBlock
    · exact h

theorem State.Canon.execBudgetExhausted {ctx} (h : s.Canon) : Keeps (execBudgetExhausted ctx s) := by
  unfold Machine.execBudgetExhausted
  split
  · exact h
  · exact .ite h (.of_next (.foldl (.putCtx h ((h.ctx ‹_›).same (by rfl))) (fun _ _ h1 => h1.stopBlock)))

theorem State.Canon.execBudgetPeriodStart {ctx} (h : s.Canon) : Keeps (execBudgetPeriodStart ctx s) := by
  unfold Machine.execBudgetPeriodStart
  split
  · exact h
  · exact .ite h (State.Canon.putCtx h ((h.ctx ‹_›).same (by rfl)))

theorem State.Canon.execBudgetReport {d} (h : s.Canon) : Keeps (execBudgetReport d s) := by
  unfold Machine.execBudgetReport
  refine .ite h ({ h.setDie with ctxs := h.ctxs.map (fun _ h1 => ?_) })
  split
  · exact h1.same (by rfl)
  · exact h1.same (by rfl)

theorem State.Canon.endCapture {ref} (h : s.Canon) : (s.endCapture ref).Canon := .onBlock h (fun _ h1 => h1.same (by rfl))

/-- Records of a state dropped, and what holds no memory changed. -/
theorem State.Canon.fewer {p l k a} (h : s.Canon) : State.Canon { s with
    saved := s.saved.filter p, snaps := s.snaps.filter p, retained := s.retained.filter p, launches := l, kap := k, amd := a } :=
  { h with saved := h.saved.filter, snaps := h.snaps.filter, retained := h.retained.filter }

theorem State.Canon.endContext {ctx status} (h : s.Canon) : (s.endContext ctx status).Canon := by
  unfold State.endContext
  split
  · exact h
  · rename_i hc
    refine .ite h (.foldl (.foldl (.fewer (.foldl ?_ fun _ _ ht => ht.clearBlock)) fun _ _ ht => .ite ht ht.complete) ?_)
    · exact .putCtx (.ite h.onLife h) ((h.ctx hc).same (by rfl))
    · exact fun _ _ ht => ht.onQueue.foldl fun _ _ hu => hu.complete

theorem State.Canon.resnap {l k} (h : s.Canon) (hl : Records l) : State.Canon { s with savedCtr := k, snaps := l } := { h with snaps := hl }

theorem State.Canon.savedAlso {v} (h : s.Canon) (hv : v.Canon) : State.Canon { s with saved := s.saved ++ [v] } :=
  { h with saved := h.saved.append (.cons hv .nil) }

theorem State.Canon.execRollback {ref} (h : s.Canon) : Keeps (execRollback ref s) := by
  unfold Machine.execRollback
  split
  · exact h
  · refine .ite h (.ite h.endContext ?_)
    split
    · rename_i hv _
      have hs := h.snaps _ (List.mem_of_find?_eq_some hv)
      refine .ite h.askBlock ?_
      dsimp only
      split
      · exact .of_next (.restoreBlock (.onLife (.clearBlock (.resnap h.askBlock (h.askBlock.snaps.updFirst fun _ hx => hx.same (by rfl))))) (hs.same (by rfl)))
      · refine .of_next (.foldl (.savedAlso ?_ (hs.same (by rfl))) fun _ _ ht => ht.stopBlock)
        exact .onLife (.clearBlock (.resnap h.askBlock (h.askBlock.snaps.updFirst fun _ hx => hx.same (by rfl))))
    · exact h.endContext

end

end Sys2Proof.Machine

/-! Queues, frames, messages, page moves and texture reads keep a state canonical (O52). -/

namespace Sys2Proof.Machine

section
variable {s : State}

theorem State.Canon.writeState {k} (h : s.Canon) : (s.writeState k).Canon := h.onQueue.flushHeld

theorem State.Canon.ringWords {k q from_ a} (h : s.Canon) : (s.ringWords k q from_ a).All Prod.fst := by
  induction a generalizing s k q from_ with
  | zero =>
    unfold State.ringWords
    exact h
  | succ _ ih =>
    unfold State.ringWords
    split
    · have hs := h.qRead.ok_fst ‹_›
      split
      · exact (ih hs).ok_fst ‹_›
      · exact (ih hs).wait ‹_›
      · exact (ih hs).bad ‹_›
    · exact h.qRead.wait ‹_›
    · exact h.qRead.bad ‹_›

theorem State.Canon.readPacket {k q} (h : s.Canon) : (s.readPacket k q).All Prod.fst := by
  unfold State.readPacket
  refine .ite h ?_
  split
  · have hs := h.ringWords.ok_fst ‹_›
    refine .ite hs ?_
    split
    · exact hs.ringWords.ok_fst ‹_›
    · exact hs.ringWords.ok_fst ‹_›
    · exact hs.ringWords.wait ‹_›
    · exact hs.ringWords.bad ‹_›
  · exact h.ringWords.ok_fst ‹_›
  · exact h.ringWords.wait ‹_›
  · exact h.ringWords.bad ‹_›

/-- What taking a packet comes to, either way, leaves a canonical state. -/
def Taken.Canon : Taken → Prop
  | .act s => s.Canon
  | .off s => s.Canon

theorem Taken.Canon.act {r : Taken} {t} (h : r.Canon) (e : r = .act t) : t.Canon := by subst e; exact h
theorem Taken.Canon.off {r : Taken} {t} (h : r.Canon) (e : r = .off t) : t.Canon := by subst e; exact h

theorem State.Canon.takePacket {k p ty fits} (h : s.Canon) : (s.takePacket k p ty fits).Canon := by
  unfold State.takePacket
  split
  · exact h
  · split
    · exact h
    · split
      · exact h.readPacket.wait ‹_›
      · exact (h.readPacket.bad ‹_›).queueHalts
      · rename_i heq
        have hs := h.readPacket.ok_fst heq
        split
        · exact h.readPacket.ok_fst heq
        · split
          · exact hs.haltPacket
          · split
            · exact hs.haltPacket
            · dsimp only
              split
              · exact hs.onQueue.flushHeld
              · split
                · exact hs.onQueue.flushHeld.complete
                · exact hs.onQueue.flushHeld

theorem State.Canon.execDispatch {q p} (h : s.Canon) : Keeps (execDispatch q p s) := by
  unfold Machine.execDispatch
  split
  · exact h.takePacket.off ‹_›
  · rename_i heq
    split
    · exact h.takePacket.act heq
    · exact (h.takePacket.act heq).putQueue.takeLaunch

theorem State.Canon.execGraph {q p} (h : s.Canon) : Keeps (execGraph q p s) := by
  unfold Machine.execGraph
  split
  · exact h.takePacket.off ‹_›
  · rename_i heq
    have hs := h.takePacket.act heq
    split
    · exact h.takePacket.act heq
    · dsimp only
      split
      · exact hs.putQueue.complete
      · exact .ite hs.putQueue.putQueue hs.putQueue.startRun.settleRuns

theorem State.Canon.execTsig {q p} (h : s.Canon) : Keeps (execTsig q p s) := by
  unfold Machine.execTsig
  dsimp only
  split
  · exact h.takePacket.off ‹_›
  · have hs := h.takePacket.act ‹_›
    split
    · exact (hs.fwSignal.ok ‹_›).complete
    · exact (hs.fwSignal.bad ‹_›).faultNote.complete
    · split
      · exact h.fwSignal.wait ‹_›
      · exact h

theorem State.Canon.execTwait {q p} (h : s.Canon) : Keeps (execTwait q p s) := by
  unfold Machine.execTwait
  dsimp only
  split
  · exact h.takePacket.off ‹_›
  · exact (h.takePacket.act ‹_›).onQueue.complete

theorem State.Canon.execNopk {q p} (h : s.Canon) : Keeps (execNopk q p s) := by
  unfold Machine.execNopk
  split
  · exact h.takePacket.off ‹_›
  · exact (h.takePacket.act ‹_›).complete

theorem State.Canon.execDoorbellWptr {q v} (h : s.Canon) : Keeps (execDoorbellWptr q v s) := by
  unfold Machine.execDoorbellWptr
  refine h.onBar0 ?_
  split
  · exact h
  · exact h.putQueue.pushEvent

theorem State.Canon.execDoorbellCrptr {q v} (h : s.Canon) : Keeps (execDoorbellCrptr q v s) := by
  unfold Machine.execDoorbellCrptr
  refine h.onBar0 ?_
  split
  · exact h
  · exact h.putQueue.flushHeld

theorem State.Canon.execMqwptrWrite {v} (h : s.Canon) : Keeps (execMqwptrWrite v s) := by
  unfold Machine.execMqwptrWrite
  refine h.onBar0 ?_
  dsimp only
  split
  · exact h
  · exact State.Canon.pushEvent (.putQueue h)

theorem State.Canon.execMqcrptrWrite {v} (h : s.Canon) : Keeps (execMqcrptrWrite v s) := by
  unfold Machine.execMqcrptrWrite
  refine h.onBar0 ?_
  dsimp only
  split
  · exact h
  · exact State.Canon.flushHeld (.putQueue h)

theorem State.Canon.dropWork {r status} (h : s.Canon) : (s.dropWork r status).Canon := by
  unfold State.dropWork
  extract_lets mine cleared gone kept dropped done
  have hc : cleared.Canon := h.foldl fun _ _ h => h.clearBlock
  have hk : dropped.Canon := { hc with saved := hc.saved.filter, snaps := hc.snaps.filter }
  have hd : done.Canon := hk.foldl fun _ _ h => .ite h h.complete
  split
  · exact hd
  · exact hd.putQueue.foldl fun _ _ h => h.complete

theorem State.Canon.restart {k seq0} (h : s.Canon) : (s.restart k seq0).Canon := h.onQueue.writeState

theorem State.Canon.execMqctlCreate (h : s.Canon) : Keeps (execMqctlCreate s) :=
  State.Canon.onBar0 h (.ite h.setMqStatus (.ite h.setMqStatus (State.Canon.setMqStatus (.writeState h))))

theorem State.Canon.execMqctlReset (h : s.Canon) : Keeps (execMqctlReset s) := by
  unfold Machine.execMqctlReset
  refine h.onBar0 ?_
  split
  · exact h.setMqStatus
  · exact State.Canon.setMqStatus (.restart h)

theorem State.Canon.zero {d pa n} (h : s.Canon) : (s.zero d pa n).Canon := h.setMem (Memory.wf_clear h.mem _ _)

theorem Context.Canon.charge' {c : Context} {d f} (h : c.Canon) : (c.charge' d f).Canon := by
  cases d <;> exact h

theorem State.Canon.allocFrame {ctx d size must} (h : s.Canon) : IfOk Prod.fst (s.allocFrame ctx d size must) := by
  unfold State.allocFrame
  split
  · exact IfOk.of_error
  · rename_i heq
    refine .ite IfOk.of_error (.ite IfOk.of_error ?_)
    split
    · exact IfOk.of_error
    · exact .of_ok (.resetTags (.zero (.putCtx h (.charge' ((h.ctx heq).same (by rfl))))))

theorem State.Canon.freeFrame {ctx f} (h : s.Canon) : (s.freeFrame ctx f).Canon := by
  unfold State.freeFrame
  split
  · exact h
  · exact .ite (.putCtx h (.charge' ((h.ctx ‹_›).same (by rfl)))) h

theorem State.Canon.rewriteLeaf {c va f} (h : s.Canon) : (s.rewriteLeaf c va f).Canon := by
  unfold State.rewriteLeaf
  split
  · exact h
  · exact h.foldl (fun _ _ h1 => h1.putEntry)

theorem State.Canon.noteLeaves {ctx va len l} (h : s.Canon) : (s.noteLeaves ctx va len l).Canon := by
  unfold State.noteLeaves
  split
  · exact h
  · rename_i heq
    split
    · exact h
    · exact .putCtx h ((h.ctx heq).same (by rfl))

theorem State.Canon.shootDown {d ctx va len} (h : s.Canon) : (s.shootDown d ctx va len).Canon := .ite h.tlbDrop.request h.tlbDrop

theorem State.Canon.writeAck {d} (h : s.Canon) : (s.writeAck d).Canon := h.setPipe.setPipe

theorem State.Canon.execAckWrite {dest k} (h : s.Canon) : Keeps (execAckWrite dest k s) := .ite h (State.Canon.setPipe (.ite h.setPipe h))

theorem State.Canon.execAckTimer {d} (h : s.Canon) : Keeps (execAckTimer d s) := .ite h h.writeAck

theorem State.Canon.ackDue {d} (h : s.Canon) : (s.ackDue d).Canon := .ite h.writeAck h

theorem State.Canon.execBlowpipeHeaderWrite {dest slot m} (h : s.Canon) : Keeps (execBlowpipeHeaderWrite dest slot m s) :=
  .ite h (.ite (State.Canon.setPipe (.ite h.setPipe h)) (State.Canon.setPipe (.ite h.setPipe h)))

theorem State.Canon.deliver {dest ty} (h : s.Canon) : IfSome Prod.fst (s.deliver dest ty) := by
  unfold State.deliver
  dsimp only
  split
  · exact IfSome.of_none
  · exact .ite IfSome.of_none (.of_some (.ite h.setPipe.writeAck h.setPipe))

theorem State.Canon.dropMessage {dest} (h : s.Canon) : (s.dropMessage dest).Canon := by
  unfold State.dropMessage
  split
  · exact (State.Canon.of_bind_fst ‹_› (fun _ => h.deliver)).same (by rfl)
  · exact h

theorem State.Canon.execLinkExitL0 (h : s.Canon) : Keeps (execLinkExitL0 s) := .ite h h

theorem State.Canon.execLinkRecovery (h : s.Canon) : Keeps (execLinkRecovery s) := .ite h h.setPipe.setPipe

theorem State.Canon.recovered (h : s.Canon) : (s.recovered).Canon := .ite h h

theorem State.Canon.execResync {dest k} (h : s.Canon) : Keeps (execResync dest k s) := .ite h h.setPipe.recovered

theorem State.Canon.execResyncTimeout {d} (h : s.Canon) : Keeps (execResyncTimeout d s) := .ite h h.setPipe.recovered

theorem State.Canon.beat {d} (h : s.Canon) : (s.beat d).Canon := .ite h h.setDie.setPipe

theorem State.Canon.execHeartbeat {d} (h : s.Canon) : Keeps (execHeartbeat d s) := h.beat

theorem State.Canon.refuseMsg {dest m check sub} (h : s.Canon) : (s.refuseMsg dest m check sub).Canon := .ite h (.faultNote h)

theorem State.Canon.replyMsg {dest q ty f} (h : s.Canon) : (s.replyMsg dest q ty f).Canon := h.sendMsg

theorem State.Canon.closeTag {d tag} (h : s.Canon) : IfSome Prod.fst (s.closeTag d tag) := .map (fun _ _ => h.setPipe)

theorem State.Canon.putMove {m} (h : s.Canon) : (s.putMove m).Canon := h

theorem State.Canon.resetCounts {ctx va} (h : s.Canon) : (s.resetCounts ctx va).Canon := h

theorem State.Canon.dropMove {m} (h : s.Canon) : (s.dropMove m).Canon := .resetCounts h

theorem State.Canon.awaitServed {m} (h : s.Canon) : (s.awaitServed m).Canon := .ite h h

theorem State.Canon.freeNotes {m refused ra} (h : s.Canon) : (s.freeNotes m refused ra).Canon := h

theorem State.Canon.release {m refused ra level} (h : s.Canon) : (s.release m refused ra level).Canon := .freeNotes h

theorem State.Canon.refuseMove {m} (h : s.Canon) : (s.refuseMove m).Canon := by
  unfold State.refuseMove
  refine .release (.dropMove (.ite (.freeFrame (.ite ?_ h)) (.ite ?_ h)))
  · split
    · exact h.rewriteLeaf.shootDown
    · exact h
  · split
    · exact h.rewriteLeaf.shootDown
    · exact h

theorem State.Canon.beginDrain {m pa} (h : s.Canon) : (s.beginDrain m pa).Canon := by
  unfold State.beginDrain
  split
  · exact h
  · exact h.rewriteLeaf.shootDown.frameDrop.frameDrop.putMove

theorem State.Canon.recallPage {m} (h : s.Canon) : (s.recallPage m).Canon :=
  ((h.foldl (fun _ _ h1 => h1.recall)).foldl (fun _ _ h2 => h2.l1Drop)).foldl (fun _ _ h3 => h3.l1Drop)

theorem State.Canon.streamPage {m} (h : s.Canon) : (s.streamPage m).Canon := (h.foldl (fun _ _ h1 => h1.sendMsg)).putMove

theorem State.Canon.oldFrame {m rst} (h : s.Canon) : (s.oldFrame m rst).Canon := by
  unfold State.oldFrame
  dsimp only
  split
  · exact h
  · have hs := h.ctx ‹_›
    split
    · exact .ite (.ite (h.epochsFull hs).freeFrame (.putCtx h (hs.same (by rfl)))) h.freeFrame
    · exact h.freeFrame

theorem State.Canon.finishMove {m} (h : s.Canon) : (s.finishMove m).Canon := h.oldFrame.dropMove.release

theorem State.Canon.switchHome {m} (h : s.Canon) : (s.switchHome m).Canon := by
  unfold State.switchHome
  split
  · exact h.dropMove
  · exact .ite (.finishMove (.awaitServed (.putMove (.rewriteLeaf (.ite h h.noteLeaves)))))
        (.sendMsg (.release (.awaitServed (.putMove (.rewriteLeaf (.ite h h.noteLeaves))))))

theorem State.Canon.execMoveStart {p dest} (h : s.Canon) : Keeps (execMoveStart p dest s) := by
  unfold Machine.execMoveStart
  split
  · exact h
  · refine .ite h ?_
    split
    · exact h.dropMove
    · split
      · refine .ite h (.ite h.refuseMove (.ite ?_ h.request.putMove))
        split
        · exact h.refuseMove
        · exact (h.allocFrame.ok_fst ‹_›).beginDrain
      · exact h
      · exact .ite (State.Canon.ite h.recallPage h.recallPage.streamPage) h
      · exact .ite h h.switchHome
      · exact h

theorem State.Canon.execHomeReq {dest} (h : s.Canon) : Keeps (execHomeReq dest s) := by
  unfold Machine.execHomeReq
  split
  · exact h
  · have hs := h.deliver.some_fst ‹_›
    dsimp only
    split
    · exact hs.refuseMsg.replyMsg
    · refine .ite hs.refuseMsg.replyMsg ?_
      split
      · exact hs.replyMsg
      · exact (hs.allocFrame.ok_fst ‹_›).replyMsg

theorem State.Canon.moveFor {dest m} (h : s.Canon) : IfSome Prod.fst (s.moveFor dest m) := by
  unfold State.moveFor
  split
  · exact .map (fun _ _ => h.closeTag.some_fst ‹_›)
  · exact IfSome.of_none

theorem State.Canon.execHomeGrant {dest} (h : s.Canon) : Keeps (execHomeGrant dest s) := by
  unfold Machine.execHomeGrant
  split
  · exact h
  · have hs := h.deliver.some_fst ‹_›
    split
    · have ht := hs.moveFor.some_fst ‹_›
      exact .ite ht.freeFrame.refuseMove ht.beginDrain
    · exact hs.refuseMsg

theorem State.Canon.execHomeDeny {dest} (h : s.Canon) : Keeps (execHomeDeny dest s) := by
  unfold Machine.execHomeDeny
  split
  · exact h
  · have hs := h.deliver.some_fst ‹_›
    split
    · exact (hs.moveFor.some_fst ‹_›).refuseMove
    · exact hs.refuseMsg

theorem State.Canon.placePage {m leaf ofs payload} (h : s.Canon) : (s.placePage m leaf ofs payload).Canon :=
  (h.touch.setMem (Memory.wf_writeN _ _ h.touch.mem)).resetTags.foldl (fun _ _ h1 => .ite h1 h1.putTag)

theorem State.Canon.execHomeData {dest} (h : s.Canon) : Keeps (execHomeData dest s) := by
  unfold Machine.execHomeData
  split
  · exact h
  · have hs := h.deliver.some_fst ‹_›
    split
    · exact .ite hs.refuseMsg.refuseMove hs.placePage
    · exact hs.refuseMsg

theorem State.Canon.execHomeDone {dest} (h : s.Canon) : Keeps (execHomeDone dest s) := by
  unfold Machine.execHomeDone
  split
  · exact h
  · have hs := h.deliver.some_fst ‹_›
    split
    · exact .ite hs.finishMove hs.refuseMsg
    · exact hs.refuseMsg

theorem State.Canon.answerShoots {dest} (h : s.Canon) : (s.answerShoots dest).Canon := h.setPipe.foldl (fun _ _ h1 => h1.sendMsg)

theorem State.Canon.execShoot {dest} (h : s.Canon) : Keeps (execShoot dest s) := by
  unfold Machine.execShoot
  split
  · exact h.answerShoots
  · have hs := h.deliver.some_fst ‹_›
    split
    · exact hs.refuseMsg.sendMsg
    · exact hs.tlbDrop.setPipe.answerShoots

theorem State.Canon.execShootAck {dest} (h : s.Canon) : Keeps (execShootAck dest s) := by
  unfold Machine.execShootAck
  split
  · exact h
  · have hs := h.deliver.some_fst ‹_›
    split
    · exact hs.closeTag.some_fst ‹_›
    · exact hs.refuseMsg

theorem State.Canon.texPart {x va n} (h : s.Canon) : (s.texPart x va n).1.Canon := by
  unfold State.texPart
  split
  · exact h
  · exact h
  · refine .ite_fst h (.ite_fst h.askLine ?_)
    dsimp only
    split
    · exact .ite_fst h.placeFlaw h.readFlaw
    · exact .loadLine (.ite_fst h.placeFlaw h.readFlaw)
  · exact h

theorem State.Canon.texRead {x va a} (h : s.Canon) : (s.texRead x va a).1.Canon := by
  induction a generalizing s x va with
  | zero =>
    unfold State.texRead
    exact h
  | succ _ ih =>
    unfold State.texRead
    split
    · have hs := (ih h).fst ‹_›
      split
      · exact hs.texPart.fst ‹_›
      · exact hs.texPart
    · exact ih h

theorem State.Canon.traceFrom {x b r a a5 a6} (h : s.Canon) : (State.traceFrom x b r a s a5 a6).1.Canon := by
  induction a generalizing s x b r a5 a6 with
  | zero =>
    unfold State.traceFrom
    exact h
  | succ _ ih =>
    unfold State.traceFrom
    refine .ite_fst h (.ite_fst h (.ite_fst h ?_))
    split
    · rename_i heq
      split
      · exact h.texRead.fst heq
      · exact h.texRead.fst heq
      · exact ih (h.texRead.fst heq)
    · exact h.texRead.fst ‹_›
    · exact h.texRead.fst ‹_›
    · exact h.texRead.fst ‹_›

theorem State.Canon.texLanes {go ls} (h : s.Canon) (hgo : ∀ t l, t.Canon → (go t l).1.Canon) : (texLanes go s ls).s.Canon := by
  refine List.foldlRecOn (motive := fun t : TexAll => t.s.Canon) ls _ h fun t ht l _ => ?_
  split <;> exact (hgo t.s l ht).fst ‹_›

theorem State.Canon.texWave {δ : Type} {f k bad desc lane dead a w sp} (h : s.Canon)
    (hlane : ∀ x w d t l, t.Canon → (lane x w d t l).1.Canon) : (texWave (δ := δ) f k bad desc lane dead s a w sp).Canon := by
  unfold Machine.texWave
  refine h.inOrder fun t ht => .ite ht.faultLanes ?_
  split
  · exact (ht.texRead.fst ‹_›).waitWalks
  · exact (ht.texRead.fst ‹_›).stalled
  · have hr := ht.texRead.fst ‹_›
    exact .ite hr.faultLanes hr.clearWalks.issueOp
  · have hr := ht.texRead.fst ‹_›
    split
    · exact hr.faultLanes
    · have hl := hr.texLanes (ls := lanesOf (w.exec sp f)) (hlane (.wave a w sp) w ‹_›)
      exact .ite hl.waitWalks (.ite hl.stalled (.ite hl.faultLanes hl.clearWalks.issueOp))

theorem State.Canon.traceLane {f x w b l} (h : s.Canon) : (traceLane f x w b s l).1.Canon := by
  unfold Machine.traceLane
  refine .ite_fst h ?_
  split
  · exact h
  · split
    · exact h.traceFrom.fst ‹_›
    · exact h.traceFrom.fst ‹_›
    · exact h.traceFrom.fst ‹_›
    · exact h.traceFrom.fst ‹_›

theorem State.Canon.execTrace {x} (h : s.Canon) : Keeps (execTrace x s) :=
  h.runInstr (fun _ _ _ _ h1 => h1.texWave (fun _ _ _ _ _ h2 => h2.traceLane)) (fun _ _ _ h3 => h3.blow)

theorem State.Canon.execTexReply {a op} (h : s.Canon) : Keeps (execTexReply a op s) := by
  unfold Machine.execTexReply
  split
  · exact h
  · split
    · refine .ite h ?_
      split
      · exact h.setWave.retire
      · exact h
    · refine .ite h ?_
      split
      · exact h.setWave.retire
      · exact h
    · refine .ite h ?_
      split
      · exact h.setWave.retire
      · exact h
    · exact h

end

end Sys2Proof.Machine

/-! Rasters, heads and the management services keep a state canonical (O52). -/

namespace Sys2Proof.Machine

section
variable {s : State}

theorem State.Canon.texels {x helper t lv a} (h : s.Canon) : (s.texels x helper t lv a).1.Canon := by
  induction a generalizing s x helper t lv with
  | nil =>
    unfold State.texels
    exact h
  | cons _ _ ih =>
    unfold State.texels
    split
    · have hs := h.texPart.fst ‹_›
      split
      · exact (ih hs).fst ‹_›
      · exact ih hs
    · exact h.texPart.fst ‹_›
    · exact h.texPart.fst ‹_›
    · have ht := h.texPart.fst ‹_›
      refine .ite_fst ht ?_
      split
      · exact (ih ht).fst ‹_›
      · exact ih ht

theorem State.Canon.sampleLane {f x w t l} (h : s.Canon) : (sampleLane f x w t s l).1.Canon := by
  unfold Machine.sampleLane
  dsimp only
  split
  · exact h.texels.fst ‹_›
  · exact h.texels.fst ‹_›
  · exact h.texels.fst ‹_›
  · exact h.texels.fst ‹_›

theorem State.Canon.execSample {x} (h : s.Canon) : Keeps (execSample x s) :=
  h.runInstr (fun _ _ _ _ h1 => h1.texWave (fun _ _ _ _ _ h2 => h2.sampleLane)) (fun _ _ _ h3 => h3.blow)

theorem State.Canon.bindSlots {r} (h : s.Canon) : (s.bindSlots r).Canon := by
  unfold State.bindSlots
  split
  · exact .ite (.putBlock h ((h.blockOf ‹_›).same (by rfl))) h
  · exact h

theorem State.Canon.execPidld {x} (h : s.Canon) : Keeps (execPidld x s) :=
  h.runInstr (fun _ _ _ _ h1 => h1.issueOp) (fun _ _ _ h2 => h2.blow)

theorem State.Canon.primList {x va a} (h : s.Canon) : (s.primList x va a).1.Canon := by
  induction a generalizing s x va with
  | zero =>
    unfold State.primList
    exact h
  | succ _ ih =>
    unfold State.primList
    split
    · have hs := h.texRead.fst ‹_›
      split
      · exact (ih hs).fst ‹_›
      · exact ih hs
    · exact h.texRead.fst ‹_›
    · exact h.texRead.fst ‹_›
    · exact h.texRead.fst ‹_›

theorem State.Canon.go {x p r y va n org} (h : s.Canon) : (execVisr.go x s p r y va n org).Canon := by
  unfold Machine.execVisr.go
  refine .ite h.bindSlots.faultLanes ?_
  split
  · exact h.bindSlots.stalled
  · split
    · exact (h.bindSlots.primList.fst ‹_›).waitWalks
    · exact (h.bindSlots.primList.fst ‹_›).stalled
    · exact (h.bindSlots.primList.fst ‹_›).faultLanes
    · exact (h.bindSlots.primList.fst ‹_›).issuePar

theorem State.Canon.execVisr {x} (h : s.Canon) : Keeps (execVisr x s) := by
  unfold Machine.execVisr
  refine h.runUniOp (fun _ _ _ h1 => ?_)
  dsimp only
  split
  · exact .ite h1.go h1.stalled
  · exact h1.go

theorem State.Canon.visrDraw {p r o} (h : s.Canon) : (execVisrSlotAction.draw p s r o).Canon := by
  unfold execVisrSlotAction.draw
  split
  · exact h
  · exact State.Canon.mapOps (.putBlock h ((h.blockOf ‹_›).same (by rfl)))

theorem State.Canon.execVisrSlotAction {p op} (h : s.Canon) : Keeps (execVisrSlotAction p op s) := by
  unfold Machine.execVisrSlotAction
  split
  · exact h
  · split
    · exact h
    · refine .ite h ?_
      split
      · exact .ite h.visrDraw h
      · exact h.bindSlots.visrDraw

theorem State.Canon.putHead {h' x} (h : s.Canon) : (s.putHead h' x).Canon := .ite h h

theorem State.Canon.headIrq (h : s.Canon) : (s.headIrq).Canon := h

theorem State.Canon.headErr {h' bit} (h : s.Canon) : (s.headErr h' bit).Canon := .ite h.putHead.headIrq h.putHead

theorem State.Canon.execHctlEnable {h' v} (h : s.Canon) : Keeps (execHctlEnable h' v s) :=
  h.onBar0 (.ite h.putHead (.ite h.putHead (.ite h.putHead h.putHead.headErr)))

theorem State.Canon.execFlip {h' v} (h : s.Canon) : Keeps (execFlip h' v s) := h.onBar0 h.putHead

theorem State.Canon.latch {h' k} (h : s.Canon) : (s.latch h' k).Canon := by
  unfold State.latch
  refine .ite h ?_
  dsimp only
  split
  · exact h.putHead.headErr
  · exact (h.foldl (fun _ _ h1 => h1.putEntry)).putHead

theorem State.Canon.signalLatches {h' a} (h : s.Canon) : (s.signalLatches h' a).Canon := by
  induction a generalizing s h' with
  | zero =>
    unfold State.signalLatches
    exact h
  | succ _ ih =>
    unfold State.signalLatches
    dsimp only
    split
    · exact h
    · split
      · exact ih (h.fwSignal.ok ‹_›).putHead
      · exact h.fwSignal.wait ‹_›
      · exact ih (h.fwSignal.bad ‹_›).faultNote.putHead

theorem State.Canon.execVerticalBlank {h'} (h : s.Canon) : Keeps (execVerticalBlank h' s) :=
  .ite h (State.Canon.ite h.putHead.latch.latch.signalLatches.headIrq h.putHead.latch.latch.signalLatches)

theorem State.Canon.recallPins {x} (h : s.Canon) : (s.recallPins x).Canon := h.foldl (fun _ _ h1 => h1.recall)

theorem State.Canon.execLineSend {h' fetched} (h : s.Canon) : Keeps (execLineSend h' fetched s) :=
  .ite h (.ite h.signalLatches.putHead (.ite (State.Canon.headErr (.putHead h.signalLatches))
      (State.Canon.putHead (.recallPins h.signalLatches))))

theorem State.Canon.execLinkctlTrain {h'} (h : s.Canon) : Keeps (execLinkctlTrain h' s) := h.onBar0 h.putHead

theorem State.Canon.execHeadTrainDone {h' ok lanes rate} (h : s.Canon) : Keeps (execHeadTrainDone h' ok lanes rate s) :=
  .ite h (.ite h.putHead h.putHead.headErr)

theorem State.Canon.execAuxgo {h'} (h : s.Canon) : Keeps (execAuxgo h' s) := State.Canon.onBar0 h h.putHead

theorem State.Canon.execAuxReply {h' reply data} (h : s.Canon) : Keeps (execAuxReply h' reply data s) := .ite h h.putHead

theorem State.Canon.execHpdChange {h' present} (h : s.Canon) : Keeps (execHpdChange h' present s) := .ite h h.putHead.headErr

/-- What a service comes to, either way, leaves a canonical state. -/
def SvcRes.Canon : SvcRes → Prop
  | .done s _ => s.Canon
  | .wait s => s.Canon

theorem SvcRes.Canon.done {r : SvcRes} {t st} (h : r.Canon) (e : r = .done t st) : t.Canon := by subst e; exact h
theorem SvcRes.Canon.wait {r : SvcRes} {t} (h : r.Canon) (e : r = .wait t) : t.Canon := by subst e; exact h

theorem SvcRes.Canon.ite {c : Prop} [Decidable c] {x y : SvcRes} (hx : x.Canon) (hy : y.Canon) : (if c then x else y).Canon := by
  split
  · exact hx
  · exact hy

theorem State.Canon.svcEnds {p fits status} (h : s.Canon) : (s.svcEnds p fits status).Canon := by
  unfold State.svcEnds
  split
  · exact h.takePacket.off ‹_›
  · exact .complete ((h.takePacket.act ‹_›).same (by rfl))

theorem State.Canon.service {p fits act} (h : s.Canon) (hact : ∀ t, t.Canon → (act t).Canon) : Keeps (s.service p fits act) := by
  unfold State.service
  dsimp only
  split
  · exact h.takePacket.off ‹_›
  · split
    · exact ((hact _ h).done ‹_›).svcEnds
    · exact ((hact _ h).wait ‹_›).same (by rfl)

theorem State.Canon.ctxService {p code args act} (h : s.Canon) (hact : ∀ t x, t.Canon → x.Canon → (act t x).Canon) :
    Keeps (s.ctxService p code args act) := by
  unfold State.ctxService
  refine .ite h (h.service (fun _ h1 => ?_))
  split
  · exact h1
  · exact hact _ _ h1 (h1.ctx ‹_›)

theorem Context.canon_new {n d t u} : Context.Canon { num := n, desc := d, created := t, lastCommit := t, usedK := u } :=
  ⟨.none, .none, .none⟩

theorem State.Canon.addCtx {c k a} (h : s.Canon) (hc : c.Canon) : State.Canon { s with ctxs := s.ctxs ++ [c], kap := k, amd := a } :=
  { h with ctxs := h.ctxs.append (.single hc) }

theorem State.Canon.execCtxCreate {p} (h : s.Canon) : Keeps (execCtxCreate p s) := by
  unfold Machine.execCtxCreate
  refine .ite (h.service fun _ ht => ht) (.ite h (h.service fun _ ht => ?_))
  extract_lets b
  clear_value b
  refine .ite ht (.ite ht (.ite ht (.ite ht ?_)))
  exact State.Canon.zeroBanks (.addCtx ht Context.canon_new)

theorem State.Canon.forgetOn {d ctx} (h : s.Canon) : (s.forgetOn d ctx).Canon := (h.foldl (fun _ _ h1 => h1.l1Drop)).setDie

theorem State.Canon.ckptPackets {ctx ps status} (h : s.Canon) : (s.ckptPackets ctx ps status).Canon := h.foldl (fun _ _ h1 => h1.complete)

theorem State.Canon.stopAll {bs} (h : s.Canon) : (s.stopAll bs).Canon := h.foldl (fun _ _ h1 => .ite h1 h1.stopBlock)

theorem State.Canon.dropCtx {p v q m} (h : s.Canon) : State.Canon { s with
    ctxs := s.ctxs.filter p, queues := q, saved := s.saved.filter v, snaps := s.snaps.filter v, retained := s.retained.filter v, moves := m
        } :=
  { h with ctxs := h.ctxs.filter, saved := h.saved.filter, snaps := h.snaps.filter, retained := h.retained.filter }

theorem State.Canon.execCtxDestroy {p} (h : s.Canon) : Keeps (execCtxDestroy p s) := by
  unfold Machine.execCtxDestroy
  refine h.ctxService fun _ _ ht _ => .ite (.stopAll ht) ?_
  exact State.Canon.dropCtx (.forgetOn (.forgetOn (.ckptPackets (.foldl (.stopAll ht) fun _ _ hu => hu.dropWork))))

theorem Context.Canon.update {c : Context} {d now} (h : c.Canon) : (c.update d now).Canon := by
  unfold Context.update
  dsimp only
  split
  · exact Context.canon_of .none (h.ckpt.map fun _ _ => ⟨.nil, .nil⟩) h.kept
  · exact h.same (by rfl)

theorem State.Canon.execCtxUpdate {p} (h : s.Canon) : Keeps (execCtxUpdate p s) := by
  unfold Machine.execCtxUpdate
  refine h.ctxService fun _ _ ht hc => ?_
  extract_lets b
  clear_value b
  refine .ite ht (.ite ht (.ite ht (.ite ht ?_)))
  exact State.Canon.ite (.tlbDrop (.tlbDrop (ht.putCtx hc.update))) (ht.putCtx hc.update)

theorem State.Canon.queuePages {d ctx q} (h : s.Canon) : (s.queuePages d ctx q).All id := by
  unfold State.queuePages
  split
  · exact h.fwRange.wait ‹_›
  · exact h.fwRange.bad ‹_›
  · have ht := h.fwRange.ok_fst ‹_›
    extract_lets both
    have hboth {t : State} {va n} (h : t.Canon) : (both t va n).All id := by
      unfold both
      split
      · exact h.fwRange.wait ‹_›
      · exact h.fwRange.bad ‹_›
      · have hu := h.fwRange.ok_fst ‹_›
        split
        · exact hu.fwRange.wait ‹_›
        · exact hu.fwRange.bad ‹_›
        · exact hu.fwRange.ok_fst ‹_›
    split
    · exact hboth ((hboth ht).ok ‹_›)
    · exact hboth ht

theorem State.Canon.execQueueCreate {p} (h : s.Canon) : Keeps (execQueueCreate p s) := by
  unfold Machine.execQueueCreate
  refine h.ctxService fun _ _ ht _ => ?_
  extract_lets n r b
  clear_value b
  refine .ite (.ite ht ht) (.ite ht (.ite ht (.ite ht ?_)))
  split
  · exact ht.queuePages.wait ‹_›
  · exact ht.queuePages.bad ‹_›
  · rename_i hq
    refine .ite ?_ (.writeState ((ht.queuePages.ok hq).same (by rfl)))
    split
    · rename_i hx
      refine State.Canon.putCtx (.writeState ((ht.queuePages.ok hq).same (by rfl))) (Context.Canon.same (State.Canon.ctx ?_ hx) rfl)
      exact .writeState ((ht.queuePages.ok hq).same (by rfl))
    · exact State.Canon.writeState ((ht.queuePages.ok hq).same (by rfl))

theorem State.Canon.mirrorReset {r} (h : s.Canon) : (s.mirrorReset r).Canon := by
  unfold State.mirrorReset
  split
  · rename_i hc _
    refine h.putCtx (Context.canon_of (.map (h.ctx hc).mirror ?_) (.map (h.ctx hc).ckpt ?_) (h.ctx hc).kept)
    · exact fun _ hk => ⟨hk.blocks.filter, hk.snaps.filter⟩
    · exact fun _ hk => ⟨hk.blocks.filter, hk.snaps.filter⟩
  · exact h

theorem State.Canon.execQueueReset {p} (h : s.Canon) : Keeps (execQueueReset p s) :=
  State.Canon.ctxService h (fun _ _ h1 _ => .ite h1 (.ite (State.Canon.stopAll h1)
      (State.Canon.mirrorReset (.restart (.dropWork (.stopAll h1))))))

theorem State.Canon.execGraphLoad {p} (h : s.Canon) : Keeps (execGraphLoad p s) := by
  unfold Machine.execGraphLoad
  refine h.ctxService (fun _ _ h1 h2 => ?_)
  dsimp only
  split
  · exact h1
  · refine .ite h1 (.ite h1 ?_)
    split
    · exact h1.fwRead.wait ‹_›
    · exact h1.fwRead.bad ‹_›
    · have hs := h1.fwRead.ok_fst ‹_›
      refine .ite hs ?_
      split
      · exact hs.fwRead.wait ‹_›
      · exact hs.fwRead.bad ‹_›
      · have ht := hs.fwRead.ok_fst ‹_›
        exact .ite ht ht.onQueue

theorem State.Canon.execGraphUnload {p} (h : s.Canon) : Keeps (execGraphUnload p s) := by
  unfold Machine.execGraphUnload
  refine h.ctxService (fun _ _ h1 h2 => ?_)
  dsimp only
  split
  · exact h1
  · exact .ite h1 h1.onQueue

theorem State.Canon.execInvalidate {p} (h : s.Canon) : Keeps (execInvalidate p s) :=
  h.ctxService (fun _ _ h1 _ => .ite h1.shootDown (.ite h1.noteLeaves h1))

theorem State.Canon.execObjClear {p} (h : s.Canon) : Keeps (execObjClear p s) := by
  unfold Machine.execObjClear
  refine h.ctxService (fun _ _ h1 h2 => ?_)
  dsimp only
  split
  · exact h1
  · exact .ite h1 (.ite h1 (.ite h1 (h1.touch.setMem (Memory.wf_write (Memory.wf_ite h1.touch.mem (Memory.wf_clear h1.touch.mem _ _)) _
        _))))

theorem State.Canon.execCkptInterval {p} (h : s.Canon) : Keeps (execCkptInterval p s) :=
  State.Canon.ctxService h (fun _ _ h1 h2 => .ite h1 (State.Canon.putCtx h1 (h2.same (by rfl))))

theorem State.Canon.allocMany {ctx d size a} (h : s.Canon) : IfOk Prod.fst (s.allocMany ctx d size a) := by
  induction a generalizing s ctx d size with
  | zero =>
    unfold State.allocMany
    exact .of_ok h
  | succ _ ih =>
    unfold State.allocMany
    split
    · exact IfOk.of_error
    · rename_i heq
      split
      · exact IfOk.of_error
      · exact .of_ok ((ih (h.allocFrame.ok_fst heq)).ok_fst ‹_›)

theorem State.Canon.execFrameAlloc {p} (h : s.Canon) : Keeps (execFrameAlloc p s) := by
  unfold Machine.execFrameAlloc
  refine h.ctxService (fun _ _ h1 h2 => .ite h1 ?_)
  split
  · exact h1
  · rename_i heq
    exact { h1.allocMany.ok_fst heq with memH := Memory.wf_writeN _ _ (h1.allocMany.ok_fst heq).memH }

theorem State.Canon.execFrameFree {p} (h : s.Canon) : Keeps (execFrameFree p s) := h.ctxService (fun _ _ h1 _ => .ite h1 h1.freeFrame)

end

end Sys2Proof.Machine

/-! Records, checkpoints, migration and loss keep a state canonical (O52). -/

namespace Sys2Proof.Machine

section
variable {s : State}

theorem State.Canon.noSnap {ref b sub va} (h : s.Canon) : (s.noSnap ref b sub va).Canon := h.faultNote.endCapture

theorem State.Canon.writeSnap {ref b va data} (h : s.Canon) : (s.writeSnap ref b va data).All id := by
  unfold State.writeSnap
  dsimp only
  split
  · exact (h.fwWrite.ok ‹_›).fwWrite
  · exact h.fwWrite

theorem Saved.Canon.snapImage {b v} (h : Saved.Canon v) : (snapImage b v).Canon := h

theorem Context.Canon.getD {o : Option Context} {c : Context} (ho : ∀ x, o = some x → x.Canon) (h : c.Canon) : (o.getD c).Canon := by
  cases o with
  | none => exact h
  | some x => exact ho x rfl

theorem State.Canon.execSnapshot {ref} (h : s.Canon) : Keeps (execSnapshot ref s) := by
  unfold Machine.execSnapshot
  split
  · exact h
  · split
    · rename_i hc
      refine .ite h ?_
      extract_lets count v data region used clean
      refine .ite (State.Canon.noSnap (s := count s) h) ?_
      split
      · exact h.writeSnap.wait ‹_›
      · exact State.Canon.noSnap ((h.writeSnap.bad ‹_›).same (by rfl))
      · have hw := h.writeSnap.ok ‹_›
        extract_lets c' charged done
        have hc' : c'.Canon := Context.Canon.getD (fun _ hx => hw.ctx hx) (h.ctx hc)
        have hd : done.Canon := ((hw.same (t := count _) (by rfl)).putCtx (hc'.same (by rfl))).onBlock (fun _ hb => hb.same (by rfl)) |>.endCapture
        split
        · exact hd
        · rename_i hx
          exact hd.keepSnap (.record (.snapImage (.imageOf (hd.blockOf hx))))
    · exact h

/-! ### Checkpoints -/

theorem Context.Canon.takeMirror {c : Context} (h : c.Canon) : c.takeMirror.Canon := by
  unfold Context.takeMirror
  split
  · exact h
  · exact h.same (by rfl)

theorem Context.Canon.captured {c : Context} {k rst} (h : c.Canon) (hk : Checkpoint.Canon k) : (c.captured k rst).Canon :=
  Context.canon_of h.takeMirror.mirror (.some hk) h.takeMirror.kept

theorem Context.Canon.ite {p : Prop} [Decidable p] {c d : Context} (hc : c.Canon) (hd : d.Canon) : (if p then c else d).Canon := by
  split
  · exact hc
  · exact hd

theorem Context.Canon.mergeEpochs {c : Context} (h : c.Canon) : c.mergeEpochs.Canon := by
  unfold Context.mergeEpochs
  split
  · exact h.same (by rfl)
  · exact h.dropEpochs

theorem Checkpoint.Canon.over {k : Checkpoint} {o} (h : k.Canon) : (k.over o).Canon := h

theorem State.Canon.blockRecords {n} (h : s.Canon) : Records (s.blockRecords n) := by
  refine .append (fun v hv => ?_) h.saved.filter
  obtain ⟨e, he, rfl⟩ := List.mem_map.mp hv
  exact h.blocks e (List.mem_of_mem_filter he)

theorem State.Canon.capture {c k} (h : s.Canon) : (s.capture c k).Canon := ⟨h.blockRecords, h.snaps.filter⟩

theorem State.Canon.keyed {m c} (h : s.Canon) (e : s.keyed m = some c) : c.Canon := by
  unfold State.keyed at e
  split at e
  · rename_i hc
    split at e
    · cases e
      exact h.ctx hc
    · cases e
  · cases e

theorem State.Canon.startCkpt {c} (h : s.Canon) (hc : c.Canon) : (s.startCkpt c).Canon :=
  .putCtx h (Context.canon_of hc.mirror (.some (Checkpoint.canon_of Records.nil Records.nil)) hc.kept)

theorem State.Canon.execCkpt {q p} (h : s.Canon) : Keeps (execCkpt q p s) := by
  unfold Machine.execCkpt
  split
  · exact h.takePacket.off ‹_›
  · rename_i heq
    have hs := h.takePacket.act heq
    split
    · exact h.takePacket.act heq
    · have ht := hs.ctx ‹_›
      exact .ite hs.complete (.ite (State.Canon.putCtx hs (ht.same (by rfl))) (State.Canon.startCkpt hs (ht.same (by rfl))))

theorem State.Canon.goOn {ref} (h : s.Canon) : (s.goOn ref).Canon := h

theorem State.Canon.allGoOn {ctx} (h : s.Canon) : (s.allGoOn ctx).Canon := h.foldl (fun _ _ h1 => h1.goOn)

theorem State.Canon.flushCtx {ctx} (h : s.Canon) : (s.flushCtx ctx).Canon :=
  (h.foldl (fun _ _ h1 => h1.l1Drop)).foldl (fun _ _ h2 => h2.l1Drop)

theorem State.Canon.sendCkpt {c k} (h : s.Canon) : (s.sendCkpt c k).Canon := by
  unfold State.sendCkpt
  extract_lets num recs grans sent all n noted
  have ha : all.Canon := (h.foldl fun _ _ h => h.sendMsg).foldl fun _ _ h => h.sendMsg
  refine State.Canon.request (s := noted) ?_
  unfold noted
  split
  · have hc := ha.ctx ‹_›
    exact ha.putCtx (Context.canon_of hc.mirror (.map hc.ckpt fun _ h => h.same (by rfl)) hc.kept)
  · exact ha

theorem State.Canon.abandonCkpt {ctx} (h : s.Canon) : (s.abandonCkpt ctx).Canon := by
  unfold State.abandonCkpt
  split
  · exact h
  · rename_i hc
    split
    · exact h
    · rename_i k _
      have hm := Context.Canon.ite (p := k.stage = .sending) (h.ctx hc).mergeEpochs (h.ctx hc)
      refine .ckptPackets (.ite (.putCtx h ?_) (.faultNote (.putCtx h ?_)))
      · exact Context.canon_of hm.mirror .none hm.kept
      · exact Context.canon_of hm.mirror .none hm.kept

theorem State.Canon.commitCkpt {ctx} (h : s.Canon) : (s.commitCkpt ctx).Canon := by
  unfold State.commitCkpt
  split
  · exact h
  · have hs := h.ctx ‹_›
    split
    · exact h
    · exact .ckptPackets (.putCtx h (Context.canon_of (.some (hs.checkpoint ‹_›).over) MaybeCkpt.none hs.kept))

theorem State.Canon.dropCkpt {c} (h : s.Canon) (hc : c.Canon) : (s.dropCkpt c).Canon :=
  .ckptPackets (.allGoOn (.putCtx h (Context.canon_of hc.mirror MaybeCkpt.none hc.kept)))

theorem State.Canon.ckptStop {c k} (h : s.Canon) : (s.ckptStop c k).Canon := by
  unfold State.ckptStop
  extract_lets asked flushed
  have ha : asked.Canon := h.foldl fun _ _ h => h.askBlock
  have hf : flushed.Canon := ha.flushCtx
  refine .ite ha (.ite hf ?_)
  split
  · exact hf
  · refine .ite hf ?_
    extract_lets k c' going
    have hg : going.Canon := (hf.putCtx ((hf.ctx ‹_›).captured hf.capture)).allGoOn
    exact .ite hg.abandonCkpt hg.sendCkpt

theorem State.Canon.execCkptTimer {ctx} (h : s.Canon) : Keeps (execCkptTimer ctx s) := by
  unfold Machine.execCkptTimer
  split
  · exact h
  · have hs := h.ctx ‹_›
    refine .ite h ?_
    split
    · exact .ite h (.ite (h.startCkpt hs) (.ite h (h.dropCkpt hs)))
    · split
      · exact .ite h.ckptStop (h.dropCkpt hs)
      · exact .ite (h.dropCkpt hs) h
      · exact .ite h.allGoOn.abandonCkpt (h.dropCkpt hs)

theorem State.Canon.ckptFor {m n c k} (h : s.Canon) (e : s.ckptFor m n = .now c k) : c.Canon := by
  unfold State.ckptFor at e
  split at e
  · cases e
  · rename_i hc
    split at e
    · split at e
      · cases e
        exact h.keyed hc
      · split at e <;> cases e
    · split at e <;> cases e

theorem State.Canon.ckptNow {m n c k} (h : s.Canon) (e : s.ckptFor m n = .now c k) : k.Canon := by
  unfold State.ckptFor at e
  split at e
  · cases e
  · rename_i hc
    split at e
    · rename_i hk
      split at e
      · cases e
        exact (h.keyed hc).checkpoint hk
      · split at e <;> cases e
    · split at e <;> cases e

theorem State.Canon.refuseCkpt {dest m check} (h : s.Canon) : (s.refuseCkpt dest m check).Canon := h.refuseMsg.abandonCkpt

theorem State.Canon.closeCkpt {ctx num} (h : s.Canon) : (s.closeCkpt ctx num).Canon := h.setPipe

theorem State.Canon.execCkptData {dest} (h : s.Canon) : Keeps (execCkptData dest s) := by
  unfold Machine.execCkptData
  split
  · exact h
  · have hs := h.deliver.some_fst ‹_›
    split
    · exact hs.refuseCkpt
    · exact hs.refuseMsg
    · rename_i heq
      have ht := hs.ckptFor heq
      exact .ite hs.refuseCkpt (State.Canon.putCtx hs (Context.canon_of ht.mirror (.some ((hs.ckptNow heq).same (by rfl))) ht.kept))

theorem State.Canon.execCkptEnd {dest} (h : s.Canon) : Keeps (execCkptEnd dest s) := by
  unfold Machine.execCkptEnd
  split
  · exact h
  · have hs := h.deliver.some_fst ‹_›
    split
    · exact hs.closeCkpt.refuseCkpt
    · exact hs.closeCkpt.refuseMsg
    · exact .ite hs.closeCkpt.refuseCkpt (.ite hs.closeCkpt.abandonCkpt hs.replyMsg)

theorem State.Canon.execCkptAck {dest} (h : s.Canon) : Keeps (execCkptAck dest s) := by
  unfold Machine.execCkptAck
  split
  · exact h
  · have hs := h.deliver.some_fst ‹_›
    split
    · rename_i heq
      have ht := hs.closeTag.some_fst heq
      split
      · exact .ite ht.commitCkpt ht
      · exact hs.closeTag.some_fst heq
    · exact hs.refuseCkpt

theorem State.Canon.migrateAll {dst p} (h : s.Canon) : (s.migrateAll dst p).Canon :=
  { h with ctxs := .map h.ctxs (fun _ h1 => .ite (h1.same (by rfl)) h1) }

theorem State.Canon.dockDone (h : s.Canon) : (s.dockDone).Canon := .ite h h

theorem State.Canon.endMig {ctx} (h : s.Canon) : (s.endMig ctx).Canon := by
  unfold State.endMig
  refine .dockDone ?_
  split
  · have hs := h.ctx ‹_›
    exact .putCtx h (Context.canon_of hs.mirror hs.ckpt MaybeKept.none)
  · exact h

theorem State.Canon.tableFrames {ctx d must a} (h : s.Canon) : IfOk Prod.fst (s.tableFrames ctx d must a) := by
  induction a generalizing s ctx d must with
  | nil =>
    unfold State.tableFrames
    exact .of_ok h
  | cons _ _ ih =>
    unfold State.tableFrames
    split
    · exact IfOk.of_error
    · rename_i heq
      split
      · exact IfOk.of_error
      · exact .of_ok ((ih (h.allocFrame.ok_fst heq)).ok_fst ‹_›)

theorem State.Canon.writeTables {d fs ts} (h : s.Canon) : (s.writeTables d fs ts).Canon :=
  h.foldl (fun _ _ h1 => h1.setMem (Memory.wf_writeN _ _ h1.mem))

theorem State.Canon.freeTables {ctx d ts} (h : s.Canon) : (s.freeTables ctx d ts).Canon := by
  unfold State.freeTables
  split
  · exact h
  · exact h.foldl (fun _ _ h1 => h1.freeFrame)

theorem State.Canon.rebuildTables {ctx d must ts} (h : s.Canon) : IfOk id (s.rebuildTables ctx d must ts) := by
  unfold State.rebuildTables
  split
  · exact IfOk.of_error
  · have hs := h.tableFrames.ok_fst ‹_›
    dsimp only
    split
    · exact IfOk.of_error
    · exact .of_ok (.tlbDrop (.tlbDrop (.putCtx hs.writeTables ((hs.writeTables.ctx ‹_›).same (by rfl)))))

theorem State.Canon.newTickets {p} (h : s.Canon) : (s.newTickets p).Canon := h

theorem Saved.Canon.carried {v : Saved} {d} (h : v.Canon) : (v.carried d).Canon := by
  unfold Saved.carried
  split
  · exact h
  · exact h.same (by rfl)

theorem State.Canon.carryWork {ctx d p} (h : s.Canon) : (s.carryWork ctx d p).Canon := by
  unfold State.carryWork
  refine { h with saved := h.newTickets.saved.filter.map (fun _ h1 => ?_), snaps := h.newTickets.snaps.map (fun _ h2 => ?_) }
  · split
    · exact h1.carried
    · exact h1
  · split
    · exact h2.carried
    · exact h2

theorem State.Canon.migRefused {ctx dst} (h : s.Canon) : (s.migRefused ctx dst).Canon := by
  unfold State.migRefused
  refine .endMig ?_
  split
  · have hs := h.ctx ‹_›
    exact .putCtx h (Context.canon_of MaybeCkpt.none hs.ckpt hs.kept)
  · exact h

theorem State.Canon.retain {l : List Saved} (h : s.Canon) (hl : Records l) : State.Canon { s with retained := s.retained ++ l } :=
  { h with retained := h.retained.append hl }

theorem State.Canon.keepCopies {c root ts old} (h : s.Canon) (hc : c.Canon) (ho : State.Canon old) : (s.keepCopies c root ts old).Canon :=
  .retain (h.putCtx (Context.canon_of hc.mirror hc.ckpt (.some ho.snaps.filter))) ho.saved.filter

theorem State.Canon.takeOver {ctx dst} (h : s.Canon) : (s.takeOver ctx dst).Canon := by
  unfold State.takeOver
  split
  · exact h
  · refine .ite h.carryWork.endMig ?_
    dsimp only
    split
    · exact .migRefused (.ite h.faultNote h)
    · have hs := h.rebuildTables.ok ‹_›
      split
      · exact (hs.keepCopies (hs.ctx ‹_›) h).carryWork
      · exact hs.freeTables.carryWork.endMig

theorem State.Canon.makeRoom {c} (h : s.Canon) : (s.makeRoom c).Canon := h.foldl (fun _ _ h1 => h1.saveBlock)

theorem State.Canon.arrived {c} (h : s.Canon) : (s.arrived c).Canon :=
  .foldl ({ h.freeTables.endMig with retained := h.freeTables.endMig.retained.filter }) (fun _ _ h1 => h1.goOn.causesBack)

theorem State.Canon.firstCkpt {ctx} (h : s.Canon) : (s.firstCkpt ctx).Canon := by
  unfold State.firstCkpt
  dsimp only
  have hf := h.flushCtx (ctx := ctx)
  split
  · exact hf
  · rename_i c hc
    have hk := hf.capture (c := { c with dirtyAll := true, mirror := none }) (k := { num := 0, packets := c.ckptAgain })
    refine .ckptPackets (.ite (.faultNote (.putCtx hf ?_)) (.putCtx hf ?_))
    · exact Context.canon_of .none .none (hf.ctx hc).takeMirror.kept
    · exact Context.canon_of (.some ⟨hk.blocks, hk.snaps⟩) .none (hf.ctx hc).takeMirror.kept

theorem State.Canon.sendRecords {c dst} (h : s.Canon) (hc : c.Canon) : (s.sendRecords c dst).Canon :=
  .foldl (.putCtx h (hc.same (by rfl))) (fun _ _ h1 => h1.sendMsg)

theorem State.Canon.migStop {c dst} (h : s.Canon) (hc : c.Canon) : (s.migStop c dst).Canon := by
  unfold State.migStop
  dsimp only
  have ha : ∀ {l : List (BlockRef × Block)}, (l.foldl (fun (s : State) e => s.askBlock e.1 .preempt) s).Canon :=
    h.foldl fun _ _ ht => ht.askBlock
  have hs : ∀ {t : State} {l : List (BlockRef × Block)}, t.Canon → (l.foldl (fun (s : State) e => s.saveBlock e.1) t).Canon :=
    fun ht => ht.foldl fun _ _ hu => hu.saveBlock
  refine .ite ha (.ite (.allGoOn (.putCtx (ha.same (by rfl)) (hc.same (by rfl)))) (.ite (hs (ha.same (by rfl))) ?_))
  split
  · rename_i hx
    refine State.Canon.sendRecords ?_ (State.Canon.ctx ?_ hx)
    · exact .ite (hs (ha.same (by rfl))).firstCkpt.allGoOn (hs (ha.same (by rfl)))
    · exact .ite (hs (ha.same (by rfl))).firstCkpt.allGoOn (hs (ha.same (by rfl)))
  · exact .ite (hs (ha.same (by rfl))).firstCkpt.allGoOn (hs (ha.same (by rfl)))

theorem State.Canon.migStep {c} (h : s.Canon) (hc : c.Canon) : (s.migStep c).Canon := by
  unfold State.migStep
  refine .ite h.endMig ?_
  split
  · exact h
  · exact .ite h (.putCtx h (hc.same (by rfl)))
  · exact h.migStop hc
  · exact h
  · exact .ite h.arrived (.ite h.makeRoom h)

theorem State.Canon.execDockMigration {ctx} (h : s.Canon) : Keeps (execDockMigration ctx s) := by
  unfold Machine.execDockMigration
  split
  · exact h
  · exact (h.migStep (h.ctx ‹_›)).dockDone

theorem State.Canon.execMigData {dest} (h : s.Canon) : Keeps (execMigData dest s) := by
  unfold Machine.execMigData
  split
  · exact h
  · have ht := h.deliver.some_fst ‹_›
    split
    · exact State.Canon.ite ht.refuseMsg.migRefused ht.refuseMsg
    · refine .ite ht.refuseMsg (.ite ht.refuseMsg.migRefused ?_)
      extract_lets b kept
      have hk : kept.Canon := ht.putCtx ((ht.keyed ‹_›).same (by rfl))
      exact .ite hk (.ite hk.takeOver hk.refuseMsg.migRefused)

theorem State.Canon.placeHome (h : s.Canon) : (s.placeHome).Canon := h

theorem State.Canon.undockEnds (h : s.Canon) : (s.undockEnds).Canon :=
  { h with ctxs := .map h.ctxs (fun _ h1 => Context.canon_of MaybeCkpt.none h1.ckpt h1.kept) }

theorem State.Canon.execUndock (h : s.Canon) : Keeps (execUndock s) := by
  unfold Machine.execUndock
  refine .ite (State.Canon.onBar0 h (.ite h (.ite h (State.Canon.migrateAll h)))) (.ite h (.ite h ?_))
  extract_lets t pages
  have ht : t.Canon := h.migrateAll
  exact .ite (.of_next (ht.foldl fun _ _ hu => hu.wantMove)) (.ite ht.undockEnds ht)

theorem State.Canon.dropAmdukor (h : s.Canon) : (s.dropAmdukor).Canon := { h with blocks := h.blocks.filter }

theorem State.Canon.dropRemote (h : s.Canon) : (s.dropRemote).Canon := h

theorem State.Canon.lostMove {m} (h : s.Canon) : (s.lostMove m).Canon := by
  unfold State.lostMove
  split
  · exact h.finishMove
  · exact h.dropMove.release
  · exact h.dropMove.release
  · refine .release (.dropMove (.freeFrame ?_))
    split
    · exact h.rewriteLeaf
    · exact h

theorem State.Canon.noWork {p k l m} (h : s.Canon) : State.Canon { s with
    kap := k, launches := l, saved := s.saved.filter p, snaps := s.snaps.filter p, retained := s.retained.filter p, moves := m } :=
  { h with saved := h.saved.filter, snaps := h.snaps.filter, retained := h.retained.filter }

theorem State.Canon.dropContextWork {ctx} (h : s.Canon) : (s.dropContextWork ctx).Canon :=
  .noWork (.forgetOn (.foldl (.foldl h.flushCtx fun _ _ ht => .ite ht.freeFw ht) fun _ _ ht => ht.clearBlock))

theorem State.Canon.giveFrame {ctx va f} (h : s.Canon) : (s.giveFrame ctx va f).Canon := by
  unfold State.giveFrame
  split
  · exact h
  · have hs := h.ctx ‹_›
    dsimp only
    split
    · exact .freeFrame (.rewriteLeaf (.putCtx h (hs.same (by rfl))))
    · exact .rewriteLeaf (.putCtx h (hs.same (by rfl)))

theorem State.Canon.undoEpoch {ctx e} (h : s.Canon) : (s.undoEpoch ctx e).Canon :=
  .foldl (.foldl h (fun _ _ h1 => { h1 with memK := Memory.wf_copyIn _ _ _ (Memory.wf_clear h1.memK _ _) })) (fun _ _ h2 => h2.giveFrame)

theorem State.Canon.adoptFrame {ctx n held} (h : s.Canon) : IfOk Prod.fst (s.adoptFrame ctx n held) := by
  unfold State.adoptFrame
  split
  · exact IfOk.of_error
  · have hs := h.allocFrame.ok_fst ‹_›
    split
    · exact .of_ok (.ite (.putCtx hs ((hs.ctx ‹_›).same (by rfl))) hs)
    · exact .of_ok hs

theorem State.Canon.adoptPage {ctx m va leaf} (h : s.Canon) : IfOk id (s.adoptPage ctx m va leaf) := by
  unfold State.adoptPage
  split
  · exact .of_error
  · split
    · exact .of_ok h
    · extract_lets n old
      clear_value old
      split
      · exact .of_error
      · have hs := h.adoptFrame.ok_fst ‹_›
        extract_lets mem adopted
        have hm : mem.wf = true :=
          Memory.wf_foldl (Memory.wf_clear hs.memK _ _) fun _ _ hk => Memory.wf_copyIn _ _ _ hk
        have ha : adopted.Canon := State.Canon.rewriteLeaf { hs with memK := hm }
        refine .of_ok ?_
        split
        · exact ha.freeFrame
        · exact ha

theorem State.Canon.adoptAll {ctx m a} (h : s.Canon) : IfOk id (s.adoptAll ctx m a) := by
  induction a generalizing s ctx m with
  | nil =>
    unfold State.adoptAll
    exact .of_ok h
  | cons _ _ ih =>
    unfold State.adoptAll
    split
    · exact IfOk.of_error
    · exact ih (h.adoptPage.ok ‹_›)

theorem State.Canon.keepNotes {ctx notes} (h : s.Canon) : (s.keepNotes ctx notes).Canon := by
  unfold State.keepNotes
  refine h.foldl (fun _ _ h1 => ?_)
  split
  · exact h1
  · exact h1.foldl (fun _ _ h2 => h2.rewriteLeaf)

theorem State.Canon.rewind {ctx m} (h : s.Canon) : (s.rewind ctx m).Canon := .foldl h (fun _ _ h1 => h1.writeState)

theorem Records.renumbered {n k : Nat} {l : List Saved} (h : Records l) :
    Records (((List.range n).zip l).map fun (e : Nat × Saved) => { e.2 with id := k + e.1 }) := by
  intro v hv
  obtain ⟨e, he, rfl⟩ := List.mem_map.mp hv
  exact (h e.2 (List.of_mem_zip he).2).same (by rfl)

theorem State.Canon.bringBack {m} (h : s.Canon) (hm : m.Canon) : (s.bringBack m).Canon :=
  { h with
    saved := h.saved.append (Records.renumbered (hm.blocks.filter.map fun _ hv => hv.carried))
    snaps := h.snaps.append (hm.snaps.map fun _ hv => hv.carried) }

theorem State.Canon.rebuild {c m} (h : s.Canon) (hm : m.Canon) : IfOk id (s.rebuild c m) := by
  unfold State.rebuild
  dsimp only
  have hd := h.dropContextWork (ctx := c.num)
  split
  · exact .of_error
  · rename_i x hx
    have hp := hd.putCtx (c := { x.loseFrames with
        mig := .none,
        inbox := [],
        kept := none,
        ckpt := none,
        ckptAgain := [],
        ckptNow := false })
      (Context.canon_of (hd.ctx hx).mirror .none .none)
    split
    · exact .of_error
    · rename_i t ht
      have hu : t.Canon := by
        split at ht
        · split at ht
          · cases ht
            exact (hp.rebuildTables.ok ‹_›).keepNotes
          · cases ht
        · cases ht
          exact hp
      split
      · exact .of_error
      · rename_i ha
        have ha := (State.Canon.adoptAll (hu.foldl fun _ _ hv => hv.undoEpoch)).ok ha
        split
        · exact .of_error
        · rename_i hy
          refine .of_ok (f := id) (.ckptPackets (.bringBack (.rewind (.putCtx ha ?_)) hm))
          exact Context.canon_of .none (ha.ctx hy).ckpt (ha.ctx hy).kept

theorem State.Canon.loseHome {c} (h : s.Canon) : (s.loseHome c).Canon :=
  .putCtx h (Context.canon_of MaybeCkpt.none MaybeCkpt.none MaybeKept.none)

theorem State.Canon.dockLost {ctx} (h : s.Canon) : (s.dockLost ctx).Canon := by
  unfold State.dockLost
  split
  · exact h
  · exact h.loseHome.endContext.ckptPackets

theorem State.Canon.untouched {ctx} (h : s.Canon) : (s.untouched ctx).Canon := by
  unfold State.untouched
  split
  · exact h
  · exact .ckptPackets (.allGoOn (.putCtx h (Context.canon_of MaybeCkpt.none MaybeCkpt.none MaybeKept.none)))

theorem State.Canon.backHome {p q r l t} (h : s.Canon) (ht : Records t) : State.Canon { s with
    launches := l, saved := s.saved.filter p ++ s.retained.filter q, retained := s.retained.filter r, snaps := s.snaps.filter p ++ t } :=
  { h with saved := h.saved.filter.append h.retained.filter, retained := h.retained.filter, snaps := h.snaps.filter.append ht }

theorem State.Canon.comeBack {c} (h : s.Canon) (hc : c.Canon) : (s.comeBack c).Canon := by
  unfold State.comeBack
  split
  · rename_i hk
    exact .backHome (.putCtx (h.foldl fun _ _ ht => ht.clearBlock) (Context.canon_of hc.mirror hc.ckpt .none)) (hc.copies hk)
  · exact h

theorem State.Canon.afterLoss {c b} (h : s.Canon) (hc : c.Canon) : (s.afterLoss c b).Canon := by
  unfold State.afterLoss
  refine .ite h.untouched ?_
  split
  · rename_i hm
    refine .ite ?_ h.dockLost
    split
    · exact (h.rebuild (hc.mirrored hm)).ok ‹_›
    · exact h.dropContextWork.dockLost
  · exact h.dockLost

theorem State.Canon.separate (h : s.Canon) : (s.separate).Canon := h

theorem State.Canon.allBack {l} (h : s.Canon) (hl : Contexts l) : (l.foldl State.comeBack s).Canon := by
  induction l generalizing s with
  | nil => exact h
  | cons c l ih => exact ih (h.comeBack (hl c List.mem_cons_self)) fun d hd => hl d (List.mem_cons_of_mem _ hd)

theorem State.Canon.loseLink (h : s.Canon) : s.loseLink.Canon := by
  unfold State.loseLink
  refine .ite (.ite h h) ?_
  dsimp only
  have hb : s.ctxs.foldl State.comeBack s |>.Canon := h.allBack h.ctxs
  have hm := State.Canon.foldl (g := State.lostMove) (l := (s.ctxs.foldl State.comeBack s).moves)
      hb.separate.dropAmdukor.dropRemote.placeHome
    fun _ _ ht => ht.lostMove
  refine State.Canon.foldl (hm.same (by rfl)) fun _ _ ht => ?_
  split
  · exact ht.afterLoss (ht.ctx ‹_›)
  · exact ht

theorem State.Canon.execLinkLost (h : s.Canon) : Keeps (execLinkLost s) := h.loseLink

theorem State.Canon.execHeartbeatTimeout {d} (h : s.Canon) : Keeps (execHeartbeatTimeout d s) := .ite h h.loseLink

end

end Sys2Proof.Machine

/-! Boot, the pair's links, what the other member asks for, what is cleared away and traps keep a state canonical (O52). -/

namespace Sys2Proof.Machine

section
variable {s : State}

theorem DieState.wf_loaded {x : DieState} {d} : (x.loaded d).wf = true := by
  unfold DieState.loaded
  split
  · rfl
  · exact Memory.wf_writeN _ _ rfl

theorem State.Canon.cycled {kap m} (h : s.Canon) (hm : Memory.wf m = true) : (s.cycled kap m).Canon := by
  obtain ⟨_, _, _, hw, _, hb, hv, hn, hr, hc⟩ : State.reset.Canon := State.canon_iff.mpr rfl
  exact ⟨hm, h.memA, h.memH, hw, h.wsA, hb, hv, hn, hr, hc⟩

theorem State.Canon.bareAmd {a m} (h : s.Canon) (hm : Memory.wf m = true) : State.Canon { s with amd := a, memA := m, wsA := [] } :=
  { h with memA := hm, wsA := rfl }

theorem State.Canon.execShutdown {d} (h : s.Canon) : Keeps (execShutdown d s) := by
  cases d
  · exact .of_next (h.flash.cycled rfl)
  · exact .of_next (h.flash.loseLink.bareAmd rfl)

theorem State.Canon.execPowerOnReset {d} (h : s.Canon) : Keeps (execPowerOnReset d s) := by
  cases d
  · exact .of_next (h.cycled DieState.wf_loaded)
  · exact .of_next (h.loseLink.bareAmd DieState.wf_loaded)

theorem State.Canon.execHostLinkTrain (h : s.Canon) : Keeps (execHostLinkTrain s) :=
  .ite h (.ite h.onLife (State.Canon.ite h.onLife (.ite h.onLife h)))

theorem State.Canon.execHostLinkDown (h : s.Canon) : Keeps (execHostLinkDown s) :=
  .ite (State.Canon.haltStatus (.ite h.onLife h)) (State.Canon.ite h.onLife h)

theorem State.Canon.onLives {f} (h : s.Canon) : (s.onLives f).Canon := h

theorem State.Canon.execPresenceDetect {width speed} (h : s.Canon) : Keeps (execPresenceDetect width speed s) :=
  .ite (.ite h (.ite (State.Canon.onLives h) h.loseLink)) (.ite h h)

theorem State.Canon.trainCable (h : s.Canon) : Keeps (s.trainCable) := by
  unfold State.trainCable
  split
  · exact h
  · exact .ite (State.Canon.onLives h) (.ite h h)

theorem State.Canon.execPairing {ids} (h : s.Canon) : Keeps (execPairing ids s) := .ite h (.ite h (State.Canon.onLives (.separate h)))

theorem State.Canon.execPtmExchange {offset} (h : s.Canon) : Keeps (execPtmExchange offset s) :=
  .ite (.ite h.loseLink h) (.ite h (State.Canon.dockDone (.migrateAll h)))

theorem State.Canon.execSlotBegin {d b} (h : s.Canon) : Keeps (execSlotBegin d b s) := .ite h.setDie h

theorem State.Canon.execSlotDone {d f} (h : s.Canon) : Keeps (execSlotDone d f s) := by
  unfold Machine.execSlotDone
  dsimp only
  split
  · exact h
  · exact h.setDie

theorem State.Canon.abortWrite {slot} (h : s.Canon) : (s.abortWrite slot).Canon := .ite h h

theorem State.Canon.execFwctlRollback (h : s.Canon) : Keeps (execFwctlRollback s) :=
  State.Canon.onBar0 h (.ite h.abortWrite (.ite h.abortWrite (.ite h.abortWrite h.abortWrite)))

theorem State.Canon.execAttctlReq (h : s.Canon) : Keeps (execAttctlReq s) := State.Canon.onBar0 h (.ite h h)

theorem State.Canon.execAttestationSigned (h : s.Canon) : Keeps (execAttestationSigned s) := .ite h (.ite h h)

theorem State.Canon.execLifetimeRecordWrite {d} (h : s.Canon) : Keeps (execLifetimeRecordWrite d s) := h.flash

theorem State.Canon.execRefreshPhaseAdvance {d} (h : s.Canon) : Keeps (execRefreshPhaseAdvance d s) :=
  .ite h.setDie (State.Canon.corrected h.setDie)

theorem State.Canon.execRefreshModeChange {d celsius} (h : s.Canon) : Keeps (execRefreshModeChange d celsius s) := h.setDie

theorem State.Canon.ptmAgain (h : s.Canon) : (s.ptmAgain).Canon := .ite h h

theorem State.Canon.registers {a b c} (h : s.Canon) : State.Canon { s with mqdesc := a, fwcmd := b, attNonce := c } := h

theorem State.Canon.execRegisterWrite {offset v} (h : s.Canon) : Keeps (execRegisterWrite offset v s) := by
  unfold Machine.execRegisterWrite
  refine h.onBar0 ?_
  dsimp only
  split
  · exact h
  · split
    · exact .of_next h.registers
    · split
      · exact .of_next h.registers
      · split
        · exact .of_next h.registers
        · split
          · exact .of_next h.putHead
          · exact h

theorem State.Canon.execRdReq {dest} (h : s.Canon) : Keeps (execRdReq dest s) := by
  unfold Machine.execRdReq
  split
  · exact h
  · have hs := h.deliver.some_fst ‹_›
    split
    · exact hs.refuseMsg.replyMsg
    · exact .ite h (.ite hs.homeFlaw.atHome.replyMsg hs.homeFlaw.homeRead.replyMsg)

theorem State.Canon.lineBack {a o l m} (h : s.Canon) : (s.lineBack a o l m).Canon := by
  unfold State.lineBack
  dsimp only
  split
  · exact h
  · exact .setAgentOp (.ite h.homeBytesFor.l1Forget h.homeBytesFor.l1Put)

theorem State.Canon.remoteFault {a op l} (h : s.Canon) : (s.remoteFault a op l).Canon := by
  unfold State.remoteFault
  split
  · exact h
  · exact h.replyRefused

theorem State.Canon.keepFar {d w l m} (h : s.Canon) : (s.keepFar d w l m).Canon := h.setPipe

theorem State.Canon.lineFilled {a acc ctx va leaf l m} (h : s.Canon) : (s.lineFilled a acc ctx va leaf l m).Canon := by
  unfold State.lineFilled
  dsimp only
  split
  · exact h.setWalk
  · exact h.homeBytesFor.l1Put

theorem State.Canon.execRdData {dest} (h : s.Canon) : Keeps (execRdData dest s) := by
  unfold Machine.execRdData
  split
  · exact h
  · have hs := h.deliver.some_fst ‹_›
    split
    · rename_i heq
      have ht := hs.closeTag.some_fst heq
      refine .ite ht.remoteFault ?_
      split
      · exact ht.lineBack
      · exact hs.closeTag.some_fst heq
    · exact (hs.closeTag.some_fst ‹_›).keepFar
    · exact (hs.closeTag.some_fst ‹_›).lineFilled
    · exact hs.refuseMsg

theorem State.Canon.execWrReq {dest} (h : s.Canon) : Keeps (execWrReq dest s) := by
  unfold Machine.execWrReq
  split
  · exact h
  · have hs := h.deliver.some_fst ‹_›
    split
    · exact hs.refuseMsg.replyMsg
    · exact .ite h hs.homeWrite.replyMsg

theorem State.Canon.execTokSig {dest} (h : s.Canon) : Keeps (execTokSig dest s) := by
  unfold Machine.execTokSig
  split
  · exact h
  · have hs := h.deliver.some_fst ‹_›
    split
    · exact hs.refuseMsg.replyMsg
    · exact hs.signalAt.replyMsg

theorem State.Canon.jobAcked {d w va m} (h : s.Canon) : (s.jobAcked d w va m).Canon := by
  unfold State.jobAcked
  split
  · exact h.setDie
  · exact h

theorem State.Canon.execWrAck {dest} (h : s.Canon) : Keeps (execWrAck dest s) := by
  unfold Machine.execWrAck
  split
  · exact h
  · have hs := h.deliver.some_fst ‹_›
    split
    · rename_i heq
      have ht := hs.closeTag.some_fst heq
      refine .ite ht.remoteFault ?_
      split
      · exact ht.setAgentOp
      · exact hs.closeTag.some_fst heq
    · exact (hs.closeTag.some_fst ‹_›).signalAcked
    · exact (hs.closeTag.some_fst ‹_›).jobAcked
    · exact (hs.closeTag.some_fst ‹_›).jobAcked
    · exact hs.closeTag.some_fst ‹_›
    · exact hs.refuseMsg

theorem State.Canon.execCombReq {dest} (h : s.Canon) : Keeps (execCombReq dest s) := by
  unfold Machine.execCombReq
  split
  · exact h
  · have hs := h.deliver.some_fst ‹_›
    dsimp only
    split
    · exact hs.refuseMsg.replyMsg
    · split
      · exact hs.arrive.some ‹_›
      · exact h

theorem State.Canon.execCombRsp {dest} (h : s.Canon) : Keeps (execCombRsp dest s) := by
  unfold Machine.execCombRsp
  split
  · exact h
  · have hs := h.deliver.some_fst ‹_›
    split
    · rename_i heq
      split
      · exact (hs.closeTag.some_fst heq).forgetLines.setAgentOp
      · exact hs.closeTag.some_fst heq
    · exact hs.refuseMsg

theorem State.Canon.execPtRd {dest} (h : s.Canon) : Keeps (execPtRd dest s) := by
  unfold Machine.execPtRd
  split
  · exact h
  · have hs := h.deliver.some_fst ‹_›
    split
    · exact hs.refuseMsg.replyMsg
    · exact State.Canon.replyMsg (.ite hs.homeFlaw.countAccess hs.homeFlaw)

theorem State.Canon.execPtCas {dest} (h : s.Canon) : Keeps (execPtCas dest s) := by
  unfold Machine.execPtCas
  split
  · exact h
  · rename_i hd
    have ht := h.deliver.some_fst hd
    split
    · exact .of_next ht.refuseMsg.replyMsg
    · exact .of_next (.replyMsg (.ite ht.putEntry ht))

theorem State.Canon.refuseWalks {d ctx pa sub} (h : s.Canon) : (s.refuseWalks d ctx pa sub).Canon := by
  unfold State.refuseWalks
  split
  · exact h
  · exact .foldl h (fun _ _ h1 => h1.setWalk)

theorem State.Canon.execPtData {dest} (h : s.Canon) : Keeps (execPtData dest s) := by
  unfold Machine.execPtData
  split
  · exact h
  · have hs := h.deliver.some_fst ‹_›
    split
    · have ht := hs.closeTag.some_fst ‹_›
      refine .ite ht.refuseWalks ?_
      split
      · exact ht.refuseWalks
      · exact ht.setDie
    · exact hs.closeTag.some_fst ‹_›
    · exact hs.refuseMsg

theorem State.Canon.retireOne {a} (h : s.Canon) : (s.retireOne a).Canon := by
  unfold State.retireOne
  split
  · exact h
  · split
    · exact h.retire
    · exact h.replyFaults

theorem State.Canon.retireAll {a a2} (h : s.Canon) : (s.retireAll a a2).Canon := by
  induction a2 generalizing s a with
  | zero =>
    unfold State.retireAll
    exact h
  | succ _ ih =>
    unfold State.retireAll
    exact .ite (ih h.retireOne) h

theorem State.Canon.wakeYields (h : s.Canon) : (s.wakeYields).Canon := h

theorem State.Canon.endStep {e} (h : s.Canon) : (s.endStep e).Canon := by
  unfold State.endStep
  dsimp only
  split
  · exact h
  · refine .ite h ?_
    split
    · exact h
    · exact .pushEvent h

theorem State.Canon.endTrace {e} (h : s.Canon) : (s.endTrace e).Canon := .ite (.ite h h) (.ite h h.traceMark)

theorem State.Canon.foldGw {b gd gp} (h : s.Canon) : (s.foldGw b gd gp).Canon := by
  unfold State.foldGw
  split
  · exact .onBlock h (fun _ h1 => h1.same (by rfl))
  · exact h

theorem State.Canon.freeWave {e} (h : s.Canon) : (s.freeWave e).Canon := by
  unfold State.freeWave
  refine .ite ?_ h
  dsimp only
  split
  · exact .trimQueue (.foldGw h)
  · exact .foldGw h

theorem State.Canon.endBlown {e} (h : s.Canon) : (s.endBlown e).Canon := .ite h.setPar.endSibling h

theorem State.Canon.freePar {e} (h : s.Canon) : (s.freePar e).Canon := .ite (.foldGw h) h

theorem State.Canon.purgeWalks (h : s.Canon) : (s.purgeWalks).Canon := h

theorem State.Canon.purgeFar {d} (h : s.Canon) : (s.purgeFar d).Canon := .ite h h.setPipe

theorem State.Canon.flushAll (h : s.Canon) : (s.flushAll).Canon := by
  unfold State.flushAll
  refine h.foldl (fun _ _ h1 => ?_)
  split
  · exact .ite h1.flushHeld h1
  · exact h1

theorem State.Canon.nameStalls (h : s.Canon) : (s.nameStalls).Canon := h

theorem State.Canon.elim {α : Type} {o : Option α} {f : α → State} (h : s.Canon) (hf : ∀ a, (f a).Canon) : (o.elim s f).Canon := by
  cases o with
  | none => exact h
  | some a => exact hf a

theorem State.Canon.pathsRead (h : s.Canon) : s.pathsRead.Canon := by
  unfold State.pathsRead
  refine .ite h (h.foldl fun _ _ ht => ?_)
  split
  · exact ht.pathFlaw.fst ‹_›
  · rename_i hp
    have hu := ht.pathFlaw.fst hp
    split
    · exact hu.elim fun _ => hu.raise
    · exact hu

theorem State.Canon.dropFlaws (h : s.Canon) : (s.dropFlaws).Canon := .ite h h

theorem State.Canon.minuteOf {d} (h : s.Canon) : (s.minuteOf d).Canon := .ite h h.setDie.flash

theorem State.Canon.attend (h : s.Canon) : s.attend.Canon := by
  unfold State.attend
  extract_lets t u v more w
  have ht : t.Canon := .ite h h.hostAgain
  have hv : v.Canon := ht.ackDue.ackDue.minuteOf.minuteOf
  clear_value v
  split
  · exact hv.same (by rfl)
  · exact hv.same (by rfl)

theorem State.Canon.movesServed (h : s.Canon) : (s.movesServed).Canon := .ite h (.foldl h (fun _ _ h1 => h1.resetCounts))

theorem State.Canon.tidy (h : s.Canon) : s.tidy.Canon := by
  unfold State.tidy
  refine .purgeFar (.purgeFar (.purgeWalks (.movesServed (.attend (.nameStalls (.dropFlaws (.foldl (.foldl ?_ ?_) ?_)))))))
  · refine .flushAll (.endBlocks (.foldl (.foldl (.foldl (.foldl
        (.foldl (.retestBars (.foldl (.wakeYields (.pathsRead (.foldl h ?_))) ?_)) ?_) ?_) ?_) ?_) ?_))
    · exact fun _ _ ht => ht.retireAll
    · exact fun _ _ ht => ht.endStep
    · exact fun _ _ ht => ht.endTrace
    · exact fun _ _ ht => ht.freeWave
    · exact fun _ _ ht => .ite ht.resolveReform ht
    · exact fun _ _ ht => ht.endBlown
    · exact fun _ _ ht => ht.freePar
  · exact fun _ _ ht => .ite ht ht.writeFault
  · exact fun _ _ ht => ht.payRings

theorem State.Canon.execFirmwareEventTake {d core} (h : s.Canon) : Keeps (execFirmwareEventTake d core s) := by
  unfold Machine.execFirmwareEventTake
  refine .ite h ?_
  split
  · exact h
  · dsimp only
    split
    · exact h.setDie.onQueue
    · exact h.setDie.onQueue
    · split
      · exact h.setDie.putFw.lockQueue
      · exact h.setDie

theorem State.Canon.handlerEnds {d core} (h : s.Canon) : (s.handlerEnds d core).Canon := h.lockQueue.freeFw

theorem State.Canon.resumeBound {a} (h : s.Canon) : (s.resumeBound a).Canon := by
  unfold State.resumeBound
  split
  · exact h
  · split
    · exact h
    · exact .ite h.pushEvent (.ite h h)
  · split
    · exact h
    · exact .ite h.pushEvent (.ite h h.setPar)

theorem State.Canon.holdBound {a} (h : s.Canon) : (s.holdBound a).Canon := by
  unfold State.holdBound
  split
  · exact h
  · split
    · exact h
    · exact h
  · split
    · exact h.setPar
    · exact h

theorem State.Canon.setBoundCauses {b cs} (h : s.Canon) : (s.setBoundCauses b cs).Canon := by
  unfold State.setBoundCauses
  split
  · exact h
  · split
    · exact h
    · exact h
  · split
    · exact h.setPar
    · exact h

theorem State.Canon.execTrapDeliver {d core} (h : s.Canon) : Keeps (execTrapDeliver d core s) := by
  unfold Machine.execTrapDeliver
  refine .ite h ?_
  split
  · exact .ite h.setBoundCauses.resumeBound.handlerEnds (.ite h.setBoundCauses.faultEntry.holdBound.handlerEnds
        h.setBoundCauses.faultEntry.handlerEnds.endContext)
  · exact h.handlerEnds

theorem State.Canon.tret {d core action status} (h : s.Canon) : (s.tret d core action status).Canon := by
  unfold State.tret
  dsimp only
  split
  · exact h.resumeBound.handlerEnds
  · exact h.endsBound
  · split
    · exact h.handlerEnds.endContext
    · exact h.handlerEnds

theorem State.Canon.execTret {x} (h : s.Canon) : Keeps (execTret x s) := by
  unfold Machine.execTret
  refine h.runInstr (fun _ _ _ _ h1 => ?_) (fun _ _ _ h2 => h2)
  dsimp only
  split
  · exact h1.finishWave
  · exact .ite h1.raise h1.tret
  · exact h1

theorem State.Canon.execProfileSample {c part} (h : s.Canon) : Keeps (execProfileSample c part s) :=
  .ite h (.of_next (h.putCore.foldl (fun _ _ h1 => h1.samplePut)))

end

end Sys2Proof.Machine

/-! The debugger's services and the lehr keep a state canonical (O52). -/

namespace Sys2Proof.Machine

section
variable {s : State}

theorem State.Canon.debugService {p op args act} (h : s.Canon) (hact : ∀ t x, t.Canon → x.Canon → (act t x).Canon) :
    Keeps (s.debugService p op args act) := by
  unfold State.debugService
  refine .ite h (h.service (fun _ h1 => ?_))
  split
  · exact h1
  · exact .ite h1 (hact _ _ h1 (h1.ctx ‹_›))

theorem State.Canon.execDebugSet {p} (h : s.Canon) : Keeps (execDebugSet p s) :=
  .ite h (.ite (h.service (fun _ h1 => h1)) (State.Canon.debugService h (fun _ _ h2 h3 => .ite h2 (State.Canon.putCtx h2 (h3.same (by rfl))))))

theorem State.Canon.execDebugBkset {p} (h : s.Canon) : Keeps (execDebugBkset p s) :=
  State.Canon.debugService h (fun _ _ h1 h2 => .ite h1 (State.Canon.putCtx h1 (h2.same (by rfl))))

theorem State.Canon.execDebugBkclr {p} (h : s.Canon) : Keeps (execDebugBkclr p s) :=
  State.Canon.debugService h (fun _ _ h1 h2 => .ite h1 (State.Canon.putCtx h1 (h2.same (by rfl))))

theorem State.Canon.haltWave {id} (h : s.Canon) : (s.haltWave id).Canon := by
  unfold State.haltWave
  split
  · exact h
  · exact .ite h (.pushEvent h)

theorem State.Canon.haltPar {p} (h : s.Canon) : (s.haltPar p).Canon := by
  unfold State.haltPar
  split
  · exact h
  · exact .ite h (.ite h.askPar h.stopPar)

theorem Saved.Canon.hold {v : Saved} (h : v.Canon) : v.hold.Canon := h

theorem Saved.Canon.release {v : Saved} (h : v.Canon) : v.release.Canon := h

theorem State.Canon.execDebugHalt {p} (h : s.Canon) : Keeps (execDebugHalt p s) := by
  unfold Machine.execDebugHalt
  refine h.debugService fun t _ ht _ => ?_
  extract_lets waves pars
  have hp : pars.Canon := (ht.foldl fun _ _ h => h.haltWave).foldl fun _ _ h => h.haltPar
  refine { hp with saved := hp.saved.map fun v hv => ?_ }
  split
  · exact hv.hold
  · exact hv

theorem State.Canon.releaseHeld {a} (h : s.Canon) : (s.releaseHeld a).Canon := by
  unfold State.releaseHeld
  split
  · exact .ite (.pushEvent h) (.ite h h)
  · exact .ite h.setPar.pushEvent (.ite h.setPar h.setPar)

theorem State.Canon.execDebugResume {p} (h : s.Canon) : Keeps (execDebugResume p s) := by
  unfold Machine.execDebugResume
  refine h.debugService fun t _ ht _ => ?_
  extract_lets id released
  have hr : released.Canon := ht.foldl fun _ _ h => h.releaseHeld
  refine .ite { hr with saved := hr.saved.map fun v hv => ?_ } ?_
  · split
    · exact hv.release
    · exact hv
  · split
    · exact ht
    · exact ht.releaseHeld

theorem State.Canon.execDebugStep {p} (h : s.Canon) : Keeps (execDebugStep p s) := by
  unfold Machine.execDebugStep
  refine h.debugService (fun _ _ h1 h2 => ?_)
  dsimp only
  split
  · refine .ite h1 (.ite h1 ?_)
    split
    · exact h1
    · exact h1
  · exact h1

theorem State.Canon.execDebugDump {p} (h : s.Canon) : Keeps (execDebugDump p s) := by
  unfold Machine.execDebugDump
  refine h.debugService (fun _ _ h1 h2 => ?_)
  split
  · exact h1
  · refine .ite h1 ?_
    split
    · exact h1.fwWrite.ok ‹_›
    · exact h1.fwWrite.wait ‹_›
    · exact h1.fwWrite.bad ‹_›

theorem State.Canon.clausePos {d ctx im p n o} (h : s.Canon) : (s.clausePos d ctx im p n o).All fun _ => s := by
  induction n generalizing o with
  | zero => exact h
  | succ n ih =>
    unfold State.clausePos
    refine .ite h ?_
    split
    · exact h.fwRead.wait ‹_›
    · exact h.fwRead.bad ‹_›
    · exact .ite h ih

theorem State.Canon.placePrecise {d ctx im sp} (h : s.Canon) : (s.placePrecise d ctx im sp).All fun _ => s := by
  unfold State.placePrecise
  refine .ite h ?_
  split
  · exact h
  · exact h.clausePos.wait ‹_›
  · exact h.clausePos.bad ‹_›

theorem State.Canon.placeAll {d ctx im l} (h : s.Canon) : (s.placeAll d ctx im l).All fun _ => s := by
  induction l with
  | nil => exact h
  | cons o l ih =>
    cases o with
    | none =>
      unfold State.placeAll
      split
      · exact h
      · exact ih
    | some sp =>
      unfold State.placeAll
      split
      · split
        · exact h
        · exact ih
      · exact h.placePrecise.wait ‹_›
      · exact h.placePrecise.bad ‹_›

theorem State.Canon.execDebugLoad {p} (h : s.Canon) : Keeps (execDebugLoad p s) := by
  unfold Machine.execDebugLoad
  refine h.debugService (fun _ _ h1 h2 => ?_)
  split
  · rename_i heq
    dsimp only
    split
    · exact h1.fwRead.wait ‹_›
    · exact h1.fwRead.bad ‹_›
    · have hs := h1.fwRead.ok_fst ‹_›
      refine .ite hs ?_
      split
      · exact hs.fwRead.wait ‹_›
      · exact hs.fwRead.bad ‹_›
      · rename_i heq2
        have ht := hs.fwRead.ok_fst heq2
        split
        · exact hs.fwRead.ok_fst heq2
        · refine .ite ht ?_
          split
          · exact ht.placeAll.wait ‹_›
          · exact ht.placeAll.bad ‹_›
          · exact ht.same (by rfl)
  · exact h1

theorem State.Canon.execDebugKill {p} (h : s.Canon) : Keeps (execDebugKill p s) := by
  unfold Machine.execDebugKill
  refine h.debugService (fun _ _ h1 h2 => ?_)
  split
  · exact h1.endBound
  · exact h1.endBound
  · exact h1

theorem State.Canon.readFrit {ctx va} (h : s.Canon) : (s.readFrit ctx va).All Prod.fst := by
  unfold State.readFrit
  split
  · have hs := h.fwRead.ok_fst ‹_›
    exact .ite hs.fwRead hs
  · exact h.fwRead

theorem State.Canon.rejectImage {ctx e} (h : s.Canon) : (s.rejectImage ctx e).Canon := h

theorem State.Canon.execFinalise {p} (h : s.Canon) : Keeps (execFinalise p s) := by
  unfold Machine.execFinalise
  refine h.ctxService (fun _ _ h1 h2 => ?_)
  dsimp only
  split
  · exact h1.readFrit.wait ‹_›
  · exact h1.readFrit.bad ‹_›
  · have hs := h1.readFrit.ok_fst ‹_›
    refine .ite hs.rejectImage ?_
    split
    · exact hs.rejectImage
    · refine .ite hs ?_
      split
      · exact hs.fwRange.wait ‹_›
      · exact hs.fwRange.bad ‹_›
      · have ht := hs.fwRange.ok_fst ‹_›
        split
        · rename_i heq _
          exact State.Canon.putCtx ht.homeStore ((ht.homeStore.ctx heq).same (by rfl))
        · exact ht.homeStore

end

end Sys2Proof.Machine

/-! Every instruction and step of the part, its own moves and the passing of time keep a state canonical (O52). -/

namespace Sys2Proof.Machine

section
variable {s : State}

theorem State.Canon.exec {i} (h : s.Canon) : Keeps (exec i s) := by
  cases i
  exacts [
    h.execNop, h.execBra, h.execBrx, h.execCall, h.execCallx, h.execRet, h.execJoin, h.execExit, h.execKill, h.execReform,
    h.execYield, h.execTrap, h.execBkpt, h.execIadd, h.execIaddImm, h.execIsub, h.execIsubImm, h.execImul, h.execImulImm, h.execImulh,
    h.execImulhImm, h.execImad, h.execIaddc, h.execIsubb, h.execImin, h.execIminImm, h.execImax, h.execImaxImm, h.execIabs, h.execSel,
    h.execImadw, h.execRng, h.execRngImm, h.execAnd, h.execAndImm, h.execOr, h.execOrImm, h.execXor, h.execXorImm, h.execNot,
    h.execLogt, h.execShl, h.execShlImm, h.execShr, h.execShrImm, h.execSar, h.execSarImm, h.execFunl, h.execBfe, h.execBfi,
    h.execPopc, h.execClz, h.execBrev, h.execMov, h.execMovi, h.execIcmp, h.execIcmpImm, h.execFcmp, h.execFcmpImm, h.execPlogt,
    h.execPpack, h.execPunpk, h.execFkind, h.execLxch, h.execQxch, h.execQdd, h.execVote, h.execBallot, h.execMatchLanes, h.execLfold,
    h.execScan, h.execXset, h.execFadd, h.execFaddImm, h.execFmul, h.execFmulImm, h.execFfma, h.execFmin, h.execFminImm, h.execFmax,
    h.execFmaxImm, h.execFrnd, h.execFrcp, h.execFrsq, h.execFsqrt, h.execFex2, h.execFlg2, h.execFsin, h.execFcos, h.execHadd2,
    h.execHmul2, h.execHfma2, h.execHmin2, h.execHmax2, h.execVdot2, h.execVdot4, h.execCvt, h.execPack2, h.execQhist, h.execQscale,
    h.execQclr, h.execQpack, h.execQdeq, h.execLd, h.execSt, h.execLdblk, h.execStblk, h.execPref, h.execCctl, h.execFence,
    h.execAtom, h.execRed, h.execOcall, h.execOld, h.execOst, h.execReply, h.execOend, h.execBara, h.execBarw, h.execBars,
    h.execWaitv, h.execQsig, h.execQwait, h.execMma, h.execMzero, h.execMtile, h.execMdrain, h.execJobGaffer, h.execJobWave,
    h.execJstatGaffer, h.execJstatWave, h.execTrace, h.execSample, h.execPidld, h.execVisr, h.execUmov, h.execUmovi, h.execUadd,
    h.execUaddImm, h.execUsub, h.execUsubImm, h.execUmul, h.execUmulImm, h.execUmad, h.execUshl, h.execUshlImm, h.execUshr,
    h.execUshrImm, h.execUand, h.execUandImm, h.execUor, h.execUorImm, h.execUxor, h.execUxorImm, h.execUcmp, h.execUcmpImm,
    h.execUsel, h.execUbra, h.execUld, h.execUlaunch, h.execCsrr, h.execCsrw, h.execWinrd, h.execWinwr, h.execTret,
    h.execClauseHeaderWaitMet, h.execDecisionConsume, h.execParisonMerge, h.execPageWalk, h.execMvHoldRelease, h.execLoadReply,
    h.execStoreAck, h.execAtomReply, h.execOcallReply, h.execTexReply, h.execFenceTimePassed, h.execHomeRead, h.execHomeWrite,
    h.execOwnershipGrant, h.execLineRecall, h.execHostAccess, h.execBundleArrive, h.execFormBatch, h.execBatchPerform,
    h.execContentionSweep, h.execCounterDecay, h.execMoveStart, h.execTileOp, h.execVisrSlotAction, h.execJobStart, h.execJobComplete,
    h.execBlockAdmit, h.execLaunchComplete, h.execDispatchReserve, h.execReservePreempt, h.execBudgetExhausted,
    h.execBudgetPeriodStart, h.execBudgetReport, h.execFirmwareEventTake, h.execTrapDeliver, h.execPreempt, h.execSaveRetry,
    h.execBlockRestore, h.execRegisterFill, h.execSnapshot, h.execRollback, h.execProfileSample, h.execWaitvReread,
    h.execTwaitGateMet, h.execRefreshPhaseAdvance, h.execRefreshModeChange, h.execCkptTimer, h.execDoorbellWptr, h.execDoorbellCrptr,
    h.execDispatch, h.execGraph, h.execTsig, h.execTwait, h.execCkpt, h.execNopk, h.execCtxCreate, h.execCtxDestroy, h.execCtxUpdate,
    h.execQueueCreate, h.execQueueReset, h.execGraphLoad, h.execGraphUnload, h.execFinalise, h.execInvalidate, h.execObjClear,
    h.execCkptInterval, h.execDebugSet, h.execDebugBkset, h.execDebugBkclr, h.execDebugHalt, h.execDebugResume, h.execDebugStep,
    h.execDebugDump, h.execDebugLoad, h.execDebugKill, h.execFrameAlloc, h.execFrameFree, h.execMqctlCreate, h.execMqctlReset,
    h.execMqwptrWrite, h.execMqcrptrWrite, h.execUndock, h.execFwctlRollback, h.execAttctlReq, h.execAttestationSigned,
    h.execHctlEnable, h.execFlip, h.execVerticalBlank, h.execLineSend, h.execLinkctlTrain, h.execHeadTrainDone, h.execAuxgo,
    h.execAuxReply, h.execHpdChange, h.execRegisterWrite, h.execPowerOnReset, h.execHostLinkTrain, h.execPresenceDetect,
    h.execPairing, h.execPtmExchange, h.execDockMigration, h.execHeartbeat, h.execHeartbeatTimeout, h.execLinkRecovery,
    h.execResyncTimeout, h.execLinkLost, h.execBlowpipeHeaderWrite, h.execAckWrite, h.execAckTimer, h.execResync, h.execRdReq,
    h.execRdData, h.execWrReq, h.execWrAck, h.execCombReq, h.execCombRsp, h.execPtRd, h.execPtCas, h.execPtData, h.execShoot,
    h.execShootAck, h.execHomeReq, h.execHomeGrant, h.execHomeDeny, h.execHomeData, h.execHomeDone, h.execMigData, h.execCkptData,
    h.execCkptEnd, h.execCkptAck, h.execTokSig, h.execLifetimeRecordWrite, h.execLinkExitL0, h.execHostLinkDown,
    h.execFpFunctionResult, h.execTileDrain, h.execL1Drop]

theorem Keeps.next {o : Out} {t} (h : Keeps o) (e : o = .next t) : t.Canon := by subst e; exact h

theorem State.Canon.runAgent {a} (h : s.Canon) : Keeps (s.runAgent a) := by
  unfold State.runAgent
  refine .ite h ?_
  dsimp only
  split
  · exact State.Canon.unwalk h
  · split
    · exact State.Canon.unwalk h
    · split
      · exact State.Canon.exec (.unwalk h)
      · exact State.Canon.raise (.unwalk h)
      · exact State.Canon.fetchMissed (.unwalk h)

theorem State.Canon.onSplit {id k f} (h : s.Canon) : (s.onSplit id k f).Canon := by
  unfold State.onSplit
  split
  · exact h
  · exact h

theorem State.Canon.beginRun {id k} (h : s.Canon) : (s.beginRun id k).Canon := .onSplit h.putCore

theorem State.Canon.endRun {id k} (h : s.Canon) : (s.endRun id k).Canon := h.putCore.onSplit

theorem State.Canon.noteRun {old id k} (h : s.Canon) : (s.noteRun old id k).Canon := by
  unfold State.noteRun
  split
  · exact h
  · extract_lets ct
    split
    · exact h.endRun
    · exact .ite h.endRun h

theorem State.Canon.issue {a} (h : s.Canon) : Keeps (s.issue a) := by
  unfold State.issue
  split
  · extract_lets t
    have ht : t.Canon := .ite h.beginRun h
    split
    · exact .of_next (ht.runAgent.next ‹_›).noteRun
    · exact ht.runAgent
  · exact State.Canon.runAgent h.putCore
  · exact h.runAgent

theorem State.Canon.enterClause {a} (h : s.Canon) : Keeps (s.enterClause a) := by
  unfold State.enterClause
  split
  · exact .ite h (State.Canon.execClauseHeaderWaitMet (.ite h.beginRun h))
  · exact h.execClauseHeaderWaitMet

theorem State.Canon.decisionRun {old id k} (h : s.Canon) : (s.decisionRun old id k).Canon := by
  unfold State.decisionRun
  split
  · exact .ite h (.ite h.endRun h)
  · exact h

theorem State.Canon.takeDecision {a} (h : s.Canon) : Keeps (s.takeDecision a) := by
  unfold State.takeDecision
  refine .ite h ?_
  split
  · exact .of_next (h.execDecisionConsume.next ‹_›).decisionRun
  · exact h.execDecisionConsume

theorem State.Canon.fire {i} (h : s.Canon) : Keeps (s.fire i) := by
  unfold State.fire
  split
  · exact h.enterClause
  · exact h.takeDecision
  · exact h.exec

/-- A step that leaves a canonical state. -/
def KeptAt (s : State) (f : State → Out) : Prop := Keeps (f s)

theorem State.Canon.packetStep {r p} (h : s.Canon) : Keeps (packetStep r p s) := by
  change KeptAt s (Machine.packetStep r p)
  unfold Machine.packetStep
  split
  · exact h.execDispatch
  · exact h.execGraph
  · exact h.execTsig
  · exact h.execTwait
  · exact h.execCkpt
  · exact h.execNopk

theorem State.Canon.serviceStep {p} (h : s.Canon) : Keeps (serviceStep p s) := by
  change KeptAt s (Machine.serviceStep p)
  unfold Machine.serviceStep
  split
  · exact h.execCtxDestroy
  · exact h.execCtxUpdate
  · exact h.execQueueCreate
  · exact h.execQueueReset
  · exact h.execGraphLoad
  · exact h.execGraphUnload
  · exact h.execFinalise
  · exact h.execInvalidate
  · exact h.execObjClear
  · exact h.execCkptInterval
  · split
    · exact h.execDebugBkset
    · exact h.execDebugBkclr
    · exact h.execDebugHalt
    · exact h.execDebugResume
    · exact h.execDebugStep
    · exact h.execDebugDump
    · exact h.execDebugLoad
    · exact h.execDebugKill
    · exact h.execDebugSet
  · exact h.execFrameAlloc
  · exact h.execFrameFree
  · exact h.execCtxCreate

theorem State.Canon.drain {k} (h : s.Canon) : Keeps (s.drain k) := by
  unfold State.drain
  split
  · exact h
  · refine .ite h (.ite (.of_next h.putQueue) ?_)
    split
    · exact h.readPacket.wait ‹_›
    · exact .of_next (h.readPacket.bad ‹_›).queueHalts
    · exact .of_next h.putQueue
    · rename_i hp
      split
      · exact State.Canon.packetStep (h.readPacket.ok_fst hp)
      · exact State.Canon.serviceStep (h.readPacket.ok_fst hp)

/-- Steps each of which leaves a canonical state. -/
def AllKeep (s : State) (l : List (State → Out)) : Prop := ∀ f ∈ l, Keeps (f s)

theorem AllKeep.nil : AllKeep s [] := nofun

theorem AllKeep.cons {f l} (hf : Keeps (f s)) (hl : AllKeep s l) : AllKeep s (f :: l) := List.forall_mem_cons.mpr ⟨hf, hl⟩

theorem AllKeep.append {l r} (hl : AllKeep s l) (hr : AllKeep s r) : AllKeep s (l ++ r) :=
  fun f hf => (List.mem_append.mp hf).elim (hl f) (hr f)

theorem AllKeep.map {α : Type} {l : List α} {g : α → State → Out} (h : ∀ a, Keeps (g a s)) : AllKeep s (l.map g) := by
  intro f hf
  obtain ⟨a, -, rfl⟩ := List.mem_map.mp hf
  exact h a

theorem AllKeep.flatMap {α : Type} {l : List α} {g : α → List (State → Out)} (h : ∀ a, AllKeep s (g a)) : AllKeep s (l.flatMap g) := by
  intro f hf
  obtain ⟨a, -, ha⟩ := List.mem_flatMap.mp hf
  exact h a f ha

theorem AllKeep.filterMap {α : Type} {l : List α} {g : α → Option (State → Out)} (h : ∀ a f, g a = some f → Keeps (f s)) :
    AllKeep s (l.filterMap g) := by
  intro f hf
  obtain ⟨a, -, ha⟩ := List.mem_filterMap.mp hf
  exact h a f ha

theorem AllKeep.ite {c : Prop} [Decidable c] {l r} (hl : AllKeep s l) (hr : AllKeep s r) : AllKeep s (if c then l else r) := by
  split
  · exact hl
  · exact hr

theorem State.Canon.opSteps {a o} (h : s.Canon) : AllKeep s (opSteps a o) := by
  unfold Machine.opSteps
  split
  · exact .cons h.execHomeRead (.cons h.execLoadReply .nil)
  · exact .cons h.execHomeRead (.cons h.execLoadReply .nil)
  · exact .cons h.execHomeWrite (.cons h.execStoreAck .nil)
  · exact .cons h.execStoreAck .nil
  · exact .cons h.execBundleArrive (.cons h.execAtomReply .nil)
  · exact .cons h.execBundleArrive (.cons h.execOcallReply .nil)
  · exact .cons h.execTileDrain (.cons h.execBundleArrive .nil)
  · exact .cons h.execFpFunctionResult .nil
  · exact .cons h.execTexReply .nil
  · exact .cons h.execTexReply .nil
  · exact .cons h.execTexReply .nil
  · exact .cons h.execVisrSlotAction .nil
  · exact .nil

theorem State.Canon.fillSteps {a} (h : s.Canon) : AllKeep s (s.fillSteps a) := by
  unfold State.fillSteps
  split
  · refine .ite .nil ?_
    split
    · exact .map fun _ => h.execRegisterFill
    · exact .nil
  · exact .nil

theorem State.Canon.agentSteps (h : s.Canon) : AllKeep s s.agentSteps :=
  .append (.flatMap fun _ => .append (.cons h.takeDecision (.cons h.enterClause
      (.cons h.execFenceTimePassed (.cons h.execMvHoldRelease .nil)))) h.fillSteps)
    (.flatMap fun _ => .flatMap fun _ => h.opSteps)

theorem State.Canon.deliverStep {d ty} (h : s.Canon) : Keeps (State.dieSteps.deliverStep d ty s) := by
  unfold State.dieSteps.deliverStep
  split
  · exact h.execRdReq
  · exact h.execRdData
  · exact h.execWrReq
  · exact h.execWrAck
  · exact h.execCombReq
  · exact h.execCombRsp
  · exact h.execPtRd
  · exact h.execPtCas
  · exact h.execPtData
  · exact h.execShoot
  · exact h.execShootAck
  · exact h.execHomeReq
  · exact h.execHomeGrant
  · exact h.execHomeDeny
  · exact h.execHomeData
  · exact h.execHomeDone
  · exact h.execMigData
  · exact h.execCkptData
  · exact h.execCkptEnd
  · exact h.execCkptAck
  · exact h.execTokSig
  · exact .of_next h.dropMessage

theorem State.Canon.dieSteps {d} (h : s.Canon) : AllKeep s (s.dieSteps d) := by
  unfold State.dieSteps
  refine .append (.append (.append (.append (.append (.append (.append
      (.append (.append (.filterMap fun e f hf => ?_) ?_) (.filterMap fun t f hf => ?_))
    ?_) ?_) ?_) ?_) ?_) ?_) (.cons h.execAckTimer .nil)
  · split at hf
    · cases hf
      exact h.execPageWalk
    · cases hf
  · exact .cons h.execContentionSweep (.cons h.execCounterDecay (.cons h.execBudgetReport (.cons h.execRefreshPhaseAdvance
      (.cons h.execHeartbeat (.cons h.execHeartbeatTimeout (.cons h.execResyncTimeout .nil))))))
  · obtain ⟨g, -, rfl⟩ := Option.map_eq_some_iff.mp hf
    exact h.execOwnershipGrant
  · exact .flatMap fun _ => .cons h.execFormBatch (.cons h.execBatchPerform .nil)
  · exact .map fun _ => h.execTileOp
  · exact .flatMap fun _ => .cons h.execJobStart (.cons h.execJobComplete .nil)
  · exact .flatMap fun _ => .cons h.execTrapDeliver (.cons h.execFirmwareEventTake .nil)
  · exact .map fun _ => h.execBlowpipeHeaderWrite
  · split
    · exact .cons h.deliverStep .nil
    · exact .ite .nil (.cons h.execShoot .nil)

theorem State.Canon.workSteps (h : s.Canon) : AllKeep s s.workSteps := by
  unfold State.workSteps
  refine .append (.append (.append (.append (.append (.append (.append
      (.append (.append (.append (.flatMap fun _ => .append ?_ ?_) ?_) ?_) ?_) ?_) ?_) ?_) ?_)
    ?_) ?_) (.flatMap fun _ => .map fun _ => h.execProfileSample)
  · exact .cons h.execTwaitGateMet (.cons h.execLaunchComplete .nil)
  · exact .flatMap fun _ => .cons h.execBlockAdmit (.cons h.execDispatchReserve (.cons h.execReservePreempt .nil))
  · exact .flatMap fun _ => .map fun _ => h.execBlockRestore
  · exact .flatMap fun _ => .map fun _ => h.execBlockRestore
  · exact .flatMap fun _ => .cons h.execPreempt (.cons h.execSaveRetry (.cons h.execSnapshot (.cons h.execRollback .nil)))
  · exact .map fun _ => h.execParisonMerge
  · exact .flatMap fun _ => .cons h.execBudgetExhausted (.cons h.execBudgetPeriodStart
        (.cons h.execCkptTimer (.cons h.execDockMigration .nil)))
  · exact .map fun _ => h.execMoveStart
  · exact .ite (.cons h.execUndock .nil) .nil
  · exact .ite (.cons h.execLinkLost .nil) .nil
  · exact .ite (.cons h.trainCable .nil) .nil

theorem AllKeep.firstThat {l o} (h : AllKeep s l) (e : s.firstThat l = some o) : Keeps o := by
  induction l with
  | nil => cases e
  | cons f l ih =>
    unfold State.firstThat at e
    split at e
    · rename_i hf
      split at e
      · exact ih (fun g hg => h g (List.mem_cons_of_mem _ hg)) e
      · cases e
        exact (h f List.mem_cons_self).next hf
    · cases e
      exact h f List.mem_cons_self

theorem State.Canon.firstIssue {l o} (h : s.Canon) (e : s.firstIssue l = some o) : Keeps o := by
  induction l with
  | nil => cases e
  | cons a l ih =>
    unfold State.firstIssue at e
    split at e
    · exact ih e
    · split at e
      · rename_i ha
        split at e
        · exact ih e
        · cases e
          exact h.issue.next ha
      · cases e
        exact h.issue

theorem State.Canon.firstPacket {l o} (h : s.Canon) (e : s.firstPacket l = some o) : Keeps o := by
  induction l with
  | nil => cases e
  | cons k l ih =>
    unfold State.firstPacket at e
    split at e
    · rename_i hk
      split at e
      · exact ih e
      · cases e
        exact h.drain.next hk
    · cases e
      exact h.drain

theorem State.Canon.ownStep (h : s.Canon) : Keeps s.ownStep := by
  unfold State.ownStep
  refine .ite trivial ?_
  split
  · exact h.agentSteps.firstThat ‹_›
  · split
    · exact ((h.dieSteps.append h.dieSteps).append h.workSteps).firstThat ‹_›
    · split
      · exact h.firstPacket ‹_›
      · split
        · exact h.firstIssue ‹_›
        · split
          · exact AllKeep.firstThat (.map fun _ => h.execWaitvReread) ‹_›
          · exact h

theorem State.Canon.move {m} (h : s.Canon) : Keeps (s.move m) := by
  unfold State.move
  refine .ite trivial ?_
  split
  · exact .ite h.issue h
  · exact .ite h.fire h
  · exact { h with memH := Memory.wf_writeN _ _ h.memH }
  · exact State.Canon.ite h h
  · exact h.execSlotBegin
  · exact h.execSlotDone
  · exact h.execShutdown
  · exact h

theorem Context.Canon.charged {d n} {c : Context} (h : c.Canon) : (s.charged d n c).Canon := by
  unfold State.charged
  extract_lets live cores t
  split
  · exact h
  · split
    · exact h.same (by rfl)
    · split
      · exact h.same (by rfl)
      · exact h.same (by rfl)

theorem State.Canon.aged {n k a f} (h : s.Canon) (hf : ∀ c, Context.Canon c → (f c).Canon) :
    State.Canon { s with nsteps := n, kap := k, amd := a, ctxs := s.ctxs.map f } := { h with ctxs := h.ctxs.map hf }

theorem State.Canon.tick (h : s.Canon) : s.tick.Canon := by
  unfold State.tick
  exact .ptmAgain (.beat (.beat (h.aged fun _ hc => .charged (.charged hc))))

theorem Keeps.afterStep {o : Out} (h : Keeps o) : Keeps (afterStep o) := by
  cases o with
  | next t => exact h.tidy.tick
  | fault _ => trivial
  | refused _ => trivial

end

end Sys2Proof.Machine

/-! O52: a step keeps every memory canonical. -/

namespace Sys2Proof.Machine

theorem State.Canon.step {s : State} (h : s.Canon) : Keeps (step s) := by
  unfold Machine.step
  split
  · exact Keeps.afterStep (State.Canon.move (h.same (by rfl)))
  · exact h.ownStep.afterStep

/-- Settles O52: each of the model's functions that gives a state gives a canonical one for a canonical one. -/
theorem everyStepKeepsMemoriesCanonical : Obligations.EveryStepKeepsMemoriesCanonical := by
  unfold Obligations.EveryStepKeepsMemoriesCanonical
  intro s t hs ht
  exact State.canon_iff.mp ((State.canon_iff.mpr hs).step.next ht)

end Sys2Proof.Machine
